-- ==== Sys2Proof/Word.lean ====
section
/-! DEFINITION. The word types of the model and their plainest arithmetic (R3: little-endian, bit 0 least significant). -/

namespace Sys2Proof

/-- One byte of a structure, a packet or a register. -/
abbrev Byte := BitVec 8

/-- A run of bytes; the head is byte 0, at the lowest address (R3). -/
abbrev Bytes := List Byte

/-- A 64-bit register or doorbell word. -/
abbrev Word := BitVec 64

/-- A half-open interval of offsets: first, and one past the last. -/
abbrev Iv := Nat × Nat

end Sys2Proof
end

