-- ==== Sys2Proof/Syntax.lean ====
section
/-! DEFINITION. The commands of the block and the types of their operands. -/
namespace Sys2Proof
/-- Who asks for a request to be issued. -/
inductive Requester where
  /-- Queue cell: the source read of the ring's issuing descriptor at source-stream offset `off`. -/
  | cellRead (ring off : Nat)
  /-- Queue cell: the destination write of the descriptor at `pos` at linear offset `off`. -/
  | cellWrite (ring pos off : Nat)
  /-- Reckoner: a read of stream `stream` of job `job`, `len` bytes from stream offset `off`. -/
  | jobRead (job stream off len : Nat)
  /-- Reckoner: the oldest queued write of job `job`. -/
  | jobWrite (job : Nat)
deriving DecidableEq, Repr, Inhabited

/-- How a read comes back: data as its path carries it, poisoned, or an error response. -/
inductive RdRes where
  | ok (data : Bytes)
  | poison (data : Bytes)
  | error
deriving DecidableEq, Repr, Inhabited

/-- How a write comes back: acknowledged at its point of global visibility (R178), poisoned, or an error response. -/
inductive WrRes where
  | ok
  /-- An accumulate-write met these values in HBM; bit i of `bad`: its i-th 64-byte line is poisoned (R143). -/
  | sum (old : Bytes) (bad : Nat)
  | poison
  | error
deriving DecidableEq, Repr, Inhabited

/-- Who makes a register, mailbox, doorbell or window access (R32, R400, R483). -/
inductive Who where
  /-- The PF of the PCI Express port. -/
  | pf
  /-- VF p of the port. -/
  | vf (p : Nat)
  /-- A host core over CXL.io with the operator PASID. -/
  | operator
  /-- A host core over CXL.io with a PASID bound to partition p. -/
  | bound (p : Nat)
  /-- A host core over CXL.io with no PASID, or one that is not bound. -/
  | host
deriving DecidableEq, Repr, Inhabited

/-- An error on its way to, or latched by, EC (R418). -/
structure ErrorEv where
  source : Nat := 0
  cls : Nat := 0
  unit : Option Nat := none
  part : Option Nat := none
  detail : Nat := 0
  injected : Bool := false
deriving DecidableEq, Repr, Inhabited

/-- What cold reset samples: straps, fuses, and the outcome of Tally's self-check (R398, R444, R457). -/
structure Straps where
  pos : Fin 16
  rootPort : Bool
  testMode : Bool
  groups : BitVec 16
  modules : BitVec 20
  halfArray : Bool
  tallyOk : Bool
deriving DecidableEq, Repr, Inhabited

/-- One bank as the die ROM finds it: its manifest and the SHA-384 of its image. -/
structure Bank where
  manifest : Bytes
  digest : Bytes
deriving DecidableEq, Repr, Inhabited

/-- A leaf the walker finds: ASID, virtual address and size of the page, physical address of the entry, and the entry. -/
structure FoundLeaf where
  asid : Nat
  va : Nat
  sizeLog2 : Nat
  at_ : Nat
  entry : Nat
deriving DecidableEq, Repr, Inhabited

/-- How a downstream request ends. -/
inductive RpRes where
  | data (value : Nat)
  | error
  | timeout
deriving DecidableEq, Repr, Inhabited

/-- What an inbound memory or I/O request is (R338). -/
inductive TlpKind where
  | read
  | write
  | atomic
  | io
  /-- A Deferrable Memory Write. -/
  | deferrable
  /-- A read or a write with a PASID prefix. -/
  | pasidRead
  | pasidWrite
deriving DecidableEq, Repr, Inhabited

/-- SPDM 1.3 requests by request code. -/
inductive SpdmCode where
  | version
  | capabilities
  | algorithms
  | digests
  | certificate
  | challenge
  | measurements
  | keyExchange
  | finish
  | heartbeat
  | keyUpdate
  | endSession
  | vendor
  /-- Any other code: PSK, mutual authentication, CSR, SET_CERTIFICATE and what SPDM reserves. -/
  | other (code : Nat)
deriving DecidableEq, Repr, Inhabited

/-- The commands of the block, one constructor for each row of the opcode table. Indices are those of the spec: partitions, rings by
global number, job entries, modules (0 to 3 of the host link, 4 to 23 of the peer links), mailboxes; `id`, `walk`, `inval`, `fill` and
`repair` are the numbers under which the block holds what it has outstanding. -/
inductive Instr where
  /-- Assertion of COLD_RST_N resets every unit, including Tally, EC, the MC and every link module, to its reset values, and the straps
are sampled on deassertion (R457). -/
  | coldReset (x : Straps)
  /-- The MC runs die ROM, verifies and loads the firmware of the first bank that passes, places the identity image and the
configuration defaults, and starts module training (R444). -/
  | romBoot (b0 : Bank) (b1 : Bank)
  /-- The MC checks the compute-cell image against CC_DIGEST and broadcasts it block by block to the compute cells (R446). -/
  | computeCellFirmwareBroadcast (image : Bytes)
  /-- A compute cell returns the digest it computed over the image; a differing digest counts in CC_FAILED (R446). -/
  | cellDigestReturn (cell : Nat) (digest : Bytes)
  /-- A cell that returns no digest within 2^22 CK_MGT cycles of the last block counts in CC_FAILED (R446). -/
  | cellDigestTimeout (cell : Nat)
  /-- Once every module is settled, the MC compares each peer partner with the manifest TOPOLOGY and retrains miswired modules into DOWN
(R449). -/
  | topologyCheck
  /-- The MC decides READY or NOT_READY, writes the readiness report and logs READINESS_CHANGE events (R450). -/
  | readinessDecision
  /-- CP_RST_N sampled low for 16 CK_MGT cycles starts a compute-part reset: every partition enters scrub, the MC goes NOT_READY and the
mode becomes BRING_UP (R458). -/
  | computePartReset
  /-- When every scrub has ended, the data-path units return to their reset values and the compute cells are reset and reloaded (R441).
-/
  | computePartResetRestore
  /-- A function-level reset of VF p ends the work of partition p, clears its rings and placements, and resets VF p's configuration
space (R334). -/
  | partitionFunctionLevelReset (p : Fin 16)
  /-- A function-level reset of the PF resets only the PF's configuration space (R334). -/
  | pfFunctionLevelReset
  /-- The partition function-level reset ends once every request that p issued before the start cycle has completed or timed out;
pending invalidations are acknowledged and TLB entries emptied (R440). -/
  | partitionResetEnd (p : Fin 16)
  /-- A CXL hot reset, link-disable or sideband reset indication declares host-link loss, performs the host-link-loss reset and retrains
the host-link modules (R296). -/
  | hostLinkLossReset (sideband : Bool)
  /-- Every host-link module has been out of LINK_UP for 2^20 CK_MGT cycles, so host-link loss is declared (R296). -/
  | hostLinkOutTimerExpiry
  /-- The host-link-loss reset ends in the first cycle in which every retrained module has reached LINK_UP or DOWN (R296). -/
  | hostLinkLossResetEnd
  /-- A hot reset, link disable or DL_Down resets the port's configuration-space registers except the Capo capability and RWS fields
(R324). -/
  | portReset (disable : Bool)
  /-- A falling edge of PWR_WARN_N stays low for 16 CK_TLY cycles, and every counting unit flushes its accumulators (R389). -/
  | powerWarn
  /-- 256 CK_TLY cycles after the accepted edge, a POWER_WARN commit trigger becomes pending (R389). -/
  | powerWarnWaitExpiry (low : Bool)
  /-- REFCLK_CORE or PX_REFCLK has had no edge for 1 µs, so the clock monitor reports a fatal CLK error (R459). -/
  | clockMonitorLoss (px : Bool)
  /-- Every 2^16 CK_MGT cycles the MC samples the sensors, checks their limits and applies the power cap, requesting CK_ARR steps
(R466). -/
  | sensorSample (v : List (BitVec 16))
  /-- The PLL relocks after a 100 MHz CK_ARR step and the Reckoner resumes at the new frequency (R460). -/
  | ckArrStepDone
  /-- A CK_ARR step not completed within 2^16 CK_MGT cycles raises the CLK non-fatal error (R460). -/
  | ckArrStepTimeout
  /-- A write to MC_PWR_CTRL sets the power limit, the frequency bounds and the enables, and steps CK_ARR down when ARR_FREQ_MAX falls
below the current frequency (R466). -/
  | mcPwrCtrlWrite (w : Word)
  /-- While the frequency is above ARR_FREQ_MAX, one further step down is requested every 2^16 CK_MGT cycles (R466). -/
  | arrFreqMaxStepDown
  /-- An ordinary ring doorbell passes the checks of R108 and moves the ring's producer count within its window, restarting fetches of a
stale head (R111). -/
  | ringDoorbell (p : Fin 16) (j : Fin 16384) (w : Word)
  /-- A ring doorbell with CHORD_HINT = 1 records a staged count, which the cell may fetch ahead to without consuming (R112). -/
  | stagedDoorbell (p : Fin 16) (j : Fin 16384) (w : Word)
  /-- An invalidation doorbell moves the partition's invalidation-queue producer count and starts entry fetches (R62). -/
  | invalidationDoorbell (p : Fin 16) (w : Word)
  /-- A chord doorbell moves the partition's chord-queue producer count (R161). -/
  | chordDoorbell (p : Fin 16) (w : Word)
  /-- A write to a doorbell page of the wrong size, unaligned, or to reserved bytes is dropped and counted as BAD_ACCESS (R107). -/
  | doorbellPageBadWrite (p : Fin 16) (off : Fin 1048576) (n : Nat)
  /-- A fault response with ACTION CONSUME updates the fault queue's consumer count, freeing space for held records (R93). -/
  | faultResponseConsume (p : Fin 16) (w : Word)
  /-- A RESUME response returns the parked descriptor or job to the head of its ring to continue from the cursor with fresh translation
(R95). -/
  | faultResponseResume (p : Fin 16) (w : Word)
  /-- An ABORT response marks the parked descriptor or job bad with status FAULT and frees the park slot (R94). -/
  | faultResponseAbort (p : Fin 16) (w : Word)
  /-- The fetch arbiter grants a descriptor fetch to the narrow path, up to 4 ahead of C and never beyond P or the staged count (R116).
-/
  | descriptorFetch (r : Fin 16384)
  /-- A descriptor fetch returns and the descriptor is judged by LAP and OWN; a valid one is consumed and a stale one enters backoff
(R115). -/
  | descriptorFetchReturn (id : Nat) (res : RdRes)
  /-- The backoff wait before the next refetch of a stale head descriptor expires and the refetch is issued (R117). -/
  | descriptorRefetchBackoffExpiry (r : Fin 16384)
  /-- The next consumed descriptor becomes the ring's issuing descriptor once the previous one has issued its last request and an
execution context is free; malformed descriptors finish at once (R123). -/
  | descriptorStart (r : Fin 16384)
  /-- The issue arbiter grants one request, which is translated and checked under R29 and regulator tokens, then issued or refused
(R128). -/
  | requestIssue (q : Requester)
  /-- A data read returns to the cell, which converts it and issues the destination writes it feeds, or marks the descriptor bad on
error or poison (R75). -/
  | dataReadReturn (id : Nat) (res : RdRes)
  /-- A data write is acknowledged at its point of global visibility, which advances delivery and may complete a drain, a fence set or a
delivery-counter update (R178). -/
  | dataWriteAck (id : Nat) (res : WrRes)
  /-- A request reaches 2^24 CK_FAB cycles without completing and is treated as an error response with DETAIL.TIMEOUT (R148). -/
  | requestTimeout (id : Nat)
  /-- A FLAG issues its 8-byte write once every write in its fence set has been acknowledged (R188). -/
  | flagWriteIssue (r : Fin 16384)
  /-- After the counter step is acknowledged, the cell writes the status block over descriptor bytes 96 to 126 (R154). -/
  | statusBlockWrite (r : Fin 16384)
  /-- After the status block is acknowledged, the cell writes byte 127 with OWN = 0 (R152). -/
  | ownClearWrite (r : Fin 16384) (ack : WrRes)
  /-- After the OWN write is acknowledged, the cell writes the completion entry, or waits while the completion ring is full (R156). -/
  | completionEntryWrite (r : Fin 16384) (ack : WrRes)
  /-- The completion entry (or the OWN write when there is no entry) is acknowledged, and the completion ring's vector is signalled for
IRQ = 1 (R159). -/
  | completionEntryAck (r : Fin 16384) (ack : WrRes)
  /-- While a completion ring shows full, the HXU reads its consumer word every 1,024 CK_FAB cycles (R157). -/
  | consumerWordPoll (k : Fin 4096)
  /-- The consumer-word read returns and updates the cached consumer count, releasing waiting entries (R157). -/
  | consumerWordReturn (id : Nat) (res : RdRes)
  /-- A write-combining entry unwritten for 256 CK_FAB cycles flushes as one push (R198). -/
  | wcEntryIdleFlush (k : Fin 64)
  /-- A coherent fill returns to the tier cache and serves its waiting reads, installing the line unless a snoop or write intervened
(R196). -/
  | tierCacheFillReturn (fill : Nat) (res : RdRes)
  /-- A host snoop arrives and the tier cache answers it within 128 CK_FAB cycles, removing the line on snoop-invalidate (R195). -/
  | hostSnoop (module : Fin 4) (pa : BitVec 52) (invalidate : Bool)
  /-- Every issued request of the parking descriptor has completed, so the cursor is stored in the park slot and the fault record is
written or held (R81). -/
  | parkDrainComplete (r : Fin 16384)
  /-- The fault-record write is acknowledged and the slot's fault timer starts; a failed write marks the descriptor bad with FAULT
(R98). -/
  | faultRecordAck (slot : Fin 16400) (gen : Fin 256) (ack : WrRes)
  /-- A park slot's fault timer expires with no matching response, so the descriptor is marked FAULT_TIMEOUT and the slot freed (R100).
-/
  | parkTimerExpiry (slot : Fin 16400)
  /-- A TLB miss obtains a walker of its partition and begins the walk from the deepest walk-cache hit (R60). -/
  | walkStart (p : Fin 16)
  /-- A walk read returns and the entry is checked level by level, continuing the walk or deciding its outcome and installing the
translation (R54). -/
  | walkReadReturn (walk : Nat) (res : RdRes)
  /-- A walk read not returned within 2^20 CK_FAB cycles ends the walk with WALK_ERROR (R61). -/
  | walkReadTimeout (walk : Nat)
  /-- The owned read for an A or D update returns; XL sets the bit if still permitted and writes the line back as a dirty eviction
(R53). -/
  | adUpdateOwnedReadReturn (walk : Nat) (res : RdRes)
  /-- XL fetches the invalidation-queue entry at its consumer count through the narrow path (R64). -/
  | invalidationEntryFetch (p : Fin 16)
  /-- An invalidation entry returns and is judged by LAP; a stale entry enters backoff, a failed fetch stops the queue, a malformed
entry is skipped (R64). -/
  | invalidationEntryReturn (p : Fin 16) (res : RdRes)
  /-- The backoff before refetching a stale invalidation entry expires and the refetch is issued (R64). -/
  | invalidationRefetchBackoffExpiry (p : Fin 16)
  /-- XL takes an invalidation when fewer than 8 are pending; in that cycle it removes the matching TLB and walk-cache entries and
discards walks in progress (R66). -/
  | invalidationCut (p : Fin 16)
  /-- Every span in flight at the cut has drained, so XL acknowledges the invalidation and writes its note when requested (R68). -/
  | invalidationAcknowledge (inval : Nat)
  /-- An invalidation pending for its partition's drain limit raises a KIND 5 XL error and sets DRAIN_LIMIT_HIT (R70). -/
  | invalidationDrainLimitExpiry (inval : Nat)
  /-- The chord unit issues the header fetch of the next chord position while the partition has a free slot, claiming the slot (R167).
-/
  | chordHeaderFetch (p : Fin 16)
  /-- A chord header returns and is judged by LAP and OWN; a valid header leads to action-line fetches and a stale one to backoff
(R162). -/
  | chordHeaderReturn (p : Fin 16) (res : RdRes)
  /-- The backoff before refetching a stale chord header expires and the refetch is issued (R162). -/
  | chordBackoffExpiry (p : Fin 16)
  /-- The chord's action lines have all returned, and the chord is checked for structure and ownership and becomes TAKEN or finishes
(R167). -/
  | chordTake (p : Fin 16) (lines : List RdRes)
  /-- A ready chord is evaluated in its commit cycle for conflict and state, and all its actions take effect together or the chord
aborts (R169). -/
  | chordCommit (p : Fin 16)
  /-- A chord not committed within 2^24 CK_FAB cycles of its take aborts with status TIMEOUT (R172). -/
  | chordTimeout (k : Fin 64)
  /-- After commit or abort, and once its invalidations have drained, the chord unit writes the header status fields (R173). -/
  | chordStatusWrite (k : Fin 64)
  /-- After the status write is acknowledged, the chord unit clears OWN in header byte 63 (R173). -/
  | chordOwnClear (k : Fin 64) (ack : WrRes)
  /-- After the OWN write is acknowledged, the chord unit writes the trailing note when NOTE_EN is 1 and frees the slot (R174). -/
  | chordNoteWrite (k : Fin 64) (ack : WrRes)
  /-- A DRAINING ring has completed every issued request and finished every consumed descriptor, so it becomes DISABLED (R124). -/
  | ringDrainComplete (r : Fin 16384)
  /-- A queue cell passes a checked TC2 descriptor to the Reckoner when its partition has a free job entry (R203). -/
  | updateDescriptorPass (r : Fin 16384)
  /-- A CLIP = GLOBAL job reads its norm table, and rereads it every 256 CK_FAB cycles until every slot carries TAG = STEP (R221). -/
  | normTableRead (e : Fin 64)
  /-- The norm-table read returns; a complete table forms S, and a failed read ends the job unstarted (R221). -/
  | normTableReturn (id : Nat) (res : RdRes)
  /-- A norm-table wait reaches 2^26 CK_FAB cycles, so the Reckoner reports an RK error and sets NORM_LIMIT_HIT (R221). -/
  | normWaitLimitExpiry (e : Fin 64)
  /-- A job starts when its partition's earlier jobs have issued, none is parked, its norm table is complete and the partition is
active; it computes its scalars (R204). -/
  | jobStart (e : Fin 64)
  /-- All reads of a tile have returned, so the lanes compute it and issue its writes in order (R212). -/
  | tileReadsComplete (e : Fin 64)
  /-- A tile's writes are acknowledged, which advances the pass cursor and may start the next pass or return the job (R213). -/
  | tileWritesAcked (e : Fin 64)
  /-- Once every working-copy write of a region is acknowledged, the Reckoner writes its CRC fingerprint (R230). -/
  | fingerprintWrite (e : Fin 64) (region : Nat)
  /-- A job that faults stops issuing, drains and keeps its pass, cursor and retained tiles in its partition's park slot (R214). -/
  | jobPark (e : Fin 64)
  /-- Every write of the job is acknowledged, so the job returns to its queue cell for finishing (R234). -/
  | jobReturn (e : Fin 64)
  /-- The array begins a 2,048-k-step chunk once its operand panels are complete (R240). -/
  | arrayChunkStart (e : Fin 64) (q : Nat)
  /-- A tile's last chunk ends and its accumulators move into a free accumulator buffer, or the array waits for one (R245). -/
  | arrayTileFinish
  /-- The output path takes a finished tile, applies the epilogue and row reductions, converts it and issues its writes (R246). -/
  | outputPathTile
  /-- After a mismatching WC_CHECK's completion entry is written, the HXU sends one replica report per mismatching region to the owner
(R269). -/
  | replicaReportSend (p : Fin 16)
  /-- The oldest repair-queue entry takes a job entry and reads the owner's fingerprint for the region (R273). -/
  | repairJobStart (p : Fin 16)
  /-- The owner's fingerprint returns; a change marks the repair SUPERSEDED, otherwise the region is derived from the master (R273). -/
  | repairFingerprintCheck (e : Fin 64)
  /-- After the owner's copy is acknowledged, the repair writes the derived elements to the members (R273). -/
  | repairMemberWrite (e : Fin 64)
  /-- After the member writes are acknowledged, the repair writes the region fingerprint to the owner and the written members (R273). -/
  | repairFingerprintWrite (e : Fin 64)
  /-- The repair writes its note and frees its job and queue entries (R275). -/
  | repairNoteWrite (e : Fin 64)
  /-- A shared-chunk repair opens, from then refusing bulk reads of the chunk, and reads the origin (R281). -/
  | sharedRepairOpen
  /-- The origin chunk has been read and hashed; a digest match writes the chunk back and a mismatch fails the repair (R283). -/
  | sharedRepairOriginDone (repair : Nat) (res : Option (Bytes × Bytes))
  /-- Every repair push has its GO response and the repair closes (R283). -/
  | sharedRepairClose (repair : Nat)
  /-- A repair running for 2^26 CK_FAB cycles fails, marks the chunk failed and reports a PT error (R284). -/
  | sharedRepairTimeout (repair : Nat)
  /-- A module's sideband comes up and it moves from SB_INIT to MB_TRAIN (R287). -/
  | sidebandUp (k : Fin 24)
  /-- Mainband training tests each half, repairs lanes and chooses the width, or sends the module to DOWN (R289). -/
  | mainbandTrained (k : Fin 24) (lo : Fin 33) (hi : Fin 33)
  /-- A PARAM control flit is checked for version and partner port, bringing the module to LINK_UP or DOWN (R290). -/
  | paramFlitReceive (k : Fin 24) (b : Bytes)
  /-- A training attempt exceeds its limit; the module retries or enters DOWN after the third failure (R288). -/
  | trainingLimitExpiry (k : Fin 24)
  /-- A retrain succeeds, restores credits and replays from the partner's next expected SEQ, or fails and the module enters DOWN (R309).
-/
  | retrainComplete (k : Fin 24) (lo : Fin 33) (hi : Fin 33) (b : Bytes)
  /-- A PAYLOAD flit received in sequence with good CRC is acknowledged, checked for partition and tag, and its packets delivered,
forwarded or answered (R308). -/
  | payloadFlitReceive (m : Fin 20) (b : Bytes)
  /-- A flit with a bad CRC is discarded and a NAK naming the expected SEQ is sent (R309). -/
  | flitCrcError (k : Fin 24) (b : Bytes)
  /-- Every 256 flit times until the expected flit arrives, the receiver sends the NAK again (R309). -/
  | nakRepeatExpiry (m : Fin 20)
  /-- A NAK arrives and the sender replays from the named SEQ, entering RETRAIN after four replays without progress (R309). -/
  | nakReceive (k : Fin 24) (b : Bytes)
  /-- No ACK has advanced for 4,096 CK_PL_n cycles with unacknowledged flits, so the sender replays from the oldest (R309). -/
  | replayTimeout (m : Fin 20)
  /-- A RESP control flit carries UNAVAILABLE or NO_ROUTE responses that are routed or matched to their requests (R317). -/
  | respFlitReceive (m : Fin 20) (b : Bytes)
  /-- The die-fabric write of an inbound KPP write is acknowledged and the WRITE_CPL is sent (R179). -/
  | inboundWriteAck (id : Nat) (res : WrRes)
  /-- A MESSAGE has no answer within 2^24 CK_FAB cycles and the MC logs a lost-message event (R319). -/
  | messageTimeout (tag : Fin 65536)
  /-- The checker locks to the pattern and counts checked flits and differing bits (R320). -/
  | testFlitReceive (k : Fin 24) (b : Bytes)
  /-- A link idle for 2^14 CK_MGT cycles with partner agreement enters LOW_POWER (R462). -/
  | linkLowPowerEntry (k : Fin 24)
  /-- A queued flit or snoop starts an exit from LOW_POWER, ending in LINK_UP (R462). -/
  | linkLowPowerExit (k : Fin 24)
  /-- An inbound CXL.io posted write is taken in arrival order, checked under R32 and served, or passed to the doorbell path (R182). -/
  | cxlIoPostedWrite (pasid : Option (BitVec 20)) (off : BitVec 47) (data : Bytes)
  /-- An inbound CXL.io read completes after earlier posted writes are acknowledged, with completions in request order (R182). -/
  | cxlIoRead (pasid : Option (BitVec 20)) (txn : Nat) (off : BitVec 47) (len : Nat) (memory : Bool)
  /-- An inbound PCIe memory request is refused, discarded or served by the rules of R338 (R338). -/
  | pcieMemoryRequest (kind : TlpKind) (rid : BitVec 16) (txn : Nat) (addr : Word) (len : Nat) (poisoned : Bool) (data : Bytes) (header : Bytes)
  /-- An inbound configuration request is served, or answered with Request Retry Status during boot or VF reset (R325). -/
  | pcieConfigRequest (f : Fin 256) (txn : Nat) (reg : BitVec 10) (write : Option (BitVec 4 × BitVec 32))
  /-- The port logs an AER error and reports it to EC, triggering Capo when unmasked in CAPO_TRIGGER_MASK (R339). -/
  | aerErrorDetected (correctable : Bool) (b : Fin 32) (header : Bytes)
  /-- Link loss without a preceding disable triggers Capo with CAUSE 2 (R341). -/
  | dlDown
  /-- DL_Up after a link-down interval in root-port mode with INSERT_HOLD = 1 triggers Capo with CAUSE 5 (R341). -/
  | dlUpInsert (width : Nat) (rate : Nat)
  /-- A write of RELEASE to CAPO_CONTROL or PX_CAPO returns the port to RUN unless the blocking condition persists (R343). -/
  | capoRelease
  /-- A write of TRIGGER to CAPO_CONTROL or PX_CAPO triggers Capo with CAUSE 4 (R341). -/
  | capoSoftwareTrigger
  /-- A write to CAPO_CONTROL.INSERT_HOLD sets whether insertion freezes the root port (R341). -/
  | capoInsertHoldWrite (hold : Bool)
  /-- A write to the Resizable BAR control resizes PF BAR_2 and refuses its accesses while PF_WIN_BASE is misaligned (R330). -/
  | barResize (log2 : Fin 64)
  /-- When a masked vector or function is unmasked, the pending MSI-X message is sent (R336). -/
  | msixPendingSend (f : Fin 17) (v : Fin 512)
  /-- After 8,192 CK_PX cycles without TLPs the port requests L0p ×4 (R323). -/
  | l0pEntry
  /-- A TLP or MSI-X message queued for transmission requests ×16 again (R323). -/
  | l0pRestore
  /-- With L1 enabled and 16,384 idle CK_PX cycles, the port requests ASPM L1 (R323). -/
  | aspmL1Entry
  /-- An ERR_COR, ERR_NONFATAL or ERR_FATAL from below is forwarded into Root Error Status and notified, triggering Capo for ERR_FATAL
(R349). -/
  | errMessageReceived (rid : BitVec 16) (kind : Fin 3)
  /-- A 4-byte write of an assigned device to the interrupt range is posted as a device-interrupt notification (R348). -/
  | deviceInterruptWrite (rid : BitVec 16) (addr : Word) (value : BitVec 32)
  /-- A downstream configuration or memory request completes, or fails with FROZEN or Completion Timeout, and its mailbox command
responds (R350). -/
  | rpRequestCompletion (res : RpRes)
  /-- The MC answers an SPDM 1.3 request over DOE or MCTP, including certificates and measurements (R345). -/
  | spdmRequest (doe : Bool) (session : Option Nat) (code : SpdmCode) (body : Bytes)
  /-- A CLAIM binds TENANT_KEY to partition p when SHA-384(SECRET) matches CLAIM_DIGEST (R370). -/
  | claim (session : Nat) (payload : Bytes)
  /-- A signed KEY_LOAD loads a key bundle into an EMPTY slot, or holds it while the slot retires (R372). -/
  | keyLoad (session : Nat) (payload : Bytes)
  /-- A signed SET_PROVISION stores a device set when this die's identity is a member (R373). -/
  | setProvision (session : Nat) (payload : Bytes)
  /-- A signed SET_REVOKE zeroes the named device set (R373). -/
  | setRevoke (session : Nat) (payload : Bytes)
  /-- A signed RELEASE request moves the partition into scrub (R371). -/
  | release (session : Nat) (payload : Bytes)
  /-- A write of 1 to MB_CTRL.GO submits the request, setting BUSY and clearing DONE (R404). -/
  | mailboxGo (m : Fin 17)
  /-- An MCTP request on the board-management mailbox is written into the request area, or answered BUSY while a command is outstanding
(R404). -/
  | mctpRequest (body : Bytes)
  /-- SETDASA or ENTDAA assigns the board-management target's dynamic address (R401). -/
  | i3cAddressAssign (addr : BitVec 7)
  /-- Creates partition p with its named resources, regulators, check tag and CLAIM_DIGEST and sends a LIFETIME pulse (R353). -/
  | partCreate (m : Fin 18)
  /-- Activates a created, claimed partition whose named key slots are LOADED (R354). -/
  | partActivate (m : Fin 18)
  /-- Moves the partition to SCRUBBING and starts its scrub at T0 (R355). -/
  | partDestroy (m : Fin 18)
  /-- Sets the rate and burst of one regulator bucket (R357). -/
  | regSet (m : Fin 18)
  /-- Writes a host-tier range entry of the fret table (R34). -/
  | hostRangeSet (m : Fin 18)
  /-- Binds or unbinds a PASID to a partition or as the operator PASID (R32). -/
  | pasidBind (m : Fin 18)
  /-- Sets the PF BAR_2 window base into direct HBM (R33). -/
  | pfWinBase (m : Fin 18)
  /-- Sets a VF's BAR_2 window base within its aperture (R33). -/
  | vfWinBase (m : Fin 18)
  /-- Registers or removes a shared read-only range with its origin, digests and tags (R279). -/
  | sharedRegister (m : Fin 18)
  /-- Assigns or unassigns a range of downstream requester IDs to a partition (R347). -/
  | rpAssign (m : Fin 18)
  /-- Binds, rebinds or unbinds an ASID to a page-table root; rebinds and unbinds respond when their invalidation is acknowledged (R46).
-/
  | asidBind (m : Fin 18)
  /-- Places the partition's invalidation queue and resets XL's consumer count (R62). -/
  | invqPlace (m : Fin 18)
  /-- Sets the partition's invalidation drain limit (R70). -/
  | drainLimit (m : Fin 18)
  /-- Cuts an invalidation for the partition when room allows and responds on its acknowledgement (R69). -/
  | invalidate (m : Fin 18)
  /-- Places the partition's fault queue and resets its producer count (R87). -/
  | fqPlace (m : Fin 18)
  /-- Sets the partition's fault timeout for timers that start afterwards (R98). -/
  | faultTimeout (m : Fin 18)
  /-- Configures a DISABLED ring's base, size, class, ASID or physical mode, and completion ring (R102). -/
  | ringConfigure (m : Fin 18)
  /-- Enables a configured DISABLED ring with C and P set to the start count (R122). -/
  | ringEnable (m : Fin 18)
  /-- Disables a ring at the disable cycle, aborting its issuing and parked descriptors, and responds when the ring is DISABLED (R124).
-/
  | ringDisable (m : Fin 18)
  /-- Places a completion ring with its consumer word and vector (R155). -/
  | cqPlace (m : Fin 18)
  /-- Places the partition's delivery-counter area (R134). -/
  | counterArea (m : Fin 18)
  /-- Places the chord queue, sets P and C to 0 and clears FETCH_STOPPED (R160). -/
  | chordQueue (m : Fin 18)
  /-- Writes or removes a window entry after the checks of R38 (R38). -/
  | windowSet (m : Fin 18)
  /-- Makes a LOADED key slot current for peer flits or HBM writes (R363). -/
  | keySwitch (m : Fin 18)
  /-- Retires generation g, starting the host and HBM re-key passes (R364). -/
  | rekey (m : Fin 18)
  /-- Unwraps and decrypts a weight package into a destination and extends the package measurement (R375). -/
  | unwrap (m : Fin 18) (header : Option Bytes)
  /-- The package decryption ends; a failed check zeroes the destination, and the command responds (R375). -/
  | unwrapDone (m : Fin 16) (data : Bytes)
  /-- Reads a program image, extends measurement 0x10 + p and loads it into the partition's compute cells (R376). -/
  | programLoad (m : Fin 18) (image : Option Bytes)
  /-- Loads one of the partition's schedule tables (R218). -/
  | schedLoad (m : Fin 18)
  /-- Declares or removes a replica-set record (R268). -/
  | replicaSet (m : Fin 18)
  /-- Clears every KEEP mark of the partition in the tier cache (R193). -/
  | tcFlush (m : Fin 18)
  /-- Sets one vector's address and data and the route of the owner's vectors (R337). -/
  | vectorSet (m : Fin 18)
  /-- Flushes every counting unit and requests a Tally commit, responding with the stored record's SEQ (R390). -/
  | tallyCommit (m : Fin 18)
  /-- Restarts training of a module at SB_INIT, through DOWN from a running state (R291). -/
  | moduleRetrain (m : Fin 18)
  /-- Sends one configuration request to a downstream device (R350). -/
  | rpConfig (m : Fin 18)
  /-- Sends one memory request of 1 to 8 B to a downstream device (R350). -/
  | rpMemory (m : Fin 18)
  /-- Selects UCIe near-end loopback on a host-link module (R320). -/
  | testLoopback (m : Fin 18)
  /-- Returns event-log records from FROM_SEQ, filtered by partition (R412). -/
  | eventRead (m : Fin 18)
  /-- Returns the eight MC_SENSOR values (R407). -/
  | sensorRead (m : Fin 18)
  /-- Writes firmware data into the inactive bank, with offset 0 erasing it and setting the staging owner (R413). -/
  | fwStage (m : Fin 18)
  /-- Checks the staged manifest's signature, digest, stepping and SVN (R413). -/
  | fwVerify (m : Fin 18)
  /-- Makes the verified bank active for the next cold reset and optionally raises the fused SVN (R413). -/
  | fwActivate (m : Fin 18)
  /-- Writes the MC admission level of a unit state word, subject to the epoch rule for lowering writes (R415). -/
  | unitAdmit (m : Fin 18)
  /-- Returns a run of unit state words from the hardware (R407). -/
  | unitRead (m : Fin 18)
  /-- Changes the HXU mode while every partition is FREE (R448). -/
  | modeSet (m : Fin 18)
  /-- Returns firmware version, SVN, stepping, die ID and fuse information (R407). -/
  | getInfo (m : Fin 18)
  /-- The QUIESCE phase ends; the partition's rings become DISABLED and the ZERO sweep restarts at offset 0 (R379). -/
  | scrubQuiesceEnd (p : Fin 16)
  /-- The ZERO sweep ends and CLOSE begins, zeroing keys, bindings and buffers (R378). -/
  | scrubZeroEnd (p : Fin 16)
  /-- CLOSE ends and the partition becomes FREE, releasing its resources (R380). -/
  | scrubCloseEnd (p : Fin 16)
  /-- The walker locks a page of the host pass and cuts a RANGE invalidation of it (R365). -/
  | rekeyPageLock (p : Fin 16) (leaf : Option FoundLeaf)
  /-- Every re-encrypted push of the page has its GO response, and the walker updates KT_GEN in the leaf (R365). -/
  | rekeyPagePushesDone (p : Fin 16) (old : Bytes)
  /-- After the leaf update is pushed, the walker unlocks the page, and waiting requests translate afresh (R365). -/
  | rekeyPageUnlock (p : Fin 16)
  /-- The HBM re-encrypt pass finishes over every owned channel (R364). -/
  | hbmPassEnd (p : Fin 16)
  /-- A RETIRING slot whose passes are done and whose in-flight count is zero is zeroed and set EMPTY, and a held load completes (R366).
-/
  | keySlotRetire (p : Fin 16) (g : Fin 2)
  /-- An accumulator non-zero for 2^16 cycles is sent as a count pulse (R386). -/
  | accumulatorAgeExpiry (p : Fin 16) (k : Fin 7)
  /-- Tally takes one count pulse and adds its amount to the named counter (R387). -/
  | countPulseTake
  /-- A control pulse of amount 1 increments the partition's lifetime count (R387). -/
  | lifetimePulse
  /-- A control pulse of amount 2 acknowledges a unit's flush (R387). -/
  | markPulse
  /-- On the first idle cycle with a pending trigger, Tally copies every counter into a new record and begins signing (R389). -/
  | tallyRecordCommit
  /-- The record is signed and stored, and the MC posts a record notification (R392). -/
  | tallyRecordStored
  /-- A write of SEQ to TY_REC_SELECT starts a READ of that record through the record port (R392). -/
  | tyRecSelectWrite (w : Word)
  /-- A write of REQUEST to TY_COMMIT requests a commit under R390 (R391). -/
  | tyCommitWrite
  /-- EC latches an error from a line, sets its status bit, fills records and target sets, and may step the source level (R419). -/
  | errorLatch (e : ErrorEv)
  /-- A source's grace timer expires and the source steps up one level (R425). -/
  | graceExpiry (src : Fin 16)
  /-- A write of 1 to EC_STATUS bits clears them and may acknowledge a source, releasing its hardware quarantines (R420). -/
  | ecStatusClear (w : Word)
  /-- A source's quiet timer expires, the source recovers to level 0, and the MC writes releases (R431). -/
  | quietExpiry (src : Fin 16)
  /-- With TEST_MODE 1, a write with GO latches an injected error as if from a line (R435). -/
  | ecInject (w : Word)
  /-- Every 2^19 CK_MGT cycles EC toggles ALIVE_OUT below level 4 (R433). -/
  | aliveToggle
  /-- Every 2^20 CK_MGT cycles the MC reconciles its view of all 112 unit state words with the hardware (R417). -/
  | reconcilePass
  /-- A write to TG_CTRL starts or stops a module's traffic generator and checker where permitted (R320). -/
  | tgCtrlWrite (k : Fin 24) (w : Word)
  /-- The generator sends TEST flits in free flit times until COUNT is reached (R320). -/
  | testFlitGenerate (k : Fin 24)
  /-- A BAR_0 write to any other register takes effect by its access codes, or is dropped under R6 and R7 (R8). -/
  | registerWrite (via : Option (Option (BitVec 20))) (off : BitVec 26) (n : Nat) (value : Word)
  /-- The HBM controllers report the channel size S at bring-up, setting PT_ADDR_INFO.HBM_CH_SIZE_LOG2 and MAP_VALID and fixing the
scrub duration (R27). -/
  | hbmChannelSizeReport (log2 : Fin 46)
  /-- An IDLE flit arrives on a peer module and its ACK and credit fields free retry-buffer entries and return receive credits (R300).
-/
  | idleFlitReceive (k : Fin 24) (b : Bytes)
  /-- A sequenced flit with a good CRC but not the expected SEQ arrives; the receiver discards it and sends a NAK naming the expected
SEQ (R309). -/
  | outOfOrderFlit (m : Fin 20) (b : Bytes)
  /-- The PCI Express link trains and reaches DL_Up outside the insertion-hold case, updating LINK_UP, LINK_WIDTH and LINK_RATE (R322).
-/
  | pcieLinkUp (width : Nat) (rate : Nat)
  /-- A CXL.io configuration request from the host reaches the host-link Type 1 function and is served from its DVSECs (R292). -/
  | cxlIoConfigurationRequest (txn : Nat) (reg : BitVec 10) (write : Option (BitVec 4 × BitVec 32))
deriving DecidableEq, Repr

end Sys2Proof
end

