-- ==== Sys2Proof/WellFormed.lean ====
section
/-! DEFINITION. Well-formed commands: the operands describe an event that can happen at the block's boundary. Indices are bounded by
their types; what is left is checked here. -/

namespace Sys2Proof

/-- A manifest of 352 bytes and a SHA-384 digest (R414). -/
def bankShape (b : Bank) : Bool := b.manifest.length == 352 && b.digest.length == 48

/-- Is a write of n bytes to an offset of a doorbell page one of R107? -/
def doorbellAt (off n : Nat) : Bool := n == 8 && (off % 64 == 0 || off == 8 || off == 16 || off == 24)

/-- Does a run of bytes lie in one 4 KiB page? -/
def spanOk (off n : Nat) : Bool := decide (0 < n) && decide (off % 4096 + n ≤ 4096)

/-- A width and a rate code that a PCI Express link can have (R322). -/
def linkShape (width rate : Nat) : Bool :=
  (width == 1 || width == 2 || width == 4 || width == 8 || width == 16) && decide (1 ≤ rate) && decide (rate ≤ 6)

/-- Is a command well formed? -/
def Instr.wf : Instr → Bool
  | .coldReset _ => true
  | .romBoot b0 b1 => bankShape b0 && bankShape b1
  | .computeCellFirmwareBroadcast _ => true
  | .cellDigestReturn _ _ => true
  | .cellDigestTimeout _ => true
  | .topologyCheck => true
  | .readinessDecision => true
  | .computePartReset => true
  | .computePartResetRestore => true
  | .partitionFunctionLevelReset _ => true
  | .pfFunctionLevelReset => true
  | .partitionResetEnd _ => true
  | .hostLinkLossReset _ => true
  | .hostLinkOutTimerExpiry => true
  | .hostLinkLossResetEnd => true
  | .portReset _ => true
  | .powerWarn => true
  | .powerWarnWaitExpiry _ => true
  | .clockMonitorLoss _ => true
  | .sensorSample v => v.length == 8
  | .ckArrStepDone => true
  | .ckArrStepTimeout => true
  | .mcPwrCtrlWrite _ => true
  | .arrFreqMaxStepDown => true
  | .ringDoorbell _ _ _ => true
  | .stagedDoorbell _ _ _ => true
  | .invalidationDoorbell _ _ => true
  | .chordDoorbell _ _ => true
  | .doorbellPageBadWrite _ off n => !doorbellAt off n
  | .faultResponseConsume _ _ => true
  | .faultResponseResume _ _ => true
  | .faultResponseAbort _ _ => true
  | .descriptorFetch _ => true
  | .descriptorFetchReturn _ _ => true
  | .descriptorRefetchBackoffExpiry _ => true
  | .descriptorStart _ => true
  | .requestIssue _ => true
  | .dataReadReturn _ _ => true
  | .dataWriteAck _ _ => true
  | .requestTimeout _ => true
  | .flagWriteIssue _ => true
  | .statusBlockWrite _ => true
  | .ownClearWrite _ _ => true
  | .completionEntryWrite _ _ => true
  | .completionEntryAck _ _ => true
  | .consumerWordPoll _ => true
  | .consumerWordReturn _ _ => true
  | .wcEntryIdleFlush _ => true
  | .tierCacheFillReturn _ _ => true
  | .hostSnoop _ _ _ => true
  | .parkDrainComplete _ => true
  | .faultRecordAck _ _ _ => true
  | .parkTimerExpiry _ => true
  | .walkStart _ => true
  | .walkReadReturn _ _ => true
  | .walkReadTimeout _ => true
  | .adUpdateOwnedReadReturn _ _ => true
  | .invalidationEntryFetch _ => true
  | .invalidationEntryReturn _ _ => true
  | .invalidationRefetchBackoffExpiry _ => true
  | .invalidationCut _ => true
  | .invalidationAcknowledge _ => true
  | .invalidationDrainLimitExpiry _ => true
  | .chordHeaderFetch _ => true
  | .chordHeaderReturn _ _ => true
  | .chordBackoffExpiry _ => true
  | .chordTake _ _ => true
  | .chordCommit _ => true
  | .chordTimeout _ => true
  | .chordStatusWrite _ => true
  | .chordOwnClear _ _ => true
  | .chordNoteWrite _ _ => true
  | .ringDrainComplete _ => true
  | .updateDescriptorPass _ => true
  | .normTableRead _ => true
  | .normTableReturn _ _ => true
  | .normWaitLimitExpiry _ => true
  | .jobStart _ => true
  | .tileReadsComplete _ => true
  | .tileWritesAcked _ => true
  | .fingerprintWrite _ _ => true
  | .jobPark _ => true
  | .jobReturn _ => true
  | .arrayChunkStart _ _ => true
  | .arrayTileFinish => true
  | .outputPathTile => true
  | .replicaReportSend _ => true
  | .repairJobStart _ => true
  | .repairFingerprintCheck _ => true
  | .repairMemberWrite _ => true
  | .repairFingerprintWrite _ => true
  | .repairNoteWrite _ => true
  | .sharedRepairOpen => true
  | .sharedRepairOriginDone _ _ => true
  | .sharedRepairClose _ => true
  | .sharedRepairTimeout _ => true
  | .sidebandUp _ => true
  | .mainbandTrained _ _ _ => true
  | .paramFlitReceive _ b => b.length == 256
  | .trainingLimitExpiry _ => true
  | .retrainComplete _ _ _ b => b.length == 256
  | .payloadFlitReceive _ b => b.length == 256
  | .flitCrcError _ b => b.length == 256
  | .nakRepeatExpiry _ => true
  | .nakReceive _ b => b.length == 256
  | .replayTimeout _ => true
  | .respFlitReceive _ b => b.length == 256
  | .inboundWriteAck _ _ => true
  | .messageTimeout _ => true
  | .testFlitReceive _ b => b.length == 256
  | .linkLowPowerEntry _ => true
  | .linkLowPowerExit _ => true
  | .cxlIoPostedWrite _ off data => spanOk off.toNat data.length
  | .cxlIoRead _ _ off len _ => spanOk off.toNat len
  | .pcieMemoryRequest kind _ _ addr len _ data _ => decide (0 < len) && decide (addr.toNat + len ≤ 2 ^ 64) && (data.length == if kind == .write then len else 0)
  | .pcieConfigRequest _ _ _ _ => true
  | .aerErrorDetected _ _ _ => true
  | .dlDown => true
  | .dlUpInsert width rate => linkShape width rate
  | .capoRelease => true
  | .capoSoftwareTrigger => true
  | .capoInsertHoldWrite _ => true
  | .barResize _ => true
  | .msixPendingSend _ _ => true
  | .l0pEntry => true
  | .l0pRestore => true
  | .aspmL1Entry => true
  | .errMessageReceived _ _ => true
  | .deviceInterruptWrite _ _ _ => true
  | .rpRequestCompletion _ => true
  | .spdmRequest _ _ _ _ => true
  | .claim _ _ => true
  | .keyLoad _ _ => true
  | .setProvision _ _ => true
  | .setRevoke _ _ => true
  | .release _ _ => true
  | .mailboxGo _ => true
  | .mctpRequest body => decide (32 ≤ body.length) && decide (body.length ≤ 16384)
  | .i3cAddressAssign _ => true
  | .partCreate _ => true
  | .partActivate _ => true
  | .partDestroy _ => true
  | .regSet _ => true
  | .hostRangeSet _ => true
  | .pasidBind _ => true
  | .pfWinBase _ => true
  | .vfWinBase _ => true
  | .sharedRegister _ => true
  | .rpAssign _ => true
  | .asidBind _ => true
  | .invqPlace _ => true
  | .drainLimit _ => true
  | .invalidate _ => true
  | .fqPlace _ => true
  | .faultTimeout _ => true
  | .ringConfigure _ => true
  | .ringEnable _ => true
  | .ringDisable _ => true
  | .cqPlace _ => true
  | .counterArea _ => true
  | .chordQueue _ => true
  | .windowSet _ => true
  | .keySwitch _ => true
  | .rekey _ => true
  | .unwrap _ _ => true
  | .unwrapDone _ _ => true
  | .programLoad _ _ => true
  | .schedLoad _ => true
  | .replicaSet _ => true
  | .tcFlush _ => true
  | .vectorSet _ => true
  | .tallyCommit _ => true
  | .moduleRetrain _ => true
  | .rpConfig _ => true
  | .rpMemory _ => true
  | .testLoopback _ => true
  | .eventRead _ => true
  | .sensorRead _ => true
  | .fwStage _ => true
  | .fwVerify _ => true
  | .fwActivate _ => true
  | .unitAdmit _ => true
  | .unitRead _ => true
  | .modeSet _ => true
  | .getInfo _ => true
  | .scrubQuiesceEnd _ => true
  | .scrubZeroEnd _ => true
  | .scrubCloseEnd _ => true
  | .rekeyPageLock _ _ => true
  | .rekeyPagePushesDone _ _ => true
  | .rekeyPageUnlock _ => true
  | .hbmPassEnd _ => true
  | .keySlotRetire _ _ => true
  | .accumulatorAgeExpiry _ _ => true
  | .countPulseTake => true
  | .lifetimePulse => true
  | .markPulse => true
  | .tallyRecordCommit => true
  | .tallyRecordStored => true
  | .tyRecSelectWrite _ => true
  | .tyCommitWrite => true
  | .errorLatch e => decide (e.source < 16) && decide (e.cls < 3)
  | .graceExpiry _ => true
  | .ecStatusClear _ => true
  | .quietExpiry _ => true
  | .ecInject _ => true
  | .aliveToggle => true
  | .reconcilePass => true
  | .tgCtrlWrite _ _ => true
  | .testFlitGenerate _ => true
  | .registerWrite _ _ _ _ => true
  | .hbmChannelSizeReport _ => true
  | .idleFlitReceive _ b => b.length == 256
  | .outOfOrderFlit _ b => b.length == 256
  | .pcieLinkUp width rate => linkShape width rate
  | .cxlIoConfigurationRequest _ _ _ => true

end Sys2Proof
end

