-- ==== Sys2Proof/Machine/Bits.lean ====
section
/-! DEFINITION. Bit fields, little-endian packing, saturating counts and interval lists: the helpers every unit uses. -/

namespace Sys2Proof.Machine

/-- Bits `[lo + width - 1 : lo]` of a number. -/
def bits (w lo width : Nat) : Nat := (w >>> lo) % 2 ^ width

/-- One bit as a Boolean. -/
def bit (w i : Nat) : Bool := bits w i 1 == 1

/-- A Boolean as the number a one-bit field shows. -/
def b2n (b : Bool) : Nat := if b then 1 else 0

/-- A field value placed at `lo`, cut to its width. -/
def fld (v lo width : Nat) : Nat := (v % 2 ^ width) <<< lo

/-- `w` with its field `[lo + width - 1 : lo]` replaced by `v`. -/
def setBits (w lo width v : Nat) : Nat :=
  w - fld (bits w lo width) lo width + fld v lo width

/-- Little-endian value of a run of bytes (R3). -/
def leNat : Bytes → Nat
  | [] => 0
  | b :: bs => b.toNat + 256 * leNat bs

/-- The `n` little-endian bytes of a value (R3). -/
def leBytes : Nat → Nat → Bytes
  | 0, _ => []
  | n + 1, v => BitVec.ofNat 8 v :: leBytes n (v / 256)

/-- Big-endian value of a run of bytes. -/
def beNat (b : Bytes) : Nat := leNat b.reverse

/-- The `n` big-endian bytes of a value. -/
def beBytes (n v : Nat) : Bytes := (leBytes n v).reverse

/-- The little-endian value of `len` bytes of a structure from byte `off`. -/
def fieldAt (b : Bytes) (off len : Nat) : Nat := leNat ((b.drop off).take len)

/-- `n` bytes of a structure from byte `off`. -/
def slice (b : Bytes) (off len : Nat) : Bytes := (b.drop off).take len

/-- Byte `i` of a structure, 0 past its end. -/
def byteAt (b : Bytes) (i : Nat) : Nat := (b.getD i 0).toNat

/-- `n` zero bytes. -/
def zeros (n : Nat) : Bytes := List.replicate n 0

/-- `b` cut or zero-extended to `n` bytes. -/
def padTo (n : Nat) (b : Bytes) : Bytes := (b ++ zeros n).take n

/-- `b` with the bytes from `off` on replaced by `d`. -/
def overlay (b : Bytes) (off : Nat) (d : Bytes) : Bytes :=
  b.take off ++ d ++ b.drop (off + d.length)

/-- A count that stops at `2^width - 1`. -/
def satAdd (width a b : Nat) : Nat := min (a + b) (2 ^ width - 1)

/-- A count that wraps at `2^width`. -/
def wrapAdd (width a b : Nat) : Nat := (a + b) % 2 ^ width

/-- Smallest multiple of `m` at or above `a`. -/
def roundUp (a m : Nat) : Nat := (a + m - 1) / m * m

/-- Rounded-up quotient. -/
def ceilDiv (a m : Nat) : Nat := (a + m - 1) / m

/-- The exponent of the largest power of two that divides `a`, at most `cap`. -/
def alignLog2 (a : Nat) : Nat → Nat
  | 0 => 0
  | cap + 1 => if a % 2 ^ (cap + 1) = 0 then cap + 1 else alignLog2 a cap

/-- Is `n` a power of two `2^k` with `lo ≤ k ≤ hi`? -/
def isPow2In (n lo hi : Nat) : Bool := (List.range (hi + 1)).any fun k => decide (lo ≤ k) && n == 2 ^ k

/-- log2 of a power of two, as the registers show it. -/
def log2Of (n : Nat) : Nat := Nat.log2 n

/-- Two's-complement value of a `width`-bit field. -/
def signed (width v : Nat) : Int :=
  if v % 2 ^ width < 2 ^ (width - 1) then (v % 2 ^ width : Int) else (v % 2 ^ width : Int) - (2 ^ width : Int)

/-- An integer modulo `2^width`. -/
def toModNat (width : Nat) (v : Int) : Nat := (v % (2 ^ width : Int)).toNat

/-- The numbers below `n` whose bit is set in a mask. -/
def maskBits (n mask : Nat) : List Nat := (List.range n).filter fun i => bit mask i

/-- Population count of the low `n` bits. -/
def popCount (n mask : Nat) : Nat := (maskBits n mask).length

/-- Does a list of intervals cover offset `o`? -/
def ivHas (l : List Iv) (o : Nat) : Bool := l.any fun i => decide (i.1 ≤ o) && decide (o < i.2)

/-- Does one of the intervals meet `[a, b)`? -/
def ivMeets (l : List Iv) (a b : Nat) : Bool := l.any fun i => decide (i.1 < b) && decide (a < i.2)

/-- Adds `[a, b)` to a sorted list of disjoint intervals, joining what touches it. -/
def ivAdd (a b : Nat) : List Iv → List Iv
  | [] => if a < b then [(a, b)] else []
  | (x, y) :: t =>
    if b < x then (if a < b then (a, b) :: (x, y) :: t else (x, y) :: t)
    else if y < a then (x, y) :: ivAdd a b t
    else ivAdd (min a x) (max b y) t

/-- The first offset at or above `o` that a sorted list of intervals does not cover. -/
def ivGap (o : Nat) : List Iv → Nat
  | [] => o
  | (x, y) :: t => if x ≤ o then ivGap (max o y) t else o

/-- Does a sorted list of intervals cover all of `[a, b)`? -/
def ivCovers (l : List Iv) (a b : Nat) : Bool := decide (b ≤ ivGap a (l.filter fun i => decide (a < i.2)))

end Sys2Proof.Machine
end

