-- ==== Sys2Proof/Machine/Formats.lean ====
section
/-! DEFINITION. Number formats, exact values, rounding and conversion (R250 to R262), and the FP32 lane operations. -/

namespace Sys2Proof.Machine

/-- An exact value: `(-1)^neg × m × 2^e`, an infinity, or NaN. -/
inductive Num where
  | fin (neg : Bool) (m : Nat) (e : Int)
  | inf (neg : Bool)
  | nan
deriving DecidableEq, Repr, Inhabited

/-- A floating-point encoding (R253). `special`: 0 infinity and NaN at the top exponent, 1 E4M3's single NaN, 2 neither. -/
structure FloatFmt where
  ebits : Nat
  mbits : Nat
  bias : Nat
  special : Nat
  /-- Magnitude code of the largest finite value. -/
  maxCode : Nat
  /-- Canonical NaN; 0 where the format has none (R257). -/
  nan : Nat
deriving DecidableEq, Repr, Inhabited

def fp32 : FloatFmt := ⟨8, 23, 127, 0, 0x7F7FFFFF, 0x7FC00000⟩
def bf16 : FloatFmt := ⟨8, 7, 127, 0, 0x7F7F, 0x7FC0⟩
def fp16 : FloatFmt := ⟨5, 10, 15, 0, 0x7BFF, 0x7E00⟩
def e4m3 : FloatFmt := ⟨4, 3, 7, 1, 0x7E, 0x7F⟩
def e5m2 : FloatFmt := ⟨5, 2, 15, 0, 0x7B, 0x7E⟩
def e3m2 : FloatFmt := ⟨3, 2, 3, 2, 0x1F, 0⟩
def e2m3 : FloatFmt := ⟨2, 3, 1, 2, 0x1F, 0⟩
def e2m1 : FloatFmt := ⟨2, 1, 1, 2, 0x7, 0⟩

/-- The floating-point format of a code below 8 (R138). -/
def floatFmt : Nat → FloatFmt
  | 0 => fp32
  | 1 => bf16
  | 2 => fp16
  | 3 => e4m3
  | 4 => e5m2
  | 5 => e3m2
  | 6 => e2m3
  | _ => e2m1

/-- Width of a format in bits (R138). -/
def fmtWidth : Nat → Nat
  | 0 => 32
  | 1 => 16
  | 2 => 16
  | 3 => 8
  | 4 => 8
  | 5 => 6
  | 6 => 6
  | 7 => 4
  | 8 => 8
  | 9 => 32
  | _ => 32

/-- Exponent and mantissa bits together: the place of the sign bit. -/
def FloatFmt.signAt (f : FloatFmt) : Nat := f.ebits + f.mbits

/-- Least exponent of a unit in the last place. -/
def FloatFmt.qmin (f : FloatFmt) : Int := 1 - (f.bias : Int) - f.mbits

/-- Exact value of an encoding (R253). -/
def FloatFmt.decode (f : FloatFmt) (w : Nat) : Num :=
  let neg := bit w f.signAt
  let e := bits w f.mbits f.ebits
  let m := bits w 0 f.mbits
  if f.special = 0 && e == 2 ^ f.ebits - 1 then (if m = 0 then .inf neg else .nan)
  else if f.special = 1 && bits w 0 f.signAt == f.nan then .nan
  else if e = 0 then .fin neg m f.qmin
  else .fin neg (2 ^ f.mbits + m) (f.qmin + (e - 1))

/-- How a significand is rounded: to nearest even, or stochastically with a draw (R228). -/
inductive Rounding where
  | nearest
  | stochastic (draw : Nat)
deriving DecidableEq, Repr, Inhabited

/-- Rounds `m × 2^-t` to an integer. -/
def Rounding.apply (r : Rounding) (m t : Nat) : Nat :=
  let n := m >>> t
  let rem := m % 2 ^ t
  match r with
  | .nearest =>
    if t = 0 then n
    else if 2 ^ (t - 1) < rem || (rem == 2 ^ (t - 1) && n % 2 == 1) then n + 1 else n
  | .stochastic d => if 2 ^ t ≤ rem + d % 2 ^ t then n + 1 else n

/-- Magnitude code of `m × 2^e` rounded with the format's precision, its exponent range unbounded above (R256). -/
def FloatFmt.code (f : FloatFmt) (r : Rounding) (m : Nat) (e : Int) : Nat :=
  if m = 0 then 0
  else
    let q := max (e + Nat.log2 m - f.mbits) f.qmin
    let n := if q ≤ e then m <<< (e - q).toNat else r.apply m (q - e).toNat
    (q - f.qmin).toNat * 2 ^ f.mbits + n

/-- Infinity of a sign. -/
def FloatFmt.infCode (f : FloatFmt) : Nat := (2 ^ f.ebits - 1) <<< f.mbits

/-- A code with its sign. -/
def FloatFmt.withSign (f : FloatFmt) (neg : Bool) (c : Nat) : Nat := (if neg then 2 ^ f.signAt else 0) + c

/-- The result of a value beyond the largest finite one, or of an infinity (R257). -/
def FloatFmt.beyond (f : FloatFmt) (sat neg : Bool) : Nat :=
  if sat then f.withSign neg f.maxCode
  else match f.special with
    | 0 => f.withSign neg f.infCode
    | 1 => f.nan
    | _ => f.withSign neg f.maxCode

/-- Encodes an exact value, and says whether a finite value was out of range (R256, R257). -/
def FloatFmt.encode (f : FloatFmt) (r : Rounding) (sat : Bool) : Num → Nat × Bool
  | .nan => (f.nan, false)
  | .inf neg => (f.beyond sat neg, false)
  | .fin neg m e =>
    let c := f.code r m e
    if f.maxCode < c then (f.beyond sat neg, true) else (f.withSign neg c, false)

/-! ## Exact arithmetic -/

/-- `(-1)^neg × m` as an integer. -/
def sgn (neg : Bool) (m : Nat) : Int := if neg then -(m : Int) else m

/-- Exact sum, with IEEE's sign of zero to nearest even. -/
def Num.add : Num → Num → Num
  | .nan, _ => .nan
  | _, .nan => .nan
  | .inf a, .inf b => if a = b then .inf a else .nan
  | .inf a, _ => .inf a
  | _, .inf b => .inf b
  | .fin a m e, .fin b n g =>
    let q := min e g
    let v := sgn a (m <<< (e - q).toNat) + sgn b (n <<< (g - q).toNat)
    if v = 0 then .fin (a && b) 0 q else .fin (decide (v < 0)) v.natAbs q

/-- Negation. -/
def Num.neg : Num → Num
  | .nan => .nan
  | .inf a => .inf !a
  | .fin a m e => .fin (!a) m e

/-- Exact product. -/
def Num.mul : Num → Num → Num
  | .nan, _ => .nan
  | _, .nan => .nan
  | .inf a, .inf b => .inf (a != b)
  | .inf a, .fin b n _ => if n = 0 then .nan else .inf (a != b)
  | .fin a m _, .inf b => if m = 0 then .nan else .inf (a != b)
  | .fin a m e, .fin b n g => .fin (a != b) (m * n) (e + g)

/-- Is the value finite? -/
def Num.isFin : Num → Bool
  | .fin _ _ _ => true
  | _ => false

/-- Is the value NaN? -/
def Num.isNan : Num → Bool
  | .nan => true
  | _ => false

/-- Is the value zero? -/
def Num.isZero : Num → Bool
  | .fin _ m _ => m == 0
  | _ => false

/-- Scaling by a power of two. -/
def Num.scale (k : Int) : Num → Num
  | .fin a m e => .fin a m (e + k)
  | x => x

/-- `x < y` for numbers that are not NaN; −0 counts below +0, as IEEE maximum orders them. -/
def Num.lt : Num → Num → Bool
  | .nan, _ => false
  | _, .nan => false
  | .inf a, .inf b => a && !b
  | .inf a, _ => a
  | _, .inf b => !b
  | .fin a m e, .fin b n g =>
    let q := min e g
    let x := sgn a (m <<< (e - q).toNat)
    let y := sgn b (n <<< (g - q).toNat)
    decide (x < y) || (x == 0 && y == 0 && a && !b)

/-- Magnitude. -/
def Num.abs : Num → Num
  | .fin _ m e => .fin false m e
  | .inf _ => .inf false
  | .nan => .nan

/-- Digit-by-digit integer square root of `n` with `fuel` result bits. -/
def isqrtBits (n : Nat) : Nat → Nat → Nat
  | 0, r => r
  | k + 1, r => isqrtBits n k (if (r + 2 ^ k) * (r + 2 ^ k) ≤ n then r + 2 ^ k else r)

/-- Integer square root, rounded down. -/
def isqrt (n : Nat) : Nat := isqrtBits n (Nat.log2 n / 2 + 1) 0

/-- A quotient or root with a sticky bit below it, so that one later rounding is correct. -/
def sticky (q : Nat) (exact : Bool) : Nat := 2 * q + b2n (!exact)

/-- 1 ÷ x to far more than FP32 precision, with a sticky bit (R251). -/
def Num.recip : Num → Num
  | .nan => .nan
  | .inf a => .fin a 0 0
  | .fin a m e =>
    if m = 0 then .inf a
    else
      let k := Nat.log2 m + 32
      .fin a (sticky (2 ^ k / m) (2 ^ k % m == 0)) (-(k : Int) - e - 1)

/-- √x to far more than FP32 precision, with a sticky bit (R251). -/
def Num.root : Num → Num
  | .nan => .nan
  | .inf a => if a then .nan else .inf false
  | .fin a m e =>
    if m = 0 then .fin a 0 0
    else if a then .nan
    else
      let odd := e % 2 != 0
      let n := (if odd then 2 * m else m) <<< 64
      let h := (if odd then e - 1 else e) / 2
      let r := isqrt n
      .fin false (sticky r (r * r == n)) (h - 33)

/-! ## FP32 lane operations (R250 to R252, R260) -/

/-- Exact value of an FP32 word. -/
def f32 (w : Nat) : Num := fp32.decode w
/-- An FP32 word rounded to nearest even. -/
def toF32 (x : Num) : Nat := (fp32.encode .nearest false x).1
def fadd (a b : Nat) : Nat := toF32 ((f32 a).add (f32 b))
def fsub (a b : Nat) : Nat := toF32 ((f32 a).add (f32 b).neg)
def fmul (a b : Nat) : Nat := toF32 ((f32 a).mul (f32 b))
def ffma (a b c : Nat) : Nat := toF32 (((f32 a).mul (f32 b)).add (f32 c))
def frcp (a : Nat) : Nat := toF32 (f32 a).recip
def fsqrt (a : Nat) : Nat := toF32 (f32 a).root
def fneg (a : Nat) : Nat := toF32 (f32 a).neg
def fmax (a b : Nat) : Nat :=
  if (f32 a).isNan || (f32 b).isNan then fp32.nan else if (f32 a).lt (f32 b) then b else a
def fmin (a b : Nat) : Nat :=
  if (f32 a).isNan || (f32 b).isNan then fp32.nan else if (f32 b).lt (f32 a) then b else a
def flt (a b : Nat) : Bool := (f32 a).lt (f32 b) && !((f32 a).isZero && (f32 b).isZero)
def fone : Nat := 0x3F800000

/-! ## Conversion -/

/-- Exact value of a 32-bit BF16x2 word: hi + lo, lo ignored beside an infinite or NaN hi (R254). -/
def bf16x2Decode (w : Nat) : Num :=
  let hi := bf16.decode (bits w 16 16)
  if hi.isFin then hi.add (bf16.decode (bits w 0 16)) else hi

/-- A BF16x2 word formed from an exact value in two roundings, and whether it was out of range (R254). -/
def bf16x2Encode (sat : Bool) (x : Num) : Nat × Bool :=
  let (hi, oor) := bf16.encode .nearest sat x
  match x, oor with
  | .fin _ _ _, false => (hi * 65536 + (bf16.encode .nearest sat (x.add (bf16.decode hi).neg)).1, false)
  | _, _ => (hi * 65536, oor)

/-- Exact value of an encoding of a format code. -/
def decodeFmt (code w : Nat) : Num :=
  if code = 8 then let v := signed 8 w; .fin (decide (v < 0)) v.natAbs 0
  else if code = 9 then let v := signed 32 w; .fin (decide (v < 0)) v.natAbs 0
  else if code = 10 then bf16x2Decode w
  else (floatFmt code).decode w

/-- Nearest integer, ties to even, of a finite value. -/
def roundInt (neg : Bool) (m : Nat) (e : Int) : Int :=
  sgn neg (if 0 ≤ e then m <<< e.toNat else Rounding.nearest.apply m (-e).toNat)

/-- Conversion to a `width`-bit integer (R258). -/
def encodeInt (width : Nat) (sat : Bool) : Num → Nat × Bool
  | .nan => (0, false)
  | .inf neg => (bound neg, false)
  | .fin neg m e =>
    let v := roundInt neg m e
    if v < -(2 ^ (width - 1) : Int) || (2 ^ (width - 1) : Int) ≤ v then (bound neg, true) else (toModNat width v, false)
where
  bound (neg : Bool) : Nat := if sat && !neg then 2 ^ (width - 1) - 1 else 2 ^ (width - 1)

/-- Conversion of an exact value to a format code, and whether a finite value was out of range (R256 to R258). -/
def encodeFmt (code : Nat) (r : Rounding) (sat : Bool) (x : Num) : Nat × Bool :=
  if code = 8 then encodeInt 8 sat x
  else if code = 9 then encodeInt 32 sat x
  else if code = 10 then bf16x2Encode sat x
  else (floatFmt code).encode r sat x

/-- Is the result of a conversion an infinity? -/
def isInfCode (code w : Nat) : Bool :=
  match decodeFmt code w with
  | .inf _ => true
  | _ => false

/-- Converts one value: result, SAT_COUNT and NAN_COUNT increments (R256 to R259). -/
def convert1 (src dst w : Nat) (sat : Bool) (r : Rounding) (x : Num) : Nat × Nat × Nat :=
  let (v, oor) := if src == 9 && dst == 8 && !sat then (w % 256, decide (signed 32 w < -128) || decide (127 < signed 32 w))
    else encodeFmt dst r sat x
  let infLost := match x with
    | .inf _ => !isInfCode dst v
    | _ => false
  (v, b2n (oor || infLost), b2n (x.isNan || (decodeFmt dst v).isNan))

/-- Bit-stream packing of values of width `w`, first value lowest (R255). -/
def packBits (w : Nat) : List Nat → Nat
  | [] => 0
  | v :: vs => v % 2 ^ w + 2 ^ w * packBits w vs

/-- The `n` values of width `w` of a packed field (R255). -/
def unpackBits (w : Nat) : Nat → Nat → List Nat
  | 0, _ => []
  | n + 1, v => v % 2 ^ w :: unpackBits w n (v / 2 ^ w)

/-- Bytes of an element of `k` values: packed values, and one scale byte for MX (R138). -/
def elemBytes (code k : Nat) (mx : Bool) : Nat := k * fmtWidth code / 8 + b2n mx

/-- Exact values of an element (R139, R262). -/
def decodeElem (code k : Nat) (mx : Bool) (b : Bytes) : List (Nat × Num) :=
  let w := fmtWidth code
  if mx then
    let s := byteAt b 0
    (unpackBits w k (leNat (b.drop 1))).map fun v =>
      (v, if s = 255 then .nan else (decodeFmt code v).scale ((s : Int) - 127))
  else (unpackBits w k (leNat b)).map fun v => (v, decodeFmt code v)

/-- Exponent of an MX element format's largest normal (R261). -/
def mxTop : Nat → Int
  | 3 => 8
  | 4 => 15
  | 5 => 4
  | _ => 2

/-- floor(log2 x) of a finite value above zero. -/
def Num.log2 : Num → Int
  | .fin _ m e => e + Nat.log2 m
  | _ => 0

/-- The shared exponent of a block of finite values (R261 steps 1, 3 and 4). -/
def mxExp (code : Nat) (vs : List Num) : Int :=
  let amax := vs.foldl (fun a v => if a.lt v.abs then v.abs else a) (.fin false 0 0)
  if amax.isZero then -127 else max (-127) (min 127 (amax.log2 - mxTop code))

/-- An MX element: its bytes, formed from 32 exact values, each with its rounding (R261). -/
def mxEncode (code : Nat) (vs : List (Num × Rounding)) : Bytes :=
  let w := fmtWidth code
  if vs.all fun v => v.1.isFin then
    let x := mxExp code (vs.map Prod.fst)
    let vals := vs.map fun v => ((floatFmt code).encode v.2 true (v.1.scale (-x))).1
    leBytes 1 (x + 127).toNat ++ leBytes (32 * w / 8) (packBits w vals)
  else leBytes 1 255 ++ zeros (32 * w / 8)

/-- Converts one element: destination bytes, SAT_COUNT and NAN_COUNT increments (R138 to R140, R259, R261). -/
def convertElem (src dst k : Nat) (srcMx dstMx sat : Bool) (b : Bytes) : Bytes × Nat × Nat :=
  let vs := decodeElem src k srcMx b
  if dstMx then
    let isInf (x : Num) : Bool := !x.isFin && !x.isNan
    let bad := vs.any fun v => !v.2.isFin
    (mxEncode dst (vs.map fun v => (v.2, .nearest)),
      (vs.filter fun v => isInf v.2).length, if bad then vs.length else 0)
  else
    let rs := vs.map fun v => convert1 src dst v.1 sat .nearest v.2
    (leBytes (k * fmtWidth dst / 8) (packBits (fmtWidth dst) (rs.map Prod.fst)),
      (rs.map fun r => r.2.1).sum, (rs.map fun r => r.2.2).sum)

/-! ## Fingerprints (R230) -/

/-- `n` bits of the CRC register, most significant first. -/
def crcBits : Nat → Nat → Nat
  | 0, c => c
  | n + 1, c => crcBits n (if c < 2 ^ 63 then 2 * c else (2 * c - 2 ^ 64) ^^^ 0x42F0E1EBA9EA3693)

/-- CRC-64 of ECMA-182 continued over a run of bytes (R230). -/
def crc64 (c : Nat) : Bytes → Nat
  | [] => c
  | b :: bs => crc64 (crcBits 8 (c ^^^ (b.toNat <<< 56))) bs

/-- The value an accumulate-write of a type leaves (R143, R260): 1 FP32, 2 BF16, 3 INT32. -/
def accumulate (type old add : Nat) : Nat :=
  if type = 1 then fadd old add
  else if type = 2 then (bf16.encode .nearest false ((bf16.decode old).add (bf16.decode add))).1
  else (old + add) % 2 ^ 32

end Sys2Proof.Machine
end

