-- ==== Sys2Proof/Config.lean ====
section
/-! DEFINITION. What an implementation fixes and what the spec leaves open: constants with no body, so that nothing can prove
a value of them. Each is named in the assumption log. -/

namespace Sys2Proof.Config

/-- The stream of free values: value `n` of the run (log entry 1). -/
opaque free : Nat → Nat

/-- Cycles by which a clock domain advances in tick `n`: domains 0 CK_FAB, 1 CK_ARR, 2 CK_MGT, 3 CK_PX, 4 CK_TLY, 8 + n CK_HL_n,
16 + n CK_PL_n (log entry 3). -/
opaque cyclesPerTick : Nat → Nat → Nat

/-- SHA-384 of a message. -/
opaque sha384 : Bytes → Bytes

/-- AES-256-XTS of one 16-byte unit under a key and a tweak number: encryption and decryption (R360). -/
opaque xtsEnc : Bytes → Nat → Bytes → Bytes
opaque xtsDec : Bytes → Nat → Bytes → Bytes

/-- AES-256-GCM: key, IV, additional data, plaintext to ciphertext followed by the 16-byte tag (R307). -/
opaque gcmSeal : Bytes → Bytes → Bytes → Bytes → Bytes
/-- AES-256-GCM open: none when the tag does not verify. -/
opaque gcmOpen : Bytes → Bytes → Bytes → Bytes → Option Bytes

/-- ECDSA P-384 with SHA-384: public key, message, signature. -/
opaque ecdsaVerify : Bytes → Bytes → Bytes → Bool
/-- The device identity's signature over a message, and its public key (R368). -/
opaque identitySign : Bytes → Bytes
opaque identityKey : Bytes

/-- AES key unwrap of RFC 3394: key-encryption key and wrapped key (R374). -/
opaque aesUnwrap : Bytes → Bytes → Option Bytes

/-- Set of the second-level TLB for an ASID and the address bits above a page offset (R57). -/
opaque tlbHash : Nat → Nat → Nat → Nat
/-- Set of the tier cache for a line address (R191). -/
opaque cacheSet : Nat → Nat

/-- The firmware-signing key, the device certificate chain and the Tally certificate (R332, R397, R413). -/
opaque firmwareKey : Bytes
opaque certChain : Bytes
opaque tallyCert : Bytes
/-- Digest of the die boot ROM (R376). -/
opaque romDigest : Bytes
/-- SPDM 1.3 responses that the DMTF standard lays out: kind of the request, its bytes, and a fresh number (R345). -/
opaque spdmReply : Nat → Bytes → Nat → Bytes

/-- Configuration doublewords whose contents the spec leaves to PCI Express and CXL: the value after reset, and the bits that
software may write, by function kind (0 PF, 1 VF, 2 root port, 3 the CXL function) and offset (R292, R326, R327). -/
opaque cfgReset : Nat → Nat → Nat
opaque cfgMask : Nat → Nat → Nat

/-- Tally's signature over a message, its seal identifier and the device serial of its fuses (R396, R397). -/
opaque tallySign : Bytes → Bytes
opaque tallySeal : Nat
opaque serial : Nat

end Sys2Proof.Config
end

