-- ==== Sys2Proof/Machine/Tab.lean ====
section
/-! DEFINITION. Sparse tables: a list of (index, entry) pairs in one canonical form, rising indices and no entry equal to the
entry an unlisted index holds, so that equal tables are equal data. Every indexed register, memory and queue of the block is one. -/

namespace Sys2Proof.Machine

/-- A table of entries by number; an index that is not listed holds `default`. -/
abbrev Tab (α : Type) := List (Nat × α)

/-- The entry at index `i`. -/
def Tab.at {α : Type} [Inhabited α] : Tab α → Nat → α
  | [], _ => default
  | (k, v) :: t, i => if k = i then v else Tab.at t i

/-- Removes every listing of index `i`. -/
def Tab.drop {α : Type} : Tab α → Nat → Tab α
  | [], _ => []
  | (k, v) :: t, i => if k = i then Tab.drop t i else (k, v) :: Tab.drop t i

/-- Lists `v` at index `i` in rising order. -/
def Tab.ins {α : Type} : Tab α → Nat → α → Tab α
  | [], i, v => [(i, v)]
  | (k, w) :: t, i, v => if i < k then (i, v) :: (k, w) :: t else (k, w) :: Tab.ins t i v

/-- Writes entry `i`; writing what an unlisted index holds removes the listing. -/
def Tab.put {α : Type} [Inhabited α] [DecidableEq α] (t : Tab α) (i : Nat) (v : α) : Tab α :=
  if v = default then Tab.drop t i else Tab.ins (Tab.drop t i) i v

/-- Changes entry `i` by a function. -/
def Tab.upd {α : Type} [Inhabited α] [DecidableEq α] (t : Tab α) (i : Nat) (f : α → α) : Tab α :=
  Tab.put t i (f (Tab.at t i))

/-- Rising indices. -/
def Tab.rising {α : Type} : Tab α → Bool
  | [] => true
  | [_] => true
  | (i, _) :: (j, w) :: t => decide (i < j) && Tab.rising ((j, w) :: t)

/-- The canonical form: rising indices, and no entry that an unlisted index holds. -/
def Tab.wf {α : Type} [Inhabited α] [DecidableEq α] (t : Tab α) : Bool :=
  Tab.rising t && t.all fun e => decide (e.2 ≠ default)

/-- Keeps the entries whose index passes a test. -/
def Tab.keep {α : Type} (t : Tab α) (f : Nat → Bool) : Tab α := t.filter fun e => f e.1

/-- Rebuilds a table in canonical form from a list of pairs. -/
def Tab.ofList {α : Type} [Inhabited α] [DecidableEq α] (l : List (Nat × α)) : Tab α :=
  l.foldl (fun t e => Tab.put t e.1 e.2) []

/-- Applies a function to every listed entry, in canonical form again. -/
def Tab.mapV {α : Type} [Inhabited α] [DecidableEq α] (t : Tab α) (f : Nat → α → α) : Tab α :=
  Tab.ofList (t.reverse.map fun e => (e.1, f e.1 e.2))

/-- The indices listed. -/
def Tab.ixs {α : Type} (t : Tab α) : List Nat := t.map Prod.fst

/-- Bytes `[a, a + n)` of an addressed RAM. -/
def Tab.readBytes (t : Tab Byte) (a n : Nat) : Bytes := (List.range n).map fun i => Tab.at t (a + i)

/-- Writes a run of bytes into an addressed RAM. -/
def Tab.writeBytes (t : Tab Byte) (a : Nat) : Bytes → Tab Byte
  | [] => t
  | b :: bs => Tab.writeBytes (Tab.put t a b) (a + 1) bs

end Sys2Proof.Machine
end

