-- ==== Sys2Proof/Machine/State.lean ====
section
/-! DEFINITION. The block's state as plain data: every register, queue, buffer, timer, table and pin the spec gives the HXU,
the requests it has outstanding, what it has sent, and the queue of commands that wait. -/

namespace Sys2Proof.Machine

/-- Why a command stops the machine. No command of this block does: the type has the one reason that no meaning raises. -/
inductive Fault where
  /-- Raised by nobody: the spec lets no command stop the block (R427 keeps even a stopped HXU answering). Safe. -/
  | none
deriving DecidableEq, Repr

/-- Why the model refuses a command. -/
inductive Refusal where
  /-- Raised by an arm of `exec` whose command has no meaning yet. Safe. -/
  | notModelled (mnemonic : String)
  /-- Raised by every meaning whose operands break `Instr.wf`: the word describes no event of the block. Safe. -/
  | illFormed (mnemonic : String)
deriving DecidableEq, Repr

/-! ## Clocks -/

/-- The cycle counts of the clock domains since cold reset (R10, R408), and the ticks the model has taken. -/
structure Clocks where
  fab : Nat := 0
  arr : Nat := 0
  mgt : Nat := 0
  px : Nat := 0
  tly : Nat := 0
  /-- CK_HL_n by module. -/
  hl : Tab Nat := []
  /-- CK_PL_n by module. -/
  pl : Tab Nat := []
  /-- Ticks taken so far; the model's own. -/
  ticks : Nat := 0
deriving DecidableEq, Repr, Inhabited

/-! ## Requests in flight -/

/-- The unit that waits for a request, and what for. -/
inductive Purpose where
  | descFetch (ring pos : Nat)
  /-- A descriptor fetch whose return the cell discards (R116, R120, R124). -/
  | descDropped (ring : Nat)
  /-- Whatever it was for has ended: its response is discarded. -/
  | dropped
  | srcRead (ring pos off len : Nat)
  | dstWrite (ring pos off len : Nat)
  | flagWrite (ring pos : Nat)
  | counterWrite (ring pos g : Nat)
  | statusBlock (ring pos : Nat)
  | ownClear (ring pos : Nat)
  | completionEntry (ring pos : Nat)
  | consumerWord (cq : Nat)
  | faultRecord (slot gen : Nat)
  | walkRead (walk : Nat)
  | ownedRead (walk : Nat)
  | ownedPush (walk : Nat)
  | invFetch (part pos : Nat)
  | invNote (part : Nat)
  | chordHeader (slot : Nat)
  | chordLine (slot line : Nat)
  | chordStatus (slot : Nat)
  | chordOwn (slot : Nat)
  | chordNote (part : Nat)
  | wcPush (entry : Nat)
  | wcMerge (entry : Nat)
  | tagMerge (req : Nat)
  | cacheFill (fill : Nat)
  | jobRead (job stream off len : Nat)
  | jobWrite (job stream off len : Nat)
  | normTable (job : Nat)
  | fingerprint (job region : Nat)
  | repairNote (part : Nat)
  | rekeyLeaf (part : Nat)
  | inboundWrite (port item : Nat)
  | kppServe (item : Nat)
deriving DecidableEq, Repr, Inhabited

/-- The path a request takes (R29, R151 PATH). -/
inductive Path where
  | fabric (port : Nat)
  | bulk
  | narrow
  | combining
  | peer (module tag : Nat)
deriving DecidableEq, Repr, Inhabited

/-- What a request does. -/
inductive ReqKind where
  | read
  | write
  /-- An accumulate-write of add type 1 to 3 (R141). -/
  | acc (type : Nat)
deriving DecidableEq, Repr, Inhabited

/-- A request the HXU has issued and that has not completed. -/
structure Req where
  id : Nat := 0
  part : Nat := 0
  /-- Issuing unit: 0 to 63 queue cells, 64 the Reckoner, 65 XL, 66 the fault engine, 67 the chord unit, 68 PT, 69 inbound ports. -/
  unit : Nat := 0
  purpose : Purpose := default
  path : Path := .narrow
  kind : ReqKind := .read
  /-- Physical address after window resolution. -/
  pa : Nat := 0
  len : Nat := 0
  /-- Byte enables of a write within its 64-byte line, where it has them. -/
  mask : Nat := 0
  /-- The bytes of a write in the clear; those of a read served by the tier cache. -/
  data : Bytes := []
  /-- The bytes a write puts on its path, after the encryption of R360. -/
  wire : Bytes := []
  /-- CK_FAB cycle of issue (R148). -/
  start : Nat := 0
  /-- Host-tier key tag: partition and generation (R360). -/
  key : Option (Nat × Nat) := none
  /-- The span it belongs to, for the drains of R68: ring (or 16,384 + job), position (or stream), 64 KiB span number. -/
  span : Option (Nat × Nat × Nat) := none
  /-- A data write or delivery-counter write of R186 and R187, which fence sets hold. -/
  fenced : Bool := false
  /-- Read of the tier cache that hit: its data is in `data`. -/
  hit : Bool := false
deriving DecidableEq, Repr, Inhabited

/-! ## Partition and key unit -/

/-- A host-tier range of the fret table (R34); `limit` is the last byte's 2 MiB block end, exclusive. -/
structure HostRange where
  base : Nat := 0
  limit : Nat := 0
  mask : Nat := 0
  we : Bool := false
  valid : Bool := false
deriving DecidableEq, Repr, Inhabited

/-- A window entry of the fret table (R34, R37). -/
structure Window where
  part : Nat := 0
  apOff : Nat := 0
  sizeLog2 : Nat := 0
  target : Nat := 0
  re : Bool := false
  we : Bool := false
  valid : Bool := false
deriving DecidableEq, Repr, Inhabited

/-- State of a key slot (R362). -/
inductive SlotState where
  | empty
  | loaded
  | retiring
deriving DecidableEq, Repr, Inhabited

/-- One key slot: the bundle of R372 and its in-flight count (R366). -/
structure KeySlot where
  st : SlotState := .empty
  hostKey : Bytes := []
  peerKey : Bytes := []
  hbmKey : Bytes := []
  inflight : Nat := 0
deriving DecidableEq, Repr, Inhabited

/-- A device set (R373). -/
structure DeviceSet where
  setId : Bytes := []
  setKey : Bytes := []
  digest : Bytes := []
  valid : Bool := false
deriving DecidableEq, Repr, Inhabited

/-- One token bucket (R357); tokens are held in 1/16 byte. -/
structure Bucket where
  rate : Nat := 0
  burstLog2 : Nat := 0
  tokens : Nat := 0
  /-- A request waits for tokens, and the cycles in which one did (PT_REG_WAIT). -/
  waiting : Bool := false
  waits : Nat := 0
deriving DecidableEq, Repr, Inhabited

/-- A host-tier item of a re-key command (R364). -/
structure RekeyItem where
  asid : Nat := 0
  va : Nat := 0
  len : Nat := 0
deriving DecidableEq, Repr, Inhabited

/-- The page a re-key walker holds locked, and how far it is (R365). -/
structure LockedPage where
  pa : Nat := 0
  size : Nat := 0
  /-- Physical address of the leaf entry, and its value. -/
  leaf : Nat := 0
  entry : Nat := 0
  /-- Step of R365: 1 locked, 4 leaf update pushed. -/
  step : Nat := 1
  inval : Nat := 0
deriving DecidableEq, Repr, Inhabited

/-- The re-key passes of a partition (R364). -/
structure Rekey where
  gen : Nat := 0
  items : List RekeyItem := []
  hostPass : Bool := false
  hbmPass : Bool := false
  lock : Option LockedPage := none
  pages : Nat := 0
  start : Nat := 0
  next : Nat := 0
deriving DecidableEq, Repr, Inhabited

/-- A partition's entry of PT (R351 to R380). -/
structure Part where
  /-- 0 FREE, 1 CREATED, 2 ACTIVE, 3 SCRUBBING (R351). -/
  st : Nat := 0
  groups : Nat := 0
  tcWays : Nat := 0
  tlbWays : Nat := 0
  modules : Nat := 0
  checkTag : Nat := 0
  prevTag : Option Nat := none
  claimed : Bool := false
  claimDigest : Bytes := []
  tenantKey : Bytes := []
  claimFails : Nat := 0
  counter : Nat := 0
  buckets : Tab Bucket := []
  slot0 : KeySlot := {}
  slot1 : KeySlot := {}
  scope0 : Nat := 0
  scope1 : Nat := 0
  sets : Tab DeviceSet := []
  /-- Measurements 0x10 + p and 0x20 + p (R376). -/
  measProg : Bytes := zeros 48
  measPkg : Bytes := zeros 48
  /-- CK_FAB cycle of T0 (R378). -/
  scrubT0 : Nat := 0
  /-- 0 none, 1 QUIESCE, 2 ZERO, 3 CLOSE. -/
  scrubPhase : Nat := 0
  inboundDrops : Nat := 0
  rekey : Rekey := {}
  /-- A key load that waits for a retiring slot: its session, slot and bundle (R367). -/
  heldLoad : Option (Nat × Nat × Bytes) := none
  /-- The partition function-level reset in progress: its start cycle (R440). -/
  flr : Option Nat := none
  /-- FROZEN of PT_PART_STATE (R426). -/
  frozen : Bool := false
deriving DecidableEq, Repr, Inhabited

/-- A shared registration and its failed chunks (R279, R284). -/
structure Shared where
  valid : Bool := false
  base : Nat := 0
  chunks : Nat := 0
  origin : Nat := 0
  digestAddr : Nat := 0
  rangeTag : Nat × Nat := (0, 0)
  originTag : Nat × Nat := (0, 0)
  failed : List Nat := []
deriving DecidableEq, Repr, Inhabited

/-- A shared-chunk repair (R281 to R284): step 0 reading the origin, 1 pushing. -/
structure SharedRepair where
  id : Nat := 0
  entry : Nat := 0
  chunk : Nat := 0
  start : Nat := 0
  step : Nat := 0
  /-- Key bundles the two tags named when the repair opened (R284). -/
  rangeKey : Bytes := []
  originKey : Bytes := []
deriving DecidableEq, Repr, Inhabited

/-- PT: the fret table, the violation record and the shared registrations. -/
structure Pt where
  mapValid : Bool := false
  chSizeLog2 : Nat := 0
  ranges : Tab HostRange := []
  /-- HBM channel owners: 0 none, p + 1 partition p. -/
  channels : Tab Nat := []
  windows : Tab Window := []
  violAddr : Nat := 0
  violValid : Bool := false
  violRequester : Nat := 0
  violPart : Nat := 0
  violCheck : Nat := 0
  violWrite : Bool := false
  addressCount : Nat := 0
  protectCount : Nat := 0
  parts : Tab Part := []
  /-- PT_DB_DROP by partition: bad access, not active, bad check, unbacked. -/
  dbBadAccess : Tab Nat := []
  dbNotActive : Tab Nat := []
  dbBadCheck : Tab Nat := []
  dbUnbacked : Tab Nat := []
  /-- PASID bindings: partition + 1, or 0. -/
  pasids : Tab Nat := []
  operatorPasid : Option Nat := none
  pfWinBase : Nat := 0
  vfWinBase : Tab Nat := []
  scrubs : Nat := 0
  shared : Tab Shared := []
  /-- Repairs open, and chunks queued as (entry, chunk), in arrival order (R282). -/
  repairs : List SharedRepair := []
  repairQueue : List (Nat × Nat) := []
  nextRepair : Nat := 0
  sharedDone : Nat := 0
  sharedFailed : Nat := 0
  sharedRetries : Nat := 0
  sharedDropped : Nat := 0
deriving DecidableEq, Repr, Inhabited

/-! ## Translation -/

/-- An address space binding (R46). -/
structure AddrSpace where
  bound : Bool := false
  root : Nat := 0
  wide : Bool := false
deriving DecidableEq, Repr, Inhabited

/-- A leaf translation with what it was judged on (R54, R56, R57). -/
structure Leaf where
  valid : Bool := false
  asid : Nat := 0
  /-- First virtual address of the page. -/
  va : Nat := 0
  sizeLog2 : Nat := 12
  pa : Nat := 0
  u : Bool := false
  w : Bool := false
  d : Bool := false
  ktValid : Bool := false
  ktPart : Nat := 0
  ktGen : Nat := 0
  shared : Bool := false
deriving DecidableEq, Repr, Inhabited

/-- A walk-cache entry (R59). -/
structure WalkEntry where
  asid : Nat := 0
  /-- Level of the entry, 5 to 2: the next table is that of the level below. -/
  level : Nat := 0
  pfx : Nat := 0
  table : Nat := 0
  /-- AND of U and of W over the levels above and at this entry. -/
  u : Bool := true
  w : Bool := true
deriving DecidableEq, Repr, Inhabited

/-- A request that missed its first- and second-level TLB and waits for a walk (R60). -/
structure Miss where
  part : Nat := 0
  asid : Nat := 0
  va : Nat := 0
  write : Bool := false
  /-- A dirty walk (R52). -/
  dirty : Bool := false
  who : Requester := default
  /-- Order of arrival. -/
  stamp : Nat := 0
deriving DecidableEq, Repr, Inhabited

/-- A walk in progress (R49 to R53). -/
structure Walk where
  id : Nat := 0
  part : Nat := 0
  asid : Nat := 0
  va : Nat := 0
  write : Bool := false
  dirty : Bool := false
  level : Nat := 0
  /-- Physical address of the entry now read. -/
  entry : Nat := 0
  u : Bool := true
  w : Bool := true
  /-- The entry whose A (and, with `setD`, D) update waits for its owned read. -/
  owned : Bool := false
  setD : Bool := false
  /-- First- and second-level TLB the translation is for. -/
  l1 : Nat := 0
deriving DecidableEq, Repr, Inhabited

/-- An invalidation that has been cut and is not acknowledged (R66 to R69). -/
structure Inval where
  id : Nat := 0
  part : Nat := 0
  cut : Nat := 0
  /-- The spans in flight at the cut that have not drained since (R68). -/
  waits : List (Nat × Nat × Nat) := []
  /-- From the partition's queue: its notes are written in queue order (R69). -/
  queued : Bool := false
  note : Option Nat := none
  noteWord : Nat := 0
  va : Nat := 0
  limitHit : Bool := false
  /-- Who waits for the acknowledgement. -/
  chord : Option Nat := none
  mailbox : Option Nat := none
  rekey : Bool := false
deriving DecidableEq, Repr, Inhabited

/-- A partition's invalidation queue (R62, R64). -/
structure InvQueue where
  placed : Bool := false
  base : Nat := 0
  size : Nat := 0
  p : Nat := 0
  c : Nat := 0
  refetch : Nat := 0
  /-- 0 idle, 1 fetch outstanding, 2 backoff, 3 stale wait, 4 entry returned and waits to be taken, 5 stopped. -/
  st : Nat := 0
  backoff : Nat := 0
  again : Bool := false
  /-- The entry at C has been judged stale in this episode. -/
  stale : Bool := false
  entry : Bytes := []
  drainLimit : Nat := 2 ^ 24
  drainHit : Bool := false
  acked : Nat := 0
  /-- Arrival stamp of the entry that waits, for R69. -/
  stamp : Nat := 0
  /-- Mailbox invalidations that wait for room: arrival stamp, mailbox, kind word, ASID, VA and pages. -/
  waiting : List (Nat × Nat × Nat × Nat × Nat × Nat) := []
deriving DecidableEq, Repr, Inhabited

/-- XL. -/
structure Xl where
  ready : Bool := false
  asids : Tab AddrSpace := []
  /-- Bindings that take effect at the cut of the invalidation a mailbox's command waits for: ASID and binding (R46, R69). -/
  binds : Tab (Option (Nat × AddrSpace)) := []
  /-- First-level TLBs: 0 to 63 queue cells, 64 + 16 k + p Reckoner port k for partition p. -/
  l1 : Tab (List Leaf) := []
  /-- Second-level TLB by 16 set + way. -/
  l2 : Tab Leaf := []
  walkCache : Tab (List WalkEntry) := []
  misses : List Miss := []
  walks : List Walk := []
  invals : List Inval := []
  /-- Number of the next walk or invalidation, and the next arrival stamp. -/
  next : Nat := 0
  invq : Tab InvQueue := []
  perfAll : Bool := false
  perfEnable : Bool := false
  perfPart : Nat := 0
  l2Hits : Nat := 0
  l2Misses : Nat := 0
  walkCount : Nat := 0
  walkReads : Nat := 0
  adUpdates : Nat := 0
  errValid : Bool := false
  errKind : Nat := 0
  errPart : Nat := 0
  errAsid : Nat := 0
  errVa : Nat := 0
deriving DecidableEq, Repr, Inhabited

/-! ## Faults -/

/-- A fault that parks a descriptor or job (R83, R88). -/
structure FaultEv where
  off : Nat := 0
  dst : Bool := false
  cause : Nat := 0
  va : Nat := 0
  asid : Nat := 0
  write : Bool := false
  accum : Bool := false
deriving DecidableEq, Repr, Inhabited

/-- A park slot: 0 to 16,383 by ring, 16,384 + p for the Reckoner (R82, R86). -/
structure ParkSlot where
  valid : Bool := false
  part : Nat := 0
  /-- The record's write has been issued (R90). -/
  issued : Bool := false
  held : Bool := false
  gen : Nat := 0
  /-- The generation that most recently expired here (R101). -/
  expired : Option Nat := none
  descIndex : Nat := 0
  linear : Nat := 0
  fault : FaultEv := {}
  more : Bool := false
  /-- Ring of the descriptor or job, REFAULT, and the low half of PARK_CYCLE. -/
  ring : Nat := 0
  flags : Nat := 0
  parkCycle : Nat := 0
  /-- Order of parking among the partition's held records. -/
  stamp : Nat := 0
  /-- CK_FAB cycle in which the fault timer expires, once it runs (R98). -/
  timer : Option Nat := none
  /-- The record is of a repair job (R274). -/
  repair : Bool := false
deriving DecidableEq, Repr, Inhabited

/-- A partition's fault queue (R87 to R101). -/
structure FaultQueue where
  placed : Bool := false
  base : Nat := 0
  prod : Nat := 0
  cons : Nat := 0
  late : Nat := 0
  stale : Nat := 0
  timeouts : Nat := 0
  heldEvents : Nat := 0
  timeout : Nat := 2 ^ 31
deriving DecidableEq, Repr, Inhabited

/-! ## Rings and descriptors -/

/-- An event of R149: what marks a descriptor bad. -/
structure BadEv where
  off : Nat := 0
  dst : Bool := false
  status : Nat := 0
  path : Nat := 0
  timeout : Bool := false
deriving DecidableEq, Repr, Inhabited

/-- Where a consumed descriptor is. -/
inductive Phase where
  /-- Consumed; waits to become the issuing descriptor (R123). -/
  | queued
  | issuing
  /-- Has issued its last request, or stopped issuing; waits for its drain and its turn at step 2 (R152). -/
  | draining
  | parked
  /-- Passed to the Reckoner (R126). -/
  | passed
  /-- The delivery-counter write of step 2 is outstanding. -/
  | counter
  /-- Step 2 is done; the status block comes next. -/
  | status
  /-- The status block is outstanding. -/
  | statusOut
  /-- The OWN write is outstanding. -/
  | ownOut
  /-- Waits for room in the completion ring (R157). -/
  | full
  /-- The completion entry is outstanding. -/
  | entryOut
deriving DecidableEq, Repr, Inhabited

/-- What the Reckoner hands back with a job (R234, R235). -/
structure JobResult where
  status : Nat := 0
  detail : Nat := 0
  linear : Nat := 0
  block : Bytes := []
deriving DecidableEq, Repr, Inhabited

/-- A consumed descriptor. -/
structure Work where
  pos : Nat := 0
  raw : Bytes := []
  phase : Phase := .queued
  /-- First linear offset of this run of the stream: 0, or the cursor it resumed from (R95). -/
  base : Nat := 0
  /-- Source-stream bytes read or in flight, source bytes returned, destination bytes issued, destination bytes delivered. -/
  rd : List Iv := []
  got : List Iv := []
  buf : List (Nat × Bytes) := []
  wr : List Iv := []
  dlv : List Iv := []
  bad : Option BadEv := none
  fault : Option FaultEv := none
  more : Bool := false
  refault : Bool := false
  lastG : Nat := 0
  sat : Nat := 0
  nan : Nat := 0
  /-- Start cycle and the GLOBAL fence set (R187). -/
  start : Nat := 0
  fence : List Nat := []
  flagged : Bool := false
  fenceWaited : Bool := false
  result : JobResult := {}
  /-- Ended without any finishing write, by scrub (R379). -/
  mute : Bool := false
deriving DecidableEq, Repr, Inhabited

/-- A ring context. -/
structure Ring where
  /-- State code of R122. -/
  st : Nat := 0
  configured : Bool := false
  base : Nat := 0
  sizeLog2 : Nat := 6
  tc : Nat := 0
  asid : Nat := 0
  phys : Bool := false
  cq : Nat := 0
  c : Nat := 0
  p : Nat := 0
  staged : Option Nat := none
  refetch : Nat := 0
  /-- Descriptors fetched and not yet consumed: position, CK_FAB cycle of return, bytes. -/
  fetched : List (Nat × Nat × Bytes) := []
  /-- The head has been judged stale in this episode (R115), and refetch 8 returned stale too (R119). -/
  stale : Bool := false
  exhausted : Bool := false
  /-- CK_FAB cycle in which the backoff wait ends. -/
  backoff : Option Nat := none
  /-- A doorbell asked for an immediate refetch (R118). -/
  again : Bool := false
  /-- Lowest failed fetch position (R120), or the stale position below it. -/
  fetchErr : Option Nat := none
  /-- Order of the doorbell that last moved P (R128). -/
  rung : Nat := 0
  /-- CK_FAB cycle in which an ordinary doorbell was last accepted (R169). -/
  ordinary : Option Nat := none
  works : List Work := []
  /-- Mailboxes whose RING_DISABLE waits (R124). -/
  waiters : List Nat := []
deriving DecidableEq, Repr, Inhabited

/-- A queue cell's own registers and arbiter credits. -/
structure Cell where
  w1 : Nat := 8
  w2 : Nat := 8
  w3 : Nat := 1
  dbStale : Nat := 0
  dbSuperseded : Nat := 0
  dbRange : Nat := 0
  dbDisabled : Nat := 0
  dbAccepted : Nat := 0
  xferBytes : Nat := 0
  errMalformed : Nat := 0
  errBus : Nat := 0
  errPoison : Nat := 0
  errTimeout : Nat := 0
  cvtSat : Nat := 0
  cvtNan : Nat := 0
  fenceGlobal : Nat := 0
  fenceRing : Nat := 0
  /-- Credits of the weighted round robin: fetches of TC1 to TC3, issues of TC1 and TC3. -/
  f1 : Nat := 0
  f2 : Nat := 0
  f3 : Nat := 0
  i1 : Nat := 0
  i3 : Nat := 0
  /-- TC0 ring last granted by the issue arbiter. -/
  rr0 : Nat := 0
deriving DecidableEq, Repr, Inhabited

/-- A completion ring, by 256 p + q (R155 to R157). -/
structure CompRing where
  placed : Bool := false
  base : Nat := 0
  sizeLog2 : Nat := 0
  word : Nat := 0
  vector : Option Nat := none
  n : Nat := 0
  cached : Nat := 0
  fullEvents : Nat := 0
  /-- Rings whose head descriptor waits for room, in order. -/
  waiters : List Nat := []
  /-- CK_FAB cycle from which the consumer word may be read again, and whether a read is out. -/
  pollAt : Nat := 0
deriving DecidableEq, Repr, Inhabited

/-- A delivery-counter area (R134). -/
structure CounterArea where
  placed : Bool := false
  base : Nat := 0
  log2 : Nat := 0
deriving DecidableEq, Repr, Inhabited

/-- The queue cells, the fault engine and the completion rings. -/
structure Qc where
  rings : Tab Ring := []
  cells : Tab Cell := []
  park : Tab ParkSlot := []
  fq : Tab FaultQueue := []
  cqs : Tab CompRing := []
  areas : Tab CounterArea := []
deriving DecidableEq, Repr, Inhabited

/-! ## Chords -/

/-- A partition's chord queue (R160 to R162, R487). -/
structure ChordQueue where
  placed : Bool := false
  base : Nat := 0
  sizeLog2 : Nat := 0
  p : Nat := 0
  c : Nat := 0
  /-- FETCH_STOPPED. -/
  stopped : Bool := false
  /-- FETCH_STATE: 0 idle, 1 fetching, 2 backoff, 3 stale wait. -/
  st : Nat := 0
  refetch : Nat := 0
  /-- CK_FAB cycle in which the backoff ends. -/
  backoff : Nat := 0
  stale : Bool := false
  again : Bool := false
  committed : Nat := 0
  conflict : Nat := 0
  others : Nat := 0
  staleEvents : Nat := 0
deriving DecidableEq, Repr, Inhabited

/-- A chord slot (R166 to R174), by 4 p + i. -/
structure ChordSlot where
  /-- 0 free, 1 FETCH, 2 TAKEN, 3 COMMITTED, 4 FINISH. -/
  st : Nat := 0
  /-- Order of the header fetch: queue order within a partition. -/
  stamp : Nat := 0
  pos : Nat := 0
  /-- The header, then the whole record, as fetched. -/
  raw : Bytes := []
  take : Nat := 0
  status : Nat := 0
  failed : Nat := 0xFF
  detail : Nat := 0
  /-- CK_FAB cycle of the commit or abort. -/
  cycle : Nat := 0
  /-- Finishing: 0 nothing written, 1 status out, 2 OWN out. -/
  step : Nat := 0
deriving DecidableEq, Repr, Inhabited

/-- The chord unit. -/
structure Chords where
  ready : Bool := false
  queues : Tab ChordQueue := []
  slots : Tab ChordSlot := []
  /-- Most recent commit: its CK_FAB cycle and partition. -/
  last : Option (Nat × Nat) := none
  /-- Cycle of the most recent evaluation, and the partition served (R168). -/
  evalAt : Option Nat := none
  served : Nat := 15
  next : Nat := 0
deriving DecidableEq, Repr, Inhabited

/-! ## Reckoner -/

/-- A run of bytes of one stream of a job: stream number, byte offset, bytes. Streams: 0 gradient, 1 master, 2 MOM1, 3 MOM2 or row
factor, 4 working copy, 5 fingerprints, 6 scratch or column factor, 7 norm table, 8 + k the same of member k of a repair. -/
structure Run where
  stream : Nat := 0
  off : Nat := 0
  data : Bytes := []
deriving DecidableEq, Repr, Inhabited

/-- A computed tile whose writes are not all acknowledged (R212, R214). -/
structure JobTile where
  k : Nat := 0
  /-- Writes not yet issued, in order; writes issued and not acknowledged, by stream and offset; all of them, as a park retains them. -/
  todo : List Run := []
  out : List (Nat × Nat) := []
  all : List Run := []
deriving DecidableEq, Repr, Inhabited

/-- Scalars of a job, in FP32 (R216, R222 to R226). -/
structure Scalars where
  lr : Nat := 0
  s : Nat := 0x3F800000
  norm : Nat := 0
  c1 : Nat := 0
  c2 : Nat := 0
  q1 : Nat := 0
  q2 : Nat := 0
  eta : Nat := 0
  rho : Nat := 0
  kappa : Nat := 0
  sigma : Nat := 0
  clipped : Bool := false
  skipped : Bool := false
  nonfinite : Bool := false
  trustLimit : Bool := false
deriving DecidableEq, Repr, Inhabited

/-- A region that a WC_CHECK found different: region, the fingerprint it held and the one computed (R231, R270). -/
structure Drift where
  region : Nat := 0
  expected : Nat := 0
  observed : Nat := 0
deriving DecidableEq, Repr, Inhabited

/-- What a repair job repairs (R272, R273). -/
structure RepairJob where
  entry : Nat := 0
  set : Nat := 0
  region : Nat := 0
  mask : Nat := 0
  expected : Nat := 0
  /-- Step of R273. -/
  step : Nat := 1
  written : Nat := 0
  newFp : Nat := 0
  status : Nat := 0
  /-- First element derived, and byte offsets of it and of the region in the working copy. -/
  first : Nat := 0
  lo : Nat := 0
  start : Nat := 0
  len : Nat := 0
  table : Nat := 0
  elements : Bytes := []
  /-- Working-copy and fingerprint addresses of the members, as read from MEMBER_TABLE. -/
  addrs : List (Nat × Nat × Nat) := []
deriving DecidableEq, Repr, Inhabited

/-- Where a job is. -/
inductive JobPhase where
  /-- Accepted and not started (R204). -/
  | waiting
  | running
  /-- Ended or faulted: drains its issued requests (R214, R215). -/
  | draining
  | parked
  /-- A repair job whose note is outstanding, or which has none to write. -/
  | noting
deriving DecidableEq, Repr, Inhabited

/-- A Reckoner job (R203 to R235), by entry number 4 p + i. -/
structure Job where
  live : Bool := false
  phase : JobPhase := .waiting
  /-- Order of acceptance. -/
  stamp : Nat := 0
  ring : Nat := 0
  pos : Nat := 0
  index : Nat := 0
  asid : Nat := 0
  phys : Bool := false
  raw : Bytes := []
  repair : Option RepairJob := none
  pass : Nat := 0
  /-- Step of pass N, and the output tile it is at (R265, R266). -/
  step : Nat := 0
  sub : Nat := 0
  /-- Next tile to compute, and the tiles whose writes are not all acknowledged. -/
  tile : Nat := 0
  tiles : List JobTile := []
  /-- Bytes read or in flight and bytes returned of the present pass, by stream, and the bytes held. -/
  rd : Tab (List Iv) := []
  got : Tab (List Iv) := []
  buf : List Run := []
  /-- Lane sums by 1,024 id + lane: 0 Σg², 1 Σw², 2 Σd², 3 Σu², 4 ΣM²; row and column sums; row and column factors; row results of
  R247 by 4 row + 0 maximum, 1 sum, 2 sum of squares, 3 present. -/
  lanes : Tab Nat := []
  rows : Tab Nat := []
  cols : Tab Nat := []
  rowF : Tab Nat := []
  colF : Tab Nat := []
  stats : Tab Nat := []
  sc : Scalars := {}
  /-- Norm table complete (R221): the wait's start, the last read's cycle, and the sum. -/
  normDone : Bool := false
  normFrom : Option Nat := none
  normAt : Option Nat := none
  normLimit : Bool := false
  /-- Bytes of the present region of the working copy, of the one before, and derived bytes from the region's first element on
  (R230, R231). -/
  cur : Bytes := []
  prev : Bytes := []
  der : Bytes := []
  /-- Bytes that the regeneration of the region before laid over the head of this one. -/
  carry : Bytes := []
  /-- Fingerprints computed and not written, by region (R230). -/
  fps : List (Nat × Nat) := []
  drift : List Drift := []
  regen : List (Nat × Nat) := []
  nonfinite : Nat := 0
  bad : Option BadEv := none
  fault : Option FaultEv := none
  more : Bool := false
  refault : Bool := false
  start : Nat := 0
  fence : List Nat := []
  /-- Bytes of the FACTOR reservation (R243). -/
  reserve : Nat := 0
  /-- Ended by scrub or reset: returns nothing. -/
  mute : Bool := false
  hint : Nat := 0
deriving DecidableEq, Repr, Inhabited

/-- The output tile in progress on the array (R248). -/
structure ArrayTile where
  job : Nat := 0
  part : Nat := 0
  tile : Nat := 0
  step : Nat := 0
  chunks : List Nat := []
  /-- CK_ARR cycle in which the present chunk ends. -/
  until_ : Nat := 0
  acc : Tab Nat := []
  /-- Epilogue operand, by row and column as the accumulators. -/
  epi : Tab Nat := []
deriving DecidableEq, Repr, Inhabited

/-- A replica-set record (R268), by 8 p + set. -/
structure ReplicaSet where
  valid : Bool := false
  member : Bool := false
  asid : Nat := 0
  wcopy : Nat := 0
  fprint : Nat := 0
  n : Nat := 0
  fmt : Nat := 0
  mx : Bool := false
  ownerDie : Nat := 0
  master : Nat := 0
  masterFmt : Nat := 0
  sr : Bool := false
  seed : Nat := 0
  mask : Nat := 0
  table : Nat := 0
  note : Nat := 0
deriving DecidableEq, Repr, Inhabited

/-- An entry of a partition's repair queue (R272), by 64 p + i. -/
structure RepairEntry where
  valid : Bool := false
  set : Nat := 0
  region : Nat := 0
  mask : Nat := 0
  expected : Nat := 0
  stamp : Nat := 0
  running : Bool := false
deriving DecidableEq, Repr, Inhabited

/-- A replica report still to send (R269). -/
structure Report where
  part : Nat := 0
  set : Nat := 0
  die : Nat := 0
  drift : Drift := {}
  ring : Nat := 0
  pos : Nat := 0
deriving DecidableEq, Repr, Inhabited

/-- The Reckoner with its array, schedule tables, replica sets and repair queues. -/
structure Reck where
  ready : Bool := false
  halfArray : Bool := false
  jobs : Tab Job := []
  scheds : Tab (List (Nat × Nat)) := []
  loads : Tab Nat := []
  /-- Running norm sums of R220 by partition, and NORM_LIMIT_HIT. -/
  normSum : Tab Nat := []
  limitHit : Tab Bool := []
  finished : Tab Nat := []
  skipped : Tab Nat := []
  drifts : Tab Nat := []
  clipped : Tab Nat := []
  elements : Nat := 0
  laneBusy : Nat := 0
  array : Option ArrayTile := none
  /-- Finished tiles in the accumulator buffers, oldest first (R245). -/
  bufs : List ArrayTile := []
  lastJob : Nat := 63
  arrBusy : Nat := 0
  arrStall : Nat := 0
  arrMacs : Nat := 0
  sets : Tab ReplicaSet := []
  queue : Tab RepairEntry := []
  reports : List Report := []
  replDropped : Tab Nat := []
  replAccepted : Tab Nat := []
  repaired : Tab Nat := []
  superseded : Tab Nat := []
  failed : Tab Nat := []
  sent : Tab Nat := []
  next : Nat := 0
deriving DecidableEq, Repr, Inhabited

/-! ## Tier cache, write-combining buffer, narrow path -/

/-- A tier-cache line (R191 to R193), by 16 set + way. -/
structure CacheLine where
  valid : Bool := false
  part : Nat := 0
  pa : Nat := 0
  data : Bytes := []
  keep : Bool := false
deriving DecidableEq, Repr, Inhabited

/-- A coherent fill in flight and the reads that wait for it (R194, R196). -/
structure Fill where
  id : Nat := 0
  part : Nat := 0
  pa : Nat := 0
  key : Option (Nat × Nat) := none
  alloc : Bool := false
  keep : Bool := false
  noInstall : Bool := false
  waiters : List Nat := []
deriving DecidableEq, Repr, Inhabited

/-- A write-combining entry (R197, R198), by number 0 to 63. -/
structure WcEntry where
  valid : Bool := false
  part : Nat := 0
  pa : Nat := 0
  key : Option (Nat × Nat) := none
  mask : Nat := 0
  data : Bytes := []
  /-- Data requests merged into it. -/
  reqs : List Nat := []
  last : Nat := 0
  /-- Order of allocation, for "the oldest". -/
  stamp : Nat := 0
deriving DecidableEq, Repr, Inhabited

/-- The shared storage of the host-tier paths and HL's counters. -/
structure Tier where
  lines : Tab CacheLine := []
  fills : List Fill := []
  wc : Tab WcEntry := []
  /-- Entries flushed and not yet acknowledged, by flush number. -/
  pushes : Tab WcEntry := []
  /-- Number of the next fill or flush, and of the next entry stamp. -/
  next : Nat := 0
  perfAll : Bool := false
  perfEnable : Bool := false
  perfPart : Nat := 0
  hits : Nat := 0
  misses : Nat := 0
  snoopInv : Nat := 0
  pushFull : Nat := 0
  pushPartial : Nat := 0
  switches : Nat := 0
  conflictRuns : Nat := 0
  refreshWindows : Nat := 0
  lostIn : Nat := 0
  lostOut : Nat := 0
  narrowOcc : Tab Nat := []
  narrowWait : Tab Nat := []
deriving DecidableEq, Repr, Inhabited

/-! ## Error collector and unit state words -/

/-- A unit state word (R415), by unit number. -/
structure UnitWord where
  hwAdmit : Nat := 0
  mcAdmit : Nat := 0
  cause : Nat := 0
  qHw : Bool := false
  qMc : Bool := false
  qHwRel : Bool := false
  qMcRel : Bool := false
  epoch : Nat := 0
  /-- The MC's advisory view of the hardware fields, and the level the MC intends (R417). -/
  viewHw : Nat := 0
  viewCause : Nat := 0
  viewEpoch : Nat := 0
  viewQ : Bool := false
  intended : Nat := 0
  /-- The operator raised MC_ADMIT through UNIT_ADMIT (R432). -/
  operator : Bool := false
  /-- The sources that quarantined the unit since their last recovery (R432). -/
  sources : Nat := 0
deriving DecidableEq, Repr, Inhabited

/-- EC's state for one source (R420 to R431). -/
structure Source where
  /-- Status bits: 0 correctable, 1 non-fatal, 2 fatal. -/
  s0 : Bool := false
  s1 : Bool := false
  s2 : Bool := false
  m0 : Bool := false
  m1 : Bool := false
  m2 : Bool := false
  /-- Severity fields; `none` holds the reset value, which differs by source. -/
  sevFatal : Option Nat := none
  sevNon : Nat := 0
  graceLog2 : Nat := 26
  level : Nat := 0
  corrected : Nat := 0
  uncorrected : Nat := 0
  recoveries : Nat := 0
  /-- CK_MGT cycles in which the grace and quiet timers started. -/
  grace : Option Nat := none
  quiet : Option Nat := none
  /-- CK_MGT cycle of the last step (R425). -/
  stepAt : Option Nat := none
  /-- Target set of R422. -/
  targets : List Nat := []
  record : Option ErrorEv := none
  recordCycle : Nat := 0
  recordSeq : Nat := 0
deriving DecidableEq, Repr, Inhabited

/-- The error collector. -/
structure Ec where
  sources : Tab Source := []
  /-- Errors their units report, in order of report, not yet latched. -/
  lines : List ErrorEv := []
  quietLog2 : Nat := 28
  steps : Nat := 0
  recoveries : Nat := 0
  /-- Level of the ALIVE_OUT pin, and the cycle of its last edge. -/
  alive : Bool := false
  aliveAt : Nat := 0
  testMode : Bool := false
deriving DecidableEq, Repr, Inhabited


/-! ## Link modules -/

/-- A packet queued for a peer module: its partition, virtual channel, slots and whether it originates here (R302, R306). -/
structure Packet where
  part : Nat := 0
  vc : Nat := 0
  own : Bool := true
  slots : Bytes := []
  /-- A sequenced RESP header rather than a PAYLOAD packet (R317). -/
  resp : Bool := false
  /-- Byte-enable mask of a WRITE with BE = 1 (R303). -/
  be : Option Nat := none
deriving DecidableEq, Repr, Inhabited

/-- A sequenced flit in the retry buffer: SEQ, header word without acknowledgement fields, body of 240 bytes, key tag (R309). -/
structure TxFlit where
  seq : Nat := 0
  header : Nat := 0
  body : Bytes := []
  key : Option (Nat × Nat) := none
deriving DecidableEq, Repr, Inhabited

/-- A link module: 0 to 3 are HL[0] to HL[3], 4 to 23 are PL[0] to PL[19]. -/
structure Module where
  /-- State code of R287. -/
  st : Nat := 0
  width : Nat := 0
  spares : Nat := 0
  attempts : Nat := 0
  downCause : Nat := 0
  partnerDie : Nat := 0
  partnerMod : Nat := 0
  /-- CK_MGT cycle in which the present training limit started (R288). -/
  limitFrom : Nat := 0
  crcErrors : Nat := 0
  replays : Nat := 0
  secFail : Nat := 0
  retrains : Nat := 0
  partMismatch : Nat := 0
  deniedSent : Nat := 0
  noRouteSent : Nat := 0
  malformed : Nat := 0
  flitsTx : Nat := 0
  flitsRx : Nat := 0
  tgCount : Nat := 0
  tgCheck : Bool := false
  tgPattern : Nat := 0
  tgGen : Bool := false
  tgSent : Nat := 0
  tgChecked : Nat := 0
  tgErrors : Nat := 0
  tgLocked : Bool := false
  loopback : Bool := false
  /-- Transmit queues by virtual channel, oldest first. -/
  q0 : List Packet := []
  q1 : List Packet := []
  q2 : List Packet := []
  q3 : List Packet := []
  /-- Per channel: the last packet sent was this die's own (R306). -/
  lastOwn : List Nat := []
  /-- Flits sent since VC 1 and VC 3 last had one (R306). -/
  since1 : Nat := 0
  since3 : Nat := 0
  retry : List TxFlit := []
  nextSeq : Nat := 0
  /-- Send credits by virtual channel (R305). -/
  cr0 : Nat := 0
  cr1 : Nat := 0
  cr2 : Nat := 0
  cr3 : Nat := 0
  /-- Receive slots freed and not yet returned, by channel. -/
  fr0 : Nat := 0
  fr1 : Nat := 0
  fr2 : Nat := 0
  fr3 : Nat := 0
  rxNext : Nat := 0
  /-- A sequenced flit has been received since training: ACK is valid. -/
  rxAny : Bool := false
  /-- Discarding until the expected flit arrives, and the cycle of the last NAK (R309). -/
  nakFor : Option Nat := none
  nakAt : Nat := 0
  /-- Pattern register of the checker, once locked, and of the generator. -/
  tgRx : Nat := 0
  tgTx : Nat := 0
  /-- CK_PL_n cycle of the last ACK progress, and replays since then. -/
  ackAt : Nat := 0
  replaysHere : Nat := 0
  /-- PAYLOAD flits sent and accepted per key generation, by 2 p + g (R307). -/
  ivTx : Tab Nat := []
  ivRx : Tab Nat := []
  /-- An acknowledgement has not been sent yet (R300). -/
  ackDue : Bool := false
  /-- CK_MGT cycle since which the link has been idle (R462). -/
  idleFrom : Nat := 0
deriving DecidableEq, Repr, Inhabited

/-- An outstanding peer request or message of this die by TAG (R315). -/
structure PeerTag where
  live : Bool := false
  module : Nat := 0
  dst : Nat := 0
  part : Nat := 0
  /-- The request it carries, or none for a message. -/
  req : Option Nat := none
  start : Nat := 0
  /-- 256-byte block and unit of a peer write, for R316; accumulate or plain. -/
  block : Option (Nat × Nat × Bool) := none
deriving DecidableEq, Repr, Inhabited

/-- An inbound KPP request being served at its destination (R314). -/
structure KppItem where
  id : Nat := 0
  module : Nat := 0
  part : Nat := 0
  op : Nat := 0
  src : Nat := 0
  tag : Nat := 0
  len : Nat := 0
  addr : Nat := 0
deriving DecidableEq, Repr, Inhabited

/-- What an inbound read asks for, once its checks have passed. -/
inductive InSpace where
  /-- The die fabric at a physical address of this die, counted for a partition when the address is a partition's (R384). -/
  | memory (part : Option Nat) (pa : Nat)
  /-- The register map, as a requester sees it. -/
  | regs (who : Who) (off : Nat)
  /-- BAR_4 of VF p (R329). -/
  | vfBar (p off : Nat)
  /-- The identity image (R331). -/
  | rom (off : Nat)
  /-- A doorbell page (R107). -/
  | zero
  /-- Refused: all ones (R32, R338). -/
  | ones
deriving DecidableEq, Repr, Inhabited

/-- An inbound request the port or the I/O module has taken and not completed (R182 to R184). `lo` is the low 6 bits of its address. -/
inductive InItem where
  /-- A posted write whose die-fabric write is outstanding as request `req`. -/
  | posted (req : Nat)
  /-- A doorbell-page write that waits for the writes before it (R184). -/
  | doorbell (part off size value : Nat)
  /-- A read that waits for the posted writes before it. -/
  | read (txn lo len : Nat) (space : InSpace)
  /-- A read whose die-fabric read is outstanding as request `req`. -/
  | reading (txn lo req : Nat)
  /-- A request whose completion waits for its turn: status as in `Emission.completion`, poisoned, of a configuration request, data. -/
  | answered (txn lo status : Nat) (poisoned config : Bool) (data : Bytes)
deriving DecidableEq, Repr, Inhabited

/-- HL and PL as wholes. -/
structure Links where
  mods : Tab Module := []
  tags : Tab PeerTag := []
  kpp : List KppItem := []
  next : Nat := 0
  /-- Inbound CXL.io requests taken and not completed, in arrival order (R182). -/
  io : List InItem := []
  /-- What software has written to the configuration space of the CXL function, by offset (R292). -/
  ioCfg : Tab Nat := []
  lossCount : Nat := 0
  lastCause : Nat := 0
  ioModule : Nat := 0
  /-- CK_MGT cycle since which every host-link module has been out of LINK_UP, once one has been up (R296). -/
  outFrom : Option Nat := none
  everUp : Bool := false
  /-- A host-link-loss reset is in progress. -/
  lossReset : Bool := false
deriving DecidableEq, Repr, Inhabited

/-! ## Tally -/

/-- An accumulator of a counting unit (R386): amount, and the cycle since which it has been non-zero. -/
structure Accum where
  amount : Nat := 0
  since : Nat := 0
deriving DecidableEq, Repr, Inhabited

/-- A count pulse on its way to Tally (R386): partition, counter code, amount. -/
structure Pulse where
  part : Nat := 0
  code : Nat := 0
  amount : Nat := 0
deriving DecidableEq, Repr, Inhabited

/-- A committed record (R395): its CAUSE, SEQ, PULSES, counters by 8 × partition + code, and lifetime counts. -/
structure TallyRec where
  live : Bool := false
  cause : Nat := 0
  seq : Nat := 0
  pulses : Nat := 0
  counters : Tab Nat := []
  lifetimes : Tab Nat := []
deriving DecidableEq, Repr, Inhabited

/-- Tally and the counting units' accumulators. -/
structure Tally where
  /-- Accumulators by 8 × partition + code. -/
  acc : Tab Accum := []
  pulses : List Pulse := []
  counters : Tab Nat := []
  lifetimes : Tab Nat := []
  epoch : Nat := 0
  /-- Pulses of codes 0 to 6 taken in this EPOCH, and since the last commit. -/
  total : Nat := 0
  since : Nat := 0
  /-- Pending triggers START and POWER_WARN (bits 3 and 2 of CAUSE); COUNT and REQUEST follow from `since` and `asks`. -/
  cause : Nat := 8
  /-- COMMIT requests: pulses still to be taken before Tally acts on each, and the mailbox whose command asked. -/
  asks : List (Nat × Option Nat) := []
  /-- The record being signed, and the mailboxes that wait for it. -/
  signing : Option TallyRec := none
  waiters : List Nat := []
  /-- Stored records by slot, and the next SEQ. -/
  records : Tab TallyRec := []
  next : Nat := 0
  selfFail : Bool := false
  /-- PWR_WARN_N as sampled, and the CK_TLY cycle at which an edge was accepted. -/
  warnLow : Bool := false
  warnAt : Option Nat := none
  /-- TY_REC_SELECT.SEQ and what TY_REC holds. -/
  select : Nat := 0
  held : Option TallyRec := none
deriving DecidableEq, Repr, Inhabited

/-! ## Management core -/

/-- An event-log record (R408). -/
structure EventRec where
  seq : Nat := 0
  cycle : Nat := 0
  domain : Nat := 0
  code : Nat := 0
  part : Option Nat := none
  unit : Option Nat := none
  data : Nat := 0
deriving DecidableEq, Repr, Inhabited

/-- A mailbox (R399 to R411). -/
structure Mailbox where
  respTag : Nat := 0
  result : Nat := 0
  detail : Nat := 0
  overflow : Bool := false
  busy : Bool := false
  done : Bool := false
  producer : Nat := 0
  consumer : Nat := 0
  commands : Nat := 0
  busyDrops : Nat := 0
  droppedWrites : Nat := 0
  /-- The command's bytes as submitted: header and payload (R404). -/
  cmd : Bytes := []
  /-- The command has been taken and waits for its operation to end. -/
  taken : Bool := false
  /-- The command came over MCTP. -/
  mctp : Bool := false
  /-- The 64 KiB area: request, response and notification bytes by offset. -/
  ram : Tab Byte := []
deriving DecidableEq, Repr, Inhabited

/-- Power and frequency control (R460, R466, R467). -/
structure Power where
  limit : Nat := 0xE6
  fmax : Nat := 0x15
  fmin : Nat := 0x0C
  capEn : Bool := true
  lpEn : Bool := true
  /-- CK_ARR in units of 100 MHz. -/
  freq : Nat := 21
  /-- A step in progress: the CK_MGT cycle of its request, and whether it goes up; whether its limit has been reported. -/
  step : Option (Nat × Bool) := none
  late : Bool := false
  /-- Consecutive samples over the limit, more than 8 W below it, and over it at ARR_FREQ_MIN. -/
  over_ : Nat := 0
  under : Nat := 0
  floor_ : Nat := 0
  /-- CK_MGT cycle of the last step that ARR_FREQ_MAX asked for. -/
  maxAt : Option Nat := none
  /-- Latest and highest samples. -/
  sensors : Tab (Nat × Nat) := []
  /-- CK_MGT cycle of the last sample. -/
  sampled : Nat := 0
deriving DecidableEq, Repr, Inhabited

/-- A package an UNWRAP command is decrypting: its partition, ASID, destination, header, and content key (R375). -/
structure Unwrap where
  live : Bool := false
  part : Nat := 0
  asid : Nat := 0
  dest : Nat := 0
  header : Bytes := []
  key : Bytes := []
deriving DecidableEq, Repr, Inhabited

/-- Firmware, its banks and the compute-cell broadcast (R413, R414, R444 to R446). -/
structure Firmware where
  /-- Manifest of the running firmware; empty before boot. -/
  manifest : Bytes := []
  authOk : Bool := false
  recovery : Bool := false
  bootBank : Nat := 0
  /-- Bank of the next cold reset, fused minimum SVN and raises taken; cold reset keeps them. -/
  active : Nat := 0
  svnMin : Nat := 0
  raises : Nat := 0
  /-- The inactive bank as staged: bytes, bytes staged so far, staging owner, and whether FW_VERIFY has passed. -/
  staged : Tab Byte := []
  stagedLen : Nat := 0
  owner : Option Nat := none
  verified : Bool := false
  /-- Compute-cell broadcast: 0 not yet, 1 digests awaited, 2 ended; cells that answered or ran out of time, CC_FAILED and the
  CK_MGT cycle of the last block. -/
  ccStep : Nat := 0
  ccSeen : List Nat := []
  ccFailed : Nat := 0
  ccAt : Nat := 0
deriving DecidableEq, Repr, Inhabited

/-- Readiness and resets (R437 to R452). -/
structure Readiness where
  /-- MC_READY.STATE: 0 BOOTING, 1 TRAINING, 2 READY, 3 NOT_READY. -/
  st : Nat := 0
  /-- HL_UP, PL_UP, PORTS_SHORT and PORTS_DEGRADED of the last decision, and MC_READY_MOD. -/
  word : Nat := 0
  mods : Tab Nat := []
  /-- READY has been declared since cold reset, and since the last cold or compute-part reset. -/
  was : Bool := false
  declared : Bool := false
  /-- Every peer module is idle-only: from the start of a compute-part reset until READY (R438). -/
  hold : Bool := false
  cpResets : Nat := 0
  flrs : Nat := 0
  lastPart : Nat := 0
  last : Nat := 0
  /-- A compute-part reset in progress: 1 scrubs run, 2 restored and the decision awaited. -/
  cp : Nat := 0
deriving DecidableEq, Repr, Inhabited

/-- SPDM responder state (R345): sessions that FINISH has established, those whose KEY_EXCHANGE it awaits, and the next session number. -/
structure Spdm where
  sessions : List Nat := []
  opening : List Nat := []
  next : Nat := 0
  /-- How far GET_VERSION, GET_CAPABILITIES and NEGOTIATE_ALGORITHMS have come outside any session: 3 all answered. -/
  step : Nat := 0
deriving DecidableEq, Repr, Inhabited

/-- The management core. -/
structure Mc where
  pwr : Power := {}
  ready : Bool := false
  boxes : Tab Mailbox := []
  log : List EventRec := []
  seq : Nat := 0
  /-- Mailbox last served (R405). -/
  served : Nat := 17
  skews : Nat := 0
  /-- CK_MGT cycle of the last reconcile pass (R417). -/
  reconcileAt : Nat := 0
  /-- Mode of R448. -/
  mode : Nat := 1
  /-- A module changed state since the last decision of R450. -/
  decide : Bool := false
  fw : Firmware := {}
  rd : Readiness := {}
  unwraps : Tab Unwrap := []
  spdm : Spdm := {}
  /-- Dynamic I3C address, once assigned (R401). -/
  i3c : Option Nat := none
deriving DecidableEq, Repr, Inhabited

/-! ## PCI Express port -/

/-- An MSI-X table entry (R336). -/
structure MsixEntry where
  addr : Nat := 0
  data : Nat := 0
  masked : Bool := true
  pending : Bool := false
deriving DecidableEq, Repr, Inhabited

/-- A vector of route HOST (R337): address and data, or unset. -/
structure HostVector where
  set : Bool := false
  addr : Nat := 0
  data : Nat := 0
deriving DecidableEq, Repr, Inhabited

/-- A function of the endpoint: 0 to 15 the VFs, 16 the PF or the root port. -/
structure PxFn where
  busMaster : Bool := false
  memSpace : Bool := false
  msixEnable : Bool := false
  msixMask : Bool := false
  d3 : Bool := false
  /-- Bases of BAR_0, BAR_2, BAR_4 and the expansion ROM; VF BARs are those of the SR-IOV capability. -/
  bar0 : Nat := 0
  bar2 : Nat := 0
  bar4 : Nat := 0
  rom : Nat := 0
  romEnable : Bool := false
  /-- The other writable configuration doublewords, by offset. -/
  cfg : Tab Nat := []
deriving DecidableEq, Repr, Inhabited

/-- A downstream request of R350: mailbox, configuration or memory, write, requester ID or address, size, value. -/
structure RpReq where
  mailbox : Nat := 0
  config : Bool := false
  write : Bool := false
  target : Nat := 0
  reg : Nat := 0
  size : Nat := 0
  value : Nat := 0
  start : Nat := 0
deriving DecidableEq, Repr, Inhabited

/-- A range of requester IDs assigned to a partition (R347). -/
structure RpAssign where
  first : Nat := 0
  last : Nat := 0
  part : Nat := 0
deriving DecidableEq, Repr, Inhabited

/-- The PCI Express port. -/
structure Px where
  /-- 1: root port (R321). -/
  rootPort : Bool := false
  configReady : Bool := false
  linkUp : Bool := false
  linkWidth : Nat := 0
  linkRate : Nat := 0
  /-- A link-down interval has passed since the link was last up (R341 CAUSE 5). -/
  wasDown : Bool := false
  /-- The link was disabled by software before it went down. -/
  linkDisable : Bool := false
  l0p : Nat := 0
  l1 : Bool := false
  l1Enable : Bool := false
  /-- CK_PX cycle of the last TLP in either direction (R323). -/
  tlpAt : Nat := 0
  /-- Capo (R341 to R344). -/
  frozen : Bool := false
  cause : Nat := 0
  triggerErr : Nat := 0
  insertHold : Bool := true
  capoMask : Nat := 0x00445020
  triggers : Nat := 0
  refusedReleases : Nat := 0
  /-- CK_PX cycles of the last entry into FROZEN, of the last trigger, of a release accepted and not yet in effect, and of the last
  release refused (R341, R343, R344). -/
  frozenAt : Option Nat := none
  trigAt : Option Nat := none
  releaseAt : Option Nat := none
  refusedAt : Option Nat := none
  /-- AER (R339, R340). -/
  uncStatus : Nat := 0
  uncMask : Nat := 0x00400000
  uncSev : Nat := 0x00462030
  corStatus : Nat := 0
  corMask : Nat := 0x0000E000
  firstErr : Option Nat := none
  headerLog : Bytes := []
  /-- Root Error Status bits of PCI Express, and Error Source Identification. -/
  rootErr : Nat := 0
  rootSrc : Nat := 0
  fns : Tab PxFn := []
  vfEnable : Bool := false
  vfMemSpace : Bool := false
  numVfs : Nat := 0
  vfBar0 : Nat := 0
  vfBar2 : Nat := 0
  vfBar4 : Nat := 0
  /-- log2 of the PF BAR_2 size (R328, R330). -/
  bar2Log2 : Nat := 36
  winMisaligned : Bool := false
  inbound : List InItem := []
  frozenDiscards : Nat := 0
  refused : Nat := 0
  unsupported : Nat := 0
  assigns : List RpAssign := []
  /-- The downstream request in progress, and those that wait behind it in command order (R350). -/
  rpNow : Option RpReq := none
  rpWait : List RpReq := []
  /-- Identity image of R331. -/
  image : Bytes := []
  /-- Routes by owner (16: the operator): PCIE when set. -/
  routePcie : Tab Bool := []
  /-- By 512 × owner + vector. -/
  hostVec : Tab HostVector := []
  msix : Tab MsixEntry := []
  irqDropped : Nat := 0
deriving DecidableEq, Repr, Inhabited

/-- What the block sends that nothing later answers. -/
inductive Emission where
  /-- An MSI-X message on the PCI Express port (R336). -/
  | msix (addr data : Nat)
  /-- A CXL.io posted write on the I/O module (R337). -/
  | cxlIoWrite (module addr : Nat) (data : Bytes)
  /-- A snoop response on the module on which the snoop arrived (R195): line address and whether a clean shared copy stays. -/
  | snoopResponse (module pa : Nat) (shared : Bool)
  /-- A 256-byte KPP flit on PL[m] (R298). -/
  | flit (m : Nat) (bytes : Bytes)
  /-- An in-band interrupt on the board-management I3C bus (R401). -/
  | inBandInterrupt
  /-- An MCTP message on I3C (R401). -/
  | mctp (body : Bytes)
  /-- A completion on the PCI Express port or (`io`) on CXL.io: transaction, status 0 success, 1 unsupported request, 2 request
  retry, 4 completer abort; poisoned; data (R182, R183, R325, R338). -/
  | completion (io : Bool) (txn status : Nat) (poisoned : Bool) (data : Bytes)
  /-- A request the port sends to a downstream device (R350): configuration, write, target, register, size, value. -/
  | downstream (config write : Bool) (target reg size value : Nat)
  /-- A link power or width request of the port (R323, R464): 0 L0p ×4, 1 ×16, 2 L1. -/
  | portPower (what : Nat)
  /-- What an accumulate-write leaves in this die's HBM from an address on (R143). -/
  | sums (pa : Nat) (data : Bytes)
  /-- A command on the die network: block of the compute-cell image, reset of the compute cells, HBM zero-fill or re-key (R446, R378). -/
  | dieNetwork (what : Nat) (data : Bytes)
  /-- Full-line pushes to the host tier from an address on, as the path carries them: a re-encrypted page (R365), a repaired chunk
  (R283). -/
  | pushes (pa : Nat) (data : Bytes)
  /-- An SPDM response, in its session when it has one (R345, R369). -/
  | spdm (session : Option Nat) (body : Bytes)
  /-- Measurements in answer to GET_MEASUREMENTS: the blocks, and the signature when the request asked for one (R376, R377). -/
  | measurements (session : Option Nat) (blocks : Bytes) (signature : Option Bytes)
  /-- Plaintext the MC writes for a partition at an address of one of its address spaces (R375), under R360 on its path. -/
  | mcWrite (part asid va : Nat) (data : Bytes)
  /-- The same, `len` zero bytes. -/
  | mcZero (part asid va len : Nat)
  /-- Bytes written into a bank of the management flash at an offset; with none, the bank is erased (R413). -/
  | flash (bank off : Nat) (data : Bytes)
  /-- A program image for the compute cells of a partition (R407). -/
  | program (part : Nat) (data : Bytes)
deriving DecidableEq, Repr, Inhabited

/-- What the fuses remove (R447), as MC_FUSES shows it. -/
structure Fuses where
  groups : Nat := 0
  modules : Nat := 0
  halfArray : Bool := false
deriving DecidableEq, Repr, Inhabited

/-- The state of the block. -/
structure State where
  pending : List Instr := []
  clk : Clocks := {}
  /-- POS[3:0] as sampled (R453), and the fuses. -/
  pos : Nat := 0
  fuses : Fuses := {}
  pt : Pt := {}
  xl : Xl := {}
  qc : Qc := {}
  tier : Tier := {}
  rk : Reck := {}
  ch : Chords := {}
  ec : Ec := {}
  units : Tab UnitWord := []
  links : Links := {}
  tally : Tally := {}
  mc : Mc := {}
  px : Px := {}
  reqs : List Req := []
  nextReq : Nat := 0
  free : Nat := 0
  outbox : List Emission := []
deriving DecidableEq, Repr, Inhabited

/-- The unit state words of the link modules before any has trained: STOPPED with cause 4 (R450). -/
def moduleWords : Tab UnitWord :=
  (List.range 24).map fun k => (64 + k, { hwAdmit := 2, cause := 4, viewHw := 2, viewCause := 4 })

/-- The block right after cold reset, with straps and fuses of zeros and Tally's EPOCH a free value (R393, R437, R438, R457; log entry
5). The MC has not booted. -/
def State.reset : State :=
  { units := moduleWords, tally := { epoch := Config.free 0 % 2 ^ 64 }, free := 1 }

end Sys2Proof.Machine
end

