-- ==== Sys2Proof/Machine/Ops.lean ====
section
/-! DEFINITION. The named operations over the state that every family shares: entry access, free values, error reports,
unit admission, request creation and removal, and the encryption of the host tier. -/

namespace Sys2Proof.Machine

/-! ## Entries -/

/-- Partition p's entry. -/
def State.part (s : State) (p : Nat) : Part := Tab.at s.pt.parts p
/-- Changes partition p's entry. -/
def State.modPart (s : State) (p : Nat) (f : Part → Part) : State :=
  { s with pt := { s.pt with parts := Tab.upd s.pt.parts p f } }
/-- Global ring r. -/
def State.ring (s : State) (r : Nat) : Ring := Tab.at s.qc.rings r
/-- Changes global ring r. -/
def State.modRing (s : State) (r : Nat) (f : Ring → Ring) : State :=
  { s with qc := { s.qc with rings := Tab.upd s.qc.rings r f } }
/-- Queue cell c. -/
def State.cell (s : State) (c : Nat) : Cell := Tab.at s.qc.cells c
/-- Changes queue cell c. -/
def State.modCell (s : State) (c : Nat) (f : Cell → Cell) : State :=
  { s with qc := { s.qc with cells := Tab.upd s.qc.cells c f } }
/-- Park slot k: a ring number, or 16,384 + p for the Reckoner. -/
def State.slot (s : State) (k : Nat) : ParkSlot := Tab.at s.qc.park k
/-- Changes park slot k. -/
def State.modSlot (s : State) (k : Nat) (f : ParkSlot → ParkSlot) : State :=
  { s with qc := { s.qc with park := Tab.upd s.qc.park k f } }
/-- Partition p's fault queue. -/
def State.fq (s : State) (p : Nat) : FaultQueue := Tab.at s.qc.fq p
/-- Changes partition p's fault queue. -/
def State.modFq (s : State) (p : Nat) (f : FaultQueue → FaultQueue) : State :=
  { s with qc := { s.qc with fq := Tab.upd s.qc.fq p f } }
/-- Completion ring k = 256 p + q. -/
def State.cq (s : State) (k : Nat) : CompRing := Tab.at s.qc.cqs k
/-- Changes completion ring k. -/
def State.modCq (s : State) (k : Nat) (f : CompRing → CompRing) : State :=
  { s with qc := { s.qc with cqs := Tab.upd s.qc.cqs k f } }
/-- Partition p's invalidation queue. -/
def State.invq (s : State) (p : Nat) : InvQueue := Tab.at s.xl.invq p
/-- Changes partition p's invalidation queue. -/
def State.modInvq (s : State) (p : Nat) (f : InvQueue → InvQueue) : State :=
  { s with xl := { s.xl with invq := Tab.upd s.xl.invq p f } }
/-- Partition p's chord queue. -/
def State.chq (s : State) (p : Nat) : ChordQueue := Tab.at s.ch.queues p
/-- Changes partition p's chord queue. -/
def State.modChq (s : State) (p : Nat) (f : ChordQueue → ChordQueue) : State :=
  { s with ch := { s.ch with queues := Tab.upd s.ch.queues p f } }
/-- Chord slot k. -/
def State.chord (s : State) (k : Nat) : ChordSlot := Tab.at s.ch.slots k
/-- Changes chord slot k. -/
def State.modChord (s : State) (k : Nat) (f : ChordSlot → ChordSlot) : State :=
  { s with ch := { s.ch with slots := Tab.upd s.ch.slots k f } }
/-- Unit state word u (R415). -/
def State.unit (s : State) (u : Nat) : UnitWord := Tab.at s.units u
/-- Changes unit state word u. -/
def State.modUnit (s : State) (u : Nat) (f : UnitWord → UnitWord) : State :=
  { s with units := Tab.upd s.units u f }
/-- EC's state for source i. -/
def State.source (s : State) (i : Nat) : Source := Tab.at s.ec.sources i
/-- Changes EC's state for source i. -/
def State.modSource (s : State) (i : Nat) (f : Source → Source) : State :=
  { s with ec := { s.ec with sources := Tab.upd s.ec.sources i f } }

/-- Changes the descriptor at position `pos` of ring r. -/
def State.modWork (s : State) (r pos : Nat) (f : Work → Work) : State :=
  s.modRing r fun g => { g with works := g.works.map fun w => if w.pos = pos then f w else w }

/-- The consumed descriptor at position `pos` of ring r. -/
def State.work (s : State) (r pos : Nat) : Option Work := (s.ring r).works.find? fun w => w.pos == pos

/-- Runs a change over a list, left to right. -/
def State.each {α : Type} (s : State) (l : List α) (f : State → α → State) : State := l.foldl f s

/-! ## Free values, identity, time -/

/-- Draws the next free value; the counter advances. -/
def State.draw (s : State) : Nat × State := (Config.free s.free, { s with free := s.free + 1 })

/-- The next free value below `n`, for `n` above 0. -/
def State.choose (s : State) (n : Nat) : Nat × State := (Config.free s.free % n, { s with free := s.free + 1 })

/-- This die's ID (R2). -/
def State.dieId (s : State) : Nat := 4 + s.pos

/-- HBM channel size S (R27). -/
def State.chSize (s : State) : Nat := 2 ^ s.pt.chSizeLog2

/-- The queue-cell group of a ring (R13, R14). -/
def groupOfRing (r : Nat) : Nat := r / 1024
/-- The queue cell of a ring (R14). -/
def cellOfRing (r : Nat) : Nat := r / 256

/-- The partitions, in order. -/
def partIxs : List Nat := List.range 16

/-- The partition that owns queue-cell group k, if one does (R13, R356). -/
def State.groupOwner (s : State) (k : Nat) : Option Nat :=
  partIxs.find? fun p => decide ((s.part p).st ≠ 0) && bit (s.part p).groups k

/-- The partition that owns ring r. -/
def State.ringOwner (s : State) (r : Nat) : Option Nat := s.groupOwner (groupOfRing r)

/-- The partition that owns peer module m. -/
def State.moduleOwner (s : State) (m : Nat) : Option Nat :=
  partIxs.find? fun p => decide ((s.part p).st ≠ 0) && bit (s.part p).modules m

/-- The global number of partition p's local ring j (R104). -/
def State.globalRing (s : State) (p j : Nat) : Option Nat :=
  ((maskBits 16 (s.part p).groups)[j / 1024]?).map fun g => 1024 * g + j % 1024

/-- The local number of global ring r of partition p (R104). -/
def State.localRing (s : State) (p r : Nat) : Nat :=
  1024 * ((maskBits 16 (s.part p).groups).idxOf (groupOfRing r)) + r % 1024

/-- The rings of partition p that have any state. -/
def State.ringsOf (s : State) (p : Nat) : List Nat :=
  (Tab.ixs s.qc.rings).filter fun r => bit (s.part p).groups (groupOfRing r)

/-! ## Errors and admission -/

/-- Raises an error line: EC latches the error later (R418, R419). -/
def State.report (s : State) (e : ErrorEv) : State := { s with ec := { s.ec with lines := s.ec.lines ++ [e] } }

/-- Effective admission level of unit u (R415). -/
def State.level (s : State) (u : Nat) : Nat :=
  let w := s.unit u
  if w.qHw || w.qMc then 3 else max w.hwAdmit w.mcAdmit

/-- May queue cell c issue for partition p: both unit words below STOPPED, p ACTIVE (R351, R379, R415)? -/
def State.mayIssue (s : State) (p c : Nat) : Bool :=
  decide (s.level c < 2) && decide (s.level (96 + p) < 2) && (s.part p).st == 2

/-- May queue cell c start a descriptor for partition p (DRAIN and above start none, R415)? -/
def State.mayStart (s : State) (p c : Nat) : Bool :=
  decide (s.level c < 1) && decide (s.level (96 + p) < 1) && (s.part p).st == 2

/-- May the Reckoner issue for partition p (R415)? -/
def State.rkMayIssue (s : State) (p : Nat) : Bool :=
  decide (s.level 88 < 2) && decide (s.level (96 + p) < 2) && (s.part p).st == 2

/-- May the Reckoner start a job for partition p (R204, R415)? -/
def State.rkMayStart (s : State) (p : Nat) : Bool :=
  decide (s.level 88 < 1) && decide (s.level (96 + p) < 1) && (s.part p).st == 2

/-! ## Requests -/

/-- The outstanding request with number `id`. -/
def State.req (s : State) (id : Nat) : Option Req := s.reqs.find? fun r => r.id == id

/-- Removes request `id`. -/
def State.dropReq (s : State) (id : Nat) : State := { s with reqs := s.reqs.filter fun r => r.id != id }

/-- Changes request `id`. -/
def State.modReq (s : State) (id : Nat) (f : Req → Req) : State :=
  { s with reqs := s.reqs.map fun r => if r.id = id then f r else r }

/-- Creates a request in this CK_FAB cycle under the next number. -/
def State.send (s : State) (r : Req) : State :=
  { s with reqs := s.reqs ++ [{ r with id := s.nextReq, start := s.clk.fab }], nextReq := s.nextReq + 1 }

/-- Is any outstanding request for the given purpose? -/
def State.waitsFor (s : State) (p : Purpose) : Bool := s.reqs.any fun r => r.purpose == p

/-- The outstanding request for a purpose. -/
def State.reqFor (s : State) (p : Purpose) : Option Req := s.reqs.find? fun r => r.purpose == p

/-- The key bundle slot of partition p and generation g. -/
def Part.slot (x : Part) (g : Nat) : KeySlot := if g = 0 then x.slot0 else x.slot1

/-- Changes key slot g. -/
def Part.modSlot (x : Part) (g : Nat) (f : KeySlot → KeySlot) : Part :=
  if g = 0 then { x with slot0 := f x.slot0 } else { x with slot1 := f x.slot1 }

/-- Adds one to the in-flight count of a tag's slot (R366). -/
def State.keyTake (s : State) : Option (Nat × Nat) → State
  | none => s
  | some (p, g) => s.modPart p fun x => x.modSlot g fun k => { k with inflight := k.inflight + 1 }

/-- Takes one from the in-flight count of a tag's slot (R366). -/
def State.keyGive (s : State) : Option (Nat × Nat) → State
  | none => s
  | some (p, g) => s.modPart p fun x => x.modSlot g fun k => { k with inflight := k.inflight - 1 }

/-- A span with no outstanding request has drained: no pending invalidation waits for it any longer (R68). -/
def State.drainSpan (s : State) (sp : Nat × Nat × Nat) : State :=
  if s.reqs.any fun r => r.span == some sp then s
  else
    let l := s.xl.invals.map fun i => { i with waits := i.waits.filter fun x => x != sp }
    { s with xl := { s.xl with invals := l } }

/-- A request ends: it leaves the outstanding list and its key slot's count, and its span may have drained. -/
def State.finishReq (s : State) (r : Req) : State :=
  let s1 := (s.dropReq r.id).keyGive r.key
  match r.span with
  | none => s1
  | some sp => s1.drainSpan sp

/-- Nobody waits any longer for the requests whose purpose a test picks: their responses will be discarded. -/
def State.orphan (s : State) (mine : Purpose → Bool) : State :=
  { s with reqs := s.reqs.map fun r => if mine r.purpose then { r with purpose := .dropped } else r }

/-! ## Host-tier encryption (R360) -/

/-- The host-tier key a tag names. -/
def State.hostKey (s : State) (t : Nat × Nat) : Bytes := ((s.part t.1).slot t.2).hostKey

/-- Applies a unit cipher to the 16-byte units of a run that starts at a multiple of 16, tweaked by address bits [51:4]. -/
def xtsRun (f : Bytes → Nat → Bytes → Bytes) (key : Bytes) : Nat → Nat → Bytes → Bytes
  | 0, _, _ => []
  | n + 1, unit, b => f key unit (b.take 16) ++ xtsRun f key n (unit + 1) (b.drop 16)

/-- The bytes a path carries for plaintext `b` at address `pa`, whole units only. -/
def State.seal (s : State) (tag : Option (Nat × Nat)) (pa : Nat) (b : Bytes) : Bytes :=
  match tag with
  | none => b
  | some t => xtsRun Config.xtsEnc (s.hostKey t) (ceilDiv b.length 16) (pa / 16) b

/-- The plaintext of bytes a path carries at address `pa`. -/
def State.unseal (s : State) (tag : Option (Nat × Nat)) (pa : Nat) (b : Bytes) : Bytes :=
  match tag with
  | none => b
  | some t => xtsRun Config.xtsDec (s.hostKey t) (ceilDiv b.length 16) (pa / 16) b

/-- The bytes of a mask that are set, of `n` bytes from `lo`. -/
def maskRange (lo n : Nat) : Nat := (2 ^ n - 1) <<< lo

/-- The 16-byte units of a 64-byte line that a byte mask touches, as a byte mask. -/
def unitMask (mask : Nat) : Nat :=
  ((List.range 4).filter fun u => bits mask (16 * u) 16 != 0).foldl (fun m u => m + maskRange (16 * u) 16) 0

/-- Does a byte mask cover some 16-byte unit only in part (R361)? -/
def partialUnit (mask : Nat) : Bool := unitMask mask != mask

/-- Bytes of `new` where the mask is set, of `old` elsewhere. -/
def mergeBytes (mask : Nat) (old new : Bytes) : Bytes :=
  (List.range 64).map fun i => if bit mask i then new.getD i 0 else old.getD i 0

end Sys2Proof.Machine
end

