-- ==== Sys2Proof/Machine/Events.lean ====
section
/-! DEFINITION. The event log, notifications, interrupt vectors and the counting units' accumulators (R335 to R337, R384 to R388,
R408 to R411). -/

namespace Sys2Proof.Machine

/-- Mailbox m. -/
def State.box (s : State) (m : Nat) : Mailbox := Tab.at s.mc.boxes m
/-- Changes mailbox m. -/
def State.modBox (s : State) (m : Nat) (f : Mailbox → Mailbox) : State :=
  { s with mc := { s.mc with boxes := Tab.upd s.mc.boxes m f } }
/-- Sends something that nothing answers. -/
def State.emit (s : State) (e : Emission) : State := { s with outbox := s.outbox ++ [e] }
/-- PCI Express function f. -/
def State.fn (s : State) (f : Nat) : PxFn := Tab.at s.px.fns f

/-! ## Vectors -/

/-- Does VF p, or the PF (16), exist (R333)? -/
def State.fnExists (s : State) (f : Nat) : Bool :=
  !s.px.rootPort && (f == 16 || (s.px.vfEnable && decide (f < s.px.numVfs)))

/-- Counts a dropped interrupt signal (PX_INBOUND.IRQ_DROPPED). -/
def State.dropIrq (s : State) : State := { s with px := { s.px with irqDropped := satAdd 16 s.px.irqDropped 1 } }

/-- Signals vector v of partition or operator `owner` (16), on the owner's route (R336, R337, R342). -/
def State.signalVector (s : State) (owner v : Nat) : State :=
  let k := 512 * owner + v
  if Tab.at s.px.routePcie owner then
    let f := s.fn owner
    let e := Tab.at s.px.msix k
    if !s.fnExists owner || !f.msixEnable || !f.busMaster then s.dropIrq
    else if e.masked || f.msixMask || s.px.frozen then
      { s with px := { s.px with msix := Tab.put s.px.msix k { e with pending := true } } }
    else ({ s with px := { s.px with tlpAt := s.clk.px } }).emit (.msix e.addr e.data)
  else
    let h := Tab.at s.px.hostVec k
    if h.set then s.emit (.cxlIoWrite s.links.ioModule h.addr (leBytes 4 h.data)) else s.dropIrq

/-- The vector owner of a mailbox: partitions 0 to 15 and the operator. -/
def State.signalBox (s : State) (m : Nat) : State :=
  if m = 17 then s.emit .inBandInterrupt else s.signalVector m 0

/-! ## Events -/

/-- The mailboxes to which an event code is also posted (R409). -/
def notified (code : Nat) (part : Option Nat) : List Nat :=
  let own := part.toList
  match code with
  | 0x0010 | 0x0011 | 0x0012 | 0x0030 | 0x0040 => own
  | 0x0020 | 0x0021 | 0x0022 | 0x0031 | 0x0042 | 0x0050 | 0x0070 => [16, 17]
  | 0x0041 => 16 :: own
  | 0x0051 | 0x0071 => [16]
  | 0x0060 => [16, 17] ++ own
  | _ => []

/-- The 32 bytes of a record (R408); the phase bit is the notification queue's. -/
def EventRec.bytes (e : EventRec) (phase : Bool) : Bytes :=
  leBytes 8 e.seq ++ leBytes 6 e.cycle ++ leBytes 1 (128 * b2n phase + e.domain) ++ zeros 1 ++ leBytes 2 e.code ++
    leBytes 1 (match e.part with
      | some p => 128 + p
      | none => 0) ++ zeros 1 ++ leBytes 2 (e.unit.getD 0xFFFF) ++ zeros 2 ++ leBytes 8 e.data

/-- Posts a notification in mailbox m's queue, or drops it and sets the overflow bit (R411). -/
def State.notify (s : State) (m : Nat) (e : EventRec) : State :=
  let b := s.box m
  if (b.producer + 65536 - b.consumer) % 65536 = 256 then s.modBox m fun b => { b with overflow := true }
  else
    let at_ := 0x9000 + 32 * (b.producer % 256)
    let bytes := e.bytes (b.producer / 256 % 2 == 0)
    let s1 := s.modBox m fun b =>
      { b with ram := Tab.writeBytes b.ram at_ bytes, producer := wrapAdd 16 b.producer 1 }
    s1.signalBox m

/-- Logs an event and posts its notifications; the log keeps the 4,096 newest records (R408 to R411). -/
def State.event (s : State) (code domain cycle : Nat) (unit part : Option Nat) (data : Nat) : State :=
  let e : EventRec := { seq := s.mc.seq, cycle := cycle % 2 ^ 48, domain := domain, code := code, part := part, unit := unit
                        data := data % 2 ^ 64 }
  let l := s.mc.log ++ [e]
  let s1 := { s with mc := { s.mc with log := l.drop (l.length - 4096), seq := wrapAdd 64 s.mc.seq 1 } }
  s1.each (notified code part) fun s m => s.notify m e

/-- An event that arises in CK_FAB. -/
def State.fabEvent (s : State) (code : Nat) (unit part : Option Nat) (data : Nat) : State :=
  s.event code 0 s.clk.fab unit part data

/-- An event that arises in CK_MGT. -/
def State.mgtEvent (s : State) (code : Nat) (unit part : Option Nat) (data : Nat) : State :=
  s.event code 5 s.clk.mgt unit part data

/-! ## Counting -/

/-- The cycle count of the domain of the unit that counts a code: CK_ARR for RK_ELEM and MACS, CK_FAB otherwise (R386). -/
def State.countClock (s : State) (code : Nat) : Nat := if code = 4 || code = 5 then s.clk.arr else s.clk.fab

/-- Sends the accumulator of partition p and code k as one count pulse, if it holds anything (R386). -/
def State.sendPulse (s : State) (p k : Nat) : State :=
  let a := Tab.at s.tally.acc (8 * p + k)
  if a.amount = 0 then s
  else
    { s with tally := { s.tally with
      acc := Tab.put s.tally.acc (8 * p + k) default
      pulses := s.tally.pulses ++ [{ part := p, code := k, amount := a.amount }] } }

/-- Adds an event's amount to the accumulator of partition p and code k; at 2^20 it is sent (R386). -/
def State.count (s : State) (p k n : Nat) : State :=
  let a := Tab.at s.tally.acc (8 * p + k)
  let b : Accum := { amount := a.amount + n, since := if a.amount = 0 then s.countClock k else a.since }
  let s1 := { s with tally := { s.tally with acc := Tab.put s.tally.acc (8 * p + k) b } }
  if 2 ^ 20 ≤ b.amount then s1.sendPulse p k else s1

/-- Sends a control pulse of the given amount for partition p (R387). -/
def State.controlPulse (s : State) (p n : Nat) : State :=
  { s with tally := { s.tally with pulses := s.tally.pulses ++ [{ part := p, code := 7, amount := n }] } }

/-- Counts a request to dies 0 to 3 at issue: bytes asked for, or bytes written (R384, R385). -/
def State.countHost (s : State) (r : Req) : State :=
  match r.kind with
  | .read => s.count r.part 0 r.len
  | _ => s.count r.part 1 (if r.mask = 0 then r.len else popCount 64 r.mask)

/-- Creates a request to dies 0 to 3 and counts it. -/
def State.sendHost (s : State) (r : Req) : State := (s.countHost r).send r

end Sys2Proof.Machine
end

