-- ==== Sys2Proof/Machine/Fret.lean ====
section
/-! DEFINITION. The fret table's checks and routes (R25 to R40, R484) and the recording of refusals (R30). -/

namespace Sys2Proof.Machine

/-- Die ID of a physical address (R25). -/
def dieOf (pa : Nat) : Nat := bits pa 47 5
/-- Offset within the die (R25). -/
def offOf (pa : Nat) : Nat := bits pa 0 47

/-- Where an access that passes every check goes (R29). -/
inductive Route where
  | host
  | fabric (channel : Nat)
  | peer (die : Nat)
deriving DecidableEq, Repr, Inhabited

/-- The outcome of the checks of R29 with the address as far as it was resolved. -/
inductive RouteRes where
  | go (r : Route) (pa : Nat)
  /-- Status ADDRESS. -/
  | address
  /-- Status PROTECTION with the CHECK code and address of the violation registers. -/
  | protection (check pa : Nat)
deriving DecidableEq, Repr, Inhabited

/-- Does a host-tier range pass an access of partition p to `[pa, pa + len)` (R34)? -/
def HostRange.passes (r : HostRange) (p pa len : Nat) (write : Bool) : Bool :=
  r.valid && decide (r.base ≤ pa) && decide (pa + len ≤ r.limit) && bit r.mask p &&
    (!write || (r.we && r.mask == 2 ^ p))

/-- The host-tier range check of R34. -/
def State.hostRangeOk (s : State) (p pa len : Nat) (write : Bool) : Bool :=
  s.pt.ranges.any fun e => e.2.passes p pa len write

/-- Does `[pa, pa + len)` lie on die 0 to 3 inside one qualifying range of partition p (R484)? -/
def State.inQualifying (s : State) (p pa len : Nat) : Bool :=
  decide (pa + len ≤ 4 * 2 ^ 47) && s.hostRangeOk p pa len true

/-- Does `[pa, pa + len)` lie on die 0 to 3 inside one valid range whose mask has p (R62)? -/
def State.inReadable (s : State) (p pa len : Nat) : Bool :=
  decide (pa + len ≤ 4 * 2 ^ 47) && s.hostRangeOk p pa len false

/-- The owner of HBM channel c, if one owns it. -/
def State.chanOwner (s : State) (c : Nat) : Option Nat :=
  match Tab.at s.pt.channels c with
  | 0 => none
  | p + 1 => some p

/-- Is a direct-HBM offset populated (R27)? -/
def State.populated (s : State) (off : Nat) : Bool := s.pt.mapValid && decide (off < 32 * s.chSize)

/-- HBM channel of a direct-HBM offset (R28). -/
def State.chanOf (s : State) (off : Nat) : Nat := off / s.chSize

/-- Does a window cover `[a, a + len)` of its partition's aperture (R37)? -/
def Window.covers (w : Window) (p a len : Nat) : Bool :=
  w.valid && w.part == p && decide (w.apOff ≤ a) && decide (a + len ≤ w.apOff + 2 ^ w.sizeLog2)

/-- The window of partition p that covers `[a, a + len)`. -/
def State.windowAt (s : State) (p a len : Nat) : Option Window :=
  (s.pt.windows.find? fun e => e.2.covers p a len).map Prod.snd

/-- Resolves an aperture access of partition p through its window, then checks the channel (R29, R37). -/
def State.viaWindow (s : State) (p a len : Nat) (write : Bool) (pa : Nat) : RouteRes :=
  match s.windowAt p a len with
  | none => .address
  | some w =>
    let off := w.target + (a - w.apOff)
    let pa' := s.dieId * 2 ^ 47 + off
    if !(if write then w.we else w.re) then .protection 2 pa
    else if !s.populated off then .address
    else if s.chanOwner (s.chanOf off) = some p then .go (.fabric (s.chanOf off)) pa'
    else .protection 1 pa'

/-- The route table of R29 for an access of partition p by a queue cell or the Reckoner; `peerUp` says whether p owns a trained
peer module. -/
def State.route (s : State) (p pa len : Nat) (write peerUp : Bool) : RouteRes :=
  let d := dieOf pa
  let off := offOf pa
  if 20 ≤ d then .address
  else if d < 4 then
    if s.hostRangeOk p pa len write then .go .host pa else .protection 0 pa
  else if d = s.dieId then
    if bit off 46 then .protection 4 pa
    else if bit off 45 then
      if bits off 41 4 = p then s.viaWindow p (bits off 0 41) len write pa else .protection 3 pa
    else if !s.populated off then .address
    else if s.chanOwner (s.chanOf off) = some p then .go (.fabric (s.chanOf off)) pa
    else .protection 1 pa
  else if bit off 46 then .protection 4 pa
  else if peerUp then .go (.peer d) pa
  else .protection 6 pa

/-- Counts a refusal with status ADDRESS (R30, R142). -/
def State.countAddress (s : State) : State :=
  { s with pt := { s.pt with addressCount := satAdd 32 s.pt.addressCount 1 } }

/-- Counts and records a PROTECTION refusal and reports it to EC (R30). -/
def State.violate (s : State) (requester part check pa : Nat) (write : Bool) (errPart : Option Nat) : State :=
  State.report
    { s with pt := { s.pt with
        protectCount := satAdd 32 s.pt.protectCount 1, violValid := true, violAddr := pa % 2 ^ 52,
        violRequester := requester, violPart := part, violCheck := check, violWrite := write } }
    { source := 5, cls := 1, part := errPart, detail := check }

/-! ## Window changes (R37 to R40) -/

/-- Do two windows overlap in one partition's aperture? -/
def Window.overlaps (a b : Window) : Bool :=
  a.part == b.part && decide (a.apOff < b.apOff + 2 ^ b.sizeLog2) && decide (b.apOff < a.apOff + 2 ^ a.sizeLog2)

/-- Is a window aligned as R37 requires? -/
def Window.aligned (w : Window) : Bool := w.apOff % 2 ^ w.sizeLog2 == 0 && w.target % 2 ^ 21 == 0

/-- Does every channel of a window's target belong to its partition (R38 condition 2)? -/
def State.windowBacked (s : State) (w : Window) : Bool :=
  let last := w.target + 2 ^ w.sizeLog2 - 1
  s.populated last &&
    ((List.range 32).all fun c =>
      !(decide (s.chanOf w.target ≤ c) && decide (c ≤ s.chanOf last)) || s.chanOwner c == some w.part)

/-- Do the valid windows of a table meet the three conditions of R38? -/
def State.windowsOk (s : State) (t : Tab Window) : Bool :=
  t.all fun e => !e.2.valid ||
    (e.2.aligned && s.windowBacked e.2 &&
      t.all fun f => f.1 == e.1 || !f.2.valid || !e.2.overlaps f.2)

/-- Clears every window of partition p whose target touches channel c (R40). -/
def State.clearWindowsOn (s : State) (p c : Nat) : State :=
  let touches (w : Window) : Bool := w.valid && w.part == p && decide (s.chanOf w.target ≤ c) &&
    decide (c ≤ s.chanOf (w.target + 2 ^ w.sizeLog2 - 1))
  let t := Tab.mapV s.pt.windows fun _ w => if touches w then { w with valid := false } else w
  { s with pt := { s.pt with windows := t } }

end Sys2Proof.Machine
end

