-- ==== Sys2Proof/Machine/PeerTx.lean ====
section
/-! DEFINITION. The sending side of the peer links: routing, packets, tags, and filling packets into flits (R298 to R318). -/

namespace Sys2Proof.Machine

/-- Link module k: 0 to 3 HL, 4 to 23 PL. -/
def State.mod (s : State) (k : Nat) : Module := Tab.at s.links.mods k
/-- Changes link module k. -/
def State.modMod (s : State) (k : Nat) (f : Module → Module) : State :=
  { s with links := { s.links with mods := Tab.upd s.links.mods k f } }

/-- Unit number of link module k (R415). -/
def unitOfMod (k : Nat) : Nat := 64 + k

/-- Row and column of a die (R453). -/
def dieRow (d : Nat) : Nat := (d - 4) / 4
def dieCol (d : Nat) : Nat := (d - 4) % 4

/-- The port towards another column: 1 E, 3 W; towards another row: 2 S, 0 N (R311, R453). -/
def colPort (src dst : Nat) : Nat := if dieCol src < dieCol dst then 1 else 3
def rowPort (src dst : Nat) : Nat := if dieRow src < dieRow dst then 2 else 0

/-- The port a request takes: row first, through E or W (R311). -/
def requestPort (src dst : Nat) : Nat := if dieCol src ≠ dieCol dst then colPort src dst else rowPort src dst
/-- The port a response takes: column first (R311). -/
def responsePort (src dst : Nat) : Nat := if dieRow src ≠ dieRow dst then rowPort src dst else colPort src dst

/-- Does a module carry or accept traffic: LINK_UP, or LOW_POWER, which a queued flit ends (R462)? -/
def Module.carries (m : Module) : Bool := m.st == 5 || m.st == 7

/-- The modules of a port that partition p owns and that carry traffic, ascending (R312). -/
def State.portMods (s : State) (p port : Nat) : List Nat :=
  ((List.range 5).map fun i => 5 * port + i).filter fun m => bit (s.part p).modules m && (s.mod (4 + m)).carries

/-- Does partition p own a peer module that carries traffic (R29)? -/
def State.peerUp (s : State) (p : Nat) : Bool :=
  (List.range 20).any fun m => bit (s.part p).modules m && (s.mod (4 + m)).carries

/-- The fold of R312. -/
def foldPa (pa : Nat) : Nat :=
  bits pa 48 4 ^^^ bits pa 40 8 ^^^ bits pa 32 8 ^^^ bits pa 24 8 ^^^ bits pa 16 8 ^^^ bits pa 8 8

/-- The fold of a message or response (R312). -/
def foldTag (tag : Nat) : Nat := bits tag 8 8 ^^^ bits tag 0 8

/-- Module number h mod k of a port (R312). -/
def State.pickMod (s : State) (p port h : Nat) : Option Nat :=
  let l := s.portMods p port
  l[h % l.length]?

/-- A packet header slot (R302). -/
def kppHeader (op vc acc : Nat) (be : Bool) (src dst tag len status addr : Nat) : Bytes :=
  leBytes 1 op ++ leBytes 1 (64 * vc + 16 * acc + 8 * b2n be) ++ leBytes 1 src ++ leBytes 1 dst ++ leBytes 2 tag ++
    leBytes 1 (len - 1) ++ leBytes 1 status ++ leBytes 8 (addr % 2 ^ 52)

/-- Data packed into whole slots (R303). -/
def kppData (d : Bytes) : Bytes := padTo (16 * ceilDiv d.length 16) d

/-- Slots a packet needs credits for: its header, its data and its byte-enable mask (R305). -/
def Packet.cost (p : Packet) : Nat := p.slots.length / 16 + b2n p.be.isSome

/-- Is the module idle-only: its owner CREATED or SCRUBBING, its unit word STOPPED or above, or a compute-part reset not yet followed
by READY (R318, R382, R415, R438)? -/
def State.idleOnly (s : State) (m : Nat) : Bool :=
  s.mc.rd.hold || decide (2 ≤ s.level (68 + m)) ||
    match s.moduleOwner m with
    | some p => (s.part p).st == 1 || (s.part p).st == 3
    | none => false

/-- The transmit queue of a virtual channel. -/
def Module.queue (m : Module) (vc : Nat) : List Packet :=
  match vc with
  | 0 => m.q0
  | 1 => m.q1
  | 2 => m.q2
  | _ => m.q3

/-- Replaces the transmit queue of a virtual channel. -/
def Module.setQueue (m : Module) (vc : Nat) (l : List Packet) : Module :=
  match vc with
  | 0 => { m with q0 := l }
  | 1 => { m with q1 := l }
  | 2 => { m with q2 := l }
  | _ => { m with q3 := l }

/-- Send credits of a virtual channel. -/
def Module.credit (m : Module) (vc : Nat) : Nat :=
  match vc with
  | 0 => m.cr0
  | 1 => m.cr1
  | 2 => m.cr2
  | _ => m.cr3

/-- Adds to or, with `take`, takes from the send credits of a virtual channel. -/
def Module.addCredit (m : Module) (vc n : Nat) (take : Bool) : Module :=
  let f (c : Nat) : Nat := if take then c - n else c + n
  match vc with
  | 0 => { m with cr0 := f m.cr0 }
  | 1 => { m with cr1 := f m.cr1 }
  | 2 => { m with cr2 := f m.cr2 }
  | _ => { m with cr3 := f m.cr3 }

/-- The packet of a channel that goes next: own and forwarded packets alternate, each in queue order (R306). -/
def Module.nextOf (m : Module) (vc : Nat) : Option Packet :=
  let q := m.queue vc
  match q.find? fun p => p.own != m.lastOwn.contains vc with
  | some p => some p
  | none => q.head?

/-- Takes a packet out of its queue: credits fall and the alternation turns. -/
def Module.take (m : Module) (vc : Nat) (p : Packet) : Module :=
  let m1 := (m.setQueue vc ((m.queue vc).erase p)).addCredit vc p.cost true
  { m1 with lastOwn := if p.own then (vc :: m.lastOwn).dedup else m.lastOwn.filter fun v => v != vc }

/-- May the module send this packet now (credits R305, idle-only R318)? -/
def Module.sendable (m : Module) (idle : Bool) (vc : Nat) (p : Packet) : Bool :=
  decide (p.cost ≤ m.credit vc) && (p.resp || !idle)

/-- The channel whose packet goes next: VC 1 and VC 3 at their guaranteed shares, then VC 2, VC 0, VC 1, VC 3 (R306). -/
def Module.pickVc (m : Module) (idle : Bool) : Option (Nat × Packet) :=
  let ready (vc : Nat) : Option (Nat × Packet) :=
    match m.nextOf vc with
    | some p => if m.sendable idle vc p then some (vc, p) else none
    | none => none
  let first := (if 3 ≤ m.since1 then [1] else []) ++ (if 15 ≤ m.since3 then [3] else []) ++ [2, 0, 1, 3]
  first.findSome? ready

/-- Gathers up to `n` header-only packets of one partition for a flit, in the order of R306. -/
def Module.gather (idle : Bool) (part : Nat) (resp : Bool) : Nat → Module → List Packet → Module × List Packet
  | 0, m, acc => (m, acc)
  | n + 1, m, acc =>
    match m.pickVc idle with
    | some (vc, p) =>
      if p.slots.length = 16 && p.part == part && p.resp == resp then
        Module.gather idle part resp n (m.take vc p) (acc ++ [p])
      else (m, acc)
    | none => (m, acc)

/-- The acknowledgement and credit fields a departing flit carries, and the module after returning those credits (R299, R305). -/
def Module.ackFields (m : Module) : Nat × Module :=
  let ack := fld ((m.rxNext + 1023) % 1024) 36 10 + fld (b2n m.rxAny) 35 1
  if m.fr2 ≠ 0 then (ack + fld 2 33 2 + fld (min m.fr2 8191) 20 13, { m with fr2 := m.fr2 - 8191 })
  else if m.fr0 ≠ 0 then (ack + fld 0 33 2 + fld (min m.fr0 8191) 20 13, { m with fr0 := m.fr0 - 8191 })
  else if m.fr1 ≠ 0 then (ack + fld 1 33 2 + fld (min m.fr1 8191) 20 13, { m with fr1 := m.fr1 - 8191 })
  else if m.fr3 ≠ 0 then (ack + fld 3 33 2 + fld (min m.fr3 8191) 20 13, { m with fr3 := m.fr3 - 8191 })
  else (ack, m)

/-- The 256 bytes of a flit (R298). -/
def flitBytes (header : Nat) (body : Bytes) : Bytes :=
  let b := leBytes 8 header ++ padTo 240 body
  b ++ leBytes 8 (crc64 0 b)

/-- Sends a flit with a header word and body on PL[m]; it takes the waiting acknowledgement and credits along. -/
def State.sendFlit (s : State) (m header : Nat) (body : Bytes) : State :=
  let (ack, x) := (s.mod (4 + m)).ackFields
  let idle := header == 0
  (s.modMod (4 + m) fun _ => { x with idleFrom := if idle then x.idleFrom else s.clk.mgt, ackDue := false }).emit
    (.flit m (flitBytes (header + ack) body))

/-- Has a module an acknowledgement or credits to return? -/
def Module.owes (m : Module) : Bool := m.ackDue || m.fr0 != 0 || m.fr1 != 0 || m.fr2 != 0 || m.fr3 != 0

/-- Sends IDLE flits that carry what PL[m] owes, when nothing else has carried it (R300). -/
def State.sendIdle (s : State) (m : Nat) : Nat → State
  | 0 => s
  | n + 1 => if (s.mod (4 + m)).st == 5 && (s.mod (4 + m)).owes then (s.sendFlit m 0 []).sendIdle m n else s

/-- The IV of a PAYLOAD flit (R307). -/
def payloadIv (die module count : Nat) : Bytes := leBytes 1 die ++ leBytes 1 module ++ leBytes 10 count

/-- Sends one sequenced flit of gathered packets: kept in the retry buffer, counted, encrypted unless it is a RESP flit
(R299 to R309, R317, R384). -/
def State.sendPackets (s : State) (m : Nat) (l : List Packet) : State :=
  let x := s.mod (4 + m)
  match l with
  | [] => s
  | p :: rest =>
    let seq := fld x.nextSeq 46 10
    if p.resp then
      let body := leBytes 1 3 ++ zeros 15 ++ (l.map Packet.slots).flatten
      let h := fld 2 61 3 + fld p.part 56 4 + seq
      let f : TxFlit := { seq := x.nextSeq, header := h, body := padTo 240 body }
      (s.modMod (4 + m) fun x => { x with retry := x.retry ++ [f], nextSeq := (x.nextSeq + 1) % 1024 }).sendFlit m h f.body
    else
      let g := (s.part p.part).scope0
      let k := 2 * p.part + g
      let plain := match p.be, rest with
        | some b, _ => padTo 208 p.slots ++ padTo 16 (leBytes 8 b)
        | none, r :: _ => if p.slots.length = 16 then (l.map Packet.slots).flatten else padTo 208 p.slots ++ r.slots
        | none, [] => p.slots
      let h := fld 1 61 3 + fld g 60 1 + fld p.part 56 4 + seq
      let aad := leBytes 1 (h >>> 56)
      let body := Config.gcmSeal ((s.part p.part).slot g).peerKey (payloadIv s.dieId m (Tab.at x.ivTx k)) aad (padTo 224 plain)
      let f : TxFlit := { seq := x.nextSeq, header := h, body := padTo 240 body, key := some (p.part, g) }
      let s1 := s.modMod (4 + m) fun x =>
        { x with retry := x.retry ++ [f], nextSeq := (x.nextSeq + 1) % 1024, flitsTx := wrapAdd 64 x.flitsTx 1
                 ivTx := Tab.put x.ivTx k (wrapAdd 80 (Tab.at x.ivTx k) 1) }
      ((s1.keyTake f.key).count p.part 2 256).sendFlit m h f.body

/-- Fills one flit from the transmit queues and sends it, if anything may go. -/
def State.pumpOne (s : State) (m : Nat) : Option State :=
  let x := s.mod (4 + m)
  if x.st ≠ 5 || 256 ≤ x.retry.length then none
  else
    let idle := s.idleOnly m
    match x.pickVc idle with
    | none => none
    | some (vc, p) =>
      let x1 := x.take vc p
      let room := if p.slots.length = 16 then 13 else if p.be.isSome then 0 else 1
      let (x2, l) := Module.gather idle p.part p.resp room x1 [p]
      let vcs := l.map Packet.vc
      let x3 := { x2 with since1 := if vcs.contains 1 then 0 else x2.since1 + 1
                          since3 := if vcs.contains 3 then 0 else x2.since3 + 1
                          ackAt := if x2.retry.isEmpty then Tab.at s.clk.pl m else x2.ackAt }
      some ((s.modMod (4 + m) fun _ => x3).sendPackets m l)

/-- Sends flits until nothing more may go; `n` bounds them. -/
def State.pumpN (s : State) (m : Nat) : Nat → State
  | 0 => s
  | n + 1 => match s.pumpOne m with
    | some s1 => s1.pumpN m n
    | none => s

/-- Sends everything PL[m] may send now (R306). -/
def State.pump (s : State) (m : Nat) : State :=
  let x := s.mod (4 + m)
  s.pumpN m (x.q0.length + x.q1.length + x.q2.length + x.q3.length)

/-- Queues a packet on PL[m]. -/
def State.queuePacket (s : State) (m : Nat) (p : Packet) : State :=
  (s.modMod (4 + m) fun x => x.setQueue p.vc (x.queue p.vc ++ [p])).pump m

/-! ## Requests of this die -/

/-- Outstanding peer requests and messages by tag. -/
def State.tag (s : State) (t : Nat) : PeerTag := Tab.at s.links.tags t

/-- Looks for a tag that nothing outstanding has, from `t` up (R315). -/
def findTag (used : List Nat) : Nat → Nat → Nat
  | 0, t => t
  | n + 1, t => if used.contains t then findTag used n ((t + 1) % 65536) else t

/-- A free tag, chosen by no rule; none when all are outstanding (R315). -/
def State.freeTag (s : State) : Option (Nat × State) :=
  let used := Tab.ixs s.links.tags
  if 65536 ≤ used.length then none
  else
    let (t, s1) := s.choose 65536
    some (findTag used used.length t, s1)

/-- Is a peer write of the same unit to the same 256-byte block without its response (R316)? -/
def State.blockHeld (s : State) (unit pa : Nat) (kind : ReqKind) : Bool :=
  let acc := match kind with
    | .acc _ => true
    | _ => false
  s.links.tags.any fun e => e.2.live &&
    match e.2.block with
    | some (u, b, a) => u == unit && b == pa / 256 && !(a && acc)
    | none => false

/-- Sends a peer request of this die on its first hop; none when no module carries it or no tag is free: `some none` is no tag
(R311, R312, R315). -/
def State.sendPeer (s : State) (r : Req) (vc : Nat) : Option (Option State) :=
  match s.pickMod r.part (requestPort s.dieId (dieOf r.pa)) (foldPa r.pa) with
  | none => none
  | some m =>
    if 1 ≤ s.level (68 + m) then some none
    else match s.freeTag with
    | none => some none
    | some (t, s1) =>
      let (op, acc) := match r.kind with
        | .read => (1, 0)
        | .write => (2, 0)
        | .acc a => (3, a)
      let be := if r.kind == .write && r.len == 64 && r.mask != maskRange 0 64 then some r.mask else none
      let data := if r.kind == .read then [] else kppData r.data
      let h := kppHeader op vc acc be.isSome s.dieId (dieOf r.pa) t r.len 0 r.pa
      let isAcc := acc != 0
      let e : PeerTag := { live := true, module := m, dst := dieOf r.pa, part := r.part, req := some s1.nextReq
                           start := s.clk.fab, block := if op = 1 then none else some (r.unit, r.pa / 256, isAcc) }
      let s2 := { s1 with links := { s1.links with tags := Tab.put s1.links.tags t e } }
      let s3 := s2.send { r with path := .peer m t }
      some (some (s3.queuePacket m { part := r.part, vc := vc, slots := h ++ data, be := be }))

/-- Frees a tag. -/
def State.freeTagOf (s : State) (t : Nat) : State :=
  { s with links := { s.links with tags := Tab.drop s.links.tags t } }

/-- Sends a response header or packet from this die towards another, in a RESP flit when `resp` (R311, R317). -/
def State.sendResponse (s : State) (p dst tag : Nat) (slots : Bytes) (resp : Bool) : State :=
  match s.pickMod p (responsePort s.dieId dst) (foldTag tag) with
  | some m => s.queuePacket m { part := p, vc := 2, slots := slots, resp := resp }
  | none => s

end Sys2Proof.Machine
end

