-- ==== Sys2Proof/Machine/Tier.lean ====
section
/-! DEFINITION. The host-tier paths: the tier cache (R191 to R196), the write-combining buffer (R197, R198), the narrow path (R199). -/

namespace Sys2Proof.Machine

/-- The 64-byte line of an address. -/
def lineOf (pa : Nat) : Nat := pa / 64 * 64

/-- Counts a tier event of partition p under HL_TC_PERF_CTRL. -/
def State.tierPerf (s : State) (p : Nat) (f : Tier → Tier) : State :=
  if s.tier.perfEnable && (s.tier.perfAll || s.tier.perfPart == p) then { s with tier := f s.tier } else s

/-- The tier-cache entries a partition may use for a line (R191). -/
def State.waysFor (s : State) (p pa : Nat) : List Nat :=
  (maskBits 16 (s.part p).tcWays).map fun w => 16 * (Config.cacheSet (pa / 64) % 16384) + w

/-- Does an entry hold partition p's copy of a line? -/
def CacheLine.holds (l : CacheLine) (p pa : Nat) : Bool := l.valid && l.part == p && l.pa == lineOf pa

/-- The entry that holds partition p's copy of a line. -/
def State.cacheFind (s : State) (p pa : Nat) : Option Nat :=
  (s.waysFor p pa).find? fun k => (Tab.at s.tier.lines k).holds p pa

/-- Is there room for one more KEEP mark of p in the line's set (R193)? -/
def State.keepRoom (s : State) (p pa : Nat) : Bool :=
  let ways := s.waysFor p pa
  decide ((ways.filter fun k => (Tab.at s.tier.lines k).valid && (Tab.at s.tier.lines k).keep).length < ways.length / 2)

/-- What a hit does to the line, by hint (R192). -/
def State.onHit (s : State) (p pa hint k : Nat) : State :=
  let l := Tab.at s.tier.lines k
  if hint = 2 then
    if l.keep || !s.keepRoom p pa then s
    else { s with tier := { s.tier with lines := Tab.put s.tier.lines k { l with keep := true } } }
  else if hint = 3 then { s with tier := { s.tier with lines := Tab.put s.tier.lines k default } }
  else s

/-- Removes a line from every way, and keeps outstanding fills of it from installing (R194, R195, R196). -/
def State.removeLine (s : State) (pa : Nat) : State :=
  let l := Tab.mapV s.tier.lines fun _ x => if x.valid && x.pa == lineOf pa then default else x
  let f := s.tier.fills.map fun x => if x.pa == lineOf pa then { x with noInstall := true } else x
  { s with tier := { s.tier with lines := l, fills := f } }

/-- A bulk read of dies 0 to 3 that every check has passed: a hit is served from the line, a miss joins or starts a fill
(R191 to R193, R196). -/
def State.bulkRead (s : State) (r : Req) (hint : Nat) : State :=
  match s.cacheFind r.part r.pa with
  | some k =>
    let d := slice (Tab.at s.tier.lines k).data (r.pa % 64) r.len
    let s1 := s.tierPerf r.part fun t => { t with hits := inc t.hits }
    (s1.onHit r.part r.pa hint k).send { r with path := .bulk, data := d, hit := true, key := none }
  | none =>
    let s1 := s.tierPerf r.part fun t => { t with misses := inc t.misses }
    let s2 := s1.send { r with path := .bulk, key := none }
    let alloc := (hint == 0 || hint == 2) && (s.part r.part).tcWays != 0
    let joins (f : Fill) : Bool := f.part == r.part && f.pa == lineOf r.pa && f.key == r.key && !f.noInstall
    if s2.tier.fills.any joins then
      let join (f : Fill) : Fill :=
        { f with alloc := f.alloc || alloc, keep := f.keep || (alloc && hint == 2), waiters := f.waiters ++ [s.nextReq] }
      let fs := s2.tier.fills.map fun f => if joins f then join f else f
      { s2 with tier := { s2.tier with fills := fs } }
    else
      let f : Fill := { id := s2.tier.next, part := r.part, pa := lineOf r.pa, key := r.key, alloc := alloc
                        keep := alloc && hint == 2, waiters := [s.nextReq] }
      let s3 := { s2 with tier := { s2.tier with fills := s2.tier.fills ++ [f], next := s2.tier.next + 1 } }
      (s3.keyTake r.key).sendHost
        { part := r.part, unit := r.unit, purpose := .cacheFill f.id, path := .bulk, pa := f.pa, len := 64, key := r.key }
where
  inc (n : Nat) : Nat := wrapAdd 64 n 1

/-- Installs a filled line in one of the partition's ways (R191 to R193). -/
def State.installLine (s : State) (f : Fill) (data : Bytes) : State :=
  let ways := s.waysFor f.part f.pa
  let l : CacheLine := { valid := true, part := f.part, pa := f.pa, data := data, keep := f.keep && s.keepRoom f.part f.pa }
  let put (s : State) (k : Nat) : State := { s with tier := { s.tier with lines := Tab.put s.tier.lines k l } }
  match ways.filter fun k => !(Tab.at s.tier.lines k).valid with
  | k :: _ => put s k
  | [] => match ways.filter fun k => !(Tab.at s.tier.lines k).keep with
    | [] => s
    | w :: ws =>
      let (n, s1) := s.choose (ws.length + 1)
      put s1 ((w :: ws).getD n w)

/-! ## Write-combining buffer -/

/-- Pushes flushed entry `n` with byte enables, or as a full line (R198). -/
def State.pushEntry (s : State) (n : Nat) (e : WcEntry) : State :=
  let m := if e.key.isSome then unitMask e.mask else e.mask
  let s1 := s.tierPerf e.part fun t =>
    if m == maskRange 0 64 then { t with pushFull := wrapAdd 64 t.pushFull 1 }
    else { t with pushPartial := wrapAdd 64 t.pushPartial 1 }
  ((s1.removeLine e.pa).keyTake e.key).sendHost
    { part := e.part, unit := 69, purpose := .wcPush n, path := .combining, kind := .write, pa := e.pa, len := 64
      mask := m, data := e.data, wire := s.seal e.key e.pa e.data, key := e.key }

/-- Flushes write-combining entry k: a tagged entry that covers a 16-byte unit in part reads the line first (R198, R361). -/
def State.flushEntry (s : State) (k : Nat) : State :=
  let e := Tab.at s.tier.wc k
  if !e.valid then s
  else
    let n := s.tier.next
    let s1 := { s with tier := { s.tier with
      wc := Tab.put s.tier.wc k default, pushes := Tab.put s.tier.pushes n e, next := n + 1 } }
    if e.key.isSome && partialUnit e.mask then
      (s1.keyTake e.key).sendHost
        { part := e.part, unit := 69, purpose := .wcMerge n, path := .combining, pa := e.pa, len := 64, key := e.key }
    else s1.pushEntry n e

/-- The merge read of flush `n` has returned plaintext `old`: merges and pushes (R361). -/
def State.mergePush (s : State) (n : Nat) (old : Bytes) : State :=
  let e := Tab.at s.tier.pushes n
  let e1 := { e with data := mergeBytes e.mask old e.data }
  ({ s with tier := { s.tier with pushes := Tab.put s.tier.pushes n e1 } }).pushEntry n e1

/-- The write-combining entries of a partition (R197). -/
def wcIxs (p : Nat) : List Nat := [4 * p, 4 * p + 1, 4 * p + 2, 4 * p + 3]

/-- Flushes every entry of a list. -/
def State.flushAll (s : State) (l : List Nat) : State := s.each l fun s k => s.flushEntry k

/-- Does an entry hold a line? -/
def WcEntry.holds (e : WcEntry) (p pa : Nat) : Bool := e.valid && e.part == p && e.pa == lineOf pa

/-- Flushes the partition's entry for a line, before another write to it goes by another way (R181). -/
def State.flushLine (s : State) (p pa : Nat) : State :=
  s.flushAll ((wcIxs p).filter fun k => (Tab.at s.tier.wc k).holds p pa)

/-- Flushes the entries that a descriptor or stream wrote into, found by a test on its requests (R198). -/
def State.flushOf (s : State) (p : Nat) (mine : Purpose → Bool) : State :=
  s.flushAll ((wcIxs p).filter fun k => (Tab.at s.tier.wc k).reqs.any fun i =>
    match s.req i with
    | some r => mine r.purpose
    | none => false)

/-- Merges partial write `r`, already outstanding as request `id`, into entry k (R197). -/
def State.mergeWc (s : State) (k id : Nat) (r : Req) : State :=
  let e := Tab.at s.tier.wc k
  let base := if e.valid then e else { valid := true, part := r.part, pa := lineOf r.pa, key := r.key, data := zeros 64
                                       stamp := s.tier.next }
  let e1 := { base with mask := base.mask ||| r.mask, data := mergeBytes r.mask base.data (padTo 64 (zeros (r.pa % 64) ++ r.data))
                        reqs := base.reqs ++ [id], last := s.clk.fab }
  let s1 := { s with tier := { s.tier with wc := Tab.put s.tier.wc k e1, next := s.tier.next + 1 } }
  if e1.mask == maskRange 0 64 then s1.flushEntry k else s1

/-- The oldest of a list of entries. -/
def State.oldest (s : State) (l : List Nat) : Nat :=
  l.foldl (fun a k => if (Tab.at s.tier.wc k).stamp < (Tab.at s.tier.wc a).stamp then k else a) (l.headD 0)

/-- A partial bulk write: into the partition's entry for its line, a free entry, or the place of the oldest (R197, R198). -/
def State.combine (s : State) (r : Req) : State :=
  let id := s.nextReq
  let s1 := (s.keyTake r.key).send { r with path := .combining }
  let l := wcIxs r.part
  match l.find? fun k => (Tab.at s1.tier.wc k).holds r.part r.pa && (Tab.at s1.tier.wc k).key == r.key with
  | some k => s1.mergeWc k id r
  | none =>
    let s2 := s1.flushLine r.part r.pa
    match l.find? fun k => !(Tab.at s2.tier.wc k).valid with
    | some k => s2.mergeWc k id r
    | none =>
      let k := s2.oldest l
      (s2.flushEntry k).mergeWc k id r

/-- A bulk write to dies 0 to 3: whole lines as full-line pushes, the rest through the buffer (R197). The request's `mask` holds
the bytes it writes within its line. -/
def State.bulkWrite (s : State) (r : Req) : State :=
  if r.mask == maskRange 0 64 then
    let s1 := (s.flushLine r.part r.pa).removeLine r.pa
    (s1.keyTake r.key).sendHost { r with path := .bulk, wire := s.seal r.key (lineOf r.pa) r.data }
  else s.combine r

/-- A narrow-path write: a push with byte enables; to a tagged page it reads the line first (R199, R361). -/
def State.narrowWrite (s : State) (r : Req) : State :=
  let s1 := (s.flushLine r.part r.pa).removeLine r.pa
  let id := s1.nextReq
  let s2 := (s1.keyTake r.key).sendHost { r with path := .narrow, mask := maskRange (r.pa % 64) r.len
                                                 wire := if r.key.isSome then [] else r.data }
  if r.key.isSome then
    (s2.keyTake r.key).sendHost
      { part := r.part, unit := r.unit, purpose := .tagMerge id, path := .narrow, pa := lineOf r.pa, len := 64, key := r.key }
  else s2

/-- The merge read of narrow write `id` has returned plaintext `old`: the write goes out re-encrypted (R361). -/
def State.mergeNarrow (s : State) (id : Nat) (old : Bytes) : State :=
  s.modReq id fun r =>
    let line := mergeBytes r.mask old (zeros (r.pa % 64) ++ r.data)
    { r with wire := s.seal r.key (lineOf r.pa) line }

/-- A narrow-path read. -/
def State.narrowRead (s : State) (r : Req) : State := (s.keyTake r.key).sendHost { r with path := .narrow }

/-- Discards, without pushing, every write-combining entry of a partition and the requests merged in them (R379). -/
def State.dropWc (s : State) (p : Nat) : State :=
  { s with tier := { s.tier with wc := Tab.keep s.tier.wc fun k => k / 4 != p } }

/-- Empties the tier-cache lines of a partition (R380). -/
def State.dropLines (s : State) (p : Nat) : State :=
  { s with tier := { s.tier with lines := s.tier.lines.filter fun e => e.2.part != p } }

end Sys2Proof.Machine
end

