-- ==== Sys2Proof/Machine/Tlb.lean ====
section
/-! DEFINITION. Translation: the TLBs, the walk cache, the judgement of a leaf, and what an invalidation cut removes (R45 to R67). -/

namespace Sys2Proof.Machine

/-- The 57 bits of a virtual address that tables and TLBs use. -/
def va57 (va : Nat) : Nat := va % 2 ^ 57

/-- Is a 64-bit virtual address canonical for its address space's width (R23)? -/
def canonical (wide : Bool) (va : Nat) : Bool :=
  let top := if wide then 56 else 47
  let up := (va % 2 ^ 64) >>> top
  up == 0 || up == 2 ^ (64 - top) - 1

/-- Does a cached leaf translate this address? -/
def Leaf.hits (l : Leaf) (asid va : Nat) : Bool :=
  l.valid && l.asid == asid && va57 va >>> l.sizeLog2 == l.va >>> l.sizeLog2

/-- Physical address of `va` through a leaf. -/
def Leaf.phys (l : Leaf) (va : Nat) : Nat := l.pa + va % 2 ^ l.sizeLog2

/-- What the checks of R54 decide for a leaf. -/
inductive Judge where
  | ok
  /-- A write through D = 0 needs a dirty walk (R52). -/
  | dirty
  | noUser
  | writeFault
  | keyTag
deriving DecidableEq, Repr, Inhabited

/-- Judges a leaf for an access of partition p (R54, R55). -/
def Leaf.judge (l : Leaf) (p : Nat) (write : Bool) : Judge :=
  if !l.u then .noUser
  else if write && !l.w then .writeFault
  else if decide (dieOf l.pa < 4) && !l.shared && (!l.ktValid || l.ktPart != p) then .keyTag
  else if decide (dieOf l.pa < 4) && l.shared && write then .keyTag
  else if write && !l.d then .dirty
  else .ok

/-- The host-tier tag an access through a leaf uses (R48, R360). -/
def Leaf.tag (l : Leaf) : Option (Nat × Nat) :=
  if dieOf l.pa < 4 && l.ktValid then some (l.ktPart, l.ktGen) else none

/-- First-level TLB of queue cell c. -/
def l1OfCell (c : Nat) : Nat := c
/-- First-level TLB of Reckoner port k for partition p (R56). -/
def l1OfPort (k p : Nat) : Nat := 64 + 16 * k + p

/-- First-level lookup. -/
def State.l1Find (s : State) (t asid va : Nat) : Option Leaf := (Tab.at s.xl.l1 t).find? fun l => l.hits asid va

/-- Set of the second-level TLB for a page size (R57). -/
def l2Set (asid va z : Nat) : Nat := Config.tlbHash asid (va57 va >>> z) z % 2048

/-- Second-level lookup in the ways partition p owns, for the three page sizes (R57). -/
def State.l2Find (s : State) (p asid va : Nat) : Option Leaf :=
  ([12, 21, 30].flatMap fun z => (maskBits 16 (s.part p).tlbWays).map fun w => 16 * l2Set asid va z + w).findSome? fun k =>
    let l := Tab.at s.xl.l2 k
    if l.hits asid va then some l else none

/-- Installs a leaf in a first-level TLB of 64 entries; a full one loses a pseudo-LRU victim. -/
def State.l1Install (s : State) (t : Nat) (l : Leaf) : State :=
  let cur := (Tab.at s.xl.l1 t).filter fun e => !e.hits l.asid l.va
  if cur.length < 64 then { s with xl := { s.xl with l1 := Tab.put s.xl.l1 t (cur ++ [l]) } }
  else
    let (k, s1) := s.choose 64
    { s1 with xl := { s1.xl with l1 := Tab.put s1.xl.l1 t (cur.eraseIdx k ++ [l]) } }

/-- Installs a leaf in a second-level way its partition owns (R57). -/
def State.l2Install (s : State) (p : Nat) (l : Leaf) : State :=
  let base := 16 * l2Set l.asid l.va l.sizeLog2
  let ways := (maskBits 16 (s.part p).tlbWays).map fun w => base + w
  let same := ways.filter fun k => (Tab.at s.xl.l2 k).hits l.asid l.va
  let empty := ways.filter fun k => !(Tab.at s.xl.l2 k).valid
  match same ++ empty, ways with
  | k :: _, _ => { s with xl := { s.xl with l2 := Tab.put s.xl.l2 k l } }
  | [], [] => s
  | [], w :: ws =>
    let (n, s1) := s.choose (ws.length + 1)
    { s1 with xl := { s1.xl with l2 := Tab.put s1.xl.l2 ((w :: ws).getD n w) l } }

/-- Counts a translation event of partition p under XL_PERF_CTRL. -/
def State.xlPerf (s : State) (p : Nat) (f : Xl → Xl) : State :=
  if s.xl.perfEnable && (s.xl.perfAll || s.xl.perfPart == p) then { s with xl := f s.xl } else s

/-- Counts an event wrapping at 64 bits. -/
def inc64 (n : Nat) : Nat := wrapAdd 64 n 1

/-- Records an outcome in XL_ERR_INFO and reports it to EC (R55, R64, R70). -/
def State.xlError (s : State) (kind p asid va : Nat) : State :=
  State.report
    { s with xl := { s.xl with
        errValid := true, errKind := kind, errPart := p, errAsid := asid, errVa := va57 va } }
    { source := 1, cls := 1, part := some p, detail := kind }

/-- How a translation ends. -/
inductive Xlate where
  | leaf (l : Leaf)
  | notCanonical
  | unbound
  /-- Missed both levels. -/
  | miss
deriving DecidableEq, Repr, Inhabited

/-- Looks an address up: first level, then second level with an install in the first (R22, R23, R46, R56, R57). -/
def State.translate (s : State) (p t asid va : Nat) : Xlate × State :=
  let a := Tab.at s.xl.asids asid
  if !a.bound then (.unbound, s)
  else if !canonical a.wide va then (.notCanonical, s)
  else match s.l1Find t asid va with
    | some l => (.leaf l, s)
    | none => match s.l2Find p asid va with
      | some l =>
        (.leaf l, (s.xlPerf p fun x => { x with l2Hits := inc64 x.l2Hits }).l1Install t l)
      | none => (.miss, s)

/-- Files a miss, once per requester, in arrival order (R60). -/
def State.fileMiss (s : State) (m : Miss) : State :=
  if s.xl.misses.any fun x => x.who == m.who then s
  else
    let s1 := if m.dirty then s else s.xlPerf m.part fun x => { x with l2Misses := inc64 x.l2Misses }
    { s1 with xl := { s1.xl with misses := s1.xl.misses ++ [{ m with stamp := s1.xl.next }], next := s1.xl.next + 1 } }

/-- Does this requester wait for a walk? -/
def State.missing (s : State) (w : Requester) : Bool := s.xl.misses.any fun m => m.who == w

/-- Is the page at a physical address locked by the re-key walker of its partition (R365)? -/
def State.locked (s : State) (pa : Nat) : Bool :=
  partIxs.any fun p => match (s.part p).rekey.lock with
    | some l => decide (l.pa ≤ pa) && decide (pa < l.pa + l.size)
    | none => false

/-! ## Invalidation (R65 to R69) -/

/-- What an invalidation removes. -/
inductive InvKind where
  | range (asid va pages : Nat)
  | asid (asid : Nat)
  | partition
deriving DecidableEq, Repr, Inhabited

/-- Do `[a, a + n)` and `[b, b + m)` meet? -/
def meets (a n b m : Nat) : Bool := decide (a < b + m) && decide (b < a + n)

/-- Is a leaf of partition p removed (R65)? -/
def InvKind.hitsLeaf (k : InvKind) (p : Nat) (l : Leaf) : Bool :=
  match k with
  | .range a va n => l.asid == a && meets l.va (2 ^ l.sizeLog2) (va57 va) (4096 * n)
  | .asid a => l.asid == a
  | .partition => l.asid / 64 == p

/-- Low bit of the index field of a level (R49). -/
def levelLo (level : Nat) : Nat := 12 + 9 * (level - 1)

/-- Is a walk-cache entry of partition p removed (R65)? -/
def InvKind.hitsWalk (k : InvKind) (p : Nat) (w : WalkEntry) : Bool :=
  match k with
  | .range a va n => w.asid == a && meets (w.pfx <<< levelLo w.level) (2 ^ levelLo w.level) (va57 va) (4096 * n)
  | .asid a => w.asid == a
  | .partition => w.asid / 64 == p

/-- Removes the entries of R65 from every TLB and the walk-cache slice of p. -/
def State.removeEntries (s : State) (p : Nat) (k : InvKind) : State :=
  let l1 := Tab.mapV s.xl.l1 fun _ l => l.filter fun e => !k.hitsLeaf p e
  let l2 := Tab.mapV s.xl.l2 fun _ l => if l.valid && k.hitsLeaf p l then default else l
  let wc := Tab.mapV s.xl.walkCache fun i l => if i = p then l.filter fun e => !k.hitsWalk p e else l
  { s with xl := { s.xl with l1 := l1, l2 := l2, walkCache := wc } }

/-- Discards the walks of p in progress; their misses wait for a fresh walk (R67). -/
def State.discardWalks (s : State) (p : Nat) : State :=
  let mine := (s.xl.walks.filter fun w => w.part == p).map Walk.id
  let isMine (r : Req) : Bool := mine.any fun i => r.purpose == .walkRead i || r.purpose == .ownedRead i
  { s with
    xl := { s.xl with walks := s.xl.walks.filter fun w => w.part != p }
    reqs := s.reqs.filter fun r => !isMine r }

/-- The spans of partition p in flight now (R68). -/
def State.spansOf (s : State) (p : Nat) : List (Nat × Nat × Nat) :=
  ((s.reqs.filter fun r => r.part == p).filterMap Req.span).dedup

/-- Invalidations of p cut and not acknowledged. -/
def State.invPending (s : State) (p : Nat) : Nat := (s.xl.invals.filter fun i => i.part == p).length

/-- Cuts an invalidation of partition p in this CK_FAB cycle (R66, R67, R68). -/
def State.cutInval (s : State) (p : Nat) (k : InvKind) (i : Inval) : State :=
  let s1 := (s.removeEntries p k).discardWalks p
  let rec1 := { i with id := s1.xl.next, part := p, cut := s1.clk.fab, waits := s1.spansOf p }
  { s1 with xl := { s1.xl with invals := s1.xl.invals ++ [rec1], next := s1.xl.next + 1 } }

/-- Empties every translation structure of partition p without a drain (R58, R380). -/
def State.emptyTlbs (s : State) (p : Nat) : State := (s.removeEntries p .partition).discardWalks p

end Sys2Proof.Machine
end

