-- ==== Sys2Proof/Machine/Access.lean ====
section
/-! DEFINITION. One request of a queue cell or the Reckoner at issue: translation, checks, holds, tokens, and the path it takes
(R22 to R31, R54, R142, R181, R281, R316, R357, R363). -/

namespace Sys2Proof.Machine

/-- A request a unit wants to issue. -/
structure Access where
  part : Nat
  /-- 0 to 63 a queue cell, 64 the Reckoner. -/
  unit : Nat
  /-- First-level TLB it translates through. -/
  l1 : Nat
  asid : Nat
  phys : Bool := false
  va : Nat
  len : Nat
  kind : ReqKind := .read
  /-- Bytes a write carries from `va` on. -/
  data : Bytes := []
  /-- Bytes of its 64-byte line a write covers. -/
  mask : Nat := 0
  hint : Nat := 0
  /-- Takes the narrow path to dies 0 to 3 (R199). -/
  narrow : Bool := false
  vc : Nat := 1
  /-- Where a Reckoner stream must lie (R209): 0 anywhere, 1 dies 0 to 3, 2 this die's HBM, 3 the HBM of an accelerator die. -/
  want : Nat := 0
  span : Option (Nat × Nat × Nat) := none
  fenced : Bool := false
  purpose : Purpose
  who : Requester
deriving DecidableEq, Repr

/-- What became of it. -/
inductive Verdict where
  /-- Issued. -/
  | sent
  /-- Not granted now: tokens, an ordering hold, a locked page or no free tag. -/
  | wait
  /-- Waits for a walk. -/
  | miss
  /-- Refused with a status of R151; nothing was emitted. -/
  | status (code : Nat)
  /-- A page fault with its cause (R54). -/
  | fault (cause : Nat)
deriving DecidableEq, Repr, Inhabited

/-- Does the access write? -/
def Access.write (a : Access) : Bool := a.kind != .read

/-- Requester code of the violation registers. -/
def Access.code (a : Access) : Nat := if a.unit = 64 then 1 else 0

/-! ## Tokens (R357, R358) -/

/-- May bucket b of partition p pay n bytes? Tokens are held in 1/16 byte. -/
def State.tokensOk (s : State) (p b n : Nat) : Bool :=
  let k := Tab.at (s.part p).buckets b
  k.rate == 0 || decide (16 * n ≤ k.tokens)

/-- Takes n bytes from bucket b of partition p. -/
def State.takeTokens (s : State) (p b n : Nat) : State :=
  s.modPart p fun x =>
    { x with buckets := Tab.upd x.buckets b fun k => { k with tokens := k.tokens - (if k.rate = 0 then 0 else 16 * n), waiting := false } }

/-- Notes that a request waits for tokens of bucket b. -/
def State.waitTokens (s : State) (p b : Nat) : State :=
  s.modPart p fun x => { x with buckets := Tab.upd x.buckets b fun k => { k with waiting := true } }

/-! ## Holds -/

/-- Has the unit an unacknowledged write to the line (R181)? -/
def State.lineHeld (s : State) (unit pa : Nat) : Bool :=
  s.reqs.any fun r => r.unit == unit && r.kind != .read && lineOf r.pa == lineOf pa

/-- Does a line lie in a chunk whose shared repair is open (R281)? -/
def State.chunkOpen (s : State) (pa : Nat) : Bool :=
  s.pt.repairs.any fun r =>
    let e := Tab.at s.pt.shared r.entry
    decide (e.base + r.chunk * 2 ^ 21 ≤ pa) && decide (pa < e.base + (r.chunk + 1) * 2 ^ 21)

/-- The die-fabric port of an access: its cell's group; for the Reckoner, one of its partition's groups, by no rule (R15, R16). -/
def State.fabricPort (s : State) (a : Access) : Nat × State :=
  if a.unit < 64 then (a.unit / 4, s)
  else
    let g := maskBits 16 (s.part a.part).groups
    if g.length = 0 then (0, s)
    else
      let (k, s1) := s.choose g.length
      (g.getD k 0, s1)

/-- The request an access becomes at physical address `pa` under a key tag. -/
def Access.req (a : Access) (pa : Nat) (key : Option (Nat × Nat)) : Req :=
  { part := a.part, unit := a.unit, purpose := a.purpose, kind := a.kind, pa := pa, len := a.len, mask := a.mask
    data := a.data, wire := a.data, key := key, span := a.span, fenced := a.fenced }

/-- The host-tier leg: shared repairs, key slot, tokens, then the narrow or the bulk path (R191, R197, R199, R281, R357, R363). -/
def State.accessHost (s : State) (a : Access) (pa : Nat) (key : Option (Nat × Nat)) : Verdict × State :=
  let r := a.req pa key
  let emptySlot : Bool := match key with
    | some (q, g) => ((s.part q).slot g).st == .empty
    | none => false
  if !a.write && !a.narrow && s.chunkOpen pa then
    (.status 0x0A, s)
  else if emptySlot then (.status 3, s.violate a.code a.part 0 pa a.write (some a.part))
  else if a.narrow then
    (.sent, if a.write then s.narrowWrite r else s.narrowRead r)
  else
    let b := if a.write then 1 else 0
    let n := if a.write then popCount 64 a.mask else a.len
    if !s.tokensOk a.part b n then (.wait, s.waitTokens a.part b)
    else
      let s1 := s.takeTokens a.part b n
      (.sent, if a.write then s1.bulkWrite r else s1.bulkRead r a.hint)

/-- The die-fabric leg (R15, R16, R357, R384). -/
def State.accessFabric (s : State) (a : Access) (pa : Nat) : Verdict × State :=
  let b := if a.write then 4 else 3
  let n := if a.write && a.mask != 0 then popCount 64 a.mask else a.len
  if !s.tokensOk a.part b n then (.wait, s.waitTokens a.part b)
  else
    let (port, s1) := (s.takeTokens a.part b n).fabricPort a
    (.sent, (s1.count a.part 3 n).send { a.req pa none with path := .fabric port })

/-- The peer leg (R31, R311 to R316, R357). -/
def State.accessPeer (s : State) (a : Access) (pa : Nat) : Verdict × State :=
  let n := 16 + if a.write then a.len else 0
  if a.write && s.blockHeld a.unit pa a.kind then (.wait, s)
  else if !s.tokensOk a.part 2 n then (.wait, s.waitTokens a.part 2)
  else match s.sendPeer (a.req pa none) a.vc with
    | none => (.status 8, s)
    | some none => (.wait, s)
    | some (some s1) => (.sent, s1.takeTokens a.part 2 n)

/-- Die select, the checks of R29 and R142, the ordering hold of R181, and the leg taken. -/
def State.accessPhys (s : State) (a : Access) (pa : Nat) (key : Option (Nat × Nat)) : Verdict × State :=
  let isAcc := match a.kind with
    | .acc _ => true
    | _ => false
  let misplaced : Bool := match a.want with
    | 0 => false
    | 1 => decide (4 ≤ dieOf pa)
    | 2 => dieOf pa != s.dieId
    | _ => decide (dieOf pa < 4)
  if misplaced || (isAcc && decide (dieOf pa < 4)) then (.status 2, s.countAddress)
  else match s.route a.part pa a.len a.write (s.peerUp a.part) with
    | .address => (.status 2, s.countAddress)
    | .protection c at_ => (.status 3, s.violate a.code a.part c at_ a.write (some a.part))
    | .go r pa' =>
      if !a.write && s.lineHeld a.unit pa' then (.wait, s)
      else match r with
        | .host => s.accessHost a pa' key
        | .fabric _ => s.accessFabric a pa'
        | .peer _ => s.accessPeer a pa'

/-- Issues an access, or says why not (R22, R23, R46, R54). -/
def State.access (s : State) (a : Access) : Verdict × State :=
  let m : Miss := { part := a.part, asid := a.asid, va := a.va, write := a.write, who := a.who }
  if a.phys then s.accessPhys a (a.va % 2 ^ 52) none
  else if s.missing a.who then (.wait, s)
  else match s.translate a.part a.l1 a.asid a.va with
    | (.unbound, s1) => (.status 2, s1)
    | (.notCanonical, s1) => (.status 2, s1)
    | (.miss, s1) => (.miss, s1.fileMiss m)
    | (.leaf l, s1) =>
      let pa := l.phys a.va
      match l.judge a.part a.write with
      | .noUser => (.status 3, s1.xlError 0 a.part a.asid a.va)
      | .writeFault => (.fault 2, s1)
      | .keyTag => (.status 3, s1.violate a.code a.part 0 pa a.write (some a.part))
      | .dirty => (.miss, s1.fileMiss { m with dirty := true })
      | .ok => if s1.locked pa then (.wait, s1) else s1.accessPhys a pa l.tag

end Sys2Proof.Machine
end

