-- ==== Sys2Proof/Machine/Transfer.lean ====
section
/-! DEFINITION. The transfer engine: descriptors, shapes, the funnel, and how a descriptor's requests progress (R73 to R85, R131 to R151). -/

namespace Sys2Proof.Machine

/-! ## Descriptor fields (R131, R133) -/

def dOpcode (b : Bytes) : Nat := byteAt b 0
def dTc (b : Bytes) : Nat := bits (byteAt b 1) 6 2
def dFence (b : Bytes) : Nat := bits (byteAt b 1) 4 2
def dHint (b : Bytes) : Nat := bits (byteAt b 1) 2 2
def dIrq (b : Bytes) : Bool := bit (byteAt b 1) 1
def dNoCqe (b : Bytes) : Bool := bit (byteAt b 1) 0
def dLap (b : Bytes) : Nat := fieldAt b 2 2
def dCounterIx (b : Bytes) : Nat := fieldAt b 4 2
def dCounterEn (b : Bytes) : Bool := bit (byteAt b 6) 0
def dOwn (b : Bytes) : Bool := bit (byteAt b 127) 7
def dCvt (b : Bytes) : Bool := bit (byteAt b 124) 7
def dSat (b : Bytes) : Bool := bit (byteAt b 124) 6
/-- ESIZE + 1: bytes, or values when CVT = 1. -/
def dSize (b : Bytes) : Nat := bits (byteAt b 124) 0 6 + 1
def dDstFmt (b : Bytes) : Nat := bits (byteAt b 125) 4 4
def dSrcFmt (b : Bytes) : Nat := bits (byteAt b 125) 0 4
def dAcc (b : Bytes) : Nat := bits (byteAt b 126) 6 2
def dDstMx (b : Bytes) : Bool := bit (byteAt b 126) 5
def dSrcMx (b : Bytes) : Bool := bit (byteAt b 126) 4

/-- A base address: 52-bit physical, or sign-extended from bit 56 (R24, R135). -/
def dBase (phys : Bool) (b : Bytes) (off : Nat) : Nat :=
  let v := fieldAt b off 8
  if phys then v % 2 ^ 52 else toModNat 64 (signed 57 v)

/-- One side of a transfer. -/
structure Shape where
  base : Nat := 0
  counts : List Nat := []
  strides : List Int := []
  /-- Element size in bytes. -/
  e : Nat := 1
deriving DecidableEq, Repr, Inhabited

/-- Source and destination element sizes in bytes; 0 where K × w is not whole bytes (R138). -/
def dElem (b : Bytes) (fmt : Nat) (mx : Bool) : Nat :=
  if dCvt b then (if dSize b * fmtWidth fmt % 8 = 0 then elemBytes fmt (dSize b) mx else 0) else dSize b

def srcShape (phys : Bool) (b : Bytes) : Shape :=
  { base := dBase phys b 8, counts := (List.range 5).map fun d => fieldAt b (24 + 4 * d) 4
    strides := (List.range 5).map fun d => signed 48 (fieldAt b (64 + 6 * d) 6), e := dElem b (dSrcFmt b) (dSrcMx b) }

def dstShape (phys : Bool) (b : Bytes) : Shape :=
  { base := dBase phys b 16, counts := (List.range 5).map fun d => fieldAt b (44 + 4 * d) 4
    strides := (List.range 5).map fun d => signed 48 (fieldAt b (94 + 6 * d) 6), e := dElem b (dDstFmt b) (dDstMx b) }

/-- Elements of a shape. -/
def Shape.size (sh : Shape) : Nat := sh.counts.foldl (· * ·) 1

/-- Displacement of element n (R135). -/
def strideSum : Nat → List Nat → List Int → Int
  | n, c :: cs, st :: sts => ((n % c : Nat) : Int) * st + strideSum (n / c) cs sts
  | _, _, _ => 0

/-- Index of element n in each dimension (R73). -/
def indexOf : Nat → List Nat → List Nat
  | n, c :: cs => n % c :: indexOf (n / c) cs
  | _, [] => []

/-- Address of byte `o` of a shape's stream (R73, R135). -/
def Shape.addr (sh : Shape) (o : Nat) : Nat :=
  toModNat 64 ((sh.base : Int) + strideSum (o / sh.e) sh.counts sh.strides + ((o % sh.e : Nat) : Int))

/-- Destination stream length L of a descriptor (R136, R147). -/
def dLength (b : Bytes) : Nat :=
  match dOpcode b with
  | 0x10 => (dstShape false b).size * (dstShape false b).e
  | 0x02 => 8
  | _ => 0

/-- Value width of an add type (R141). -/
def accWidth (acc : Nat) : Nat := if acc = 2 then 2 else 4

/-- May a format carry an MX scale (R138)? -/
def mxFormat (f : Nat) : Bool := decide (3 ≤ f) && decide (f ≤ 7)

/-- Conditions of R138 on a converting descriptor. -/
def cvtOk (b : Bytes) : Bool :=
  let se := dElem b (dSrcFmt b) (dSrcMx b)
  let de := dElem b (dDstFmt b) (dDstMx b)
  !dCvt b || (decide (1 ≤ se) && decide (se ≤ 64) && decide (1 ≤ de) && decide (de ≤ 64) &&
    decide (dSrcFmt b ≤ 10) && decide (dDstFmt b ≤ 10) &&
    (!dSrcMx b || (mxFormat (dSrcFmt b) && dSize b == 32)) && (!dDstMx b || (mxFormat (dDstFmt b) && dSize b == 32)))

/-- Conditions of R141 on an accumulating descriptor. -/
def accOk (phys : Bool) (b : Bytes) : Bool :=
  let w := accWidth (dAcc b)
  let sh := dstShape phys b
  dAcc b == 0 ||
    ((if dCvt b then !dDstMx b && dDstFmt b == (if dAcc b = 1 then 0 else if dAcc b = 2 then 1 else 9) else dSize b % w == 0) &&
      sh.base % w == 0 && ((sh.counts.zip sh.strides).all fun c => c.1 == 1 || c.2 % (w : Int) == 0))

/-- Conditions of R133 to R141 on a TRANSFER body. -/
def transferOk (phys : Bool) (b : Bytes) : Bool :=
  let src := srcShape phys b
  let dst := dstShape phys b
  (src.counts.all fun c => c != 0) && (dst.counts.all fun c => c != 0) && src.size == dst.size &&
    decide (dLength b ≤ 2 ^ 48) && cvtOk b && accOk phys b

/-- The counter condition of R134. -/
def State.counterOk (s : State) (p : Nat) (b : Bytes) : Bool :=
  let a := Tab.at s.qc.areas p
  !dCounterEn b || (a.placed && decide (dCounterIx b < 2 ^ a.log2))

/-- Is a transfer descriptor of a ring well formed (R121, R131 to R141, R147)? -/
def State.descOk (s : State) (p : Nat) (g : Ring) (b : Bytes) : Bool :=
  dTc b == g.tc && dFence b != 3 && s.counterOk p b &&
    match dOpcode b with
    | 0x01 => true
    | 0x02 => dBase g.phys b 16 % 8 == 0
    | 0x10 => transferOk g.phys b
    | _ => false

/-! ## The funnel (R145, R146) -/

/-- Length of the first access at address `a` of a partial line of `n` bytes: the largest naturally aligned one. -/
def pieceLen (a n : Nat) : Nat :=
  if 64 ≤ n then 64 else ([32, 16, 8, 4, 2].find? fun w => decide (w ≤ n) && a % w == 0).getD 1

/-- The accesses of a run of `n` bytes within one line, as stream offsets and lengths. -/
def linePieces : Nat → Nat → Nat → Nat → List (Nat × Nat)
  | 0, _, _, _ => []
  | fuel + 1, o, a, n =>
    if n = 0 then [] else
      let w := pieceLen a n
      (o, w) :: linePieces fuel (o + w) (a + w) (n - w)

/-- One side's stream as the funnel sees it: byte addresses, bounds, which bytes are there, and round-out mode. -/
structure Funnel where
  addr : Nat → Nat
  lo : Nat
  hi : Nat
  ok : Nat → Bool
  round : Bool

/-- Do bytes o and o + 1 continue one run within one line? -/
def Funnel.joins (f : Funnel) (o : Nat) : Bool := f.addr (o + 1) == f.addr o + 1 && f.addr (o + 1) % 64 != 0

/-- First byte of the part of a run in its line that holds byte `o`. -/
def Funnel.back (f : Funnel) : Nat → Nat → Nat
  | 0, o => o
  | n + 1, o => if f.lo < o && f.ok (o - 1) && f.joins (o - 1) then f.back n (o - 1) else o

/-- Bytes of a run in its line from byte `o`. -/
def Funnel.run (f : Funnel) : Nat → Nat → Nat
  | 0, _ => 1
  | n + 1, o => if o + 1 < f.hi && f.ok (o + 1) && f.joins o then 1 + f.run n (o + 1) else 1

/-- The accesses from byte `o`, the start of a run in its line, up to byte `b`. -/
def Funnel.pieces (f : Funnel) (b : Nat) : Nat → Nat → List (Nat × Nat)
  | 0, _ => []
  | n + 1, o =>
    if b ≤ o || f.hi ≤ o then []
    else if !f.ok o then f.pieces b n (o + 1)
    else
      let r := f.run 63 o
      (if f.round then [(o, r)] else linePieces 64 o (f.addr o) r) ++ f.pieces b n (o + r)

/-- The accesses that hold bytes `[a, b)`. -/
def Funnel.around (f : Funnel) (a b : Nat) : List (Nat × Nat) :=
  let o := if f.ok a then f.back 63 a else a
  f.pieces b (b - o + 1) o

/-- Does the cell work in round-out mode (R146)? -/
def State.roundOut (s : State) : Bool := s.mc.mode != 0

/-! ## A descriptor's progress -/

/-- Has the descriptor stopped issuing source reads (R81, R149)? -/
def Work.stopped (w : Work) : Bool := w.bad.isSome || w.fault.isSome

/-- The ratio by which source offsets map to linear offsets: first destination byte that source byte `o` feeds. -/
def dstOfSrc (b : Bytes) (o : Nat) : Nat :=
  if dCvt b then o / dElem b (dSrcFmt b) (dSrcMx b) * dElem b (dDstFmt b) (dDstMx b) else o

/-- One past the last destination byte that source bytes below `o` feed. -/
def dstEnd (b : Bytes) (o : Nat) : Nat :=
  if dCvt b then ceilDiv o (dElem b (dSrcFmt b) (dSrcMx b)) * dElem b (dDstFmt b) (dDstMx b) else o

/-- Source byte from which the run of a resumed stream starts. -/
def srcBase (b : Bytes) (base : Nat) : Nat :=
  if dCvt b then base / dElem b (dDstFmt b) (dDstMx b) * dElem b (dSrcFmt b) (dSrcMx b) else base

/-- Source bytes `[x, y)` that destination byte `o` needs. -/
def srcNeed (b : Bytes) (o : Nat) : Iv :=
  if dCvt b then
    let se := dElem b (dSrcFmt b) (dSrcMx b)
    let j := o / dElem b (dDstFmt b) (dDstMx b)
    (j * se, (j + 1) * se)
  else (o, o + 1)

/-- Has every source byte of destination byte `o` returned? -/
def Work.fed (w : Work) (o : Nat) : Bool :=
  let n := srcNeed w.raw o
  ivCovers w.got n.1 n.2

/-- The cursor (R76, R77). -/
def Work.cursor (w : Work) : Nat :=
  let g := ivGap w.base w.dlv
  if dOpcode w.raw = 0x10 && dCvt w.raw then
    let e := dElem w.raw (dDstFmt w.raw) (dDstMx w.raw)
    g / e * e
  else g

/-- Source byte `o` as returned. -/
def Work.srcByte (w : Work) (o : Nat) : Byte :=
  match w.buf.find? fun x => decide (x.1 ≤ o) && decide (o < x.1 + x.2.length) with
  | some x => x.2.getD (o - x.1) 0
  | none => 0

/-- Source bytes `[a, b)` as returned. -/
def Work.srcBytes (w : Work) (a b : Nat) : Bytes := (List.range (b - a)).map fun i => w.srcByte (a + i)

/-- Converted bytes of destination element j, with its counts (R138 to R140). -/
def Work.element (w : Work) (j : Nat) : Bytes × Nat × Nat :=
  let b := w.raw
  let se := dElem b (dSrcFmt b) (dSrcMx b)
  convertElem (dSrcFmt b) (dDstFmt b) (dSize b) (dSrcMx b) (dDstMx b) (dSat b) (w.srcBytes (j * se) ((j + 1) * se))

/-- Destination bytes `[o, o + n)` and the conversion counts of the elements that begin there. -/
def Work.dstBytes (w : Work) (o n : Nat) : Bytes × Nat × Nat :=
  if dCvt w.raw then
    let e := dElem w.raw (dDstFmt w.raw) (dDstMx w.raw)
    let js := (List.range ((o + n - 1) / e - o / e + 1)).map fun i => o / e + i
    let els := js.map fun j => (j, w.element j)
    let all := (els.map fun x => x.2.1).flatten
    let mine := els.filter fun x => decide (o ≤ x.1 * e)
    (slice all (o % e) n, (mine.map fun x => x.2.2.1).sum, (mine.map fun x => x.2.2.2).sum)
  else (w.srcBytes o (o + n), 0, 0)

/-- Keeps the event of lowest linear offset, a source event before a destination event (R150). -/
def Work.markBad (w : Work) (e : BadEv) : Work :=
  match w.bad with
  | some x => if e.off < x.off || (e.off == x.off && x.dst && !e.dst) then { w with bad := some e } else w
  | none => { w with bad := some e }

/-- Keeps the fault of lowest linear offset, a source fault before a destination fault, and notes further ones (R83). -/
def Work.markFault (w : Work) (e : FaultEv) : Work :=
  match w.fault with
  | some x =>
    if e.off < x.off || (e.off == x.off && x.dst && !e.dst) then { w with fault := some e, more := true }
    else { w with more := true }
  | none => { w with fault := some e }

/-- Offset at and above which an accumulating descriptor that has stopped issues nothing (R81, R85). -/
def Work.limit (w : Work) : Nat :=
  if dAcc w.raw = 0 then dLength w.raw
  else
    let f := match w.fault with
      | some e => e.off
      | none => dLength w.raw
    let b := match w.bad with
      | some e => e.off
      | none => dLength w.raw
    min f b

/-- The destination funnel: whole runs, or what is fed and not issued once the descriptor has stopped. -/
def Work.dstFunnel (w : Work) (phys round : Bool) : Funnel :=
  let sh := dstShape phys w.raw
  { addr := sh.addr, lo := w.base, hi := w.limit, round := round && dAcc w.raw == 0
    ok := fun o => !w.stopped || (w.fed o && !ivHas w.wr o) }

/-- The source funnel. -/
def Work.srcFunnel (w : Work) (phys round : Bool) : Funnel :=
  let sh := srcShape phys w.raw
  { addr := sh.addr, lo := srcBase w.raw w.base, hi := sh.size * sh.e, round := round, ok := fun _ => true }

/-- Is destination access `[o, o + n)` ready to issue: fed, not issued, in order where it accumulates? -/
def Work.dstReady (w : Work) (o n : Nat) : Bool :=
  ((List.range n).all fun i => w.fed (o + i)) && !ivMeets w.wr o (o + n) &&
    (dAcc w.raw == 0 || ivCovers w.wr w.base o)

/-- The partition, ring and descriptor a cell request belongs to. -/
def State.workOf (s : State) (r pos : Nat) : Option (Nat × Ring × Work) :=
  match s.ringOwner r, s.work r pos with
  | some p, some w => some (p, s.ring r, w)
  | _, _ => none

/-- Virtual channel of a ring's peer requests (R303). -/
def ringVc (g : Ring) : Nat := if g.tc = 0 then 0 else 1

/-- Requests outstanding of a descriptor's data. -/
def ownData (r pos : Nat) : Purpose → Bool
  | .srcRead a b _ _ => a == r && b == pos
  | .dstWrite a b _ _ => a == r && b == pos
  | .flagWrite a b => a == r && b == pos
  | _ => false

/-- Source reads of a descriptor. -/
def ownRead (r pos : Nat) : Purpose → Bool
  | .srcRead a b _ _ => a == r && b == pos
  | _ => false

/-- Has the descriptor a data request outstanding? -/
def State.dataOut (s : State) (r pos : Nat) : Bool := s.reqs.any fun q => ownData r pos q.purpose

/-- Flushes the write-combining entries a descriptor wrote into (R198). -/
def State.flushWork (s : State) (p r pos : Nat) : State := s.flushOf p (ownData r pos)

/-- Forgets the source-read misses of a descriptor that has stopped. -/
def State.dropReadMisses (s : State) (r : Nat) : State :=
  let l := s.xl.misses.filter fun m => match m.who with
    | .cellRead a _ => a != r
    | _ => true
  { s with xl := { s.xl with misses := l } }

/-- Marks a descriptor bad (R149) and flushes what it has combined (R198). -/
def State.markBad (s : State) (p r pos : Nat) (e : BadEv) : State :=
  ((s.modWork r pos fun w => w.markBad e).dropReadMisses r).flushWork p r pos

/-- A descriptor takes a page fault; without a placed fault queue it is bad with FAULT (R81, R83, R87). A descriptor already bad
is not parked. -/
def State.markFault (s : State) (p r pos : Nat) (e : FaultEv) : State :=
  if (s.fq p).placed then
    ((s.modWork r pos fun w => if w.bad.isSome then w else w.markFault e).dropReadMisses r).flushWork p r pos
  else s.markBad p r pos { off := e.off, dst := e.dst, status := 5 }

/-- What an access's verdict does to its descriptor, beyond a request sent (R81, R149). -/
def State.onVerdict (s : State) (p r pos off : Nat) (dst : Bool) (a : Access) : Verdict → State
  | .status c => s.markBad p r pos { off := off, dst := dst, status := c }
  | .fault c =>
    let acc := match a.kind with
      | .acc _ => true
      | _ => false
    s.markFault p r pos { off := off, dst := dst, cause := c, va := va57 a.va, asid := a.asid, write := a.write, accum := acc }
  | _ => s

/-- Issues destination access `[o, o + n)` of a descriptor (R145, R146, R181). -/
def State.issueDst (s : State) (p r pos : Nat) (o n : Nat) : State :=
  match s.work r pos with
  | none => s
  | some w =>
    let g := s.ring r
    let a0 := (dstShape g.phys w.raw).addr o
    let acc := dAcc w.raw
    let round := s.roundOut && acc == 0 && n < 64
    let (data, sat, nan) := w.dstBytes o n
    let kind := if acc = 0 then ReqKind.write else .acc acc
    let a : Access :=
      { part := p, unit := cellOfRing r, l1 := l1OfCell (cellOfRing r), asid := g.asid, phys := g.phys
        va := if round then lineOf a0 else a0, len := if round then 64 else n, kind := kind
        data := if round then padTo 64 (zeros (a0 % 64) ++ data) else data, mask := maskRange (a0 % 64) n, vc := ringVc g
        span := some (r, pos, o / 65536), fenced := true, purpose := .dstWrite r pos o n, who := .cellWrite r pos o }
    let (v, s1) := s.access a
    match v with
    | .sent =>
      let s2 := s1.modWork r pos fun w =>
        { w with wr := ivAdd o (o + n) w.wr, sat := satAdd 32 w.sat sat, nan := satAdd 32 w.nan nan }
      s2.modCell (cellOfRing r) fun c => { c with cvtSat := satAdd 32 c.cvtSat sat, cvtNan := satAdd 32 c.cvtNan nan }
    | .status c => (s1.modWork r pos fun w => { w with wr := ivAdd o (o + n) w.wr }).onVerdict p r pos o true a (.status c)
    | .fault c => (s1.modWork r pos fun w => { w with wr := ivAdd o (o + n) w.wr }).onVerdict p r pos o true a (.fault c)
    | _ => s1

/-- The destination access that holds offset o is not issued again: its walk ended without a translation (R81, R149). -/
def State.gaveUp (s : State) (r pos o : Nat) : State :=
  match s.work r pos with
  | none => s
  | some w =>
    if dOpcode w.raw != 0x10 then s
    else match ((w.dstFunnel (s.ring r).phys s.roundOut).around o (o + 1)).find? fun x => decide (x.1 ≤ o) && decide (o < x.1 + x.2) with
    | some (a, n) => s.modWork r pos fun w => { w with wr := ivAdd a (a + n) w.wr }
    | none => s

/-- Issues every destination access that holds bytes of `[a, b)` and is ready (R75, R81). -/
def State.feedDst (s : State) (p r pos a b : Nat) : State :=
  match s.work r pos with
  | none => s
  | some w =>
    if (s.ring r).st = 6 then s
    else
    let f := w.dstFunnel (s.ring r).phys s.roundOut
    s.each (f.around a (min b f.hi)) fun s x =>
      match s.work r pos with
      | some w => if w.dstReady x.1 x.2 && decide (x.1 + x.2 ≤ w.limit) then s.issueDst p r pos x.1 x.2 else s
      | none => s

/-- Issues every ready destination access of a descriptor that accumulates or has stopped. -/
def State.feedRest (s : State) (p r pos : Nat) : State :=
  match s.work r pos with
  | none => s
  | some w => if w.stopped || dAcc w.raw != 0 then s.each w.got fun s i => s.feedDst p r pos (dstOfSrc w.raw i.1) (dstEnd w.raw i.2)
    else s

/-- Is there a fed destination access of the descriptor still to issue? -/
def Work.fedLeft (w : Work) : Bool :=
  w.got.any fun i =>
    let a := dstOfSrc w.raw i.1
    let b := min (dstEnd w.raw i.2) w.limit
    (List.range (b - a)).any fun k => decide (w.base ≤ a + k) && w.fed (a + k) && !ivHas w.wr (a + k) &&
      (dAcc w.raw == 0 || ivCovers w.wr w.base (a + k))

/-- Drops returned source bytes whose destination bytes have all been issued. -/
def Work.prune (w : Work) : Work :=
  let keep := (srcNeed w.raw (ivGap w.base w.wr)).1
  { w with buf := w.buf.filter fun x => decide (keep < x.1 + x.2.length) }

/-- A descriptor that has issued its last request begins to drain and flushes what it has combined (R123, R198). -/
def State.settleWork (s : State) (p r pos : Nat) : State :=
  match s.work r pos with
  | none => s
  | some w =>
    if w.phase != .issuing then s
    else
      let readsOut := s.reqs.any fun q => ownRead r pos q.purpose
      let done := if dOpcode w.raw = 0x10 then
          (if w.stopped then !readsOut && !w.fedLeft else ivCovers w.wr w.base (dLength w.raw))
        else w.flagged || w.stopped
      if done then (s.modWork r pos fun w => { w.prune with phase := .draining }).flushWork p r pos
      else s.modWork r pos Work.prune

/-- Issues the source read at source-stream offset `off` of the issuing descriptor (R75, R85, R145). -/
def State.issueSrc (s : State) (p r pos off : Nat) : State :=
  match s.work r pos with
  | none => s
  | some w =>
    let g := s.ring r
    let f := w.srcFunnel g.phys s.roundOut
    match (f.around off (off + 1)).find? fun x => x.1 == off with
    | none => s
    | some (o, n) =>
      let inOrder := dAcc w.raw == 0 || ivCovers w.rd (srcBase w.raw w.base) o
      let window := decide (dstEnd w.raw (o + n) ≤ w.cursor + 65536)
      if w.stopped || ivMeets w.rd o (o + n) || !inOrder || !window then s
      else
        let a0 := f.addr o
        let round := s.roundOut && n < 64
        let d := dstOfSrc w.raw o
        let a : Access :=
          { part := p, unit := cellOfRing r, l1 := l1OfCell (cellOfRing r), asid := g.asid, phys := g.phys
            va := if round then lineOf a0 else a0, len := if round then 64 else n, hint := dHint w.raw, vc := ringVc g
            span := some (r, pos, d / 65536), purpose := .srcRead r pos o n, who := .cellRead r o }
        let (v, s1) := s.access a
        match v with
        | .sent => s1.modWork r pos fun w => { w with rd := ivAdd o (o + n) w.rd }
        | v => (s1.onVerdict p r pos d false a v).settleWork p r pos

/-- PATH code of a request's path (R151). -/
def Path.code : Path → Nat
  | .fabric _ => 1
  | .bulk => 2
  | .narrow => 3
  | .combining => 3
  | .peer _ _ => 4

/-- A source read ends: data feeds the writes it completes; an error or poison marks the descriptor bad (R75, R81, R149, R280).
`status` is 0, or the status of R151. -/
def State.srcDone (s : State) (q : Req) (r pos off len status : Nat) (timeout : Bool) (data : Bytes) : State :=
  match s.workOf r pos with
  | none => s
  | some (p, g, w) =>
    let d := dstOfSrc w.raw off
    let s1 :=
      if status = 0 then
        let skip := if len < q.len then (srcShape g.phys w.raw).addr off % 64 else 0
        let s1 := s.modWork r pos fun w =>
          { w with got := ivAdd off (off + len) w.got, buf := w.buf ++ [(off, padTo len (data.drop skip))] }
        s1.feedDst p r pos d (dstEnd w.raw (off + len))
      else s.markBad p r pos { off := d, dst := false, status := status, path := q.path.code, timeout := timeout }
    (s1.feedRest p r pos).settleWork p r pos

/-- Delivery counter G for a cursor (R78). -/
def Work.granules (w : Work) : Nat :=
  if w.bad.isNone && w.cursor == dLength w.raw then ceilDiv (dLength w.raw) 4096 else w.cursor / 4096

/-- Writes a structure at a physical address, under the checks of R29: through the narrow path to dies 0 to 3, through the
fabric port to this die's HBM. False when refused. -/
def State.physWrite (s : State) (p unit pa : Nat) (data : Bytes) (purpose : Purpose) (fenced : Bool) : Bool × State :=
  let code := if unit = 64 then 1 else 0
  match s.route p pa data.length true false with
  | .go .host pa' =>
    (true, s.narrowWrite { part := p, unit := unit, purpose := purpose, kind := .write, pa := pa', len := data.length, data := data
                           fenced := fenced })
  | .go _ pa' =>
    (true, (s.count p 3 data.length).send
      { part := p, unit := unit, purpose := purpose, kind := .write, path := .fabric (if unit < 64 then unit / 4 else 0)
        pa := pa', len := data.length, mask := maskRange (pa' % 64) data.length, data := data, wire := data, fenced := fenced })
  | .address => (false, s.countAddress)
  | .protection c at_ => (false, s.violate code p c at_ true (some p))

/-- Writes a note, which goes to dies 0 to 3 only; false when refused (R63, R163). -/
def State.physNote (s : State) (p unit pa : Nat) (data : Bytes) (purpose : Purpose) : Bool × State :=
  if 4 ≤ dieOf pa then (false, s.countAddress) else s.physWrite p unit pa data purpose false

/-- Reads a structure on dies 0 to 3 through the narrow path under the checks of R29; false when refused. -/
def State.physRead (s : State) (p unit pa len : Nat) (purpose : Purpose) : Bool × State :=
  match s.route p pa len false false with
  | .go .host pa' => (true, s.narrowRead { part := p, unit := unit, purpose := purpose, pa := pa', len := len })
  | .go _ pa' => (false, s.violate 0 p 0 pa' false (some p))
  | .address => (false, s.countAddress)
  | .protection c at_ => (false, s.violate 0 p c at_ false (some p))

/-- Reports a dropped finishing write (R153). -/
def State.dropFinish (s : State) (p r : Nat) : State :=
  s.report { source := 0, cls := 1, unit := some (cellOfRing r), part := some p, detail := 0xF1 }

/-- Address of a descriptor's delivery counter (R134). -/
def State.counterAddr (s : State) (p : Nat) (b : Bytes) : Nat :=
  (Tab.at s.qc.areas p).base + 8 * dCounterIx b

/-- Writes the delivery counter with G (R78, R79); false when no write goes out. -/
def State.writeCounter (s : State) (p r pos gr : Nat) : Bool × State :=
  match s.work r pos with
  | none => (false, s)
  | some w =>
    let data := leBytes 6 gr ++ leBytes 2 (dLap w.raw)
    let (ok, s1) := s.physWrite p (cellOfRing r) (s.counterAddr p w.raw) data (.counterWrite r pos gr) true
    let s2 := s1.modWork r pos fun w => { w with lastG := gr }
    (ok, if ok then s2 else s2.dropFinish p r)

/-- Writes the delivery counter while the descriptor runs, when G has grown (R78). -/
def State.growCounter (s : State) (p r pos : Nat) : State :=
  match s.work r pos with
  | none => s
  | some w =>
    let gr := w.cursor / 4096
    if dCounterEn w.raw && decide (w.lastG < gr) && decide (w.cursor < dLength w.raw) then (s.writeCounter p r pos gr).2 else s

/-- A destination write ends: acknowledged bytes are delivered; an error marks the descriptor bad (R76, R149, R178). -/
def State.dstDone (s : State) (q : Req) (r pos off len status : Nat) (timeout : Bool) : State :=
  match s.workOf r pos with
  | none => s
  | some (p, _, _) =>
    if status = 0 then
      let s1 := s.modWork r pos fun w => { w with dlv := ivAdd off (off + len) w.dlv }
      let s2 := s1.modCell (cellOfRing r) fun c => { c with xferBytes := wrapAdd 64 c.xferBytes len }
      (s2.growCounter p r pos).settleWork p r pos
    else (s.markBad p r pos { off := off, dst := true, status := status, path := q.path.code, timeout := timeout }).settleWork p r pos

end Sys2Proof.Machine
end

