-- ==== Sys2Proof/Machine/Lanes.lean ====
section
/-! DEFINITION. Update descriptors and the arithmetic of the vector lanes: scalars, schedule, sums, optimizer steps, working copy and
its fingerprints (R207 to R232). -/

namespace Sys2Proof.Machine

/-! ## Fields of an update descriptor (R207) -/

def uRows (b : Bytes) : Nat := fieldAt b 64 4
def uCols (b : Bytes) : Nat := fieldAt b 68 4
def uStep (b : Bytes) : Nat := fieldAt b 72 4
def uGradFmt (b : Bytes) : Nat := bits (byteAt b 76) 4 4
def uMasterFmt (b : Bytes) : Nat := bits (byteAt b 76) 0 4
def uMomFmt (b : Bytes) : Nat := bits (byteAt b 77) 4 4
def uWcFmt (b : Bytes) : Nat := bits (byteAt b 77) 0 4
def uWcMx (b : Bytes) : Bool := bit (byteAt b 78) 7
def uSr (b : Bytes) : Bool := bit (byteAt b 78) 6
def uClip (b : Bytes) : Nat := bits (byteAt b 78) 4 2
def uSkip (b : Bytes) : Bool := bit (byteAt b 78) 3
/-- MODE: ZERO_GRAD, FINAL or REGEN. -/
def uMode (b : Bytes) : Bool := bit (byteAt b 78) 2
def uSched (b : Bytes) : Nat := bits (byteAt b 78) 0 2
def uSelf (b : Bytes) : Nat := bits (byteAt b 79) 4 4
def uMembers (b : Bytes) : Nat := bits (byteAt b 79) 0 4 + 1
def uHp1 (b : Bytes) : Nat := fieldAt b 80 4
def uHp2 (b : Bytes) : Nat := fieldAt b 84 4
def uEps (b : Bytes) : Nat := fieldAt b 88 4
def uWd (b : Bytes) : Nat := fieldAt b 92 4
def uClipMax (b : Bytes) : Nat := fieldAt b 96 4
def uHp3 (b : Bytes) : Nat := fieldAt b 100 4
def uHp4 (b : Bytes) : Nat := fieldAt b 120 4
/-- NORM_STRIDE of NORM_PARTIAL. -/
def uStride (b : Bytes) : Int := signed 48 (fieldAt b 56 8)
/-- Element count N. -/
def uN (b : Bytes) : Nat := uRows b * uCols b
/-- Is the opcode one of the five optimizers? -/
def isOptimizer (op : Nat) : Bool := decide (0x20 ≤ op) && decide (op ≤ 0x24)
/-- Does the opcode write a working copy (R208, R232)? -/
def uDerives (b : Bytes) : Bool := (isOptimizer (dOpcode b) || dOpcode b == 0x27) && fieldAt b 40 8 % 2 ^ 57 != 0
/-- Has a FACTOR a first moment? -/
def uHasMom1 (b : Bytes) : Bool := fieldAt b 24 8 % 2 ^ 57 != 0

/-- Base address of a stream: 0 gradient, 1 master, 2 MOM1, 3 MOM2, 4 working copy, 5 fingerprints, 6 scratch, 7 norm table. -/
def uBase (phys : Bool) (b : Bytes) (stream : Nat) : Nat :=
  dBase phys b ([8, 16, 24, 32, 40, 48, 56, 112].getD stream 8)

/-- Bytes of an element in a stream that is not the working copy. -/
def uElem (b : Bytes) (stream : Nat) : Nat :=
  match stream with
  | 0 => fmtWidth (uGradFmt b) / 8
  | 1 => fmtWidth (uMasterFmt b) / 8
  | 2 => fmtWidth (uMomFmt b) / 8
  | 3 => if dOpcode b = 0x23 then 4 else fmtWidth (uMomFmt b) / 8
  | 6 => if dOpcode b = 0x22 then 8 else if dOpcode b = 0x24 then 2 else 4
  | _ => 8

/-- Byte offset of element i of a working copy (R210). -/
def wcOff (fmt : Nat) (mx : Bool) (i : Nat) : Nat := if mx then i / 32 * elemBytes fmt 32 true else i * (fmtWidth fmt / 8)

/-- Byte offset of element i of a stream. -/
def uOff (b : Bytes) (stream i : Nat) : Nat := if stream = 4 then wcOff (uWcFmt b) (uWcMx b) i else i * uElem b stream

/-- The passes of a descriptor, in ascending code order (R211). -/
def passesOf (b : Bytes) : List Nat :=
  let p := if uClip b = 1 then [0] else []
  match dOpcode b with
  | 0x20 => p ++ [4]
  | 0x21 => p ++ [4]
  | 0x22 => p ++ [1, 4]
  | 0x23 => p ++ [1, 2, 4]
  | 0x24 => p ++ [1, 3, 4]
  | 0x25 => [0]
  | 0x26 => [5]
  | _ => [4]

/-- The pass after pass `k`. -/
def passAfter (b : Bytes) (k : Nat) : Option Nat := (passesOf b).find? fun x => decide (k < x)

/-- Working-copy formats of R209. -/
def wcFmtOk (fmt : Nat) (mx : Bool) : Bool := if mx then decide (3 ≤ fmt) && decide (fmt ≤ 7) else fmt == 1 || fmt == 3 || fmt == 4

/-- Streams whose address an opcode uses. -/
def uStreams (b : Bytes) : List Nat :=
  let wc := if fieldAt b 40 8 % 2 ^ 57 = 0 then [] else [4, 5]
  match dOpcode b with
  | 0x20 => [0, 1, 2] ++ wc
  | 0x21 => [0, 1, 2, 3] ++ wc
  | 0x22 => [0, 1, 2, 3, 6] ++ wc
  | 0x23 => [0, 1, 3, 6] ++ (if uHasMom1 b then [2] else []) ++ wc
  | 0x24 => [0, 1, 2, 6] ++ wc
  | 0x25 => [0]
  | 0x26 => [4, 5] ++ (if uMode b then [1] else [])
  | _ => [1] ++ wc

/-- Alignment a stream's address must have (R209). -/
def uAlign (b : Bytes) (stream : Nat) : Nat :=
  match stream with
  | 4 => if uWcMx b then 1 else fmtWidth (uWcFmt b) / 8
  | 5 => 8
  | 6 => if dOpcode b = 0x23 then 4 else 64
  | s => uElem b s

/-- The checks of R209 that need no table. -/
def updateOk (phys : Bool) (b : Bytes) : Bool :=
  let op := dOpcode b
  let opt := isOptimizer op
  let wcUsed := op == 0x26 || (uStreams b).contains 4
  decide (0x20 ≤ op) && decide (op ≤ 0x27) && dFence b != 3 && decide (1 ≤ uRows b) && decide (1 ≤ uCols b) &&
    (!(opt || op == 0x25) || decide (uGradFmt b ≤ 1)) &&
    (!(opt || op == 0x27 || (op == 0x26 && uMode b)) || uMasterFmt b == 0 || uMasterFmt b == 10) &&
    (!opt || decide (uMomFmt b ≤ 1)) && (!wcUsed || wcFmtOk (uWcFmt b) (uWcMx b)) &&
    decide (uN b ≤ 2 ^ 36) && (!(wcUsed && uWcMx b) || uN b % 32 == 0) &&
    (op != 0x23 || decide (uRows b + uCols b ≤ 2 ^ 21)) &&
    (op != 0x24 || (decide (min (uRows b) (uCols b) ≤ 16384) && decide (max (uRows b) (uCols b) ≤ 65536) && uSelf b != 0)) &&
    (!(op == 0x21 || op == 0x22) || uStep b != 0) && uClip b != 3 &&
    (op != 0x25 || decide (uSelf b < uMembers b)) &&
    ((uStreams b).all fun st => uBase phys b st % uAlign b st == 0) &&
    (!(uClip b == 2 || op == 0x25) || uBase phys b 7 % 8 == 0)

/-! ## Scalars (R216, R218, R222) -/

/-- The powers of R216. -/
def powBits (beta t x : Nat) : Nat → Nat
  | 0 => x
  | n + 1 =>
    let y := fmul x x
    powBits beta t (if bit t n then fmul y beta else y) n
def fpow (beta t : Nat) : Nat := powBits beta t fone (Nat.log2 t + 1)

/-- FP32() of an integer (R218). -/
def fint (n : Nat) : Nat := toF32 (.fin false n 0)

/-- Learning rate for step t from a schedule table of (LR, AT) (R218). -/
def schedLr (t : Nat) : List (Nat × Nat) → Nat
  | [] => 0
  | [e] => e.1
  | e :: f :: rest =>
    if t ≤ e.2 then e.1
    else if t < f.2 then
      let x := fmul (fint (t - e.2)) (frcp (fint (f.2 - e.2)))
      ffma x (fsub f.1 e.1) e.1
    else schedLr t (f :: rest)

/-- Scalars that need no norm (R216). -/
def startScalars (b : Bytes) (tab : List (Nat × Nat)) : Scalars :=
  let one (x : Nat) : Nat := fsub fone x
  let p1 := fpow (uHp1 b) (uStep b)
  let p2 := fpow (uHp2 b) (uStep b)
  { lr := schedLr (uStep b) tab, c1 := frcp (one p1), c2 := frcp (one p2)
    q1 := if dOpcode b = 0x20 then one (uHp2 b) else one (uHp1 b), q2 := one (uHp2 b) }

/-- Clip scale and its flags from the norm S (R222). -/
def clipScalars (b : Bytes) (sc : Scalars) (norm : Nat) : Scalars :=
  let x := f32 norm
  if !x.isFin then
    if uSkip b then { sc with norm := norm, skipped := true } else { sc with norm := norm, nonfinite := true }
  else
    let r := fsqrt norm
    let c := uClipMax b
    if flt c r then
      let s := fmul c (frcp r)
      { sc with norm := norm, s := s, clipped := flt s fone }
    else { sc with norm := norm }

/-! ## Sums (R217) -/

/-- Adds a square to lane sum `id` of element i. -/
def laneAdd (t : Tab Nat) (id i x : Nat) : Tab Nat := Tab.upd t (1024 * id + i % 1024) fun a => ffma x x a

/-- One level of a pairwise tree. -/
def pairUp (f : Nat → Nat → Nat) : List Nat → List Nat
  | a :: b :: t => f a b :: pairUp f t
  | l => l

/-- A pairwise tree of up to 2^n values. -/
def tree (f : Nat → Nat → Nat) : Nat → List Nat → Nat
  | 0, l => l.headD 0
  | n + 1, l => tree f n (pairUp f l)

/-- The value of lane sum `id`. -/
def laneSum (t : Tab Nat) (id : Nat) : Nat := tree fadd 10 ((List.range 1024).map fun l => Tab.at t (1024 * id + l))

/-- Sum of a table's entries 0 to n − 1 in ascending order. -/
def ascSum (t : Tab Nat) (n : Nat) : Nat := (List.range n).foldl (fun a i => fadd a (Tab.at t i)) 0

/-! ## One element -/

/-- Values of one element, in FP32: what it reads and what it leaves. -/
structure Elem where
  g : Nat := 0
  w : Nat := 0
  m : Nat := 0
  v : Nat := 0
  /-- Scratch or final X element; d of TRUST. -/
  x : Nat := 0
  d : Nat := 0
deriving DecidableEq, Repr, Inhabited

/-- m, v and u of ADAMW (R224). -/
def adam (b : Bytes) (sc : Scalars) (e : Elem) : Nat × Nat × Nat :=
  let g := fmul e.g sc.s
  let m := ffma (uHp1 b) e.m (fmul sc.q1 g)
  let v := ffma (uHp2 b) e.v (fmul sc.q2 (fmul g g))
  let u := fmul (fmul m sc.c1) (frcp (fadd (fsqrt (fmul v sc.c2)) (uEps b)))
  (m, v, u)

/-- w after a step along u with decoupled decay (R224). -/
def decayStep (b : Bytes) (sc : Scalars) (w u : Nat) : Nat := ffma (fneg sc.lr) (ffma (uWd b) w u) w

/-- e = fma(g′, g′, ε1) of FACTOR pass A (R225). -/
def factorE (b : Bytes) (sc : Scalars) (g : Nat) : Nat :=
  let g' := fmul g sc.s
  ffma g' g' (uEps b)

/-- u of FACTOR pass A2 for row factor r and column factor c (R225). -/
def factorU (sc : Scalars) (g r c : Nat) : Nat := fmul (fmul g sc.s) (frcp (fsqrt (fmul (fmul r c) sc.rho)))

/-- An element after pass B; `r` and `c` are FACTOR's factors (R224 to R226). -/
def stepB (b : Bytes) (sc : Scalars) (e : Elem) (r c : Nat) : Elem :=
  match dOpcode b with
  | 0x20 =>
    let m := ffma (uHp1 b) e.m (fmul sc.q1 (fmul e.g sc.s))
    { e with m := m, w := decayStep b sc e.w m }
  | 0x21 =>
    let (m, v, u) := adam b sc e
    { e with m := m, v := v, w := decayStep b sc e.w u }
  | 0x22 => { e with w := ffma (fneg sc.eta) e.d e.w }
  | 0x23 =>
    let u := fmul (factorU sc e.g r c) sc.kappa
    let m := ffma (uHp1 b) e.m (fmul sc.q1 u)
    let x := if uHasMom1 b then m else u
    { e with m := m, w := decayStep b sc e.w x }
  | 0x24 => { e with w := decayStep b sc e.w (fmul sc.sigma e.x) }
  | _ => e

/-- An element after pass A of TRUST or ORTHO (R224, R226). -/
def stepA (b : Bytes) (sc : Scalars) (e : Elem) : Elem :=
  if dOpcode b = 0x22 then
    let (m, v, u) := adam b sc e
    { e with m := m, v := v, d := ffma (uWd b) e.w u }
  else { e with m := ffma (uHp1 b) e.m (fmul e.g sc.s) }

/-! ## Stored values (R223, R227) -/

/-- Bytes of an FP32 value in a master or gradient format. -/
def storeFmt (code v : Nat) : Bytes :=
  if code = 0 then leBytes 4 v else leBytes (fmtWidth code / 8) (encodeFmt code .nearest false (f32 v)).1

/-- Bytes of a moment: FP32, or BF16 rounded with draw `d` when SR is 1. -/
def storeMom (code : Nat) (sr : Bool) (d v : Nat) : Bytes :=
  if code = 0 then leBytes 4 v else leBytes 2 (bf16.encode (if sr then .stochastic d else .nearest) false (f32 v)).1

/-- FP32 value of stored bytes of a format. -/
def loadFmt (code : Nat) (b : Bytes) : Nat := if code = 0 then leNat b else toF32 (decodeFmt code (leNat b))

/-- Working-copy bytes of elements with the given stored master values, each with its draw (R227, R259). -/
def deriveRun (fmt : Nat) (mx sr : Bool) (vals : List (Num × Nat)) : Bytes :=
  let rnd (d : Nat) : Rounding := if sr then .stochastic d else .nearest
  if mx then
    ((List.range (vals.length / 32)).map fun k =>
      mxEncode fmt (((vals.drop (32 * k)).take 32).map fun v => (v.1, rnd v.2))).flatten
  else (vals.map fun v => leBytes (fmtWidth fmt / 8) (encodeFmt fmt (rnd v.2) v.1.isFin v.1).1).flatten

/-- Splits a write at the 64-byte lines of its addresses. -/
def splitLines (addr : Nat) : Nat → Run → List Run
  | 0, _ => []
  | n + 1, r =>
    if r.data = [] then []
    else
      let w := 64 - (addr + r.off) % 64
      { r with data := r.data.take w } ::
        splitLines addr n { r with off := r.off + w, data := r.data.drop w }

/-- The line writes of a run of a stream at base `addr`. -/
def lineRuns (addr : Nat) (r : Run) : List Run := splitLines addr (r.data.length / 64 + 2) r

/-- Bytes of a stream held in a list of runs, 0 where none is. -/
def runByte (l : List Run) (stream o : Nat) : Byte :=
  match l.find? fun r => r.stream == stream && decide (r.off ≤ o) && decide (o < r.off + r.data.length) with
  | some r => r.data.getD (o - r.off) 0
  | none => 0
def runBytes (l : List Run) (stream off n : Nat) : Bytes := (List.range n).map fun i => runByte l stream (off + i)

end Sys2Proof.Machine
end

