-- ==== Sys2Proof/Machine/Rings.lean ====
section
/-! DEFINITION. Rings: ring doorbells, descriptor fetch and judgement, ring states, the arbiters and the start of a descriptor
(R102 to R128, R187). -/

namespace Sys2Proof.Machine

/-! ## Positions (R110) -/

/-- Ring size N. -/
def Ring.size (g : Ring) : Nat := 2 ^ g.sizeLog2
/-- The modulus M of the ring's counts. -/
def Ring.m (g : Ring) : Nat := 65536 * g.size
/-- Distance of position `a` ahead of C. -/
def Ring.dist (g : Ring) (a : Nat) : Nat := (a + g.m - g.c) % g.m
/-- Lap of a position. -/
def Ring.lapOf (g : Ring) (x : Nat) : Nat := x / g.size % 65536
/-- Address of the descriptor at a position (R103). -/
def Ring.descPa (g : Ring) (x : Nat) : Nat := g.base + 128 * (x % g.size)
/-- Does a fetched descriptor belong to position x (R115)? -/
def Ring.valid (g : Ring) (x : Nat) (b : Bytes) : Bool := dLap b == g.lapOf x && dOwn b
/-- The count up to which the cell may fetch: P, or a staged count beyond it (R116). -/
def Ring.ahead (g : Ring) : Nat :=
  match g.staged with
  | some x => max (g.dist g.p) (g.dist x)
  | none => g.dist g.p

/-- Is a descriptor of the ring issuing, or waiting to after a resume? -/
def Ring.issuing (g : Ring) : Bool := g.works.any fun w => w.phase == .queued || w.phase == .issuing

/-- Positions of ring r in fetch. -/
def State.fetchOut (s : State) (r : Nat) : List Nat :=
  s.reqs.filterMap fun q => match q.purpose with
    | .descFetch a pos => if a = r then some pos else none
    | _ => none

/-! ## Ring states (R122) -/

/-- The state of an enabled ring that is neither parked nor draining. -/
def Ring.state (g : Ring) : Nat :=
  if g.issuing then 2
  else match g.fetchErr with
    | some x => if g.c == x then 7 else 2
    | none =>
      if g.stale then (if g.exhausted && !g.again then 4 else 3)
      else if g.c == g.p then 1 else 2

/-- Recomputes the state of ring r (R122). -/
def State.settleRing (s : State) (r : Nat) : State :=
  s.modRing r fun g => if g.st = 0 || g.st = 5 || g.st = 6 then g else { g with st := g.state }

/-! ## Fetches (R115 to R120) -/

/-- Discards what the cell has fetched or is fetching of ring r at the positions a test picks. -/
def State.discardFetches (s : State) (r : Nat) (at_ : Nat → Bool) : State :=
  let drop (p : Purpose) : Purpose := match p with
    | .descFetch a pos => if a = r && at_ pos then .descDropped r else p
    | _ => p
  let l := s.reqs.map fun q => { q with purpose := drop q.purpose }
  { s with reqs := l }.modRing r fun g => { g with fetched := g.fetched.filter fun x => !at_ x.1 }

/-- A fetch of position x has failed (R120). -/
def State.fetchFailed (s : State) (p r x : Nat) : State :=
  let g := s.ring r
  let y := match g.fetchErr with
    | some y => if g.dist y < g.dist x then y else x
    | none => x
  let s1 := (s.discardFetches r fun a => decide (g.dist y ≤ g.dist a)).modRing r fun g =>
    { g with fetchErr := some y, backoff := none, again := false }
  (s1.report { source := 0, cls := 1, unit := some (cellOfRing r), part := some p, detail := 0xF2 }).settleRing r

/-- Issues the fetch of the descriptor at position x (R29, R116). -/
def State.issueFetch (s : State) (p r x : Nat) : State :=
  let (ok, s1) := s.physRead p (cellOfRing r) ((s.ring r).descPa x) 128 (.descFetch r x)
  if ok then s1 else s1.fetchFailed p r x

/-- The head descriptor is stale (R116 to R119). `t` is the cycle in which its fetch returned. -/
def State.staleHead (s : State) (p r t : Nat) : State :=
  let g := s.ring r
  let s1 := (s.discardFetches r fun a => decide (0 < g.dist a)).modRing r fun g => { g with fetched := [], stale := true }
  if g.fetchErr.isSome then s1.modRing r fun g => { g with fetchErr := some g.c, backoff := none }
  else if g.again then s1
  else if 8 ≤ g.refetch then
    let s2 := s1.modRing r fun g => { g with exhausted := true, backoff := none }
    let s3 := s2.modCell (cellOfRing r) fun c => { c with dbStale := satAdd 16 c.dbStale 1 }
    s3.fabEvent 1 none (some p) (fld r 32 14 + fld g.c 0 32)
  else s1.modRing r fun g => { g with backoff := some (t + 64 * 2 ^ g.refetch) }

/-- The rings of cell c that have any state. -/
def State.ringsOfCell (s : State) (c : Nat) : List Nat := (Tab.ixs s.qc.rings).filter fun r => r / 256 == c

/-- Issuing descriptors of a cell's TC0 rings, or of its TC1 and TC3 rings: the contexts in use (R127). -/
def State.contexts (s : State) (c : Nat) (urgent : Bool) : Nat :=
  ((s.ringsOfCell c).filter fun r => ((s.ring r).tc == 0) == urgent && (s.ring r).works.any fun w => w.phase == .issuing).length

/-- Is a completion entry of ring r waiting for room (R157)? -/
def Ring.entryWaits (g : Ring) : Bool := g.works.any fun w => w.phase == .full

/-- May a descriptor of ring r begin to issue: a context is free, and nothing of the ring issues, waits for room or is parked
(R82, R123, R127, R157)? -/
def State.mayBegin (s : State) (p r : Nat) : Bool :=
  let g := s.ring r
  let c := cellOfRing r
  s.mayStart p c && decide (s.contexts c (g.tc == 0) < if g.tc = 0 then 64 else 16) && !g.entryWaits && g.st != 5 && g.st != 6 && g.st != 0 &&
    !g.works.any fun w => w.phase == .issuing

/-- The head descriptor as fetched, once P announces it (R115). -/
def Ring.head (g : Ring) : Option (Nat × Nat × Bytes) :=
  if g.c == g.p || g.fetchErr == some g.c then none else g.fetched.find? fun x => x.1 == g.c

/-- The cell consumes the head descriptor. -/
def State.consumeHead (s : State) (r : Nat) (b : Bytes) : State :=
  s.modRing r fun g => { g with
    fetched := g.fetched.filter fun x => x.1 != g.c
    c := (g.c + 1) % g.m
    works := g.works ++ [{ pos := g.c, raw := b }] }

/-- Judges the head descriptor, and the next once it is consumed. A stale head begins its refetches. A valid one is consumed when it
may begin to issue, and is fetched ahead until then; on a TC2 ring it stays until it is passed (R115 to R117, R123, R126; DEDUCED, log
entry 6). -/
def State.judgeHead (s : State) (p r : Nat) : Nat → State
  | 0 => s
  | n + 1 =>
    let g := s.ring r
    match g.head with
    | none => s
    | some (_, t, b) =>
      if !g.valid g.c b then s.staleHead p r t
      else
        let s1 := s.modRing r fun g => { g with stale := false, exhausted := false, refetch := 0, again := false, backoff := none }
        if g.tc == 2 || g.issuing || !s1.mayBegin p r then s1 else (s1.consumeHead r b).judgeHead p r n

/-- Judges what has been fetched and recomputes the ring's state. -/
def State.judgeRing (s : State) (p r : Nat) : State := (s.judgeHead p r 2).settleRing r

/-- The next position of ring r to fetch: at most 4 ahead, never beyond P or the staged count (R116). -/
def State.nextFetch (s : State) (r : Nat) : Option Nat :=
  let g := s.ring r
  let out := s.fetchOut r
  let k := g.fetched.length + out.length
  if g.st = 0 || g.st = 5 || g.st = 6 || g.st = 7 || g.fetchErr.isSome then none
  else if g.stale then (if g.again && out.isEmpty then some g.c else none)
  else if k < 4 && k < g.ahead then some ((g.c + k) % g.m)
  else none

/-! ## Fetch arbiter (R128) -/

/-- Weight 0 is taken as 1. -/
def weight (w : Nat) : Nat := if w = 0 then 1 else w

/-- May the fetch arbiter of a cell fetch for ring r now? -/
def State.fetchable (s : State) (r : Nat) : Bool :=
  match s.ringOwner r with
  | some p => s.mayIssue p (cellOfRing r) && (s.nextFetch r).isSome
  | none => false

/-- Fetch credits of class 1 to 3. -/
def Cell.fetchCredit (c : Cell) : Nat → Nat
  | 1 => c.f1
  | 2 => c.f2
  | _ => c.f3

/-- Takes one fetch credit of a class, reloading all when the classes with work have none (R128). -/
def Cell.takeFetch (c : Cell) (k : Nat) (reload : Bool) : Cell :=
  let c1 := if reload then { c with f1 := weight c.w1, f2 := weight c.w2, f3 := weight c.w3 } else c
  match k with
  | 1 => { c1 with f1 := c1.f1 - 1 }
  | 2 => { c1 with f2 := c1.f2 - 1 }
  | _ => { c1 with f3 := c1.f3 - 1 }

/-- May the fetch arbiter grant ring r, and with a reload of the credits? TC0 comes first in order of doorbell arrival; the
others share by weighted round robin (R128). -/
def State.fetchGrant (s : State) (r : Nat) : Option Bool :=
  let c := cellOfRing r
  let ready := (s.ringsOfCell c).filter fun x => s.fetchable x
  let g := s.ring r
  let urgent := ready.filter fun x => (s.ring x).tc == 0
  if !s.fetchable r then none
  else if g.tc = 0 then (if urgent.all fun x => decide (g.rung ≤ (s.ring x).rung) then some false else none)
  else if urgent ≠ [] then none
  else if 0 < (s.cell c).fetchCredit g.tc then some false
  else if ready.all fun x => (s.cell c).fetchCredit (s.ring x).tc == 0 then some true
  else none

/-- Grants ring r one descriptor fetch (R116, R118, R128). -/
def State.grantFetch (s : State) (r : Nat) : State :=
  match s.ringOwner r, s.fetchGrant r, s.nextFetch r with
  | some p, some reload, some x =>
    let s1 := if (s.ring r).tc = 0 then s else s.modCell (cellOfRing r) fun c => c.takeFetch (s.ring r).tc reload
    ((s1.modRing r fun g => { g with again := false }).issueFetch p r x).settleRing r
  | _, _, _ => s

/-- A descriptor fetch ends (R115, R116, R120). -/
def State.fetchReturned (s : State) (q : Req) (r x : Nat) (res : RdRes) : State :=
  match s.ringOwner r with
  | none => s
  | some p =>
    match res with
    | .ok b =>
      let b' := padTo 128 (s.unseal q.key q.pa b)
      (s.modRing r fun g => { g with fetched := g.fetched ++ [(x, s.clk.fab, b')] }).judgeRing p r
    | _ => s.fetchFailed p r x

/-- The backoff of ring r's stale head ends and the refetch goes out (R117). -/
def State.refetch (s : State) (r : Nat) : State :=
  let g := s.ring r
  match s.ringOwner r, g.backoff with
  | some p, some t =>
    if g.stale && decide (t ≤ s.clk.fab) && s.mayIssue p (cellOfRing r) && (s.fetchOut r).isEmpty && g.st != 0 && g.st != 6 && g.st != 5 then
      (s.modRing r fun g => { g with refetch := g.refetch + 1, backoff := none, again := false }).issueFetch p r g.c
    else s
  | _, _ => s

/-! ## Doorbells (R108 to R112, R118) -/

/-- Producer count a doorbell word names (R111). -/
def Ring.named (g : Ring) (w : Nat) : Nat := (bits w 16 16 * g.size + bits w 0 16) % g.m

/-- Does a producer count lie within the window of R111 ahead of P? -/
def Ring.moves (g : Ring) (x : Nat) : Bool := decide ((x + g.m - g.p) % g.m ≤ g.size)

/-- P moves to x, unless a later count superseded it; a staged count is discarded (R111, R112). -/
def State.moveProducer (s : State) (r x : Nat) : State :=
  s.modRing r fun g =>
    if g.moves x then { g with staged := none, p := x, rung := if x = g.p then g.rung else s.nextReq } else { g with staged := none }

/-- A stale head is fetched again without backoff (R118), and what has been fetched is judged. -/
def State.afterDoorbell (s : State) (p r : Nat) : State :=
  let g := s.ring r
  let s1 :=
    if g.stale && g.fetchErr.isNone then
      s.modRing r fun g => { g with refetch := 0, backoff := none, exhausted := false, again := true }
    else s
  s1.judgeRing p r

/-- An accepted doorbell: P or the staged count moves (R111, R112), and a stale head is fetched again (R118). -/
def State.acceptDoorbell (s : State) (p r w : Nat) : State :=
  let g := s.ring r
  let x := g.named w
  let over_ := !bit w 48 && !g.moves x
  let s1 := s.modCell (cellOfRing r) fun c =>
    { c with dbAccepted := wrapAdd 64 c.dbAccepted 1, dbSuperseded := if over_ then satAdd 16 c.dbSuperseded 1 else c.dbSuperseded }
  let s2 :=
    if bit w 48 then s1.modRing r fun g => { g with staged := some x }
    else (s1.modRing r fun g => { g with ordinary := some s.clk.fab }).moveProducer r x
  s2.afterDoorbell p r

/-- Counts a doorbell-page write dropped by check 1 of R108 (R107). -/
def State.dropBadAccess (s : State) (p : Nat) : State :=
  { s with pt := { s.pt with dbBadAccess := Tab.upd s.pt.dbBadAccess p fun n => satAdd 16 n 1 } }
/-- Counts a doorbell dropped by check 2. -/
def State.dropNotActive (s : State) (p : Nat) : State :=
  { s with pt := { s.pt with dbNotActive := Tab.upd s.pt.dbNotActive p fun n => satAdd 16 n 1 } }
/-- Counts a doorbell dropped by check 3. -/
def State.dropBadCheck (s : State) (p : Nat) : State :=
  { s with pt := { s.pt with dbBadCheck := Tab.upd s.pt.dbBadCheck p fun n => satAdd 16 n 1 } }
/-- Counts a doorbell dropped by check 4. -/
def State.dropUnbacked (s : State) (p : Nat) : State :=
  { s with pt := { s.pt with dbUnbacked := Tab.upd s.pt.dbUnbacked p fun n => satAdd 16 n 1 } }

/-- Checks 2 and 3 of R108; what passes goes on by `k`. -/
def State.checkDoorbell (s : State) (p w : Nat) (k : State → State) : State :=
  if (s.part p).st ≠ 2 then s.dropNotActive p
  else if bits w 56 8 ≠ (s.part p).checkTag then s.dropBadCheck p
  else k s

/-- A ring doorbell of local ring j (R108, R111, R125). -/
def State.ringDoorbell (s : State) (p j w : Nat) : State :=
  s.checkDoorbell p w fun s =>
    match s.globalRing p j with
    | none => s.dropUnbacked p
    | some r =>
      let g := s.ring r
      if g.st = 0 || g.st = 6 then s.modCell (cellOfRing r) fun c => { c with dbDisabled := satAdd 16 c.dbDisabled 1 }
      else if g.size ≤ bits w 0 16 || g.size < g.dist (g.named w) then
        s.modCell (cellOfRing r) fun c => { c with dbRange := satAdd 16 c.dbRange 1 }
      else (s.count p 6 1).acceptDoorbell p r w

/-! ## Starting a descriptor (R121, R123, R127, R187) -/

/-- The writes of the GLOBAL fence set beyond the ring's own (R187). -/
def State.globalFence (s : State) (p : Nat) : List Nat :=
  (s.reqs.filter fun q => q.part == p && q.fenced && decide (q.start < s.clk.fab)).map Req.id

/-- A consumed descriptor begins to issue, or again after a resume; a malformed one ends at once (R95, R121, R123, R187). -/
def State.beginWork (s : State) (p r : Nat) (w : Work) : State :=
  let g := s.ring r
  let fence := if dFence w.raw = 2 then s.globalFence p else []
  if !s.descOk p g w.raw then
    (s.modWork r w.pos fun w => { w with phase := .draining, start := s.clk.fab, bad := some { status := 1 } }).settleRing r
  else
    (s.modWork r w.pos fun w =>
      { w with
        phase := if dOpcode w.raw = 0x01 then .draining else .issuing
        start := if w.refault then w.start else s.clk.fab
        fence := if w.refault then w.fence else fence }).settleRing r

/-- The next consumed descriptor of ring r begins to issue (R123); with none waiting, the head is consumed first. -/
def State.startWork (s : State) (r : Nat) : State :=
  match s.ringOwner r with
  | none => s
  | some p =>
    if !s.mayBegin p r then s
    else
      let s1 := s.judgeHead p r 1
      match (s1.ring r).works.find? fun w => w.phase == .queued with
      | some w => (s1.beginWork p r w).judgeRing p r
      | none => s1

/-! ## Issue arbiter (R128) -/

/-- The first source offset of an issuing descriptor that is neither issued nor waiting for a walk (R75, R145). -/
def State.nextRead (s : State) (r : Nat) (w : Work) : Nat :=
  let f := w.srcFunnel (s.ring r).phys s.roundOut
  let waits := s.xl.misses.filterMap fun m => match m.who with
    | .cellRead a o => if a = r then (f.around o (o + 1)).find? fun x => x.1 == o else none
    | _ => none
  ivGap (srcBase w.raw w.base) (waits.foldl (fun l x => ivAdd x.1 (x.1 + x.2) l) w.rd)

/-- The state after issuing the source read at an offset of ring r's issuing descriptor, and whether it went out, was refused or now
waits for a walk; one whose bucket is short or that an ordering holds is not granted (R128, R181, R358). None: nothing to issue. -/
def State.readAt (s : State) (r off : Nat) : Option (Bool × State) :=
  match s.ringOwner r, (s.ring r).works.find? fun w => w.phase == .issuing with
  | some p, some w =>
    if !s.mayIssue p (cellOfRing r) || dOpcode w.raw != 0x10 || s.missing (.cellRead r off) then none
    else
      let t := s.issueSrc p r w.pos off
      some (t.work r w.pos != s.work r w.pos || t.missing (.cellRead r off), t)
  | _, _ => none

/-- Would the arbiter issue a source read of ring r now? -/
def State.issuable (s : State) (r : Nat) : Bool :=
  match (s.ring r).works.find? fun w => w.phase == .issuing with
  | some w => (s.readAt r (s.nextRead r w)).any Prod.fst
  | none => false

/-- Issue credits of class 1 or 3. -/
def Cell.issueCredit (c : Cell) (tc : Nat) : Nat := if tc = 1 then c.i1 else c.i3

/-- Takes one issue credit, reloading both when no class with work has one. -/
def Cell.takeIssue (c : Cell) (tc : Nat) (reload : Bool) : Cell :=
  let c1 := if reload then { c with i1 := weight c.w1, i3 := weight c.w3 } else c
  if tc = 1 then { c1 with i1 := c1.i1 - 1 } else { c1 with i3 := c1.i3 - 1 }

/-- May the issue arbiter grant ring r, and with a reload? TC0 rings take turns and come first (R128). -/
def State.issueGrant (s : State) (r : Nat) : Option Bool :=
  let c := cellOfRing r
  let ready := (s.ringsOfCell c).filter fun x => s.issuable x
  let urgent := ready.filter fun x => (s.ring x).tc == 0
  let turn (x : Nat) : Nat := (x % 256 + 255 - (s.cell c).rr0) % 256
  if (s.ring r).tc = 0 then (if urgent.all fun x => decide (turn (r % 256) ≤ turn (x % 256)) then some false else none)
  else if urgent ≠ [] then none
  else if 0 < (s.cell c).issueCredit (s.ring r).tc then some false
  else if ready.all fun x => (s.cell c).issueCredit (s.ring x).tc == 0 || x == r then some true
  else none

/-- The issue arbiter grants a source read at source offset `off` of ring r's issuing descriptor (R128); a request that cannot go now
is noted as waiting for its bucket (R358). -/
def State.grantRead (s : State) (r off : Nat) : State :=
  match s.readAt r off with
  | none => s
  | some (false, t) => t
  | some (true, _) => match s.issueGrant r with
    | none => s
    | some reload =>
      let s1 := s.modCell (cellOfRing r) fun c =>
        if (s.ring r).tc = 0 then { c with rr0 := r % 256 } else c.takeIssue (s.ring r).tc reload
      match s1.readAt r off with
      | some (_, t) => t.settleRing r
      | none => s

/-- A destination write that was held issues (R52, R75, R357). -/
def State.grantWrite (s : State) (r pos off : Nat) : State :=
  match s.ringOwner r with
  | some p =>
    if !s.mayIssue p (cellOfRing r) || s.missing (.cellWrite r pos off) then s
    else (((s.feedDst p r pos off (off + 1)).feedRest p r pos).settleWork p r pos).settleRing r
  | none => s

end Sys2Proof.Machine
end

