-- ==== Sys2Proof/Machine/Finish.lean ====
section
/-! DEFINITION. Fences, FLAG writes and the finishing of a descriptor: delivery counter, status block, OWN, completion entry,
consumer word (R78, R151 to R159, R186 to R188, R234, R235). -/

namespace Sys2Proof.Machine

/-! ## What a finished descriptor reports -/

/-- Status and DETAIL of a descriptor (R151). -/
def Work.status (w : Work) : Nat × Nat :=
  match w.bad with
  | none => (0, 0)
  | some e =>
    if e.status = 1 || e.status = 6 || e.status = 7 then (e.status, 0)
    else (e.status, fld (b2n e.dst) 7 1 + fld e.path 4 3 + fld (b2n e.timeout) 3 1)

/-- LINEAR of the status block (R154). -/
def Work.linear (w : Work) : Nat :=
  match w.bad with
  | none => dLength w.raw % 2 ^ 48
  | some e => if e.status = 1 then 0 else w.cursor

/-- BYTE of the status block: the byte within the element at the cursor (R77, R154). -/
def Work.byteIx (w : Work) : Nat :=
  if dOpcode w.raw = 0x10 && !dCvt w.raw && w.bad.isSome then w.linear % dElem w.raw (dDstFmt w.raw) (dDstMx w.raw) else 0

/-- Destination index of the cursor (R73, R154). -/
def Work.index (w : Work) : List Nat :=
  let malformed : Bool := match w.bad with
    | some e => e.status == 1
    | none => true
  if dOpcode w.raw = 0x10 && !malformed then
    let sh := dstShape false w.raw
    indexOf (w.linear / sh.e) sh.counts
  else [0, 0, 0, 0, 0]

/-- Bytes 96 to 126 of a finished descriptor (R154, R234). -/
def Work.statusBlock (w : Work) (update : Bool) : Bytes :=
  if update then padTo 31 w.result.block
  else
    let st := w.status
    leBytes 1 st.1 ++ leBytes 1 st.2 ++ leBytes 6 w.linear ++ (w.index.map (leBytes 4)).flatten ++
      leBytes 1 (w.byteIx % 64) ++ zeros 2

/-- Status of a finished descriptor. -/
def Work.code (w : Work) (update : Bool) : Nat := if update then w.result.status else w.status.1

/-- The 32 bytes of a completion entry (R158, R235). -/
def completionEntry (localRing ix done : Nat) (phase update : Bool) (w : Work) : Bytes :=
  let st := if update then (w.result.status, w.result.detail) else w.status
  let head := leBytes 2 localRing ++ leBytes 2 ix ++ leBytes 1 st.1 ++ leBytes 1 st.2 ++
    leBytes 1 (128 * b2n phase + if update then 0 else w.byteIx % 64) ++ leBytes 1 (dOpcode w.raw)
  if update then
    let b := padTo 31 w.result.block
    head ++ leBytes 6 w.result.linear ++ leBytes 2 (bits (byteAt b 8) 0 4) ++ leBytes 2 (dLap w.raw) ++ slice b 9 1 ++ zeros 1 ++
      leBytes 4 done ++ slice b 12 4 ++ slice b 16 4
  else
    head ++ leBytes 8 w.linear ++ leBytes 2 (dLap w.raw) ++ zeros 2 ++ leBytes 4 done ++ leBytes 4 w.sat ++ leBytes 4 w.nan

/-! ## Steps 1 and 2 of R152 -/

/-- Is a request of this number outstanding? -/
def State.isOut (s : State) (id : Nat) : Bool := s.reqs.any fun q => q.id == id

/-- Has every write of the descriptor's GLOBAL fence set been acknowledged (R187)? -/
def State.fenceDone (s : State) (w : Work) : Bool := w.fence.all fun id => !s.isOut id

/-- Is a delivery-counter write of the descriptor outstanding? -/
def State.counterOut (s : State) (r pos : Nat) : Bool :=
  s.reqs.any fun q => match q.purpose with
    | .counterWrite a b _ => a == r && b == pos
    | _ => false

/-- Counts and reports the outcome of a descriptor as its finishing begins (R151, R280). -/
def State.countOutcome (s : State) (p r : Nat) (w : Work) : State :=
  let c := cellOfRing r
  let st := w.status.1
  let s1 := s.modCell c fun c =>
    if st = 1 then { c with errMalformed := satAdd 16 c.errMalformed 1 }
    else if st = 8 then { c with errBus := satAdd 16 c.errBus 1 }
    else if st = 9 then { c with errPoison := satAdd 16 c.errPoison 1 }
    else c
  let s2 := if st = 0x0A then { s1 with pt := { s1.pt with sharedRetries := satAdd 16 s1.pt.sharedRetries 1 } } else s1
  if st = 8 || st = 9 then s2.report { source := 0, cls := 1, unit := some c, part := some p, detail := st } else s2

/-- Takes ring r's head descriptor through step 1 and the delivery-counter write of step 2 when it may go (R152, R188). -/
def State.advanceHead (s : State) (p r : Nat) (w : Work) : State :=
  if s.dataOut r w.pos || (w.fault.isSome && w.bad.isNone) then s
  else if !s.fenceDone w then
    if w.fenceWaited then s
    else
      (s.modWork r w.pos fun w => { w with fenceWaited := true }).modCell (cellOfRing r) fun c =>
        { c with fenceGlobal := satAdd 32 c.fenceGlobal 1 }
  else
    let s1 := s.countOutcome p r w
    let gr := w.granules
    if dCounterEn w.raw && w.status.1 != 1 && decide (w.lastG < gr) then
      let (ok, s2) := s1.writeCounter p r w.pos gr
      s2.modWork r w.pos fun w => { w with phase := if ok then .counter else .status }
    else s1.modWork r w.pos fun w => { w with phase := .counter }

/-- Drops the head of ring r: its descriptor has ended. -/
def State.popWork (s : State) (r pos : Nat) : State :=
  (s.modRing r fun g => { g with works := g.works.filter fun w => w.pos != pos }).settleRing r

/-- Takes the descriptors of ring r as far as step 3 of R152 allows now; one ended by scrub or reset leaves without a write. -/
def State.advance (s : State) (p r : Nat) : Nat → State
  | 0 => s
  | n + 1 =>
    match (s.ring r).works with
    | [] => s
    | w :: _ =>
      match w.phase with
      | .draining =>
        if w.mute then (if s.dataOut r w.pos then s else (s.popWork r w.pos).advance p r n)
        else
          let s1 := if (s.ring r).tc = 2 then s.modWork r w.pos fun w => { w with phase := .status } else s.advanceHead p r w
          match s1.work r w.pos with
          | some w1 => if w1.phase != .draining then s1.advance p r n else s1
          | none => s1
      | .counter => if s.counterOut r w.pos then s else s.modWork r w.pos fun w => { w with phase := .status }
      | _ => s

/-- Takes every ring of partition p as far as it can go. -/
def State.advanceAll (s : State) (p : Nat) : State := s.each (s.ringsOf p) fun s r => s.advance p r 4

/-- Takes the rings of ring r's owner as far as they can go. -/
def State.advanceOwner (s : State) (r : Nat) : State := match s.ringOwner r with
  | some p => s.advanceAll p
  | none => s

/-! ## FLAG (R147, R188) -/

/-- Has every earlier descriptor of the ring passed step 2 (R187)? -/
def Ring.earlierDone (g : Ring) (pos : Nat) : Bool :=
  (g.works.takeWhile fun w => w.pos != pos).all fun w =>
    !(w.phase == .queued || w.phase == .issuing || w.phase == .draining || w.phase == .parked || w.phase == .passed || w.phase == .counter)

/-- Issues the write of ring r's FLAG once its fence set is acknowledged (R188). -/
def State.issueFlag (s : State) (r : Nat) : State :=
  let g := s.ring r
  match s.ringOwner r, g.works.find? fun w => w.phase == .issuing with
  | some p, some w =>
    let c := cellOfRing r
    if dOpcode w.raw != 0x02 || w.flagged || w.stopped || !s.mayIssue p c || s.missing (.cellWrite r w.pos 0) then s
    else if dFence w.raw != 0 && !(g.earlierDone w.pos && s.fenceDone w) then
      if w.fenceWaited || dFence w.raw != 1 then s
      else (s.modWork r w.pos fun w => { w with fenceWaited := true }).modCell c fun c => { c with fenceRing := satAdd 32 c.fenceRing 1 }
    else
      let a0 := dBase g.phys w.raw 16
      let a : Access :=
        { part := p, unit := c, l1 := l1OfCell c, asid := g.asid, phys := g.phys, va := a0, len := 8, kind := .write
          data := slice w.raw 24 8, mask := maskRange (a0 % 64) 8, narrow := true, vc := ringVc g
          span := some (r, w.pos, 0), fenced := true, purpose := .flagWrite r w.pos, who := .cellWrite r w.pos 0 }
      let (v, s1) := s.access a
      let s2 := match v with
        | .sent => s1.modWork r w.pos fun w => { w with flagged := true, wr := [(0, 8)] }
        | v => s1.onVerdict p r w.pos 0 true a v
      ((s2.settleWork p r w.pos).advanceAll p).settleRing r
  | _, _ => s

/-! ## Steps 3 to 5 of R152 -/

/-- A finishing write ends; a failed one is dropped and reported (R153). -/
def State.endFinish (s : State) (p r : Nat) (pu : Purpose) (ack : WrRes) : State :=
  match s.reqFor pu with
  | none => s
  | some q => if ack = .ok then s.finishReq q else (s.finishReq q).dropFinish p r

/-- The head descriptor of ring r, with the ring's owner. -/
def State.headOf (s : State) (r : Nat) : Option (Nat × Work) :=
  match s.ringOwner r, (s.ring r).works with
  | some p, w :: _ => some (p, w)
  | _, _ => none

/-- Is the descriptor of an update ring? -/
def State.isUpdate (s : State) (r : Nat) : Bool := (s.ring r).tc == 2

/-- One finishing write of ring r's head: to `off` within the descriptor; a refused one is dropped (R153). -/
def State.finishWrite (s : State) (p r pos off : Nat) (data : Bytes) (pu : Purpose) : State :=
  let (ok, s1) := s.physWrite p (cellOfRing r) ((s.ring r).descPa pos + off) data pu false
  if ok then s1 else s1.dropFinish p r

/-- Step 3: the status block (R154). -/
def State.writeStatus (s : State) (r : Nat) : State :=
  match s.headOf r with
  | some (p, w) =>
    if w.phase != .status || !s.mayIssue p (cellOfRing r) then s
    else
      let s1 := s.finishWrite p r w.pos 96 (w.statusBlock (s.isUpdate r)) (.statusBlock r w.pos)
      s1.modWork r w.pos fun w => { w with phase := .statusOut }
  | none => s

/-- Step 4: byte 127 with OWN = 0, after the status block has ended with `ack` (R152). -/
def State.writeOwn (s : State) (r : Nat) (ack : WrRes) : State :=
  match s.headOf r with
  | some (p, w) =>
    if w.phase != .statusOut || !s.mayIssue p (cellOfRing r) then s
    else
      let s1 := s.endFinish p r (.statusBlock r w.pos) ack
      (s1.finishWrite p r w.pos 127 [0] (.ownClear r w.pos)).modWork r w.pos fun w => { w with phase := .ownOut }
  | none => s

/-- Does the descriptor get a completion entry (R152 step 5)? -/
def State.wantsEntry (s : State) (r : Nat) (w : Work) : Bool := !(dNoCqe w.raw && w.code (s.isUpdate r) == 0)

/-- Is a completion ring full against the cached consumer count (R157)? -/
def CompRing.full (k : CompRing) : Bool := (k.n + 2 ^ 32 - k.cached) % 2 ^ 32 == 2 ^ k.sizeLog2

/-- Number of a ring's completion ring. -/
def cqOf (p : Nat) (g : Ring) : Nat := 256 * p + g.cq

/-- Writes the completion entry of ring r's head (R156, R158). -/
def State.putEntry (s : State) (p r : Nat) (w : Work) : State :=
  let g := s.ring r
  let k := cqOf p g
  let q := s.cq k
  let b := completionEntry (s.localRing p r) (w.pos % g.size) s.clk.fab (q.n / 2 ^ q.sizeLog2 % 2 == 0) (s.isUpdate r) w
  let (ok, s1) := s.physWrite p (cellOfRing r) (q.base + 32 * (q.n % 2 ^ q.sizeLog2)) b (.completionEntry r w.pos) false
  let s2 := (s1.modCq k fun q => { q with n := wrapAdd 32 q.n 1 }).modWork r w.pos fun w => { w with phase := .entryOut }
  if ok then s2 else s2.dropFinish p r

/-- Step 5: the completion entry, or a wait while the completion ring is full (R156, R157). -/
def State.writeEntry (s : State) (r : Nat) (ack : WrRes) : State :=
  match s.headOf r with
  | some (p, w) =>
    if w.phase != .ownOut || !s.wantsEntry r w || !s.mayIssue p (cellOfRing r) then s
    else
      let s1 := s.endFinish p r (.ownClear r w.pos) ack
      let k := cqOf p (s1.ring r)
      if (s1.cq k).full || !(s1.cq k).waiters.isEmpty then
        (s1.modCq k fun q => { q with waiters := q.waiters ++ [r], fullEvents := satAdd 16 q.fullEvents 1 }).modWork r w.pos fun w =>
          { w with phase := .full }
      else s1.putEntry p r w
  | none => s

/-- The last finishing write is acknowledged: the vector is signalled, and the descriptor ends (R152, R159). -/
def State.endWork (s : State) (r : Nat) (ack : WrRes) : State :=
  match s.headOf r with
  | some (p, w) =>
    let pu := if w.phase = .entryOut then Purpose.completionEntry r w.pos else .ownClear r w.pos
    if w.phase == .entryOut || (w.phase == .ownOut && !s.wantsEntry r w) then
      let s1 := s.endFinish p r pu ack
      let s2 := match (s1.cq (cqOf p (s1.ring r))).vector with
        | some v => if dIrq w.raw then s1.signalVector p v else s1
        | none => s1
      (s2.popWork r w.pos).advanceAll p
    else s
  | none => s

/-! ## Consumer word (R157) -/

/-- Reads the consumer word of a full completion ring. -/
def State.pollConsumer (s : State) (k : Nat) : State :=
  let q := s.cq k
  let p := k / 256
  if !q.placed || !q.full || s.waitsFor (.consumerWord k) || decide (s.clk.fab < q.pollAt) || decide (2 ≤ s.level (96 + p)) ||
      (s.part p).st != 2 then s
  else
    let (ok, s1) := s.physRead p 68 q.word 8 (.consumerWord k)
    let s2 := s1.modCq k fun q => { q with pollAt := s.clk.fab + 1024 }
    if ok then s2 else s2.report { source := 0, cls := 1, part := some p, detail := 0xF1 }

/-- Writes the entries that wait, in order, while there is room. -/
def State.releaseEntries (s : State) (k : Nat) : Nat → State
  | 0 => s
  | n + 1 =>
    let q := s.cq k
    match q.waiters with
    | [] => s
    | r :: rest =>
      if q.full then s
      else
        let s1 := s.modCq k fun q => { q with waiters := rest }
        match s1.headOf r with
        | some (p, w) => if w.phase = .full then (s1.putEntry p r w).releaseEntries k n else s1.releaseEntries k n
        | none => s1.releaseEntries k n

/-- The consumer word returns: a value from the cached count to n is taken, a failed read is reported (R153, R157). -/
def State.consumerReturned (s : State) (q : Req) (k : Nat) (res : RdRes) : State :=
  let c := s.cq k
  match res with
  | .ok b =>
    let v := fieldAt (s.unseal q.key q.pa b) 0 4
    let ok := (v + 2 ^ 32 - c.cached) % 2 ^ 32 ≤ (c.n + 2 ^ 32 - c.cached) % 2 ^ 32
    let s1 := if ok then s.modCq k fun c => { c with cached := v } else s
    s1.releaseEntries k c.waiters.length
  | _ => s.report { source := 0, cls := 1, part := some (k / 256), detail := 0xF1 }

end Sys2Proof.Machine
end

