-- ==== Sys2Proof/Machine/Park.lean ====
section
/-! DEFINITION. Parking and the fault queue (R81 to R91, R95 to R101). -/

namespace Sys2Proof.Machine

/-- Is a partition's fault queue full (R90)? -/
def FaultQueue.full (q : FaultQueue) : Bool := (q.prod + 65536 - q.cons) % 65536 == 4096

/-- The fault record of a slot, with its phase (R88). -/
def ParkSlot.bytes (k : ParkSlot) (slot : Nat) (phase : Bool) : Bytes :=
  let unit := if slot < 16384 then slot / 256 else 0x40
  let ix := if slot < 16384 then slot % 256 else 0
  let f := k.fault
  leBytes 1 f.cause ++
    leBytes 1 (fld (b2n phase) 7 1 + fld (b2n k.more) 4 1 + fld (b2n (bit k.flags 0)) 3 1 + fld (b2n f.dst) 2 1 +
      fld (b2n f.accum) 1 1 + b2n f.write) ++
    leBytes 2 f.asid ++ leBytes 4 (fld k.gen 24 8 + fld ix 8 8 + unit) ++ leBytes 8 f.va ++
    leBytes 2 (if k.repair then fld 1 15 1 else k.ring) ++ leBytes 2 k.descIndex ++ leBytes 4 k.parkCycle ++ leBytes 8 k.linear

/-- The slots of partition p that hold a parked descriptor or job. -/
def State.slotsOf (s : State) (p : Nat) : List Nat :=
  (s.qc.park.filter fun e => e.2.valid && e.2.part == p).map Prod.fst

/-- Frees a park slot; its generation and last expired generation stay (R101). -/
def State.freeSlot (s : State) (k : Nat) : State := s.modSlot k fun x => { gen := x.gen, expired := x.expired }

/-- The parked descriptor of ring r ends bad with a status and its park cursor (R91, R94, R100). -/
def State.endParkedRing (s : State) (r status : Nat) : State :=
  match s.ringOwner r with
  | none => s
  | some p =>
    let end_ (w : Work) : Work :=
      if w.phase = .parked then
        let side : Bool := match w.fault with
          | some f => f.dst
          | none => false
        { w with phase := .draining, bad := some { status := status, dst := side }, fault := none }
      else w
    let s1 := (s.freeSlot r).modRing r fun g =>
      { g with works := g.works.map end_, st := if g.st = 5 then 2 else g.st }
    ((s1.settleRing r).advanceAll p)

/-- The parked descriptor of ring r returns to the head of its ring and continues from the cursor (R95, R96). -/
def State.resumeRing (s : State) (r : Nat) : State :=
  let back (w : Work) : Work :=
    if w.phase = .parked then
      { w with phase := .queued, base := w.cursor, rd := [], got := [], buf := [], wr := [], dlv := [], fault := none, more := false
               refault := true }
    else w
  ((s.freeSlot r).modRing r fun g => { g with works := g.works.map back, st := if g.st = 5 then 2 else g.st }).settleRing r

/-- Issues the record of slot k at the queue's producer count (R89); false when refused. -/
def State.issueRecord (s : State) (p k : Nat) : Bool × State :=
  let q := s.fq p
  let x := s.slot k
  let b := x.bytes k (q.prod / 4096 % 2 == 0)
  let (ok, s1) := s.physWrite p 66 (q.base + 32 * (q.prod % 4096)) b (.faultRecord k x.gen) false
  let s2 := s1.modFq p fun q => { q with prod := wrapAdd 16 q.prod 1 }
  (ok, s2.modSlot k fun x => { x with issued := true, held := false })

/-- The held slot of partition p that parked first. -/
def State.firstHeld (s : State) (p : Nat) : Option Nat :=
  (s.slotsOf p).foldl (init := none) fun a k =>
    if !(s.slot k).held then a
    else match a with
      | none => some k
      | some b => if (s.slot k).stamp < (s.slot b).stamp then some k else a

/-- Reports a record write that failed (R91). -/
def State.reportRecord (s : State) (p : Nat) : State := s.report { source := 2, cls := 1, part := some p }

/-- Fills slot k, with its next generation (R82, R97). -/
def State.fillSlot (s : State) (k : Nat) (x : ParkSlot) : State :=
  let g := ((s.slot k).gen + 1) % 256
  { s.modSlot k (fun o => { x with valid := true, gen := g, expired := o.expired, stamp := s.xl.next, parkCycle := s.clk.fab % 2 ^ 32 })
    with xl := { s.xl with next := s.xl.next + 1 } }

/-- Holds the record of slot k because the queue is full (R90). -/
def State.holdRecord (s : State) (p k : Nat) : State :=
  (s.modSlot k fun x => { x with held := true }).modFq p fun q => { q with heldEvents := satAdd 16 q.heldEvents 1 }

/-- Parks the descriptor of ring r whose requests have all completed (R81). -/
def State.parkRing (s : State) (r : Nat) : State :=
  match s.ringOwner r, (s.ring r).works.find? fun w => w.phase == .draining && w.fault.isSome && w.bad.isNone with
  | some p, some w =>
    if s.dataOut r w.pos then s
    else
      let f := w.fault.getD {}
      let s1 := s.fillSlot r { part := p, ring := r, descIndex := w.pos % (s.ring r).size, linear := w.cursor, fault := f, more := w.more
                               flags := b2n w.refault }
      let s2 := (s1.discardFetches r fun _ => true).modRing r fun g =>
        { g with st := 5, stale := false, exhausted := false, refetch := 0, backoff := none, again := false }
      let s3 := s2.modWork r w.pos fun w => { w with phase := .parked }
      if (s3.fq p).full then s3.holdRecord p r
      else
        let (ok, s4) := s3.issueRecord p r
        if ok then s4 else (s4.reportRecord p).endParkedRing r 5
  | _, _ => s

end Sys2Proof.Machine
end

