-- ==== Sys2Proof/Machine/Jobs.lean ====
section
/-! DEFINITION. Reckoner jobs: acceptance, order, tiles, passes, norm tables, parking and return (R203 to R235). -/

namespace Sys2Proof.Machine

/-- Job entry e. -/
def State.job (s : State) (e : Nat) : Job := Tab.at s.rk.jobs e
/-- Changes job entry e. -/
def State.modJob (s : State) (e : Nat) (f : Job → Job) : State := { s with rk := { s.rk with jobs := Tab.upd s.rk.jobs e f } }
/-- Partition of a job entry. -/
def partOfJob (e : Nat) : Nat := e / 4
/-- The entries partition p holds. -/
def State.jobsOf (s : State) (p : Nat) : List Nat := [4 * p, 4 * p + 1, 4 * p + 2, 4 * p + 3].filter fun e => (s.job e).live
/-- A free entry of partition p (R203). -/
def State.freeEntry (s : State) (p : Nat) : Option Nat := [4 * p, 4 * p + 1, 4 * p + 2, 4 * p + 3].find? fun e => !(s.job e).live

/-- Elements in a tile (R210). -/
def tileSize : Nat := 16384
/-- Number of tiles of a job. -/
def Job.tileCount (j : Job) : Nat := ceilDiv (uN j.raw) tileSize
/-- First element of tile k, and one past its last. -/
def Job.elems (j : Job) (k : Nat) : Nat × Nat := (tileSize * k, min (tileSize * (k + 1)) (uN j.raw))

/-- The requests of job e. -/
def ofJob (e : Nat) : Purpose → Bool
  | .jobRead a _ _ _ => a == e
  | .jobWrite a _ _ _ => a == e
  | .normTable a => a == e
  | .fingerprint a _ => a == e
  | _ => false

/-- Has job e a request outstanding? -/
def State.jobOut (s : State) (e : Nat) : Bool := s.reqs.any fun q => ofJob e q.purpose

/-- Does pass `k` of a job leave no tile to acknowledge but its last (R213)? -/
def sumPass (b : Bytes) (k : Nat) : Bool := k == 0 || k == 2 || (k == 1 && dOpcode b == 0x23)

/-- The element cursor (R213). -/
def Job.cursor (j : Job) : Nat :=
  if j.pass = 3 then 0
  else
    let low := j.tiles.foldl (fun a t => min a t.k) j.tile
    min (uN j.raw) (tileSize * if sumPass j.raw j.pass then j.tile else low)

/-- Has the job's last pass delivered everything? -/
def Job.complete (j : Job) : Bool :=
  j.sc.skipped || (passAfter j.raw j.pass == none && j.pass != 3 && j.tile == j.tileCount && j.tiles.isEmpty && j.fps.isEmpty)

/-- Has the job issued its last request (R205)? -/
def Job.issuedAll (j : Job) : Bool :=
  match j.phase with
  | .waiting => false
  | .running =>
    j.sc.skipped || (passAfter j.raw j.pass == none && j.pass != 3 && j.tile == j.tileCount &&
      (j.tiles.all fun t => t.todo.isEmpty) && j.fps.isEmpty && j.repair.isNone)
  | .parked => false
  | _ => true

/-- Is it job e's turn among its partition's jobs: every earlier one has issued its last request and none is parked (R204)? -/
def State.turnOf (s : State) (e : Nat) : Bool :=
  let j := s.job e
  (s.jobsOf (partOfJob e)).all fun x =>
    let o := s.job x
    o.phase != .parked && (x == e || decide (j.stamp < o.stamp) || o.issuedAll)

/-! ## Acceptance (R121, R203, R207, R209) -/

/-- The status block of a job (R234). -/
def jobBlock (status detail linear pass flags a b nonfinite : Nat) : Bytes :=
  leBytes 1 status ++ leBytes 1 detail ++ leBytes 6 linear ++ leBytes 1 pass ++ leBytes 1 flags ++ zeros 2 ++
    leBytes 4 a ++ leBytes 4 b ++ leBytes 4 nonfinite ++ zeros 7

/-- Hands a finished update descriptor back to its cell (R234). -/
def State.giveBack (s : State) (p r pos : Nat) (res : JobResult) (mute : Bool) : State :=
  ((s.modWork r pos fun w => { w with phase := .draining, result := res, mute := w.mute || mute }).advanceAll p).settleRing r

/-- A malformed update descriptor ends with nothing written (R121, R209). -/
def State.malformedUpdate (s : State) (p r pos : Nat) : State :=
  let s1 := s.modCell (cellOfRing r) fun c => { c with errMalformed := satAdd 16 c.errMalformed 1 }
  s1.giveBack p r pos { status := 1, block := jobBlock 1 0 0 0 0 0 0 0 } false

/-- Consumes the head descriptor of TC2 ring r. -/
def State.consumeUpdate (s : State) (r : Nat) (b : Bytes) : State :=
  s.modRing r fun g => { g with
    fetched := g.fetched.filter fun x => x.1 != g.c
    c := (g.c + 1) % g.m
    works := g.works ++ [{ pos := g.c, raw := b, phase := .passed, start := s.clk.fab }] }

/-- Passes the head descriptor of TC2 ring r to the Reckoner, which accepts it as a job (R126, R203, R209). -/
def State.passUpdate (s : State) (r : Nat) : State :=
  let g := s.ring r
  match s.ringOwner r, g.fetched.find? fun x => x.1 == g.c with
  | some p, some (_, _, b) =>
    if g.tc != 2 || g.c == g.p || !g.valid g.c b || g.st == 0 || g.st == 5 || g.st == 6 || g.fetchErr == some g.c ||
        !s.mayStart p (cellOfRing r) || g.entryWaits then s
    else
      let s1 := s.consumeUpdate r b
      if dTc b != 2 || !updateOk g.phys b then (s1.malformedUpdate p r g.c).judgeRing p r
      else match s.freeEntry p with
        | none => s
        | some e =>
          let first := (passesOf b).headD 4
          let j : Job := { live := true, stamp := s.rk.next, ring := r, pos := g.c, index := g.c % g.size, asid := g.asid, phys := g.phys
                           raw := b, pass := first, hint := dHint b }
          let s2 := { s1 with rk := { s1.rk with next := s1.rk.next + 1 } }
          (s2.modJob e fun _ => j).judgeRing p r
  | _, _ => s

/-! ## Ending and parking (R214, R215) -/

/-- Forgets the misses of job e. -/
def State.dropJobMisses (s : State) (e : Nat) : State :=
  let l := s.xl.misses.filter fun m => match m.who with
    | .jobRead a _ _ _ => a != e
    | .jobWrite a => a != e
    | _ => true
  { s with xl := { s.xl with misses := l } }

/-- The write-combining entries job e wrote into go out (R198), and its tiles leave the array (R267). -/
def State.flushJob (s : State) (e : Nat) : State :=
  let keep (t : ArrayTile) : Bool := t.job != e
  ({ s with rk := { s.rk with array := s.rk.array.filter keep, bufs := s.rk.bufs.filter keep } }).flushOf (partOfJob e) (ofJob e)

/-- Job e ends without finishing: it issues nothing more and drains (R215). -/
def State.jobBad (s : State) (e : Nat) (ev : BadEv) : State :=
  let keep (j : Job) : BadEv := match j.bad with
    | some x => if ev.off < x.off || (ev.off == x.off && x.dst && !ev.dst) then ev else x
    | none => ev
  ((s.modJob e fun j => { j with
    phase := .draining, bad := some (keep j), tiles := j.tiles.map fun t => { t with todo := [], all := [] }, fps := [], buf := [] }).dropJobMisses
      e).flushJob e

/-- Job e takes a page fault: it parks once drained, or ends with FAULT where no fault queue is placed (R81, R87, R214). -/
def State.jobFault (s : State) (e : Nat) (ev : FaultEv) : State :=
  if (s.fq (partOfJob e)).placed then
    let mark (j : Job) : Job :=
      if j.bad.isSome then j
      else match j.fault with
        | some x =>
          if ev.off < x.off || (ev.off == x.off && x.dst && !ev.dst) then { j with fault := some ev, more := true }
          else { j with more := true }
        | none => { j with fault := some ev }
    ((s.modJob e fun j => { mark j with phase := .draining, buf := [] }).dropJobMisses e).flushJob e
  else s.jobBad e { off := ev.off, dst := ev.dst, status := 5 }

/-- What an access's verdict does to its job. `elem` is the element concerned. -/
def State.onJobVerdict (s : State) (e elem : Nat) (dst : Bool) (a : Access) : Verdict → State
  | .status c => s.jobBad e { off := elem, dst := dst, status := c }
  | .fault c => s.jobFault e { off := elem, dst := dst, cause := c, va := va57 a.va, asid := a.asid, write := a.write }
  | _ => s

/-! ## Requests of a job -/

/-- Address of byte `o` of a stream of job j (R207, R210, R220). -/
def Job.addr (j : Job) (stream o : Nat) : Nat :=
  if 8 ≤ stream then
    match j.repair with
    | some r =>
      match r.addrs.find? fun a => a.1 == (stream - 8) / 2 with
      | some a => (if stream % 2 = 0 then a.2.1 else a.2.2) + o
      | none => o
    | none => o
  else if stream = 7 && dOpcode j.raw = 0x25 then
    toModNat 64 ((uBase j.phys j.raw 7 : Int) + ((o / 8 : Nat) : Int) * uStride j.raw + 8 * (uSelf j.raw : Int))
  else (uBase j.phys j.raw stream + o) % 2 ^ 64

/-- Where a stream must lie (R209). -/
def Job.want (j : Job) (stream : Nat) : Nat :=
  if 8 ≤ stream then 3
  else if stream = 7 && j.repair.isSome then 1
  else match stream with
    | 1 => 1
    | 2 => 1
    | 3 => 1
    | 6 => if dOpcode j.raw = 0x23 then 1 else 2
    | 7 => if dOpcode j.raw = 0x25 then 3 else 2
    | _ => 2

/-- Element that byte `o` of a stream belongs to. -/
def Job.elemOf (j : Job) (stream o : Nat) : Nat :=
  if stream = 4 then
    (if uWcMx j.raw then o / elemBytes (uWcFmt j.raw) 32 true * 32 else o * 8 / max 1 (fmtWidth (uWcFmt j.raw)))
  else o / max 1 (uElem j.raw stream)

/-- The access of a job to `[o, o + n)` of a stream. -/
def Job.access (j : Job) (e stream o n : Nat) (data : Bytes) (write : Bool) : Access :=
  let p := partOfJob e
  let table := j.repair.isSome && stream == 7
  let va := if table then (j.repair.getD {}).table + o else j.addr stream o
  { part := p, unit := 64, l1 := l1OfPort (if write then 2 else if j.want stream = 1 then 1 else 0) p, asid := j.asid, phys := j.phys || table
    va := va, len := n, kind := if write then .write else .read, data := data, mask := maskRange (va % 64) n
    hint := if stream = 1 || stream = 2 || stream = 3 then j.hint else 3, want := j.want stream
    span := some (16384 + e, stream, o / 65536), fenced := write
    purpose := if write then .jobWrite e stream o n else .jobRead e stream o n
    who := if write then .jobWrite e else .jobRead e stream o n }

/-- Intervals of a stream that tile k of the present pass reads. -/
def Job.reads (j : Job) (k : Nat) : List (Nat × Nat × Nat) :=
  let b := j.raw
  let op := dOpcode b
  let (a, z) := j.elems k
  let whole (st : Nat) : Nat × Nat × Nat := (st, uOff b st a, uOff b st z)
  let last := k + 1 == j.tileCount
  match j.pass with
  | 0 => [whole 0]
  | 1 =>
    if op = 0x22 then [whole 0, whole 1, whole 2, whole 3]
    else if op = 0x23 then whole 0 :: (if last then [(3, 0, 4 * uRows b), (6, 0, 4 * uCols b)] else [])
    else [whole 0, whole 2]
  | 2 => [whole 0]
  | 3 => [(6, 2 * a, 2 * z)]
  | 4 =>
    match op with
    | 0x20 => [whole 0, whole 1, whole 2]
    | 0x21 => [whole 0, whole 1, whole 2, whole 3]
    | 0x22 => [whole 6]
    | 0x23 => [whole 0, whole 1] ++ if uHasMom1 b then [whole 2] else []
    | 0x24 =>
      let sx := roundUp (2 * uN b) 64
      let x := if uSelf b % 2 = 1 then 2 * sx else sx
      [whole 1, (6, x + 2 * a, x + 2 * z)]
    | _ => [whole 1]
  | _ =>
    let lo := uOff b 4 a / 2097152
    let hi := ceilDiv (uOff b 4 z) 2097152
    [whole 4, (5, 8 * lo, 8 * hi)] ++ if uMode b then [whole 1] else []

/-- Bytes one tile of the present pass reads (R244). -/
def Job.tileBytes (j : Job) : Nat := ((j.reads 0).map fun x => x.2.2 - x.2.1).sum

/-- Is a job in a lane pass, and issuing (R205, R244)? -/
def Job.inLanes (j : Job) : Bool := j.live && j.phase == .running && !j.issuedAll && (j.pass != 3 || j.step == 0)

/-- Total FACTOR reservation F (R243). -/
def State.reserved (s : State) : Nat := (s.rk.jobs.map fun e => e.2.reserve).sum

/-- Read-ahead quota q of a job (R244). -/
def State.quota (s : State) (j : Job) : Nat :=
  let n := (s.rk.jobs.filter fun e => e.2.inLanes).length
  min 16 ((30 * 2 ^ 20 - s.reserved) / max 1 (n * j.tileBytes))

/-- May job e issue now? -/
def State.jobMayIssue (s : State) (e : Nat) : Bool :=
  let j := s.job e
  j.live && j.phase == .running && j.bad.isNone && j.fault.isNone && s.rkMayIssue (partOfJob e)

/-- Intervals of the scratch that the array work of pass N asks for; given by the array. -/
abbrev Needs := List (Nat × Nat × Nat)

/-- Issues the read of `[o, o + n)` of a stream within what `needs` asks for and one line (R18, R212). -/
def State.jobReadIn (s : State) (e stream o n : Nat) (needs : Needs) : State :=
  let j := s.job e
  let inside := needs.any fun x => x.1 == stream && decide (x.2.1 ≤ o) && decide (o + n ≤ x.2.2)
  if !s.jobMayIssue e || n = 0 || !inside || ivMeets (Tab.at j.rd stream) o (o + n) ||
      64 < j.addr stream o % 64 + n || s.missing (.jobRead e stream o n) then s
  else
    let a := j.access e stream o n [] false
    let (v, s1) := s.access a
    match v with
    | .sent => s1.modJob e fun j => { j with rd := Tab.upd j.rd stream fun l => ivAdd o (o + n) l }
    | v => s1.onJobVerdict e (j.elemOf stream o) false a v

/-- A read of a job ends (R212, R215, R278, R280). -/
def State.jobReadDone (s : State) (q : Req) (e stream o n status : Nat) (timeout : Bool) (data : Bytes) : State :=
  let j := s.job e
  if !j.live then s
  else if status = 0 then
    if j.phase = .running then
      s.modJob e fun j => { j with got := Tab.upd j.got stream fun l => ivAdd o (o + n) l
                                   buf := j.buf ++ [{ stream := stream, off := o, data := padTo n data }] }
    else s
  else
    let s1 := s.jobBad e { off := j.elemOf stream o, dst := false, status := status, path := q.path.code, timeout := timeout }
    if (status = 8 || status = 9) && j.want stream = 1 then
      s1.fabEvent 0x0011 none (some (partOfJob e)) (va57 (j.addr stream o))
    else s1

/-- The next write job e has to issue. -/
def Job.nextWrite (j : Job) : Option Run := (j.tiles.find? fun t => !t.todo.isEmpty).bind fun t => t.todo.head?

/-- Moves the next write of a job from `todo` to `out`. -/
def Job.wrote (j : Job) (r : Run) : Job :=
  match j.tiles.find? fun t => !t.todo.isEmpty with
  | none => j
  | some t =>
    { j with tiles := j.tiles.map fun x =>
        if x.k = t.k then { x with todo := x.todo.drop 1, out := x.out ++ [(r.stream, r.off)] } else x }

/-- Issues the next queued write of job e (R212); false when it has to wait. -/
def State.jobWriteOne (s : State) (e : Nat) : Bool × State :=
  let j := s.job e
  match j.nextWrite with
  | none => (false, s)
  | some r =>
    if !s.jobMayIssue e || s.missing (.jobWrite e) then (false, s)
    else
      let a := j.access e r.stream r.off r.data.length r.data true
      let (v, s1) := s.access a
      match v with
      | .sent => (true, s1.modJob e fun j => j.wrote r)
      | v => (false, s1.onJobVerdict e (j.elemOf r.stream r.off) true a v)

/-- Issues the queued writes of job e, in order, until one has to wait. -/
def State.jobWrites (s : State) (e : Nat) : Nat → State
  | 0 => s
  | n + 1 => match s.jobWriteOne e with
    | (true, s1) => s1.jobWrites e n
    | (false, s1) => s1

/-- Writes job e has queued. -/
def Job.queued (j : Job) : Nat := (j.tiles.map fun t => t.todo.length).sum

/-- Issues every queued write of job e that may go now. -/
def State.jobDrain (s : State) (e : Nat) : State := s.jobWrites e (s.job e).queued

/-- A write of a job ends (R213, R215). -/
def State.jobWriteDone (s : State) (q : Req) (e stream o status : Nat) (timeout : Bool) : State :=
  let j := s.job e
  if !j.live then s
  else if status = 0 then
    s.modJob e fun j => { j with tiles := j.tiles.map fun t => { t with out := t.out.filter fun x => x != (stream, o) } }
  else s.jobBad e { off := j.elemOf stream o, dst := true, status := status, path := q.path.code, timeout := timeout }

/-! ## Starting (R204, R216, R222, R243) -/

/-- Scalars of pass B that need only the descriptor (R226). -/
def sigmaOf (b : Bytes) : Nat := fsqrt (fmax fone (fmul (fint (uRows b)) (frcp (fint (uCols b)))))

/-- Starts job e (R204). -/
def State.startJob (s : State) (e : Nat) : State :=
  let j := s.job e
  let p := partOfJob e
  let b := j.raw
  let global := isOptimizer (dOpcode b) && uClip b == 2
  let reserve := if dOpcode b = 0x23 then 4 * (uRows b + uCols b) else 0
  if !j.live || j.phase != .waiting || j.repair.isSome || !s.turnOf e || !s.rkMayStart p || (global && !j.normDone) ||
      decide (18 * 2 ^ 20 < s.reserved + reserve) then s
  else
    let tab := Tab.at s.rk.scheds (4 * p + uSched b)
    if isOptimizer (dOpcode b) && tab.isEmpty then
      (s.modJob e fun _ => {}).malformedUpdate p j.ring j.pos
    else
      let sc0 := { startScalars b tab with sigma := sigmaOf b }
      let sc := if global then clipScalars b sc0 j.sc.norm else sc0
      s.modJob e fun j => { j with
        phase := .running, sc := sc, start := s.clk.fab, reserve := reserve
        fence := if dFence b = 2 then s.globalFence p else [] }

/-! ## Tiles -/

/-- Have all reads of tile k returned (R212)? -/
def Job.tileRead (j : Job) (needs : Needs) : Bool := needs.all fun x => ivCovers (Tab.at j.got x.1) x.2.1 x.2.2

/-- FP32 value of element i of stream `st` in format `fmt`. -/
def Job.load (j : Job) (st fmt i : Nat) : Nat := loadFmt fmt (runBytes j.buf st (uOff j.raw st i) (uElem j.raw st))

/-- The element i of a tile as read, by opcode. -/
def Job.elem (j : Job) (i : Nat) : Elem :=
  let b := j.raw
  let trustB := dOpcode b == 0x22 && j.pass == 4
  let sx := roundUp (2 * uN b) 64
  let x := if uSelf b % 2 = 1 then 2 * sx else sx
  { g := j.load 0 (uGradFmt b) i
    w := if trustB then leNat (runBytes j.buf 6 (8 * i) 4) else j.load 1 (uMasterFmt b) i
    m := j.load 2 (uMomFmt b) i, v := j.load 3 (uMomFmt b) i
    d := leNat (runBytes j.buf 6 (8 * i + 4) 4), x := loadFmt 1 (runBytes j.buf 6 (x + 2 * i) 2) }

/-- Element numbers of a tile. -/
def Job.range (j : Job) (k : Nat) : List Nat := let (a, z) := j.elems k; (List.range (z - a)).map fun i => a + i

/-- A run of a tile's stream from per-element bytes. -/
def Job.run (j : Job) (st k : Nat) (l : List Bytes) : Run := { stream := st, off := uOff j.raw st (j.elems k).1, data := l.flatten }

/-- Zeros over the tile's gradient, where the pass is the last that reads it (R211). -/
def Job.zeroRun (j : Job) (k : Nat) : List Run :=
  let last := if dOpcode j.raw = 0x24 then 1 else 4
  if isOptimizer (dOpcode j.raw) && uMode j.raw && j.pass == last then
    [j.run 0 k ((j.range k).map fun _ => zeros (uElem j.raw 0))] else []

/-- Cuts complete regions off the working-copy bytes gathered so far and keeps their fingerprints (R230). -/
def regions (first : Nat) (final : Bool) : Nat → Bytes → List (Nat × Nat) × Bytes
  | 0, b => ([], b)
  | n + 1, b =>
    if 2097152 ≤ b.length then
      let (l, rest) := regions (first + 1) final n (b.drop 2097152)
      ((first, crc64 0 (b.take 2097152)) :: l, rest)
    else if final && b != [] then ([(first, crc64 0 b)], [])
    else ([], b)

/-- Adds a tile's working-copy bytes to the running fingerprint state (R230). -/
def Job.addCopy (j : Job) (k : Nat) (wc : Bytes) : Job :=
  let start := uOff j.raw 4 (j.elems k).1 - j.cur.length
  let all := j.cur ++ wc
  let (l, rest) := regions (start / 2097152) (k + 1 == j.tileCount) (all.length / 2097152 + 1) all
  { j with cur := rest, fps := j.fps ++ l }

/-- Passes P and A2, and pass A of FACTOR but for its last tile: sums only (R219, R225). -/
def Job.sumTile (j : Job) (k : Nat) : Job :=
  let b := j.raw
  (j.range k).foldl (init := j) fun j i =>
    let e := j.elem i
    match j.pass with
    | 0 => { j with lanes := laneAdd j.lanes 0 i e.g }
    | 2 =>
      let u := factorU j.sc e.g (Tab.at j.rowF (i / uCols b)) (Tab.at j.colF (i % uCols b))
      { j with lanes := laneAdd j.lanes 3 i u }
    | _ =>
      let x := factorE b j.sc e.g
      { j with rows := Tab.upd j.rows (i / uCols b) fun a => fadd a x, cols := Tab.upd j.cols (i % uCols b) fun a => fadd a x }

/-- The factors after the last tile of FACTOR's pass A, and their writes (R225). -/
def Job.factors (j : Job) : Job × List Run :=
  let b := j.raw
  let new (st : Nat) (sums : Tab Nat) (other i : Nat) : Nat :=
    ffma (uHp2 b) (leNat (runBytes j.buf st (4 * i) 4)) (fmul j.sc.q2 (fmul (Tab.at sums i) (frcp (fint other))))
  let rs := (List.range (uRows b)).map (new 3 j.rows (uCols b))
  let cs := (List.range (uCols b)).map (new 6 j.cols (uRows b))
  let rowF : Tab Nat := Tab.ofList (rs.zipIdx.map fun x => (x.2, x.1))
  let colF : Tab Nat := Tab.ofList (cs.zipIdx.map fun x => (x.2, x.1))
  let rho := frcp (fmul (ascSum rowF (uRows b)) (frcp (fint (uRows b))))
  ({ j with rowF := rowF, colF := colF, sc := { j.sc with rho := rho } },
    [{ stream := 3, off := 0, data := (rs.map (leBytes 4)).flatten }, { stream := 6, off := 0, data := (cs.map (leBytes 4)).flatten }])

/-- Pass A of TRUST and ORTHO on tile k; `d` numbers the first draw (R224, R226, R228). -/
def Job.passATile (j : Job) (k d : Nat) : Job × List Run :=
  let b := j.raw
  let a := (j.elems k).1
  let l := (j.range k).map fun i => (i, j.elem i, stepA b j.sc (j.elem i))
  let mom (st : Nat) (v : Elem → Nat) : Run :=
    j.run st k (l.map fun x => storeMom (uMomFmt b) (uSr b) (Config.free (d + 4 * (x.1 - a) + (st - 2))) (v x.2.2))
  if dOpcode b = 0x22 then
    let lanes := l.foldl (fun t x => laneAdd (laneAdd t 1 x.1 x.2.1.w) 2 x.1 x.2.2.d) j.lanes
    ({ j with lanes := lanes },
      [mom 2 Elem.m, mom 3 Elem.v, j.run 6 k (l.map fun x => leBytes 4 x.2.1.w ++ leBytes 4 x.2.2.d)])
  else
    let lanes := l.foldl (fun t x => laneAdd t 4 x.1 x.2.2.m) j.lanes
    ({ j with lanes := lanes },
      [mom 2 Elem.m, j.run 6 k (l.map fun x => leBytes 2 (bf16.encode .nearest false (f32 x.2.2.m)).1)] ++ j.zeroRun k)

/-- Working-copy bytes of a tile from the stored masters of its elements (R227). -/
def Job.deriveTile (j : Job) (k d : Nat) (stored : List Bytes) : Bytes :=
  let a := (j.elems k).1
  let vals := (j.range k).zip stored |>.map fun x => (decodeFmt (uMasterFmt j.raw) (leNat x.2), Config.free (d + 4 * (x.1 - a) + 2))
  deriveRun (uWcFmt j.raw) (uWcMx j.raw) (uSr j.raw) vals

/-- Pass B on tile k (R224 to R227, R232). -/
def Job.passBTile (j : Job) (k d : Nat) : Job × List Run :=
  let b := j.raw
  let op := dOpcode b
  let a := (j.elems k).1
  let l := (j.range k).map fun i =>
    (i, stepB b j.sc (j.elem i) (Tab.at j.rowF (i / uCols b)) (Tab.at j.colF (i % uCols b)))
  let stored := if op = 0x27 then (j.range k).map fun i => runBytes j.buf 1 (uOff b 1 i) (uElem b 1)
    else l.map fun x => storeFmt (uMasterFmt b) x.2.w
  let mom (st : Nat) (v : Elem → Nat) : Run :=
    j.run st k (l.map fun x => storeMom (uMomFmt b) (uSr b) (Config.free (d + 4 * (x.1 - a) + (st - 2))) (v x.2))
  let moms := if op = 0x20 || (op = 0x23 && uHasMom1 b) then [mom 2 Elem.m]
    else if op = 0x21 then [mom 2 Elem.m, mom 3 Elem.v] else []
  let master := if op = 0x27 then [] else [j.run 1 k stored]
  let bad := (stored.filter fun x => !(decodeFmt (uMasterFmt b) (leNat x)).isFin).length
  let j1 := { j with nonfinite := satAdd 32 j.nonfinite bad }
  if uDerives b then
    let wc := j.deriveTile k d stored
    (j1.addCopy k wc, master ++ moms ++ [j.run 4 k [wc]] ++ j.zeroRun k)
  else (j1, master ++ moms ++ j.zeroRun k)

/-- Ends region `r` of a WC_CHECK: compares, and with REGEN derives a mismatching region again (R231). `start` is the byte offset at
which it begins, `n` its length. -/
def Job.endRegion (j : Job) (r start n : Nat) : Job × List Run :=
  let b := j.raw
  let unit := if uWcMx b then elemBytes (uWcFmt b) 32 true else max 1 (fmtWidth (uWcFmt b) / 8)
  let old := j.cur.take n
  let seen := crc64 0 old
  let held := leNat (runBytes j.buf 5 (8 * r) 8)
  let from_ := start / unit * unit
  let to_ := ceilDiv (start + n) unit * unit
  let derKeep := j.der.drop ((start + n) / unit * unit - from_)
  if seen == held then
    let new := overlay old 0 j.carry
    ({ j with cur := j.cur.drop n, prev := new, carry := [], der := derKeep
              fps := if j.carry = [] then j.fps else j.fps ++ [(r, crc64 0 new)] }, [])
  else
    let dr : Drift := { region := r, expected := held, observed := seen }
    let j1 := { j with drift := j.drift ++ [dr] }
    if !uMode b then ({ j1 with cur := j.cur.drop n, prev := old, carry := [], der := derKeep }, [])
    else
      let new := slice j.der (start - from_) n
      let head := if from_ < start then
          let pv := overlay j.prev (j.prev.length - (start - from_)) (j.der.take (start - from_))
          [(r - 1, crc64 0 pv)] else []
      ({ j1 with
          cur := j.cur.drop n, prev := new, carry := (j.der.drop (start + n - from_)).take (to_ - (start + n)), der := derKeep
          fps := (j.fps.filter fun x => !head.any fun h => h.1 == x.1) ++ head ++ [(r, crc64 0 new)]
          regen := j.regen ++ [(r, crc64 0 new)] },
        [{ stream := 4, off := from_, data := j.der.take (to_ - from_) }])

/-- Ends the regions complete in the bytes gathered up to byte offset `stop`. -/
def Job.endRegions (j : Job) (stop : Nat) (final : Bool) : Nat → Job × List Run
  | 0 => (j, [])
  | n + 1 =>
    let start := stop - j.cur.length
    let len := min 2097152 j.cur.length
    if len = 2097152 || (final && len != 0) then
      let (j1, l) := j.endRegion (start / 2097152) start len
      let (j2, m) := j1.endRegions stop final n
      (j2, l ++ m)
    else (j, [])

/-- Pass C on tile k (R231). -/
def Job.passCTile (j : Job) (k d : Nat) : Job × List Run :=
  let b := j.raw
  let (a, z) := j.elems k
  let lo := uOff b 4 a
  let hi := uOff b 4 z
  let der := if uMode b then j.deriveTile k d ((j.range k).map fun i => runBytes j.buf 1 (uOff b 1 i) (uElem b 1)) else []
  let j1 := { j with cur := j.cur ++ runBytes j.buf 4 lo (hi - lo), der := j.der ++ der }
  j1.endRegions hi (k + 1 == j.tileCount) (j1.cur.length / 2097152 + 1)

/-- The scaled first iterate X₀ on tile k, with its statistics (R264, R265 step 0). -/
def Job.xZeroTile (j : Job) (k : Nat) : Job × List Run :=
  let b := j.raw
  let scale := frcp (fadd (fsqrt (laneSum j.lanes 4)) (uEps b))
  let l := (j.range k).map fun i =>
    let m := loadFmt 1 (runBytes j.buf 6 (2 * i) 2)
    (i, (bf16.encode .nearest false (f32 (fmul m scale))).1)
  let w (x : Nat) : Nat := loadFmt 1 (leBytes 2 x)
  let lanes := l.foldl (fun t x => laneAdd t 5 x.1 (w x.2)) j.lanes
  let plain := l.foldl (fun t x => Tab.upd t (1024 * 6 + x.1 % 1024) fun a => fadd a (w x.2)) lanes
  let top := l.foldl (fun a x => match a with
    | none => some (w x.2)
    | some y => some (fmax y (w x.2))) (if k = 0 then none else some (Tab.at j.stats 1))
  ({ j with lanes := plain, stats := Tab.put j.stats 1 (top.getD 0) },
    [{ stream := 6, off := roundUp (2 * uN b) 64 + 2 * (j.elems k).1, data := (l.map fun x => leBytes 2 x.2).flatten }])

/-- Byte offset of the statistics in the ORTHO scratch (R263). -/
def statsOff (b : Bytes) : Nat :=
  let r := min (uRows b) (uCols b)
  3 * roundUp (2 * uN b) 64 + 2 * roundUp (2 * r * r) 64

/-- The slot writes of a FINAL NORM_PARTIAL (R220). -/
def normSlots (b : Bytes) (sum : Nat) : List Run :=
  (List.range (uMembers b)).map fun k => { stream := 7, off := 8 * k, data := leBytes 4 sum ++ leBytes 4 (uStep b) }

/-- The lanes compute tile `j.tile` of a job: its new context and its writes (R211, R212). -/
def Job.compute (j : Job) (d : Nat) : Job × List Run :=
  let k := j.tile
  let last := k + 1 == j.tileCount
  match j.pass with
  | 0 => (j.sumTile k, [])
  | 2 => (j.sumTile k, [])
  | 1 => if dOpcode j.raw = 0x23 then (if last then (j.sumTile k).factors else (j.sumTile k, [])) else j.passATile k d
  | 3 =>
    let (j1, l) := j.xZeroTile k
    let st := leBytes 4 (laneSum j1.lanes 5) ++ leBytes 4 (Tab.at j1.stats 1) ++ leBytes 4 (laneSum j1.lanes 6) ++ zeros 4
    (j1, if last then l ++ [{ stream := 6, off := statsOff j.raw, data := st }] else l)
  | 4 => j.passBTile k d
  | _ => j.passCTile k d

/-- Adds the job's Σg² to the running sum of its partition, and forms the slot writes of a FINAL job (R220). -/
def State.normPartial (s : State) (e : Nat) (j : Job) : State × Job × List Run :=
  let p := partOfJob e
  let sum := fadd (Tab.at s.rk.normSum p) (laneSum j.lanes 0)
  let final := uMode j.raw
  ({ s with rk := { s.rk with normSum := Tab.put s.rk.normSum p (if final then 0 else sum) } },
    { j with sc := { j.sc with norm := sum } }, if final then normSlots j.raw sum else [])

/-- Array width in columns; half of the array may be fused off (R241). -/
def arrayCols (half : Bool) : Nat := if half then 256 else 512

/-- Rows and columns of the product of a step of pass N, in the orientation of its operands, and its inner dimension (R265). -/
def Job.product (j : Job) : Nat × Nat × Nat :=
  let r := min (uRows j.raw) (uCols j.raw)
  let t := max (uRows j.raw) (uCols j.raw)
  match j.step % 3 with
  | 1 => (r, r, t)
  | 2 => (r, r, r)
  | _ => (r, t, r)

/-- Output tiles of the present array step (R266). -/
def Job.outTiles (j : Job) (half : Bool) : Nat := ceilDiv j.product.1 128 * ceilDiv j.product.2.1 (arrayCols half)

/-- Moves pass N on to its next step, or to pass B (R265). `sub` counts the output tiles whose writes have been formed. -/
def Job.nextStep (j : Job) (half : Bool) : Job :=
  let done := if j.step = 0 then j.tile == j.tileCount else j.sub == j.outTiles half
  if j.pass != 3 || !done || !j.tiles.isEmpty then j
  else if j.step = 3 * uSelf j.raw then
    { j with pass := 4, step := 0, sub := 0, tile := 0, rd := [], got := [], buf := [] }
  else { j with step := j.step + 1, sub := 0, tile := 0, rd := [], got := [], buf := [], rows := [] }

/-- Moves a finished pass on to the next, where it has one and every write is acknowledged (R212). -/
def Job.nextPass (j : Job) : Job :=
  if j.tile != j.tileCount || !j.tiles.isEmpty || !j.fps.isEmpty || j.sc.skipped then j
  else
    let b := j.raw
    let sc :=
      match j.pass with
      | 0 => if isOptimizer (dOpcode b) then clipScalars b j.sc (laneSum j.lanes 0) else j.sc
      | 1 =>
        if dOpcode b = 0x22 then
          let sw := laneSum j.lanes 1
          let sd := laneSum j.lanes 2
          let r0 := if (f32 sw).isZero || (f32 sd).isZero then fone else fmul (fsqrt sw) (frcp (fsqrt sd))
          let big := flt (uHp3 b) r0
          { j.sc with trustLimit := big, eta := fmul j.sc.lr (if big then uHp3 b else r0) }
        else j.sc
      | 2 =>
        let x := fmul (fsqrt (fmul (laneSum j.lanes 3) (frcp (fint (uN b))))) (frcp (uHp3 b))
        { j.sc with kappa := frcp (fmax fone x) }
      | _ => j.sc
    match passAfter b j.pass with
    | none => { j with sc := sc }
    | some k =>
      if j.pass = 3 then j
      else { j with sc := sc, pass := k, tile := 0, rd := [], got := [], buf := [], step := 0, sub := 0 }

/-- Has a job room to compute its next tile (R212)? -/
def Job.mayCompute (j : Job) : Bool :=
  let low := j.tiles.foldl (fun a t => min a t.k) j.tile
  decide (j.tile ≤ low + 2) && j.tiles.all fun t => t.todo.isEmpty

/-- Bytes of held reads that later tiles do not need any longer. -/
def Job.pruned (j : Job) : Job :=
  let needs := ((List.range 17).filter fun i => decide (j.tile + i < j.tileCount)).flatMap fun i => j.reads (j.tile + i)
  { j with buf := j.buf.filter fun r => needs.any fun x => x.1 == r.stream && decide (r.off < x.2.2) && decide (x.2.1 < r.off + r.data.length) }

/-- All reads of job e's next tile have returned: the lanes compute it and its writes go out in order (R212). -/
def State.computeTile (s : State) (e : Nat) : State :=
  let j := s.job e
  if !s.jobMayIssue e || j.repair.isSome || !(j.pass != 3 || j.step == 0) || j.tile == j.tileCount || !j.tileRead (j.reads j.tile) ||
      !j.mayCompute || j.sc.skipped then s
  else
    let k := j.tile
    let (j1, l1) := j.compute s.free
    let s1 := { s with free := s.free + 4 * tileSize }
    let (s2, j2, l) :=
      if dOpcode j.raw = 0x25 && k + 1 == j.tileCount then s1.normPartial e j1 else (s1, j1, l1)
    let runs := l.flatMap fun r =>
      if r.stream = 7 then [r] else lineRuns (j.addr r.stream 0) r
    let keeps := !sumPass j.raw j.pass || !runs.isEmpty
    let t : JobTile := { k := k, todo := runs, all := runs }
    let j3 := { j2 with tile := k + 1, tiles := if keeps then j2.tiles ++ [t] else j2.tiles }
    let more := j3.drift.length - j.drift.length
    let drifts := Tab.upd s2.rk.drifts (partOfJob e) fun n => satAdd 16 n more
    let s3 := { s2 with rk := { s2.rk with laneBusy := wrapAdd 64 s2.rk.laneBusy (Config.free s2.free), drifts := drifts } }
    ({ s3 with free := s3.free + 1 }.modJob e fun _ => j3.pruned.nextPass).jobDrain e

/-- Counts the elements of tile k of a pass B or C as finished (R384). -/
def State.countElements (s : State) (e k : Nat) : State :=
  let j := s.job e
  if j.pass = 4 || j.pass = 5 then
    let (a, z) := j.elems k
    let s1 := { s with rk := { s.rk with elements := wrapAdd 64 s.rk.elements (z - a) } }
    s1.count (partOfJob e) 4 (z - a)
  else s

/-- The lowest tile's writes are all acknowledged: the cursor advances, and the next pass may start (R213). -/
def State.ackTile (s : State) (e : Nat) : State :=
  let j := s.job e
  match j.tiles with
  | t :: rest =>
    if !j.live || j.phase != .running || !t.todo.isEmpty || !t.out.isEmpty || j.repair.isSome then s
    else ((s.countElements e t.k).modJob e fun j => ({ j with tiles := rest }.nextPass).nextStep s.rk.halfArray)
  | [] => s

/-! ## Norm tables (R221) -/

/-- Reads the norm table of waiting job e. -/
def State.readNorm (s : State) (e : Nat) : State :=
  let j := s.job e
  let p := partOfJob e
  let due : Bool := match j.normAt with
    | some t => decide (t + 256 ≤ s.clk.fab)
    | none => true
  let n := 8 * uMembers j.raw
  if !j.live || j.phase != .waiting || !isOptimizer (dOpcode j.raw) || uClip j.raw != 2 || j.normDone || !s.turnOf e ||
      !s.rkMayIssue p || !due || s.waitsFor (.normTable e) || s.missing (.jobRead e 7 0 n) then s
  else
    let s0 := s.modJob e fun j => { j with normFrom := some (j.normFrom.getD s.clk.fab) }
    let a := { j.access e 7 0 n [] false with purpose := .normTable e, span := none }
    let (v, s1) := s0.access a
    match v with
    | .sent => s1.modJob e fun j => { j with normAt := some s.clk.fab }
    | .status c => s1.jobBad e { status := c }
    | .fault _ => s1.jobBad e { status := 5 }
    | _ => s1

/-- The norm table returns: a complete one forms S; a failed read ends the job unstarted (R221). -/
def State.normReturned (s : State) (q : Req) (e status : Nat) (timeout : Bool) (data : Bytes) : State :=
  let j := s.job e
  if !j.live || j.phase != .waiting then s
  else if status ≠ 0 then s.jobBad e { status := status, path := q.path.code, timeout := timeout }
  else
    let slots := (List.range (uMembers j.raw)).map fun k => (fieldAt data (8 * k) 4, fieldAt data (8 * k + 4) 4)
    if slots.all fun x => x.2 == uStep j.raw then
      let sum := slots.foldl (fun a x => match a with
        | none => some x.1
        | some y => some (fadd y x.1)) none
      s.modJob e fun j => { j with normDone := true, sc := { j.sc with norm := sum.getD 0 } }
    else s

/-- The wait for a norm table reaches its limit (R221). -/
def State.normLimit (s : State) (e : Nat) : State :=
  let j := s.job e
  let p := partOfJob e
  match j.normFrom with
  | some t =>
    if j.live && j.phase == .waiting && !j.normDone && !j.normLimit && decide (t + 2 ^ 26 ≤ s.clk.fab) then
      let s1 := s.modJob e fun j => { j with normLimit := true }
      { s1 with rk := { s1.rk with limitHit := Tab.put s1.rk.limitHit p true } }.report
        { source := 4, cls := 1, unit := some 88, part := some p, detail := 1 }
    else s
  | none => s

/-! ## Fingerprints (R230) -/

/-- Are all working-copy writes of region k acknowledged? -/
def Job.regionAcked (j : Job) (k : Nat) : Bool :=
  j.tiles.all fun t => t.all.all fun r =>
    r.stream != 4 || !(decide (r.off < 2097152 * (k + 1)) && decide (2097152 * k < r.off + r.data.length)) ||
      !(t.todo.any fun x => x.stream == 4 && x.off == r.off || t.out.contains (4, r.off)) && !t.out.contains (4, r.off)

/-- Writes the fingerprint of region k of job e (R230). -/
def State.writeFingerprint (s : State) (e k : Nat) : State :=
  let j := s.job e
  match j.fps.find? fun x => x.1 == k with
  | none => s
  | some (_, crc) =>
    if !s.jobMayIssue e || j.repair.isSome || !j.regionAcked k || s.missing (.jobWrite e) then s
    else
      let a := { j.access e 5 (8 * k) 8 (leBytes 8 crc) true with purpose := .fingerprint e k }
      let (v, s1) := s.access a
      match v with
      | .sent => s1.modJob e fun j => { j with fps := j.fps.filter fun x => x.1 != k }.nextPass
      | v => s1.onJobVerdict e (j.elemOf 4 (2097152 * k)) true a v

/-! ## Parking, resuming, ending -/

/-- Parks job e once it has drained (R86, R214, R267). -/
def State.parkJob (s : State) (e : Nat) : State :=
  let j := s.job e
  let p := partOfJob e
  match j.fault with
  | some f =>
    if !j.live || j.phase != .draining || j.bad.isSome || s.jobOut e then s
    else
      let k := 16384 + p
      let x : ParkSlot := { part := p, ring := j.ring, descIndex := j.index, linear := j.cursor + (j.repair.getD {}).first
                            fault := f, more := j.more
                            flags := b2n j.refault, repair := j.repair.isSome }
      let s1 := (s.fillSlot k x).modJob e fun j => { j with phase := .parked, rd := [], got := [], buf := [], fault := none, more := false }
      if (s1.fq p).full then s1.holdRecord p k
      else
        let (ok, s2) := s1.issueRecord p k
        if ok then s2
        else ((s2.reportRecord p).freeSlot k).jobBad e { dst := f.dst, status := 5 }
  | none => s

/-- The parked job of partition p, if one is. -/
def State.parkedJob (s : State) (p : Nat) : Option Nat := (s.jobsOf p).find? fun e => (s.job e).phase == .parked

/-- The parked job of partition p continues (R95, R214, R267). -/
def State.resumeJob (s : State) (p : Nat) : State :=
  match s.parkedJob p with
  | none => s.freeSlot (16384 + p)
  | some e =>
    let back (j : Job) : Job :=
      if j.pass = 3 then
        { j with phase := .running, refault := true, step := 0, sub := 0, tile := 0, tiles := [], rd := [], got := [], buf := []
                 stats := [], rows := [], lanes := j.lanes.filter fun x => decide (x.1 < 5 * 1024) }
      else { j with phase := .running, refault := true, tiles := j.tiles.map fun t => { t with todo := t.all, out := [] } }
    ((s.freeSlot (16384 + p)).modJob e back).jobDrain e

/-- The parked job of partition p ends with a status (R94, R100, R215). -/
def State.endParkedJob (s : State) (p status : Nat) : State :=
  let dst := (s.slot (16384 + p)).fault.dst
  match s.parkedJob p with
  | none => s.freeSlot (16384 + p)
  | some e => (s.freeSlot (16384 + p)).jobBad e { dst := dst, status := status }

/-- Every job of ring r ends with ABORTED (R124, R215). -/
def State.abortJobs (s : State) (r : Nat) : State :=
  let l := (s.rk.jobs.filter fun x => x.2.live && x.2.repair.isNone && x.2.ring == r).map Prod.fst
  s.each l fun s e =>
    let parked := (s.job e).phase == .parked
    let s1 := if parked then s.freeSlot (16384 + partOfJob e) else s
    if (s1.job e).bad.isSome then s1 else s1.jobBad e { status := 7 }

/-! ## Return (R234, R269, R277) -/

/-- Status and DETAIL of a job. -/
def Job.status (j : Job) : Nat × Nat := Work.status { raw := [], bad := j.bad }

/-- What the job reports (R234). -/
def Job.result (j : Job) : JobResult :=
  let b := j.raw
  let (st, de) := j.status
  let lin := if st = 0 then uN b else j.cursor
  let pass := if st = 0 then (passesOf b).getLastD 4 else j.pass
  let flags := fld (b2n (!j.drift.isEmpty)) 4 1 + fld (b2n j.sc.skipped) 3 1 + fld (b2n j.sc.nonfinite) 2 1 +
    fld (b2n j.sc.clipped) 1 1 + b2n j.sc.trustLimit
  let opt := isOptimizer (dOpcode b)
  let va := if opt then j.sc.s else if dOpcode b = 0x25 then j.sc.norm else if dOpcode b = 0x26 then j.drift.length else 0
  let vb := if opt then j.sc.norm else if dOpcode b = 0x26 then (j.drift.map Drift.region).headD 0 else 0
  { status := st, detail := de, linear := lin, block := jobBlock st de lin pass flags va vb j.nonfinite }

/-- Places a repair entry for a set and region, or merges into the one it has (R272); false when the queue is full. -/
def State.placeRepair (s : State) (p set region mask expected : Nat) : Bool × State :=
  let ixs := (List.range 64).map fun i => 64 * p + i
  match ixs.find? fun k => let e := Tab.at s.rk.queue k; e.valid && e.set == set && e.region == region with
  | some k =>
    (true, { s with rk := { s.rk with queue := Tab.upd s.rk.queue k fun e => { e with mask := e.mask ||| mask } } })
  | none =>
    match ixs.find? fun k => !(Tab.at s.rk.queue k).valid with
    | some k =>
      let e : RepairEntry := { valid := true, set := set, region := region, mask := mask, expected := expected, stamp := s.rk.next }
      (true, { s with rk := { s.rk with queue := Tab.put s.rk.queue k e, next := s.rk.next + 1 } })
    | none => (false, s)

/-- The replica set of partition p with the given role, ASID and working copy. -/
def State.setFor (s : State) (p : Nat) (member : Bool) (asid wcopy : Nat) : Option (Nat × ReplicaSet) :=
  ((List.range 8).map fun i => (i, Tab.at s.rk.sets (8 * p + i))).find? fun x =>
    x.2.valid && x.2.member == member && x.2.asid == asid && x.2.wcopy == wcopy

/-- Replica reports and repairs that a WC_CHECK gives rise to (R269, R277). -/
def State.afterCheck (s : State) (p : Nat) (j : Job) : State :=
  if dOpcode j.raw != 0x26 || j.bad.isSome then s
  else if uMode j.raw then
    match s.setFor p false j.asid (va57 (uBase j.phys j.raw 4)) with
    | some (n, x) => if x.sr then s.each j.regen fun s r => (s.placeRepair p n r.1 0 r.2).2 else s
    | none => s
  else match s.setFor p true j.asid (va57 (uBase j.phys j.raw 4)) with
    | some (n, x) =>
      let l := j.drift.map fun d => ({ part := p, set := n, die := x.ownerDie, drift := d, ring := j.ring, pos := j.pos } : Report)
      { s with rk := { s.rk with reports := s.rk.reports ++ l } }
    | none => s

/-- Counts a finished job (RK_PART_COUNT). -/
def State.countJob (s : State) (p : Nat) (j : Job) : State :=
  let up (b : Bool) (t : Tab Nat) : Tab Nat := if b then Tab.upd t p fun n => satAdd 16 n 1 else t
  { s with rk := { s.rk with
      finished := up j.bad.isNone s.rk.finished, skipped := up (j.bad.isNone && j.sc.skipped) s.rk.skipped
      clipped := up (j.bad.isNone && j.sc.clipped) s.rk.clipped } }

/-- Reports a job's BUS_ERROR or POISON, and counts its RETRY (R151, R280). -/
def State.reportJob (s : State) (p : Nat) (j : Job) : State :=
  let st := j.status.1
  let c := cellOfRing j.ring
  let s1 := if st = 8 || st = 9 then s.report { source := 0, cls := 1, unit := some c, part := some p, detail := st } else s
  let s2 := if st = 8 then s1.modCell c fun c => { c with errBus := satAdd 16 c.errBus 1 }
    else if st = 9 then s1.modCell c fun c => { c with errPoison := satAdd 16 c.errPoison 1 } else s1
  if st = 0x0A then { s2 with pt := { s2.pt with sharedRetries := satAdd 16 s2.pt.sharedRetries 1 } } else s2

/-- Every write of job e is acknowledged: it returns to its queue cell (R234). -/
def State.returnJob (s : State) (e : Nat) : State :=
  let j := s.job e
  let p := partOfJob e
  let ended := (j.phase == .draining && j.bad.isSome) || (j.phase == .running && j.complete)
  if !j.live || j.repair.isSome || !ended || s.jobOut e || !j.fence.all fun id => !s.isOut id then s
  else
    let s1 := ((s.modJob e fun _ => {}).reportJob p j).countJob p j
    (s1.afterCheck p j).giveBack p j.ring j.pos j.result j.mute

end Sys2Proof.Machine
end

