-- ==== Sys2Proof/Machine/Array.lean ====
section
/-! DEFINITION. Pass N of ORTHO on the array: operand panels, chunks, accumulator buffers and the output path (R236 to R249, R263 to R267). -/

namespace Sys2Proof.Machine

/-- A BF16 matrix in the scratch: byte offset, columns of a stored row, and whether it is read transposed. -/
structure Mat where
  base : Nat := 0
  ld : Nat := 0
  tr : Bool := false
deriving DecidableEq, Repr, Inhabited

/-- Byte offset of element (i, k) of a matrix. -/
def Mat.off (m : Mat) (i k : Nat) : Nat := m.base + 2 * if m.tr then k * m.ld + i else i * m.ld + k

/-- Byte intervals of the block of rows `[i0, i1)` and columns `[k0, k1)`. -/
def Mat.block (m : Mat) (i0 i1 k0 k1 : Nat) : Needs :=
  let rows := if m.tr then (k0, k1) else (i0, i1)
  let cols := if m.tr then (i0, i1) else (k0, k1)
  (List.range (rows.2 - rows.1)).map fun x =>
    let at_ := m.base + 2 * ((rows.1 + x) * m.ld + cols.1)
    (6, at_, at_ + 2 * (cols.2 - cols.1))

/-- Bytes of SX and SA (R263). -/
def sxOf (b : Bytes) : Nat := roundUp (2 * uN b) 64
def saOf (b : Bytes) : Nat := let r := min (uRows b) (uCols b); roundUp (2 * r * r) 64

/-- The iterate that step 3(k − 1) + 1 to 3k reads, or (`next`) writes (R265). -/
def Job.xMat (j : Job) (next : Bool) : Mat :=
  let k := (j.step + 2) / 3
  let odd := (k % 2 == 1) == next
  { base := if odd then 2 * sxOf j.raw else sxOf j.raw, ld := uCols j.raw, tr := decide (uCols j.raw < uRows j.raw) }
/-- A and B of the scratch. -/
def Job.aMat (j : Job) : Mat := { base := 3 * sxOf j.raw, ld := min (uRows j.raw) (uCols j.raw) }
def Job.bMat (j : Job) : Mat := { base := 3 * sxOf j.raw + saOf j.raw, ld := min (uRows j.raw) (uCols j.raw) }

/-- Left operand, right operand given by rows of its transpose where `true`, epilogue and destination of the present step (R265). -/
def Job.operands (j : Job) : Mat × (Mat × Bool) × Option Mat × Mat :=
  match j.step % 3 with
  | 1 => (j.xMat false, (j.xMat false, true), none, j.aMat)
  | 2 => (j.aMat, (j.aMat, false), some j.aMat, j.bMat)
  | _ => (j.bMat, (j.xMat false, false), some (j.xMat false), j.xMat true)

/-- α and β of the present step (R265). -/
def Job.alphaBeta (j : Job) : Nat × Nat :=
  match j.step % 3 with
  | 1 => (fone, 0)
  | 2 => (uHp4 j.raw, uHp3 j.raw)
  | _ => (fone, uHp2 j.raw)

/-- Rows and columns of output tile t, clipped to the product (R266). -/
def Job.tileBox (j : Job) (half : Bool) (t : Nat) : Nat × Nat × Nat × Nat :=
  let (m, n, _) := j.product
  let w := arrayCols half
  let per := ceilDiv n w
  let i0 := 128 * (t / per)
  let c0 := w * (t % per)
  (i0, min m (i0 + 128), c0, min n (c0 + w))

/-- Chunks of a tile (R240). -/
def Job.chunkCount (j : Job) : Nat := ceilDiv j.product.2.2 2048

/-- Operand panels of chunk q of tile t; the last chunk brings the epilogue operand along. -/
def Job.chunkNeeds (j : Job) (half : Bool) (t q : Nat) : Needs :=
  let (i0, i1, c0, c1) := j.tileBox half t
  let k0 := 2048 * q
  let k1 := min j.product.2.2 (k0 + 2048)
  let (l, r, e, _) := j.operands
  l.block i0 i1 k0 k1 ++ (if r.2 then r.1.block c0 c1 k0 k1 else r.1.block k0 k1 c0 c1) ++
    match e with
    | some m => if q + 1 = j.chunkCount then m.block i0 i1 c0 c1 else []
    | none => []

/-- All operand bytes of tile t. -/
def Job.outNeeds (j : Job) (half : Bool) (t : Nat) : Needs := (List.range j.chunkCount).flatMap fun q => j.chunkNeeds half t q

/-- FP32 value of a scratch element as read. -/
def Job.scratch (j : Job) (off : Nat) : Nat := loadFmt 1 (runBytes j.buf 6 off 2)

/-- One cell's accumulator after chunk q (R238, R240): ascending k, then the zero products of the padding. -/
def Job.cellChunk (j : Job) (i c q acc : Nat) : Nat :=
  let k0 := 2048 * q
  let k1 := min j.product.2.2 (k0 + 2048)
  let (l, r, _, _) := j.operands
  let a := (List.range (k1 - k0)).foldl (init := acc) fun a x =>
    let k := k0 + x
    ffma (j.scratch (l.off i k)) (j.scratch (if r.2 then r.1.off c k else r.1.off k c)) a
  if k1 - k0 < 2048 then fadd a 0 else a

/-- The accumulators of tile t after chunk q, by 512 row + column within the tile. -/
def Job.chunk (j : Job) (half : Bool) (t q : Nat) (acc : Tab Nat) : Tab Nat :=
  let (i0, i1, c0, c1) := j.tileBox half t
  Tab.ofList ((List.range (i1 - i0)).flatMap fun x => (List.range (c1 - c0)).map fun y =>
    (512 * x + y, j.cellChunk (i0 + x) (c0 + y) q (Tab.at acc (512 * x + y))))

/-- Is job e running an array step? -/
def State.arrayJob (s : State) (e : Nat) : Bool :=
  let j := s.job e
  j.live && j.phase == .running && j.pass == 3 && j.step != 0 && j.bad.isNone && j.fault.isNone

/-- Has job e a tile to begin, with some chunk's panels complete (R248)? -/
def State.arrayReady (s : State) (e : Nat) : Bool :=
  let j := s.job e
  s.arrayJob e && decide (j.tile < j.outTiles s.rk.halfArray) &&
    (List.range j.chunkCount).any fun q => j.tileRead (j.chunkNeeds s.rk.halfArray j.tile q)

/-- Is job e next in turn for the array (R248)? -/
def State.arrayTurn (s : State) (e : Nat) : Bool :=
  let d (x : Nat) : Nat := (x + 63 - s.rk.lastJob) % 64
  (List.range 64).all fun x => !s.arrayReady x || decide (d e ≤ d x)

/-- Products of a chunk in units of 2^20 (R249). -/
def chunkUnits (half : Bool) : Nat := if half then 64 else 128

/-- The array takes chunk q of job e's tile (R238, R240, R248, R249). -/
def State.startChunk (s : State) (e q : Nat) : State :=
  let j := s.job e
  let half := s.rk.halfArray
  let cur : Option ArrayTile := match s.rk.array with
    | some t => if t.job = e && decide (t.until_ ≤ s.clk.arr) then some t else none
    | none => if s.arrayReady e && s.arrayTurn e then some { job := e, part := partOfJob e, tile := j.tile, step := j.step } else none
  match cur with
  | none => s
  | some t =>
    if !s.arrayJob e || decide (j.chunkCount ≤ q) || t.chunks.contains q || !j.tileRead (j.chunkNeeds half t.tile q) then s
    else
      let t1 := { t with chunks := t.chunks ++ [q], until_ := s.clk.arr + 2048, acc := j.chunk half t.tile q t.acc }
      let s1 := { s with rk := { s.rk with array := some t1, arrMacs := wrapAdd 64 s.rk.arrMacs (chunkUnits half) } }
      s1.count (partOfJob e) 5 (chunkUnits half)

/-- A tile's last chunk has ended: its accumulators move into a free buffer (R245). -/
def State.finishTile (s : State) : State :=
  match s.rk.array with
  | none => s
  | some t =>
    let j := s.job t.job
    if t.chunks.length != j.chunkCount || decide (s.clk.arr < t.until_) || decide (16 ≤ s.rk.bufs.length) then s
    else
      let (i0, i1, c0, c1) := j.tileBox s.rk.halfArray t.tile
      let epi : Tab Nat := match j.operands.2.2.1 with
        | some m => Tab.ofList ((List.range (i1 - i0)).flatMap fun x => (List.range (c1 - c0)).map fun y =>
            (512 * x + y, j.scratch (m.off (i0 + x) (c0 + y))))
        | none => []
      let rk := { s.rk with array := none, bufs := s.rk.bufs ++ [{ t with epi := epi }], lastJob := t.job }
      { s with rk := rk }.modJob t.job fun j => { j with tile := t.tile + 1, rd := [], got := [], buf := [] }

/-- out of R246 for one value. -/
def Job.outValue (j : Job) (acc e : Nat) : Nat :=
  let (al, be) := j.alphaBeta
  if j.step % 3 = 1 then fmul al acc else ffma al acc (fmul be e)

/-- Sum of squares of a pair, at the leaves of the tree of R247. -/
def squarePair (a b : Nat) : Nat := ffma b b (ffma a a 0)

/-- Maximum, sum and sum of squares of the values of a row (R247). -/
def rowResults (l : List Nat) : Nat × Nat × Nat :=
  (tree fmax 9 l, tree fadd 9 l, tree fadd 8 (pairUp squarePair l))

/-- Combines a row's results with those of the tiles before (R247). -/
def addRow (t : Tab Nat) (row : Nat) (x : Nat × Nat × Nat) : Tab Nat :=
  let y := if Tab.at t (4 * row + 3) = 1 then
      (fmax (Tab.at t (4 * row)) x.1, fadd (Tab.at t (4 * row + 1)) x.2.1, fadd (Tab.at t (4 * row + 2)) x.2.2)
    else x
  Tab.put (Tab.put (Tab.put (Tab.put t (4 * row) y.1) (4 * row + 1) y.2.1) (4 * row + 2) y.2.2) (4 * row + 3) 1

/-- A statistics entry from the row results (R264). -/
def statEntry (t : Tab Nat) (rows : Nat) : Bytes :=
  let f (k : Nat) (g : Nat → Nat → Nat) : Nat := match (List.range rows).map fun i => Tab.at t (4 * i + k) with
    | [] => 0
    | x :: xs => xs.foldl g x
  leBytes 4 (f 2 fadd) ++ leBytes 4 (f 0 fmax) ++ leBytes 4 (f 1 fadd) ++ zeros 4

/-- The output path takes the oldest finished tile: epilogue, row reductions, conversion, writes (R246, R247, R264). -/
def State.outputTile (s : State) : State :=
  match s.rk.bufs with
  | [] => s
  | t :: rest =>
    let j := s.job t.job
    let half := s.rk.halfArray
    let (i0, i1, c0, c1) := j.tileBox half t.tile
    let out (x y : Nat) : Nat := j.outValue (Tab.at t.acc (512 * x + y)) (Tab.at t.epi (512 * x + y))
    let dst := j.operands.2.2.2
    let cells := (List.range (i1 - i0)).flatMap fun x => (List.range (c1 - c0)).map fun y =>
      ({ stream := 6, off := dst.off (i0 + x) (c0 + y), data := leBytes 2 (bf16.encode .nearest false (f32 (out x y))).1 } : Run)
    let lines := if dst.tr then cells.flatMap fun r => lineRuns (j.addr 6 0) r
      else (List.range (i1 - i0)).flatMap fun x =>
        lineRuns (j.addr 6 0) { stream := 6, off := dst.off (i0 + x) c0
                                data := ((cells.drop (x * (c1 - c0))).take (c1 - c0) |>.map Run.data).flatten }
    let third := j.step % 3 == 0
    let row (x : Nat) : List Nat := (List.range (arrayCols half)).map fun y => out x y
    let rows := if third then (List.range (i1 - i0)).foldl (fun r x => addRow r (i0 + x) (rowResults (row x))) j.rows else j.rows
    let last := t.tile + 1 == j.outTiles half
    let stat : List Run := if third && last then
        [{ stream := 6, off := statsOff j.raw + 16 * (j.step / 3), data := statEntry rows j.product.1 }] else []
    let w := lines ++ stat
    let jt : JobTile := { k := t.tile, todo := w, all := w }
    ({ s with rk := { s.rk with bufs := rest } }.modJob t.job fun j =>
      { j with rows := rows, sub := t.tile + 1, tiles := j.tiles ++ [jt] }).jobDrain t.job

/-- What a read of job e may ask for now: the next tiles within the quota, or the panels of its output tile (R212, R244, R266). -/
def State.jobNeeds (s : State) (e : Nat) : Needs :=
  let j := s.job e
  if j.pass = 3 && j.step != 0 then
    (if j.tile < j.outTiles s.rk.halfArray then j.outNeeds s.rk.halfArray j.tile else [])
  else
    ((List.range (s.quota j)).filter fun i => decide (j.tile + i < j.tileCount)).flatMap fun i => j.reads (j.tile + i)

end Sys2Proof.Machine
end

