-- ==== Sys2Proof/Machine/Respond.lean ====
section
/-! DEFINITION. Mailbox responses (R402 to R404). -/

namespace Sys2Proof.Machine

/-- Opcode, tag and declared length of a submitted command. -/
def Mailbox.opcode (b : Mailbox) : Nat := fieldAt b.cmd 0 2
def Mailbox.tag (b : Mailbox) : Nat := fieldAt b.cmd 2 2
def Mailbox.length (b : Mailbox) : Nat := fieldAt b.cmd 4 4
/-- The command's payload. -/
def Mailbox.payload (b : Mailbox) : Bytes := b.cmd.drop 32

/-- The 32-byte response header (R402). -/
def responseHeader (op tag result detail len cycle seq : Nat) : Bytes :=
  leBytes 2 op ++ leBytes 2 tag ++ leBytes 1 result ++ leBytes 1 detail ++ zeros 2 ++ leBytes 4 len ++ leBytes 4 cycle ++
    leBytes 8 seq ++ zeros 8

/-- The MC responds on mailbox m: response written, DONE set, BUSY cleared, vector 0 signalled (R402 to R404). -/
def State.respond (s : State) (m result detail : Nat) (payload : Bytes) : State :=
  let b := s.box m
  let bytes := responseHeader b.opcode b.tag result detail payload.length s.clk.mgt s.mc.seq ++ payload
  let s1 := s.modBox m fun b =>
    { b with ram := Tab.writeBytes b.ram 0x5000 bytes, respTag := b.tag, result := result, detail := detail, busy := false
             done := true, taken := false, commands := wrapAdd 32 b.commands 1 }
  (if m = 17 then s1.emit (.mctp (leBytes 1 0x7E ++ bytes)) else s1).signalBox m

/-- Responds OK without payload. -/
def State.ok (s : State) (m : Nat) : State := s.respond m 0 0 []

end Sys2Proof.Machine
end

