-- ==== Sys2Proof/Machine/Repair.lean ====
section
/-! DEFINITION. Repair jobs of the replica machinery (R272 to R277), and the entry points of the Reckoner's requests. -/

namespace Sys2Proof.Machine

/-- The repair-queue entry of partition p that is next to run: the oldest. -/
def State.oldestRepair (s : State) (p : Nat) : Option Nat :=
  ((List.range 64).map fun i => 64 * p + i).foldl (init := none) fun a k =>
    let e := Tab.at s.rk.queue k
    if !e.valid || e.running then a
    else match a with
      | none => some k
      | some b => if e.stamp < (Tab.at s.rk.queue b).stamp then some k else a

/-- The 128 bytes of a descriptor that derives elements of a replica set from `first` on (R273 step 2). -/
def repairRaw (x : ReplicaSet) (region first count : Nat) : Bytes :=
  let z := overlay (zeros 128) 0 [0x27]
  let put (b : Bytes) (off len v : Nat) : Bytes := overlay b off (leBytes len v)
  let b1 := put z 16 8 (x.master + first * (fmtWidth x.masterFmt / 8))
  let b2 := put b1 40 8 (x.wcopy + wcOff x.fmt x.mx first)
  let b3 := put b2 48 8 (x.fprint + 8 * region)
  let b4 := put (put b3 64 4 1) 68 4 count
  let b5 := put (put b4 76 1 x.masterFmt) 77 1 x.fmt
  put (put b5 78 1 (fld (b2n x.mx) 7 1 + fld (b2n x.sr) 6 1)) 104 8 x.seed

/-- First element with a byte at or above `o`, and the number of elements below byte `o` rounded up. -/
def elemAt (x : ReplicaSet) (o : Nat) : Nat :=
  if x.mx then o / elemBytes x.fmt 32 true * 32 else o / max 1 (fmtWidth x.fmt / 8)
def elemUp (x : ReplicaSet) (o : Nat) : Nat :=
  if x.mx then ceilDiv o (elemBytes x.fmt 32 true) * 32 else ceilDiv o (max 1 (fmtWidth x.fmt / 8))

/-- The repair job of queue entry k (R273). -/
def State.repairJob (s : State) (k : Nat) : Job :=
  let q := Tab.at s.rk.queue k
  let x := Tab.at s.rk.sets (8 * (k / 64) + q.set)
  let start := 2097152 * q.region
  let stop := min (start + 2097152) (wcOff x.fmt x.mx x.n)
  let first := elemAt x start
  let r : RepairJob := { entry := k % 64, set := q.set, region := q.region, expected := q.expected, first := first
                         lo := wcOff x.fmt x.mx first, start := start, len := stop - start, table := x.table }
  { live := true, stamp := s.rk.next, index := k % 64, asid := x.asid, raw := repairRaw x q.region first (elemUp x stop - first)
    repair := some r, pass := 4, hint := 3 }

/-- What a repair job may read in its present step. -/
def repairNeeds (j : Job) (r : RepairJob) : Needs :=
  if r.step = 1 then [(5, 0, 8)]
  else if r.step = 2 then
    (7, 0, 256) :: ((List.range 16).filter fun i => decide (j.tile + i < j.tileCount)).flatMap fun i => j.reads (j.tile + i)
  else []

/-- Issues a read of job e (R128, R212, R273). -/
def State.grantJobRead (s : State) (e stream o n : Nat) : State :=
  match (s.job e).repair with
  | some r => s.jobReadIn e stream o n (repairNeeds (s.job e) r)
  | none => s.jobReadIn e stream o n (s.jobNeeds e)

/-- Takes a job entry for the oldest repair-queue entry of p, or starts the repair job whose turn has come: it reads the owner's
fingerprint (R273 step 1). -/
def State.startRepair (s : State) (p : Nat) : State :=
  if !s.rkMayStart p then s
  else match (s.jobsOf p).find? fun e => (s.job e).repair.isSome && (s.job e).phase == .waiting with
    | some e =>
      if !s.turnOf e then s
      else (s.modJob e fun j => { j with phase := .running, start := s.clk.fab }).grantJobRead e 5 0 8
    | none =>
      match s.oldestRepair p, s.freeEntry p with
      | some k, some e =>
        let s1 := s.modJob e fun _ => s.repairJob k
        let rk := { s1.rk with queue := Tab.upd s1.rk.queue k fun q => { q with running := true }, next := s1.rk.next + 1 }
        let s2 := { s1 with rk := rk }
        if s2.turnOf e then
          (s2.modJob e fun j => { j with phase := .running, start := s.clk.fab }).grantJobRead e 5 0 8
        else s2
      | _, _ => s

/-- Changes the repair of job e. -/
def State.modRepair (s : State) (e : Nat) (f : RepairJob → RepairJob) : State :=
  s.modJob e fun j => { j with repair := j.repair.map f }

/-- The owner's fingerprint has returned (R273 step 1). -/
def State.checkRepair (s : State) (e : Nat) : State :=
  let j := s.job e
  match j.repair with
  | some r =>
    if r.step != 1 || j.phase != .running || !ivCovers (Tab.at j.got 5) 0 8 then s
    else
      let same := leNat (runBytes j.buf 5 0 8) == r.expected
      (s.modRepair e fun r => { r with step := if same then 2 else 5 }).modJob e fun j =>
        { j with rd := [], got := [], buf := [] }
  | none => s

/-- Step 2 on the next tile: derives it and writes it to the owner's working copy (R273). -/
def State.repairTile (s : State) (e : Nat) : State :=
  let j := s.job e
  match j.repair with
  | some r =>
    if r.step != 2 || !s.jobMayIssue e || j.tile == j.tileCount || !j.tileRead (j.reads j.tile) || !j.mayCompute then s
    else
      let k := j.tile
      let stored := (j.range k).map fun i => runBytes j.buf 1 (uOff j.raw 1 i) (uElem j.raw 1)
      let wc := j.deriveTile k s.free stored
      let runs := lineRuns (j.addr 4 0) { stream := 4, off := uOff j.raw 4 (j.elems k).1, data := wc }
      let t : JobTile := { k := k, todo := runs, all := runs }
      let need (x : Run) : Bool := x.stream == 7 || decide (uOff j.raw 1 (j.elems k).2 < x.off + x.data.length)
      let s1 := { s with free := s.free + 4 * tileSize }
      ((s1.modJob e fun j => { j with tile := k + 1, tiles := j.tiles ++ [t], buf := j.buf.filter need }).modRepair e fun r =>
        { r with elements := r.elements ++ wc }).jobDrain e
  | none => s

/-- The lowest tile of a repair's step 2 is acknowledged. -/
def State.repairAck (s : State) (e : Nat) : State :=
  let j := s.job e
  match j.repair, j.tiles with
  | some r, t :: rest =>
    if r.step != 2 || j.phase != .running || !t.todo.isEmpty || !t.out.isEmpty then s
    else s.modJob e fun j => { j with tiles := rest }
  | _, _ => s

/-- Is every write of the present step acknowledged? -/
def Job.settled (j : Job) : Bool := j.phase == .running && j.tiles.all fun t => t.todo.isEmpty && t.out.isEmpty

/-- Queues the writes of a step as one tile. -/
def State.queueStep (s : State) (e : Nat) (runs : List Run) (f : RepairJob → RepairJob) : State :=
  let t : JobTile := { todo := runs, all := runs }
  ((s.modJob e fun j => { j with tiles := [t] }).modRepair e f).jobDrain e

/-- Step 3: the derived elements go to the members (R273). -/
def State.writeMembers (s : State) (e : Nat) : State :=
  let j := s.job e
  match j.repair with
  | some r =>
    if r.step != 2 || !j.settled || j.tile != j.tileCount || !ivCovers (Tab.at j.got 7) 0 256 then s
    else
      let x := Tab.at s.rk.sets (8 * partOfJob e + r.set)
      let mask := if x.sr then x.mask else (Tab.at s.rk.queue (64 * partOfJob e + r.entry)).mask
      let ms := maskBits 16 mask
      let addrs := ms.map fun k =>
        let b := runBytes j.buf 7 (16 * k) 16
        (k, toModNat 64 (signed 57 (fieldAt b 0 8)) + r.lo, toModNat 64 (signed 57 (fieldAt b 8 8)) + 8 * r.region)
      let fp := crc64 0 (slice r.elements (r.start - r.lo) r.len)
      let j1 := { j with repair := some { r with addrs := addrs } }
      let runs := ms.flatMap fun k => lineRuns (j1.addr (8 + 2 * k) 0) { stream := 8 + 2 * k, off := 0, data := r.elements }
      s.queueStep e runs fun r => { r with step := 3, addrs := addrs, written := mask, newFp := fp }
  | none => s

/-- Step 4: the fingerprint goes to the owner's array and the written members' (R273). -/
def State.writeRegionPrints (s : State) (e : Nat) : State :=
  let j := s.job e
  match j.repair with
  | some r =>
    if r.step != 3 || !j.settled then s
    else
      let d := leBytes 8 r.newFp
      let runs := { stream := 5, off := 0, data := d } :: (maskBits 16 r.written).map fun k => { stream := 9 + 2 * k, off := 0, data := d }
      s.queueStep e runs fun r => { r with step := 4 }
  | none => s

/-- The 32 bytes of a repair note (R275). -/
def repairNote (r : RepairJob) (outcome status cycle : Nat) : Bytes :=
  leBytes 1 outcome ++ leBytes 1 status ++ leBytes 1 r.set ++ zeros 1 ++ leBytes 4 r.region ++ leBytes 2 r.written ++ zeros 2 ++
    leBytes 4 cycle ++ leBytes 8 (if outcome = 0 then r.newFp else 0) ++ leBytes 8 r.expected

/-- Step 5: the repair note; the job entry and the queue entry are freed (R273 to R275). -/
def State.writeRepairNote (s : State) (e : Nat) : State :=
  let j := s.job e
  let p := partOfJob e
  match j.repair with
  | some r =>
    let failed := j.phase == .draining && j.bad.isSome
    let done := j.settled && (r.step == 4 || r.step == 5)
    if !(failed || done) || s.jobOut e then s
    else
      let outcome := if failed then 2 else if r.step = 5 then 1 else 0
      let status := if failed then j.status.1 else 0
      let x := Tab.at s.rk.sets (8 * p + r.set)
      let up (k : Nat) (t : Tab Nat) : Tab Nat := if outcome = k then Tab.upd t p fun n => satAdd 16 n 1 else t
      let rk := { s.rk with
        queue := Tab.put s.rk.queue (64 * p + r.entry) default
        repaired := up 0 s.rk.repaired, superseded := up 1 s.rk.superseded, failed := up 2 s.rk.failed }
      let s1 := { s with rk := rk }.modJob e fun _ => {}
      if j.mute then s1
      else (s1.physWrite p 64 x.note (repairNote r outcome status s.clk.fab) (.repairNote p) false).2
  | none => s

/-- TILE_READS_COMPLETE for an update job or a repair job. -/
def State.tileReads (s : State) (e : Nat) : State := if (s.job e).repair.isSome then s.repairTile e else s.computeTile e

/-- TILE_WRITES_ACKED for an update job or a repair job. -/
def State.tileAcks (s : State) (e : Nat) : State := if (s.job e).repair.isSome then s.repairAck e else s.ackTile e

end Sys2Proof.Machine
end

