-- ==== Sys2Proof/Machine/Fault.lean ====
section
/-! DEFINITION. Fault responses, record acknowledgements and fault timers (R90 to R101). -/

namespace Sys2Proof.Machine

/-- The occupant of slot k ends bad with a status. -/
def State.endParked (s : State) (k status : Nat) : State :=
  if k < 16384 then s.endParkedRing k status else s.endParkedJob (k - 16384) status

/-- The occupant of slot k continues. -/
def State.resumeParked (s : State) (k : Nat) : State := if k < 16384 then s.resumeRing k else s.resumeJob (k - 16384)

/-- Writes held records of partition p in park order while the queue has room (R90). -/
def State.writeHeld (s : State) (p : Nat) : Nat → State
  | 0 => s
  | n + 1 =>
    if (s.fq p).full then s
    else match s.firstHeld p with
      | none => s
      | some k =>
        let (ok, s1) := s.issueRecord p k
        (if ok then s1 else (s1.reportRecord p).endParked k 5).writeHeld p n

/-- Counts a stale response (R101). -/
def State.countStale (s : State) (p : Nat) : State := s.modFq p fun q => { q with stale := satAdd 16 q.stale 1 }

/-- Takes CONSUMER when it lies between the consumer and the producer count (R93). -/
def State.takeConsumer (s : State) (p c : Nat) : State :=
  let q := s.fq p
  if (c + 65536 - q.cons) % 65536 ≤ (q.prod + 65536 - q.cons) % 65536 then s.modFq p fun q => { q with cons := c }
  else s.countStale p

/-- The slot a fault identifier names, if its unit exists (R88). -/
def slotOfId (p id : Nat) : Option Nat :=
  if bits id 0 8 < 64 then some (256 * bits id 0 8 + bits id 8 8)
  else if bits id 0 8 = 0x40 then some (16384 + p) else none

/-- Acts on a fault response of partition p that passed the checks of R108 (R93 to R95, R101). -/
def State.faultResponse (s : State) (p w : Nat) : State :=
  let action := bits w 52 4
  if 2 < action then s.countStale p
  else
    let s1 := s.takeConsumer p (bits w 32 16)
    let s2 := if action = 0 then s1
      else
        let gen := bits w 24 8
        match slotOfId p (bits w 0 32) with
        | none => s1.countStale p
        | some k =>
          let x := s1.slot k
          if x.valid && x.part == p && x.issued && x.gen == gen then (if action = 1 then s1.resumeParked k else s1.endParked k 5)
          else if x.expired == some gen && (k ≥ 16384 || s1.ringOwner k == some p) then
            s1.modFq p fun q => { q with late := satAdd 16 q.late 1 }
          else s1.countStale p
    s2.writeHeld p 4096

/-- A fault-response doorbell (R92, R108). -/
def State.faultDoorbell (s : State) (p w : Nat) : State := s.checkDoorbell p w fun s => (s.count p 6 1).faultResponse p w

/-- The write of slot k's record ends: the timer starts, or the occupant is bad with FAULT (R91, R98). -/
def State.recordAcked (s : State) (k gen : Nat) (ack : WrRes) : State :=
  match s.reqFor (.faultRecord k gen) with
  | none => s
  | some q =>
    let s1 := s.finishReq q
    let x := s1.slot k
    let here := x.valid && x.gen == gen && x.issued
    if ack = .ok then
      if here then s1.modSlot k fun x => { x with timer := some (s.clk.fab + (s.fq q.part).timeout) } else s1
    else
      let s2 := s1.reportRecord q.part
      if here then s2.endParked k 5 else s2

/-- The timer of slot k expires (R100). -/
def State.timerExpired (s : State) (k : Nat) : State :=
  let x := s.slot k
  match x.timer with
  | some t =>
    if x.valid && decide (t ≤ s.clk.fab) then
      let s1 := (s.modFq x.part fun q => { q with timeouts := satAdd 16 q.timeouts 1 }).endParked k 6
      s1.modSlot k fun y => { y with expired := some x.gen }
    else s
  | none => s

end Sys2Proof.Machine
end

