-- ==== Sys2Proof/Machine/Walk.lean ====
section
/-! DEFINITION. Page walks: walkers, walk reads, A and D updates and the outcomes they give the requests that wait (R48 to R61). -/

namespace Sys2Proof.Machine

/-- Fields of a page-table entry (R48). -/
def pteP (e : Nat) : Bool := bit e 0
def pteU (e : Nat) : Bool := bit e 2
def pteW (e : Nat) : Bool := bit e 3
def pteA (e : Nat) : Bool := bit e 4
def pteD (e : Nat) : Bool := bit e 5
def pteAddr (e : Nat) : Nat := fld (bits e 12 40) 12 40
/-- Is an entry of a level a leaf? -/
def pteLeaf (level e : Nat) : Bool := level == 1 || ((level == 2 || level == 3) && bit e 1)

/-- Index of a level in a virtual address (R49). -/
def levelIx (level va : Nat) : Nat := bits va (levelLo level) 9

/-- The translation a leaf entry gives, with effective U and W and the D value `d` (R48, R52, R55). -/
def leafOf (asid va level e : Nat) (u w d : Bool) : Leaf :=
  let z := levelLo level
  { valid := true, asid := asid, va := va57 va >>> z <<< z, sizeLog2 := z, pa := pteAddr e >>> z <<< z, u := u, w := w, d := d
    ktValid := bit e 57, ktPart := bits e 58 4, ktGen := bits e 62 1, shared := bit e 63 }

/-- How a walk ends without a translation. -/
inductive WalkEnd where
  | status (code : Nat)
  | fault (cause : Nat)
deriving DecidableEq, Repr, Inhabited

/-- Applies a walk's outcome to a request that waited (R54, R81, R149, R214, R221). -/
def State.endMiss (s : State) (m : Miss) (x : WalkEnd) : State :=
  let p := m.part
  match m.who with
  | .cellRead r off =>
    match (s.ring r).works.find? fun w => w.phase == .issuing with
    | none => s
    | some w =>
      let d := dstOfSrc w.raw off
      let s1 := match x with
        | .status c => s.markBad p r w.pos { off := d, status := c }
        | .fault c => s.markFault p r w.pos { off := d, cause := c, va := va57 m.va, asid := m.asid, write := m.write }
      ((s1.settleWork p r w.pos).advanceAll p).settleRing r
  | .cellWrite r pos off =>
    match s.work r pos with
    | none => s
    | some w =>
      let acc := dOpcode w.raw == 0x10 && dAcc w.raw != 0
      let s0 := s.gaveUp r pos off
      let s1 := match x with
        | .status c => s0.markBad p r pos { off := off, dst := true, status := c }
        | .fault c => s0.markFault p r pos { off := off, dst := true, cause := c, va := va57 m.va, asid := m.asid, write := true, accum := acc }
      (((s1.feedRest p r pos).settleWork p r pos).advanceAll p).settleRing r
  | .jobRead e st o _ =>
    let j := s.job e
    if !j.live then s
    else match x with
      | .status c => s.jobBad e { off := j.elemOf st o, status := c }
      | .fault c =>
        if j.phase = .waiting then s.jobBad e { status := 5 }
        else s.jobFault e { off := j.elemOf st o, cause := c, va := va57 m.va, asid := m.asid }
  | .jobWrite e =>
    let j := s.job e
    let el := match j.nextWrite with
      | some r => j.elemOf r.stream r.off
      | none => j.cursor
    if !j.live then s
    else match x with
      | .status c => s.jobBad e { off := el, dst := true, status := c }
      | .fault c => s.jobFault e { off := el, dst := true, cause := c, va := va57 m.va, asid := m.asid, write := true }

/-- The walk with number i. -/
def State.walk (s : State) (i : Nat) : Option Walk := s.xl.walks.find? fun w => w.id == i
/-- Changes walk i. -/
def State.modWalk (s : State) (i : Nat) (f : Walk → Walk) : State :=
  { s with xl := { s.xl with walks := s.xl.walks.map fun w => if w.id = i then f w else w } }
/-- Removes walk i: its walker is free. -/
def State.dropWalk (s : State) (i : Nat) : State := { s with xl := { s.xl with walks := s.xl.walks.filter fun w => w.id != i } }

/-- Does a miss wait for a walk of this page? -/
def Walk.serves (w : Walk) (m : Miss) : Bool := w.part == m.part && w.asid == m.asid && va57 w.va / 4096 == va57 m.va / 4096

/-- Takes the misses a test picks out of the waiting list and ends each with an outcome. -/
def State.endMisses (s : State) (pick : Miss → Bool) (x : WalkEnd) : State :=
  let l := s.xl.misses.filter pick
  let s1 := { s with xl := { s.xl with misses := s.xl.misses.filter fun m => !pick m } }
  s1.each l fun s m => s.endMiss m x

/-- Ends walk w with an outcome for every request that waits for it, or only for the writes among them. -/
def State.failWalk (s : State) (w : Walk) (writesOnly : Bool) (x : WalkEnd) : State :=
  (s.dropWalk w.id).endMisses (fun m => w.serves m && (!writesOnly || m.write)) x

/-- Ends a walk with WALK_ERROR of a kind (R54, R55, R61). -/
def State.walkError (s : State) (w : Walk) (kind : Nat) : State :=
  (s.xlError kind w.part w.asid w.va).failWalk w false (.status 4)

/-- Sends the read of the entry a walk is at; a table outside dies 0 to 3 ends the walk (R50, R54). -/
def State.walkRead (s : State) (i table : Nat) : State :=
  match s.walk i with
  | none => s
  | some w =>
    if 4 ≤ dieOf table then s.walkError w 3
    else
      let a := table + 8 * levelIx w.level w.va
      let s1 := (s.xlPerf w.part fun x => { x with walkReads := inc64 x.walkReads }).modWalk i fun w => { w with entry := a, owned := false }
      s1.narrowRead { part := w.part, unit := 65, purpose := .walkRead i, pa := a, len := 8 }

/-- Deepest walk-cache entry of partition p for an address (R59). -/
def State.walkHit (s : State) (p asid va : Nat) : Option WalkEntry :=
  [2, 3, 4, 5].findSome? fun l =>
    (Tab.at s.xl.walkCache p).find? fun e => e.level == l && e.asid == asid && e.pfx == va57 va >>> levelLo l

/-- Installs a non-leaf entry in slice p (R59). -/
def State.installWalk (s : State) (p : Nat) (e : WalkEntry) : State :=
  let l := (Tab.at s.xl.walkCache p).filter fun x => !(x.level == e.level && x.asid == e.asid && x.pfx == e.pfx)
  let put (s : State) (l : List WalkEntry) : State := { s with xl := { s.xl with walkCache := Tab.put s.xl.walkCache p l } }
  if l.length < 64 then put s (l ++ [e])
  else
    let (k, s1) := s.choose 64
    put s1 (l.eraseIdx k ++ [e])

/-- First-level TLB a requester translates through. -/
def State.l1Of (s : State) (w : Requester) (p : Nat) : Nat :=
  match w with
  | .cellRead r _ => l1OfCell (cellOfRing r)
  | .cellWrite r _ _ => l1OfCell (cellOfRing r)
  | .jobRead e st _ _ => l1OfPort (if (s.job e).want st = 1 then 1 else 0) p
  | .jobWrite _ => l1OfPort 2 p

/-- Partition p takes a walker for its oldest miss whose page no walk of p is at (R59, R60). -/
def State.startWalk (s : State) (p : Nat) : State :=
  let free := (s.xl.walks.filter fun w => w.part == p).length < 3 * popCount 16 (s.part p).groups
  match s.xl.misses.find? fun m => m.part == p && !s.xl.walks.any fun w => w.serves m with
  | none => s
  | some m =>
    if !free then s
    else
      let a := Tab.at s.xl.asids m.asid
      let top := if a.wide then 5 else 4
      let hit := (s.walkHit p m.asid m.va).filter fun e => decide (e.level ≤ top)
      let w : Walk := { id := s.xl.next, part := p, asid := m.asid, va := m.va, write := m.write, dirty := m.dirty
                        level := match hit with
                          | some e => e.level - 1
                          | none => top
                        u := (hit.map WalkEntry.u).getD true, w := (hit.map WalkEntry.w).getD true, l1 := s.l1Of m.who p }
      let s1 := s.xlPerf p fun x => { x with walkCount := inc64 x.walkCount }
      let xl := { s1.xl with walks := s1.xl.walks ++ [w], next := s1.xl.next + 1 }
      { s1 with xl := xl }.walkRead w.id ((hit.map WalkEntry.table).getD a.root)

/-- A finished walk's translation goes into the TLBs, and the misses it serves issue again (R51, R52, R57). -/
def State.installLeaf (s : State) (w : Walk) (l : Leaf) : State :=
  let s1 := s.dropWalk w.id
  let fresh (e : Leaf) : Leaf := if e.hits w.asid w.va then { e with d := e.d || l.d } else e
  let l1 := Tab.mapV s1.xl.l1 fun _ es => if w.dirty then es.map fresh else es
  let s2 := (({ s1 with xl := { s1.xl with l1 := l1 } }).l2Install w.part l).l1Install w.l1 l
  let done (m : Miss) : Bool := w.serves m && (!m.dirty || l.d)
  { s2 with xl := { s2.xl with misses := s2.xl.misses.filter fun m => !done m } }

/-- Judges the entry value of a walk and goes on, without an A or D update still to make (R54). -/
def State.walkOn (s : State) (w : Walk) (e : Nat) : State :=
  let u := w.u && pteU e
  let wr := w.w && pteW e
  if pteLeaf w.level e then s.installLeaf w (leafOf w.asid w.va w.level e u wr (pteD e))
  else
    let s1 := s.installWalk w.part { asid := w.asid, level := w.level, pfx := va57 w.va >>> levelLo w.level, table := pteAddr e, u := u, w := wr }
    (s1.modWalk w.id fun w => { w with level := w.level - 1, u := u, w := wr }).walkRead w.id (pteAddr e)

/-- The checks of R54 on an entry value; `k` goes on when they pass. -/
def State.walkCheck (s : State) (w : Walk) (e : Nat) (k : State → State) : State :=
  let wr := w.w && pteW e
  let leaf := pteLeaf w.level e
  let l := leafOf w.asid w.va w.level e true wr true
  if !pteP e then s.failWalk w false (.fault 1)
  else if !pteU e then (s.xlError 0 w.part w.asid w.va).failWalk w false (.status 3)
  else if leaf && w.write && !wr then s.failWalk w true (.fault 2)
  else if leaf && l.judge w.part w.write == .keyTag then
    (s.violate 0 w.part 0 (l.phys w.va) w.write (some w.part)).failWalk w l.shared (.status 3)
  else if !leaf && decide (4 ≤ dieOf (pteAddr e)) then s.walkError w 3
  else k s

/-- A walk read returns (R51 to R54). -/
def State.walkReturned (s : State) (i : Nat) (res : RdRes) : State :=
  match s.walk i, s.reqFor (.walkRead i) with
  | some w, some q =>
    let s1 := s.finishReq q
    match res with
    | .ok b =>
      let e := fieldAt b 0 8
      s1.walkCheck w e fun s =>
        let setD := w.dirty && pteLeaf w.level e && !pteD e
        if pteA e && !setD then s.walkOn w e
        else
          (s.modWalk i fun w => { w with owned := true, setD := setD }).narrowRead
            { part := w.part, unit := 65, purpose := .ownedRead i, pa := lineOf w.entry, len := 64 }
    | _ => s1.walkError w 1
  | _, _ => s

/-- The owned read of an entry's line returns: A (and D) is set if still permitted, the line goes back whole, and the walk is judged
on the re-read value (R53). -/
def State.ownedReturned (s : State) (i : Nat) (res : RdRes) : State :=
  match s.walk i, s.reqFor (.ownedRead i) with
  | some w, some q =>
    let s1 := s.finishReq q
    match res with
    | .ok b =>
      let line := padTo 64 b
      let off := w.entry % 64
      let e := fieldAt line off 8
      let dOk := w.setD && pteW e
      let e1 := if pteP e && (!w.setD || dOk) then e ||| 16 ||| (if dOk then 32 else 0) else e
      let data := overlay line off (leBytes 8 e1)
      let s2 := if e1 = e then s1 else s1.xlPerf w.part fun x => { x with adUpdates := inc64 x.adUpdates }
      let s3 := ((s2.flushLine w.part q.pa).removeLine q.pa).sendHost
        { part := w.part, unit := 65, purpose := .ownedPush i, path := .narrow, kind := .write, pa := q.pa, len := 64
          mask := maskRange 0 64, data := data, wire := data }
      s3.walkCheck w e fun s => s.walkOn w e1
    | _ => s1.walkError w 1
  | _, _ => s

/-- The read a walk waits for: of the entry, or of its line in the owned state (R53). -/
def State.readOfWalk (s : State) (w : Walk) : Option Req := s.reqFor (if w.owned then .ownedRead w.id else .walkRead w.id)

/-- A walk read, the owned read of an update included, reaches its limit (R61; DEDUCED, log entry 44). -/
def State.walkTimeout (s : State) (i : Nat) : State :=
  match s.walk i, (s.walk i).bind s.readOfWalk with
  | some w, some q => if q.start + 2 ^ 20 ≤ s.clk.fab then (s.finishReq q).walkError w 2 else s
  | _, _ => s

end Sys2Proof.Machine
end

