-- ==== Sys2Proof/Machine/Inval.lean ====
section
/-! DEFINITION. Invalidation queues, cuts and acknowledgements (R62 to R72). -/

namespace Sys2Proof.Machine

/-- The lap of position c of an invalidation queue. -/
def InvQueue.lap (q : InvQueue) (c : Nat) : Nat := c / q.size % 65536
/-- The modulus of its counts. -/
def InvQueue.m (q : InvQueue) : Nat := 65536 * q.size

/-- An invalidation doorbell that passed checks 1 to 3 (R62, R64, R108, R111). -/
def State.invDoorbell (s : State) (p w : Nat) : State :=
  s.checkDoorbell p w fun s =>
    let q := s.invq p
    if !q.placed then s.dropUnbacked p
    else
      let s := s.count p 6 1
      let x := (bits w 16 16 * q.size + bits w 0 16) % q.m
      if q.size ≤ bits w 0 16 || q.size < (x + q.m - q.c) % q.m then s
      else
        s.modInvq p fun q =>
          let q1 := if (x + q.m - q.p) % q.m ≤ q.size then { q with p := x } else q
          if q1.st = 2 || q1.st = 3 then { q1 with st := 0, refetch := 0, again := true }
          else if q1.st = 1 && q1.stale then { q1 with refetch := 0, again := true }
          else q1

/-- An entry fetch of partition p failed: no further entry is taken (R64). -/
def State.stopInv (s : State) (p : Nat) : State := (s.xlError 6 p 0 0).modInvq p fun q => { q with st := 5, again := false }

/-- May XL act for partition p? -/
def State.xlMay (s : State) (p : Nat) : Bool := decide (s.level (96 + p) < 2) && (s.part p).st == 2

/-- Reads the entry at the consumer count (R64). -/
def State.readInv (s : State) (p : Nat) : State :=
  let q := s.invq p
  let (ok, s1) := s.physRead p 65 (q.base + 32 * (q.c % q.size)) 32 (.invFetch p q.c)
  if ok then s1.modInvq p fun q => { q with st := 1 } else s1.stopInv p

/-- Fetches the invalidation-queue entry at C (R64). -/
def State.fetchInv (s : State) (p : Nat) : State :=
  let q := s.invq p
  if q.placed && q.st == 0 && q.c != q.p && s.xlMay p then (s.modInvq p fun q => { q with again := false }).readInv p else s

/-- The backoff of a stale entry ends (R64). -/
def State.refetchInv (s : State) (p : Nat) : State :=
  let q := s.invq p
  if q.placed && q.st == 2 && decide (q.backoff ≤ s.clk.fab) && s.xlMay p then
    (s.modInvq p fun q => { q with refetch := q.refetch + 1 }).readInv p
  else s

/-- The kind of an entry, if it is well formed for partition p (R5, R45, R63). -/
def invKind (p : Nat) (b : Bytes) : Option InvKind :=
  let asid := fieldAt b 2 2 % 1024
  let va := fieldAt b 8 8 / 4096 * 4096
  let pages := fieldAt b 16 8
  match byteAt b 0 with
  | 1 => if asid / 64 = p && 1 ≤ pages && pages ≤ 2 ^ 45 then some (.range asid va pages) else none
  | 2 => if asid / 64 = p then some (.asid asid) else none
  | 3 => some .partition
  | _ => none

/-- The entry fetch of partition p returns (R64, R72). -/
def State.invReturned (s0 : State) (p : Nat) (res : RdRes) : State :=
  match s0.reqFor (.invFetch p (s0.invq p).c) with
  | none => s0
  | some r =>
  let s := s0.finishReq r
  let q := s.invq p
  match res with
  | .ok b0 =>
    let b := padTo 32 b0
    if fieldAt b 4 2 = q.lap q.c then
      let s1 := s.modInvq p fun q => { q with refetch := 0, again := false, stale := false }
      if (invKind p b).isSome then
        { s1.modInvq p (fun q => { q with st := 4, entry := b, stamp := s.xl.next }) with xl.next := s.xl.next + 1 }
      else
        (s1.xlError 4 p (if byteAt b 0 = 3 then 0 else fieldAt b 2 2 % 1024) (fieldAt b 8 8)).modInvq p fun q =>
          { q with st := 0, c := (q.c + 1) % q.m }
    else if q.again then s.modInvq p fun q => { q with st := 0, stale := true }
    else if 8 ≤ q.refetch then s.modInvq p fun q => { q with st := 3, stale := true }
    else s.modInvq p fun q => { q with st := 2, stale := true, backoff := s.clk.fab + 64 * 2 ^ q.refetch }
  | _ => s.stopInv p

/-- Takes the queue entry that waits: its cut (R66). -/
def State.cutEntry (s : State) (p : Nat) : State :=
  let q := s.invq p
  let b := q.entry
  match invKind p b with
  | none => s
  | some k =>
    let note := if bit (byteAt b 1) 0 then some (fieldAt b 24 8 / 8 * 8) else none
    let i : Inval := { queued := true, note := note, noteWord := q.c % q.size + 65536 * fieldAt b 4 2, va := fieldAt b 8 8 }
    (s.cutInval p k i).modInvq p fun q => { q with st := 0, c := (q.c + 1) % q.m, entry := [] }

/-- The kind of a mailbox invalidation from its words. -/
def boxKind (kind asid va pages : Nat) : InvKind :=
  if kind = 1 then .range asid va pages else if kind = 2 then .asid asid else .partition

/-- The binding change of mailbox m's command, in the cycle of its cut (R46). -/
def State.applyBind (s : State) (m : Nat) : State :=
  match Tab.at s.xl.binds m with
  | some (a, b) => { s with xl := { s.xl with asids := Tab.put s.xl.asids a b, binds := Tab.put s.xl.binds m none } }
  | none => s

/-- Takes the mailbox invalidation that waits longest (R69). -/
def State.cutWaiting (s : State) (p : Nat) : State :=
  match (s.invq p).waiting with
  | [] => s
  | (_, m, kind, asid, va, pages) :: rest =>
    ((s.applyBind m).cutInval p (boxKind kind asid va pages) { mailbox := some m, va := va }).modInvq p fun q => { q with waiting := rest }

/-- XL takes the next invalidation of partition p, in order of arrival, when fewer than 8 are pending (R66, R69). -/
def State.takeInval (s : State) (p : Nat) : State :=
  let q := s.invq p
  if 8 ≤ s.invPending p then s
  else match q.waiting with
    | [] => if q.st = 4 then s.cutEntry p else s
    | (st, _) :: _ => if q.st = 4 && decide (q.stamp < st) then s.cutEntry p else s.cutWaiting p

/-- Is a queue invalidation of the same partition pending from before invalidation i? -/
def State.earlierQueued (s : State) (i : Inval) : Bool :=
  s.xl.invals.any fun x => x.part == i.part && x.queued && decide (x.id < i.id)

/-- Writes an invalidation's note through the narrow path; one refused under R29 is dropped (R63). -/
def State.writeNote (s : State) (i : Inval) : State :=
  match i.note with
  | some a => (s.physNote i.part 65 a (leBytes 8 i.noteWord) (.invNote i.part)).2
  | none => s

/-- Acknowledges invalidation `id` once every span that was in flight at its cut has drained (R68, R69). -/
def State.ackInval (s : State) (id : Nat) : State :=
  match s.xl.invals.find? fun i => i.id == id with
  | none => s
  | some i =>
    if !i.waits.isEmpty || (i.queued && s.earlierQueued i) || (s.part i.part).flr.isSome then s
    else
      let s1 := { s with xl := { s.xl with invals := s.xl.invals.filter fun x => x.id != id } }
      let s2 := (s1.modInvq i.part fun q => { q with acked := wrapAdd 16 q.acked 1 }).writeNote i
      let left := s2.xl.invals.any fun x => x.chord == i.chord
      let s3 := match i.chord with
        | some k => if left then s2 else s2.modChord k fun c => { c with st := if c.st = 3 then 4 else c.st }
        | none => s2
      match i.mailbox with
      | some m => s3.ok m
      | none => s3

/-- Invalidation `id` has been pending for its partition's drain limit (R70). -/
def State.drainLimit (s : State) (id : Nat) : State :=
  match s.xl.invals.find? fun i => i.id == id with
  | none => s
  | some i =>
    if i.limitHit || decide (s.clk.fab < i.cut + (s.invq i.part).drainLimit) then s
    else
      let l := s.xl.invals.map fun x => if x.id = id then { x with limitHit := true } else x
      ({ s with xl := { s.xl with invals := l } }.xlError 5 i.part 0 i.va).modInvq i.part fun q => { q with drainHit := true }

end Sys2Proof.Machine
end

