-- ==== Sys2Proof/Machine/DataPath.lean ====
section
/-! DEFINITION. How the requests of queue cells and the Reckoner complete: reads, writes, combined writes, cache fills, snoops, and the
shared-chunk repairs that a poisoned read asks for (R75, R178, R194 to R198, R280, R282). -/

namespace Sys2Proof.Machine

/-! ## Shared ranges (R279 to R282) -/

/-- The registration and chunk of a line, if it lies in a registered shared range. -/
def State.sharedChunk (s : State) (pa : Nat) : Option (Nat × Nat) :=
  (s.pt.shared.find? fun e => e.2.valid && decide (e.2.base ≤ pa) && decide (pa < e.2.base + e.2.chunks * 2 ^ 21)).map fun e =>
    (e.1, (pa - e.2.base) / 2 ^ 21)

/-- Asks for a repair of a chunk unless one is open or queued; a full queue drops the request (R280, R282). -/
def State.askRepair (s : State) (e c : Nat) : State :=
  if (s.pt.repairs.any fun r => r.entry == e && r.chunk == c) || s.pt.repairQueue.contains (e, c) then s
  else if 16 + (4 - s.pt.repairs.length) ≤ s.pt.repairQueue.length then
    { s with pt := { s.pt with sharedDropped := satAdd 16 s.pt.sharedDropped 1 } }
  else { s with pt := { s.pt with repairQueue := s.pt.repairQueue ++ [(e, c)] } }

/-- Status of a failed read: BUS_ERROR, POISON, or RETRY for a poisoned bulk read of a shared line, which asks for a repair (R280). -/
def State.readStatus (s : State) (q : Req) (res : RdRes) : Nat × State :=
  match res with
  | .ok _ => (0, s)
  | .error => (8, s)
  | .poison _ =>
    if q.path == .bulk then
      match s.sharedChunk q.pa with
      | some (e, c) => if (Tab.at s.pt.shared e).failed.contains c then (9, s) else (0x0A, s.askRepair e c)
      | none => (9, s)
    else (9, s)

/-! ## Completion of one request -/

/-- Takes the rings of the partition of a finished request as far as they go. -/
def State.afterReq (s : State) (q : Req) : State :=
  let s1 := s.advanceAll q.part
  match q.purpose with
  | .srcRead r _ _ _ => s1.settleRing r
  | .dstWrite r _ _ _ => s1.settleRing r
  | .flagWrite r _ => s1.settleRing r
  | _ => s1

/-- A read ends with a status of R151 (0: data) and its plaintext. -/
def State.endRead (s : State) (q : Req) (status : Nat) (timeout : Bool) (data : Bytes) : State :=
  let s1 := s.finishReq q
  let s2 := match q.purpose with
    | .srcRead r pos off len => s1.srcDone q r pos off len status timeout data
    | .jobRead e st o n => s1.jobReadDone q e st o n status timeout data
    | .normTable e => s1.normReturned q e status timeout data
    | _ => s1
  s2.afterReq q

/-- A FLAG's write ends (R149, R188). -/
def State.flagDone (s : State) (q : Req) (r pos status : Nat) (timeout : Bool) : State :=
  match s.workOf r pos with
  | none => s
  | some (p, _, _) =>
    if status = 0 then
      (s.modWork r pos fun w => { w with dlv := [(0, 8)] }).modCell (cellOfRing r) fun c => { c with xferBytes := wrapAdd 64 c.xferBytes 8 }
    else (s.markBad p r pos { dst := true, status := status, path := q.path.code, timeout := timeout }).settleWork p r pos

/-- A write ends with a status of R151 (0: acknowledged). -/
def State.endWrite (s : State) (q : Req) (status : Nat) (timeout : Bool) : State :=
  let s1 := s.finishReq q
  let s2 := match q.purpose with
    | .dstWrite r pos off len => s1.dstDone q r pos off len status timeout
    | .flagWrite r pos => s1.flagDone q r pos status timeout
    | .counterWrite r _ _ => if status = 0 then s1 else s1.dropFinish q.part r
    | .jobWrite e st o _ => s1.jobWriteDone q e st o status timeout
    | .fingerprint e k =>
      if status = 0 then (s1.modJob e fun j => j.nextPass)
      else s1.jobBad e { off := (s1.job e).elemOf 4 (2097152 * k), dst := true, status := status, path := q.path.code, timeout := timeout }
    | .chordNote p => if status = 0 then s1 else s1.report { source := 3, cls := 1, part := some p }
    | _ => s1
  s2.afterReq q

/-- Ends the requests with the given numbers as writes. -/
def State.endWrites (s : State) (ids : List Nat) (status : Nat) : State :=
  s.each ids fun s id => match s.req id with
    | some q => s.endWrite q status false
    | none => s

/-- A push of the write-combining buffer, or its merge read, ends flush n for every write merged in it (R198). -/
def State.endPush (s : State) (n status : Nat) : State :=
  let e := Tab.at s.tier.pushes n
  ({ s with tier := { s.tier with pushes := Tab.drop s.tier.pushes n } }).endWrites e.reqs status

/-- Code of a write's response. -/
def ackCode : WrRes → Nat
  | .ok => 0
  | .sum _ bad => if bad = 0 then 0 else 9
  | .poison => 9
  | .error => 8

/-- Is the request a read that waits for a cache fill? -/
def Req.onFill (q : Req) : Bool := q.path == .bulk && q.kind == .read && !q.hit && match q.purpose with
  | .cacheFill _ => false
  | _ => true

/-- Is the request on a peer link? -/
def Req.onPeer (q : Req) : Bool := match q.path with
  | .peer _ _ => true
  | _ => false

/-- A data read returns on the die fabric, from the tier cache, or as the merge read of a tagged partial write (R75, R361). -/
def State.dataReturned (s : State) (q : Req) (res : RdRes) : State :=
  if q.kind != .read || q.onFill || q.onPeer then s
  else match q.purpose with
    | .wcMerge n => match res with
      | .ok b => (s.finishReq q).mergePush n (s.unseal q.key q.pa (padTo 64 b))
      | .poison _ => (s.finishReq q).endPush n 9
      | .error => (s.finishReq q).endPush n 8
    | .tagMerge id => match res with
      | .ok b => (s.finishReq q).mergeNarrow id (s.unseal q.key q.pa (padTo 64 b))
      | .poison _ => (s.finishReq q).endWrites [id] 9
      | .error => (s.finishReq q).endWrites [id] 8
    | .srcRead _ _ _ _ => ended
    | .jobRead _ _ _ _ => ended
    | .normTable _ => ended
    | _ => s
where
  ended : State :=
    if q.hit then s.endRead q 0 false q.data
    else match res with
      | .ok b => s.endRead q 0 false (s.unseal q.key q.pa (padTo q.len b))
      | _ => let (c, s1) := s.readStatus q res; s1.endRead q c false []

/-- The values an accumulate-write of `n` values leaves from address `pa`: each added where its line is not poisoned (R143). -/
def sumBytes (type bad pa : Nat) : Nat → Bytes → Bytes → Bytes
  | 0, _, _ => []
  | n + 1, old, add =>
    let w := accWidth type
    let v := if bit bad 0 then fieldAt old 0 w else accumulate type (fieldAt old 0 w) (fieldAt add 0 w)
    let bad' := if (pa + w) % 64 < w then bad / 2 else bad
    leBytes w v ++ sumBytes type bad' (pa + w) n (old.drop w) (add.drop w)

/-- The write port performs the adds of an accumulate-write whose HBM values are reported with its acknowledgement (R143). -/
def State.performAdds (s : State) (q : Req) (res : WrRes) : State :=
  match q.kind, res with
  | .acc t, .sum old bad => s.emit (.sums q.pa (sumBytes t bad q.pa (q.data.length / accWidth t) old q.data))
  | _, _ => s

/-- Is the request an accumulate-write? -/
def Req.isAcc (q : Req) : Bool := match q.kind with
  | .acc _ => true
  | _ => false

/-- A data write is acknowledged, or fails, at its point of global visibility (R178). -/
def State.dataAcked (s0 : State) (q : Req) (res : WrRes) : State :=
  let s := s0.performAdds q res
  let unsent := q.key.isSome && q.path == .narrow && q.wire == []
  if q.kind == .read || q.onPeer || (q.isAcc && res == .ok) || q.path == .combining && (match q.purpose with
      | .wcPush _ => false
      | _ => true) || unsent then s
  else match q.purpose with
    | .wcPush n => (s.finishReq q).endPush n (ackCode res)
    | .dstWrite _ _ _ _ => s.endWrite q (ackCode res) false
    | .flagWrite _ _ => s.endWrite q (ackCode res) false
    | .counterWrite _ _ _ => s.endWrite q (ackCode res) false
    | .jobWrite _ _ _ _ => s.endWrite q (ackCode res) false
    | .fingerprint _ _ => s.endWrite q (ackCode res) false
    | .ownedPush _ => s.endWrite q (ackCode res) false
    | .invNote _ => s.endWrite q (ackCode res) false
    | .chordNote _ => s.endWrite q (ackCode res) false
    | .repairNote _ => s.endWrite q (ackCode res) false
    | _ => s

/-- A coherent fill returns: its reads are served, and the line is installed unless something came between (R192, R196, R280). -/
def State.fillReturned (s : State) (id : Nat) (res : RdRes) : State :=
  match s.tier.fills.find? fun f => f.id == id, s.reqFor (.cacheFill id) with
  | some f, some q =>
    let s1 := s.finishReq q
    let s2 := { s1 with tier := { s1.tier with fills := s1.tier.fills.filter fun x => x.id != id } }
    let reads := s2.reqs.filter fun r => f.waiters.contains r.id
    match res with
    | .ok b =>
      let line := s.unseal f.key f.pa (padTo 64 b)
      let s3 := if f.alloc && !f.noInstall then s2.installLine f line else s2
      s3.each reads fun s r => s.endRead r 0 false (slice line (r.pa % 64) r.len)
    | _ =>
      let (c, s3) := s2.readStatus { q with path := .bulk } res
      s3.each reads fun s r => s.endRead r c false []
  | _, _ => s

/-- A host snoop of line `pa` on a host-link module; a snoop-invalidate removes the line (R195, R196). -/
def State.snoop (s : State) (module pa : Nat) (invalidate : Bool) : State :=
  let held := s.tier.lines.filter fun e => e.2.valid && e.2.pa == lineOf pa
  if invalidate then
    let s1 := held.foldl (fun s e => s.tierPerf e.2.part fun t => { t with snoopInv := wrapAdd 64 t.snoopInv 1 }) s
    (s1.removeLine pa).emit (.snoopResponse module (lineOf pa) false)
  else s.emit (.snoopResponse module (lineOf pa) (!held.isEmpty))

/-- Flushes write-combining entry k when it has not been written for 256 cycles (R198). -/
def State.idleFlush (s : State) (k : Nat) : State :=
  let e := Tab.at s.tier.wc k
  if e.valid && decide (e.last + 256 ≤ s.clk.fab) then s.flushEntry k else s

end Sys2Proof.Machine
end

