-- ==== Sys2Proof/Machine/Disable.lean ====
section
/-! DEFINITION. Enabling and disabling a ring, and the end of its drain (R122 to R125). -/

namespace Sys2Proof.Machine

/-- The ring a cell's request belongs to. -/
def Purpose.ring? : Purpose → Option Nat
  | .descFetch r _ => some r
  | .descDropped r => some r
  | .srcRead r _ _ _ => some r
  | .dstWrite r _ _ _ => some r
  | .flagWrite r _ => some r
  | .counterWrite r _ _ => some r
  | .statusBlock r _ => some r
  | .ownClear r _ => some r
  | .completionEntry r _ => some r
  | _ => none

/-- Has ring r a request outstanding? -/
def State.ringOut (s : State) (r : Nat) : Bool := s.reqs.any fun q => q.purpose.ring? == some r

/-- Forgets every miss of ring r. -/
def State.dropRingMisses (s : State) (r : Nat) : State :=
  let l := s.xl.misses.filter fun m => match m.who with
    | .cellRead a _ => a != r
    | .cellWrite a _ _ => a != r
    | _ => true
  { s with xl := { s.xl with misses := l } }

/-- Enable: C and P take the start count (R122). -/
def State.enableRing (s : State) (r start : Nat) : State :=
  s.modRing r fun g =>
    { g with st := 1, c := start, p := start, staged := none, refetch := 0, fetched := [], stale := false, exhausted := false
             backoff := none, again := false, fetchErr := none, works := [] }

/-- The ring stops fetching: what it has fetched ahead is discarded and refetches end (R124). -/
def State.stopFetching (s : State) (r : Nat) : State :=
  (s.discardFetches r fun _ => true).modRing r fun g =>
    { g with st := 6, stale := false, exhausted := false, refetch := 0, backoff := none, again := false, fetchErr := none, staged := none }

/-- A descriptor the disable cycle ends: one that was issuing, waited to issue, was parked or was about to park is ABORTED unless an
event had marked it bad (R124). -/
def Work.abort (w : Work) : Work :=
  let live := match w.phase with
    | .queued => true
    | .issuing => true
    | .parked => true
    | .draining => w.fault.isSome
    | _ => false
  if live then
    { w with phase := .draining, fault := none, bad := match w.bad with
        | some e => some e
        | none => some { status := 7 } }
  else w

/-- The disable cycle of ring r (R124). -/
def State.disableRing (s : State) (p r : Nat) : State :=
  let s1 := ((s.stopFetching r).dropRingMisses r).flushOf p fun u => match u with
    | .dstWrite a _ _ _ => a == r
    | _ => false
  if (s.ring r).tc = 2 then (s1.abortJobs r).advanceAll p
  else
    let s2 := if (s1.slot r).valid then s1.freeSlot r else s1
    (s2.modRing r fun g => { g with works := g.works.map Work.abort }).advanceAll p

/-- A DRAINING ring of no scrub whose requests have completed and whose consumed descriptors have finished becomes DISABLED, and the commands that
wait for it respond (R124). -/
def State.drainRing (s : State) (r : Nat) : State :=
  let g := s.ring r
  let scrub := (s.ringOwner r).any fun p => (s.part p).st == 3
  if g.st = 6 && g.works.isEmpty && !s.ringOut r && !scrub then
    (s.modRing r fun g => { g with st := 0, waiters := [] }).each g.waiters fun s m => s.ok m
  else s

end Sys2Proof.Machine
end

