-- ==== Sys2Proof/Machine/Chord.lean ====
section
/-! DEFINITION. Chords: the queue, header and action fetches, take, commit, finishing and discard (R160 to R177, R487). -/

namespace Sys2Proof.Machine

/-- Queue size N. -/
def ChordQueue.size (q : ChordQueue) : Nat := 2 ^ q.sizeLog2
/-- The modulus of its counts. -/
def ChordQueue.m (q : ChordQueue) : Nat := 65536 * q.size
/-- Address of the chord at a position (R160). -/
def ChordQueue.addr (q : ChordQueue) (x : Nat) : Nat := q.base + 2048 * (x % q.size)
/-- Lap of a position. -/
def ChordQueue.lap (q : ChordQueue) (x : Nat) : Nat := x / q.size % 65536

/-- A chord doorbell (R108, R111, R118, R161). -/
def State.chordDoorbell (s : State) (p w : Nat) : State :=
  s.checkDoorbell p w fun s =>
    let q := s.chq p
    let x := (bits w 16 16 * q.size + bits w 0 16) % q.m
    if !q.placed then s.dropUnbacked p
    else
    let s := s.count p 6 1
    if q.size ≤ bits w 0 16 || q.size < (x + q.m - q.c) % q.m then s
    else
      s.modChq p fun q =>
        let q1 := if (x + q.m - q.p) % q.m ≤ q.size then { q with p := x } else q
        if q1.st = 2 || q1.st = 3 then { q1 with st := 0, refetch := 0, again := true }
        else if q1.st = 1 && q1.stale then { q1 with refetch := 0, again := true }
        else q1

/-- The slots of partition p (R167). -/
def chordSlots (p : Nat) : List Nat := [4 * p, 4 * p + 1, 4 * p + 2, 4 * p + 3]

/-- May the chord unit act for partition p? -/
def State.chMay (s : State) (p : Nat) : Bool := decide (s.level (96 + p) < 2) && (s.part p).st == 2

/-- Reports an error of source CH. -/
def State.chError (s : State) (p detail : Nat) : State := s.report { source := 3, cls := 1, part := some p, detail := detail }

/-- The slot of partition p whose header is in fetch. -/
def State.fetchingSlot (s : State) (p : Nat) : Option Nat := (chordSlots p).find? fun k => (s.chord k).st == 1

/-- The fetch of a chord failed: the slot is freed and fetching stops (R487). -/
def State.chordFailed (s : State) (p k : Nat) : State :=
  let s1 := s.orphan fun u => match u with
    | .chordLine a _ => a == k
    | _ => false
  let s2 := (s1.modChord k fun _ => {}).modChq p fun q =>
    { q with stopped := true, st := 0, stale := false, again := false, refetch := 0 }
  s2.chError p 0xF2

/-- Reads the header line of the chord in slot k. -/
def State.readHeader (s : State) (p k : Nat) : State :=
  let q := s.chq p
  let (ok, s1) := s.physRead p 67 (q.addr q.c) 64 (.chordHeader k)
  if ok then s1.modChq p fun q => { q with st := 1, again := false } else s1.chordFailed p k

/-- Fetches the header of the chord at C, in the slot it holds or a free one (R162, R167). -/
def State.fetchChord (s : State) (p : Nat) : State :=
  let q := s.chq p
  if !q.placed || q.stopped || q.c == q.p || q.st != 0 || !s.chMay p then s
  else match s.fetchingSlot p with
    | some k => if q.again then s.readHeader p k else s
    | none => match (chordSlots p).find? fun k => (s.chord k).st == 0 with
      | none => s
      | some k =>
        let s1 := s.modChord k fun _ => { st := 1, stamp := s.ch.next, pos := q.c }
        ({ s1 with ch := { s1.ch with next := s1.ch.next + 1 } }).readHeader p k

/-- The backoff of a stale header ends (R117, R162). -/
def State.refetchChord (s : State) (p : Nat) : State :=
  let q := s.chq p
  match s.fetchingSlot p with
  | some k =>
    if q.st == 2 && decide (q.backoff ≤ s.clk.fab) && s.chMay p then (s.modChq p fun q => { q with refetch := q.refetch + 1 }).readHeader p k
    else s
  | none => s

/-! ## The record (R163 to R165) -/

/-- Action count of a header. -/
def chordCount (b : Bytes) : Nat := bits (byteAt b 2) 0 6
/-- Has the header an action count and a format that are not reserved? -/
def headerOk (b : Bytes) : Bool := byteAt b 0 == 1 && decide (1 ≤ chordCount b) && decide (chordCount b ≤ 32)
/-- Lines after the header line that hold the action entries. -/
def chordLines (b : Bytes) : Nat := if headerOk b then ceilDiv (48 * chordCount b) 64 else 0
/-- Does the chord write a note? -/
def noteEn (b : Bytes) : Bool := bit (byteAt b 1) 0
/-- Address of the note. -/
def noteAddr (b : Bytes) : Nat := fieldAt b 8 8 % 2 ^ 52 / 32 * 32

/-- Action types. -/
inductive ActType where
  | doorbell
  | launch
  | ringEnable
  | ringDisable
  | window
  | invalidate
  | keySwitch
deriving DecidableEq, Repr

/-- Type of an action entry; reserved codes are none (R164). -/
def actType : Nat → Option ActType
  | 1 => some .doorbell
  | 2 => some .launch
  | 3 => some .ringEnable
  | 4 => some .ringDisable
  | 5 => some .window
  | 6 => some .invalidate
  | 7 => some .keySwitch
  | _ => none

/-- An action: its index, type and entry bytes. -/
structure Action where
  ix : Nat
  type : ActType
  raw : Bytes
deriving DecidableEq, Repr

/-- TARGET of an action. -/
def Action.target (a : Action) : Nat := fieldAt a.raw 2 2 % 2 ^ 14
/-- Does the action name a ring? -/
def Action.onRing (a : Action) : Bool := a.type == .doorbell || a.type == .launch || a.type == .ringEnable || a.type == .ringDisable

/-- The window entry a WINDOW action writes; removal writes the empty entry. -/
def Action.window (a : Action) (p : Nat) : Window :=
  let f := byteAt a.raw 25
  if bit f 2 then
    { part := p, apOff := fieldAt a.raw 8 8 % 2 ^ 41, sizeLog2 := bits (byteAt a.raw 24) 0 6, target := fieldAt a.raw 16 8 % 2 ^ 45
      re := bit f 0, we := bit f 1, valid := true }
  else {}

/-- Entry bytes of action k of a record. -/
def actRaw (b : Bytes) (k : Nat) : Bytes := slice b (64 + 48 * k) 48

/-- The actions of a record whose types are all defined. -/
def chordActions (b : Bytes) : List Action :=
  (List.range (chordCount b)).filterMap fun k => (actType (byteAt (actRaw b k) 0)).map fun t => { ix := k, type := t, raw := actRaw b k }

/-- Is entry k of a record well formed, given the entries before it (R5, R165, R167)? -/
def entryOk (p : Nat) (b : Bytes) (k : Nat) : Bool :=
  let before := (chordActions b).filter fun a => decide (a.ix < k)
  match actType (byteAt (actRaw b k) 0) with
  | none => false
  | some t =>
    let a : Action := { ix := k, type := t, raw := actRaw b k }
    match t with
    | .invalidate => (invKind p (slice a.raw 8 32)).isSome && decide ((before.filter fun x => x.type == .invalidate).length < 8)
    | .window => !bit (byteAt a.raw 25) 2 || (decide (21 ≤ bits (byteAt a.raw 24) 0 6) && decide (bits (byteAt a.raw 24) 0 6 ≤ 41))
    | .keySwitch => decide (a.target ≤ 1) && !before.any fun x => x.type == .keySwitch && x.target == a.target
    | _ => true

/-- Index of the entry that makes a record malformed (0xFF: the header does), or none (R163, R167, R484). -/
def chordBad (p : Nat) (b : Bytes) : Option Nat :=
  if !headerOk b then some 0xFF
  else (List.range (chordCount b)).find? fun k => !entryOk p b k

/-- Index of the first action that names what the partition does not have (R167). -/
def State.chordForeign (s : State) (p : Nat) (b : Bytes) : Option Nat :=
  ((chordActions b).find? fun a =>
    (a.onRing && (s.globalRing p a.target).isNone) || (a.type == .window && decide (63 < a.target))).map Action.ix

/-- Ends the chord of slot k with a status: it is counted, and finishing begins once its invalidations have drained (R169, R175). -/
def State.decideChord (s : State) (p k status failed detail : Nat) : State :=
  let drains := s.xl.invals.any fun i => i.chord == some k
  (s.modChord k fun c =>
    { c with st := if status = 0 && drains then 3 else 4, status := status, failed := failed, detail := detail, cycle := s.clk.fab
             step := 0 }).modChq p fun q =>
    if status = 0 then { q with committed := satAdd 16 q.committed 1 }
    else if status = 2 then { q with conflict := satAdd 16 q.conflict 1 }
    else { q with others := satAdd 16 q.others 1 }

/-- A chord's header returns and is judged by LAP and OWN (R115 to R119, R162, R487). -/
def State.headerReturned (s : State) (p : Nat) (res : RdRes) : State :=
  match s.fetchingSlot p with
  | none => s
  | some k =>
    match s.reqFor (.chordHeader k), res with
    | some q, .ok b0 =>
      let s := s.finishReq q
      let b := padTo 64 b0
      let c := s.chq p
      if fieldAt b 4 2 = c.lap c.c && bit (byteAt b 63) 7 then
        let s1 := (s.modChq p fun c => { c with refetch := 0, again := false, stale := false }).modChord k fun x => { x with raw := b }
        ((List.range (chordLines b)).map (· + 1)).foldl (fun s i =>
          if (s.chord k).st != 1 then s
          else
            let (ok, s2) := s.physRead p 67 (c.addr c.c + 64 * i) 64 (.chordLine k i)
            if ok then s2 else s2.chordFailed p k) s1
      else if c.again then s.modChq p fun c => { c with st := 0, stale := true }
      else if 8 ≤ c.refetch then
        (s.modChq p fun c => { c with st := 3, stale := true, staleEvents := satAdd 16 c.staleEvents 1 }).fabEvent 2 none (some p)
          (c.c % 2 ^ 32)
      else s.modChq p fun c => { c with st := 2, stale := true, backoff := s.clk.fab + 64 * 2 ^ c.refetch }
    | some q, _ => (s.finishReq q).chordFailed p k
    | none, _ => s

/-- The action-line reads of slot k that are outstanding, in line order. -/
def State.linesOf (s : State) (k : Nat) : List Req :=
  s.reqs.filter fun q => match q.purpose with
    | .chordLine a _ => a == k
    | _ => false

/-- The data of a list of reads, if every one returned data. -/
def readAll : List RdRes → Option Bytes
  | [] => some []
  | .ok b :: t => (readAll t).map fun r => padTo 64 b ++ r
  | _ :: _ => none

/-- The action lines have returned: the record is checked and taken, and C moves past it (R166, R167, R487). -/
def State.takeChord (s : State) (p : Nat) (lines : List RdRes) : State :=
  match s.fetchingSlot p with
  | none => s
  | some k =>
    let out := s.linesOf k
    if (s.chord k).raw = [] || s.waitsFor (.chordHeader k) || out.length ≠ lines.length then s
    else
      let s1 := s.each out fun s q => s.finishReq q
      match readAll lines with
      | none => s1.chordFailed p k
      | some d =>
        let b := (s.chord k).raw ++ d
        let s2 := (s1.modChq p fun q => { q with st := 0, c := (q.c + 1) % q.m }).modChord k fun c =>
          { c with st := 2, raw := b, take := s.clk.fab }
        match chordBad p b, s2.chordForeign p b with
        | some i, _ => s2.decideChord p k 1 i 0
        | none, some i => s2.decideChord p k 4 i 0
        | none, none => s2

/-! ## Commit (R168 to R172) -/

/-- The earliest chord of partition p that has neither committed nor been aborted, if it is taken. -/
def State.headChord (s : State) (p : Nat) : Option Nat :=
  (chordSlots p).foldl (init := none) fun a k =>
    if (s.chord k).st != 2 then a
    else match a with
      | none => some k
      | some b => if (s.chord k).stamp < (s.chord b).stamp then some k else a

/-- INVALIDATE actions of a record. -/
def chordInvals (b : Bytes) : Nat := ((chordActions b).filter fun a => a.type == .invalidate).length

/-- Does partition p's head chord wait for invalidation room? -/
def State.chordInvWait (s : State) (p : Nat) : Bool :=
  match s.headChord p with
  | some k => decide (8 < s.invPending p + chordInvals (s.chord k).raw)
  | none => false

/-- Is partition p's head chord ready (R168, R177, R415)? -/
def State.chordReady (s : State) (p : Nat) : Bool :=
  (s.headChord p).isSome && (s.part p).st == 2 && !(s.part p).frozen && decide (s.level (96 + p) < 1) && !s.chordInvWait p

/-- The partition whose turn it is to commit (R168). -/
def State.chordTurn (s : State) : Option Nat :=
  ((List.range 16).map fun i => (s.ch.served + 1 + i) % 16).find? fun p => s.chordReady p

/-- Lowest-index action on a ring that an ordinary doorbell reached since the take (R169 step 1). -/
def State.chordConflict (s : State) (p take : Nat) (acts : List Action) : Option Nat :=
  (acts.find? fun a => a.onRing && match s.globalRing p a.target with
    | some r => match (s.ring r).ordinary with
      | some t => decide (take ≤ t)
      | none => false
    | none => false).map Action.ix

/-- Applies a DOORBELL or LAUNCH action, or names the DETAIL of its failure (R169, R170). -/
def State.applyRing (s : State) (p r : Nat) (launch : Bool) (pi lap : Nat) : Except Nat State :=
  let g := s.ring r
  let x := (lap * g.size + pi) % g.m
  if g.st = 0 || g.st = 6 then .error 1
  else if launch != (g.tc == 2) then .error 2
  else if g.size ≤ pi || g.size < g.dist x then .error 3
  else .ok ((s.moveProducer r x).afterDoorbell p r)

/-- Does the valid entry at a key take part in a breach of R38? -/
def State.windowBreach (s : State) (k : Nat) : Bool :=
  let w := Tab.at s.pt.windows k
  w.valid && (!w.aligned || !s.windowBacked w || s.pt.windows.any fun f => f.1 != k && f.2.valid && w.overlaps f.2)

/-- The window actions of a chord whose entries stand. -/
def standing (acts : List Action) : List Action :=
  acts.filter fun a => a.type == .window && !acts.any fun b => b.type == .window && b.target == a.target && decide (a.ix < b.ix)

/-- Applies one action of slot k's chord, or names the failing action and DETAIL (R169, R170). -/
def State.applyAction (s : State) (p k : Nat) (acts : List Action) (a : Action) : Except (Nat × Nat) State :=
  let pi := fieldAt a.raw 8 2
  let lap := fieldAt a.raw 10 2
  let fail (d : Nat) : Except (Nat × Nat) State := .error (a.ix, d)
  match a.type with
  | .doorbell => onRing fun r => (s.applyRing p r false pi lap).mapError fun d => (a.ix, d)
  | .launch => onRing fun r => (s.applyRing p r true pi lap).mapError fun d => (a.ix, d)
  | .ringEnable => onRing fun r =>
    let g := s.ring r
    if !g.configured || g.st != 0 then fail 1
    else if g.size ≤ pi then fail 3
    else .ok (s.enableRing r ((lap * g.size + pi) % g.m))
  | .ringDisable => onRing fun r =>
    if (s.ring r).st = 0 || (s.ring r).st = 6 then fail 1 else .ok (s.disableRing p r)
  | .window =>
    let s1 := { s with pt := { s.pt with windows := Tab.put s.pt.windows (64 * p + a.target) (a.window p) } }
    if acts.any fun b => b.type == .window && decide (a.ix < b.ix) then .ok s1
    else match (standing acts).find? fun b => s1.windowBreach (64 * p + b.target) with
      | some b => .error (b.ix, 4)
      | none => .ok s1
  | .invalidate => match invKind p (slice a.raw 8 32) with
    | some i => .ok (s.cutInval p i { chord := some k, va := fieldAt a.raw 16 8 })
    | none => .ok s
  | .keySwitch =>
    let gen := bits (byteAt a.raw 8) 0 1
    if ((s.part p).slot gen).st != .loaded then fail 5
    else .ok (s.modPart p fun x => if a.target = 0 then { x with scope0 := gen } else { x with scope1 := gen })
where
  onRing (f : Nat → Except (Nat × Nat) State) : Except (Nat × Nat) State :=
    match s.globalRing p a.target with
    | some r => f r
    | none => .error (a.ix, 1)

/-- Applies a list of actions in order, each seeing the effect of those before it. -/
def State.applyActions (s : State) (p k : Nat) (acts : List Action) : List Action → Except (Nat × Nat) State
  | [] => .ok s
  | a :: t => match s.applyAction p k acts a with
    | .ok s1 => s1.applyActions p k acts t
    | .error e => .error e

/-- The chord unit evaluates partition p's ready chord in this cycle (R168 to R170). -/
def State.commitChord (s : State) (p : Nat) : State :=
  if s.chordTurn ≠ some p || s.ch.evalAt == some s.clk.fab then s
  else match s.headChord p with
    | none => s
    | some k =>
      let c := s.chord k
      let acts := chordActions c.raw
      let s0 := { s with ch := { s.ch with evalAt := some s.clk.fab, served := p } }
      match s0.chordConflict p c.take acts with
      | some i => s0.decideChord p k 2 i 0
      | none => match s0.applyActions p k acts acts with
        | .error e => s0.decideChord p k 3 e.1 e.2
        | .ok s1 => ({ s1 with ch := { s1.ch with last := some (s.clk.fab, p) } }).decideChord p k 0 0xFF 0

/-- Slot k's chord has not committed within its limit (R172). -/
def State.chordTimeout (s : State) (k : Nat) : State :=
  let c := s.chord k
  if c.st = 2 && decide (c.take + 2 ^ 24 ≤ s.clk.fab) then s.decideChord (k / 4) k 5 0xFF 0 else s

/-! ## Finishing (R173 to R176) -/

/-- Is slot k's chord the first of its partition that holds a slot? -/
def State.chordFirst (s : State) (k : Nat) : Bool :=
  (chordSlots (k / 4)).all fun j => (s.chord j).st == 0 || decide ((s.chord k).stamp ≤ (s.chord j).stamp)

/-- One finishing write of a chord; a refused one is dropped (R176). -/
def State.chordWrite (s : State) (p pa : Nat) (data : Bytes) (pu : Purpose) : State :=
  let (ok, s1) := s.physNote p 67 pa data pu
  if ok then s1 else s1.chError p 0

/-- A finishing write of a chord ends (R176). -/
def State.chordAck (s : State) (p : Nat) (pu : Purpose) (ack : WrRes) : State :=
  match s.reqFor pu with
  | none => s
  | some q => if ack = .ok then s.finishReq q else (s.finishReq q).chError p 0

/-- Bytes 48 to 62 of a finished chord's header (R163). -/
def ChordSlot.statusBytes (c : ChordSlot) : Bytes :=
  leBytes 1 c.status ++ leBytes 1 c.failed ++ leBytes 1 c.detail ++ zeros 1 ++ leBytes 4 c.cycle ++ zeros 7

/-- The trailing note (R174). -/
def ChordSlot.noteBytes (c : ChordSlot) (index : Nat) : Bytes :=
  slice c.raw 16 8 ++ leBytes 1 c.status ++ leBytes 1 c.failed ++ leBytes 1 c.detail ++ zeros 1 ++ leBytes 2 index ++ slice c.raw 4 2 ++
    leBytes 4 c.cycle ++ zeros 12

/-- Step 2 of R173: the status fields. -/
def State.chordStatus (s : State) (k : Nat) : State :=
  let c := s.chord k
  let p := k / 4
  if c.st != 4 || c.step != 0 || !s.chordFirst k || !s.chMay p then s
  else
    (s.chordWrite p ((s.chq p).addr c.pos + 48) c.statusBytes (.chordStatus k)).modChord k fun c => { c with step := 1 }

/-- Step 3: OWN is cleared, after the status write has ended with `ack`. -/
def State.chordOwn (s : State) (k : Nat) (ack : WrRes) : State :=
  let c := s.chord k
  let p := k / 4
  if c.st != 4 || c.step != 1 || !s.chMay p then s
  else
    ((s.chordAck p (.chordStatus k) ack).chordWrite p ((s.chq p).addr c.pos + 63) [0] (.chordOwn k)).modChord k fun c => { c with step := 2 }

/-- Step 4: the note, after the OWN write has ended with `ack`, and the slot is freed. -/
def State.chordNote (s : State) (k : Nat) (ack : WrRes) : State :=
  let c := s.chord k
  let p := k / 4
  if c.st != 4 || c.step != 2 || !s.chMay p then s
  else
    let s1 := s.chordAck p (.chordOwn k) ack
    let s2 := if noteEn c.raw then s1.chordWrite p (noteAddr c.raw) (c.noteBytes (c.pos % (s.chq p).size)) (.chordNote p) else s1
    s2.modChord k fun _ => {}

/-- Discards every chord of partition p: nothing is written and its slots are free (R177). -/
def State.dropChords (s : State) (p : Nat) : State :=
  let s0 := s.orphan fun u => match u with
    | .chordHeader k => k / 4 == p
    | .chordLine k _ => k / 4 == p
    | .chordStatus k => k / 4 == p
    | .chordOwn k => k / 4 == p
    | _ => false
  let s1 := s0.each (chordSlots p) fun s k => s.modChord k fun _ => {}
  s1.modChq p fun q => { q with st := 0, stale := false, again := false, refetch := 0 }

end Sys2Proof.Machine
end

