-- ==== Sys2Proof/Machine/Inbound.lean ====
section
/-! DEFINITION. The checks of inbound accesses to this die's HBM (R30, R32). -/

namespace Sys2Proof.Machine

/-- Physical address of a direct-HBM offset of this die, or the CHECK of its refusal: the channel must be owned as given. -/
def State.directIn (s : State) (owner : Option Nat) (off len : Nat) : Except Nat Nat :=
  if s.populated (off + len - 1) && s.chanOwner (s.chanOf off) == owner && s.chanOwner (s.chanOf (off + len - 1)) == owner then
    .ok (s.dieId * 2 ^ 47 + off)
  else .error 1

/-- The same for offset `a` of partition p's window aperture. -/
def State.windowIn (s : State) (p a len : Nat) (write : Bool) : Except Nat Nat :=
  match s.windowAt p a len with
  | none => .error 2
  | some w => if (if write then w.we else w.re) then s.directIn (some p) (w.target + (a - w.apOff)) len else .error 2

/-- The checks of R32 on a KPP request with partition tag p. -/
def State.kppIn (s : State) (p pa len : Nat) (write : Bool) : Except Nat Nat :=
  let off := offOf pa
  if bit off 46 then .error 4
  else if bit off 45 then (if bits off 41 4 = p then s.windowIn p (bits off 0 41) len write else .error 3)
  else s.directIn (some p) off len

end Sys2Proof.Machine
end

