-- ==== Sys2Proof/Machine/Units.lean ====
section
/-! DEFINITION. The unit state words: hardware causes, quarantines, and the writes of the MC (R415, R416, R447, R450). -/

namespace Sys2Proof.Machine

/-- The level and cause that the hardware gives unit u apart from quarantines: fused off 1, link not up 4, reset 5, scrub 6
(R379, R438, R447, R450). -/
def State.hwCause (s : State) (u : Nat) : Nat × Nat :=
  if u < 64 then (if bit s.fuses.groups (u / 4) then (2, 1) else (0, 0))
  else if u < 88 then
    if 68 ≤ u && bit s.fuses.modules (u - 68) then (2, 1)
    else if (s.mod (u - 64)).carries then (0, 0) else (2, 4)
  else if 96 ≤ u && u < 112 then
    let x := s.part (u - 96)
    if x.st = 3 then (2, 6) else if x.flr.isSome then (2, 5) else (0, 0)
  else (0, 0)

/-- The hardware fields of a state word in the layout of MC_UNIT_STATE, with the given admission fields. -/
def packUnit (epoch : Nat) (hwRel mcRel qMc qHw : Bool) (cause mc hw eff : Nat) : Nat :=
  fld epoch 48 16 + fld (b2n hwRel) 23 1 + fld (b2n mcRel) 22 1 + fld (b2n qMc) 21 1 + fld (b2n qHw) 20 1 + fld cause 12 4 +
    fld mc 4 2 + fld hw 2 2 + fld eff 0 2

/-- MC_UNIT_STATE[u] (R415). -/
def State.unitWord (s : State) (u : Nat) : Nat :=
  let w := s.unit u
  packUnit w.epoch w.qHwRel w.qMcRel w.qMc w.qHw w.cause w.mcAdmit w.hwAdmit (s.level u)

/-- Logs ADMISSION_CHANGE for unit u (R409, R415). -/
def State.admissionEvent (s : State) (u : Nat) : State := s.fabEvent 0x51 (some u) none (s.unitWord u)

/-- Takes the hardware causes of unit u into its word, unless a quarantine of the hardware holds it (R415, R416). -/
def State.settleUnit (s : State) (u : Nat) : State :=
  let w := s.unit u
  let c := s.hwCause u
  if w.qHw || (w.hwAdmit, w.cause) = c then s
  else (s.modUnit u fun w => { w with hwAdmit := c.1, cause := c.2, epoch := wrapAdd 16 w.epoch 1 }).admissionEvent u

/-- A quarantine ends when both sides agree (R416). -/
def State.endQuarantine (s : State) (u : Nat) : State :=
  let w := s.unit u
  if (w.qHw || w.qMc) && w.qHwRel && w.qMcRel then
    let c := if w.qHw then s.hwCause u else (w.hwAdmit, w.cause)
    let s1 := if 96 ≤ u then s.modPart (u - 96) fun x => { x with frozen := false } else s
    (s1.modUnit u fun w =>
      { w with qHw := false, qMc := false, qHwRel := false, qMcRel := false, hwAdmit := c.1, cause := c.2
               epoch := wrapAdd 16 w.epoch 1 }).admissionEvent u
  else s

/-- The hardware quarantines unit u: cause 2 isolate, 3 freeze (R415, R416, R426). -/
def State.quarantine (s : State) (u cause : Nat) : State :=
  (s.modUnit u fun w =>
    { w with hwAdmit := 2, cause := cause, qHw := true, qHwRel := false, qMcRel := false, epoch := wrapAdd 16 w.epoch 1 }).admissionEvent u

/-- The hardware's cause of a quarantine has cleared (R416). -/
def State.clearQuarantine (s : State) (u : Nat) : State :=
  if (s.unit u).qHw then (s.modUnit u fun w => { w with qHwRel := true }).endQuarantine u else s

/-- A write of the MC to unit u's word; none when it is a stale lowering write (R415, R416). -/
def State.mcWrite (s : State) (u level epoch : Nat) : Option State :=
  let w := s.unit u
  if level = 3 then
    some (s.modUnit u fun w => { w with mcAdmit := 3, qMc := true, qMcRel := false, qHwRel := !w.qHw })
  else if w.mcAdmit < level then some (s.modUnit u fun w => { w with mcAdmit := level })
  else if epoch ≠ w.epoch then none
  else
    let held := w.qHw || w.qMc
    some ((s.modUnit u fun w => { w with mcAdmit := level, qMcRel := w.qMcRel || held }).endQuarantine u)

end Sys2Proof.Machine
end

