-- ==== Sys2Proof/Machine/Links.lean ====
section
/-! DEFINITION. Link modules: training, retraining, loss, power states, retry and the traffic generators (R285 to R296, R305, R309,
R310, R317, R320, R462). -/

namespace Sys2Proof.Machine

/-! ## Module states -/

/-- The lowest-numbered host-link module in LINK_UP. -/
def State.firstHl (s : State) : Option Nat := [0, 1, 2, 3].find? fun k => (s.mod k).carries

/-- Module k enters a state: its unit word follows, the MC has readiness to decide again, and the time without any host-link module
starts or ends (R287, R296, R450). -/
def State.setModState (s : State) (k st : Nat) : State :=
  let s1 := (s.modMod k fun m => { m with st := st }).settleUnit (64 + k)
  let s2 := { s1 with mc := { s1.mc with decide := true } }
  if 4 ≤ k then s2
  else
    let up := s2.firstHl.isSome
    { s2 with links := { s2.links with
      everUp := s2.links.everUp || up
      outFrom := if up || !s2.links.everUp then none else s2.links.outFrom.orElse fun _ => some s.clk.mgt } }

/-- Module k starts training at SB_INIT (R287, R288). -/
def State.startTraining (s : State) (k : Nat) : State :=
  (s.modMod k fun m => { m with attempts := 0, width := 0, spares := 0, limitFrom := s.clk.mgt }).setModState k 2

/-- The sideband of module k is up. -/
def State.sidebandUp (s : State) (k : Nat) : State :=
  if (s.mod k).st = 2 then (s.modMod k fun m => { m with limitFrom := s.clk.mgt }).setModState k 3 else s

/-- Width and spare lanes for the failed lanes of the two halves; none when neither half is usable (R289). -/
def trainWidth (lo hi : Nat) : Option (Nat × Nat) :=
  if lo ≤ 2 && hi ≤ 2 then some (64, lo + hi)
  else if lo ≤ 2 then some (32, lo)
  else if hi ≤ 2 then some (32, hi)
  else none

/-- This die's PARAM flit body (R317). -/
def State.paramBody (s : State) (m : Nat) : Bytes :=
  let x := s.mod (4 + m)
  leBytes 1 2 ++ leBytes 1 1 ++ leBytes 1 s.dieId ++ leBytes 1 m ++ leBytes 1 x.width ++ zeros 3 ++ leBytes 2 1024 ++ leBytes 2 6144 ++
    leBytes 2 6144 ++ leBytes 2 256 ++ leBytes 2 x.rxNext

/-- Sends an unsequenced LINK_CTL flit. -/
def State.sendCtl (s : State) (m : Nat) (body : Bytes) : State := s.sendFlit m (fld 2 61 3) body

/-! ## Loss (R291, R295, R310) -/

/-- Ends the outstanding peer request of a tag, with status 0 and data or a status of R151. -/
def State.endPeer (s : State) (t status : Nat) (timeout : Bool) (data : Bytes) : State :=
  match (s.tag t).req with
  | none => s
  | some id =>
    let s1 := s.freeTagOf t
    match s1.req id with
    | none => s1
    | some q => if q.kind == .read then s1.endRead q status timeout data else s1.endWrite q status timeout

/-- Ends every request of this die that left on PL[m] (R310). -/
def State.endOn (s : State) (m : Nat) : State :=
  let mine := (s.links.tags.filter fun e => e.2.live && e.2.module == m && e.2.req.isSome).map Prod.fst
  s.each mine fun s t => s.endPeer t 8 false []

/-- The transaction of an inbound read. -/
def InItem.txn : InItem → Option Nat
  | .read t _ _ _ => some t
  | .reading t _ _ => some t
  | .answered t _ _ _ _ _ => some t
  | _ => none

/-- The I/O module is down: CXL.io moves on; what the old module had not finished is dropped or aborted (R295). -/
def State.moveIo (s : State) : State :=
  let s1 := s.each s.links.io fun s i => match i.txn with
    | some txn => s.emit (.completion true txn 4 false [])
    | none => s
  let s2 := s1.orphan fun u => match u with
    | .inboundWrite 0 _ => true
    | _ => false
  let s3 := { s2 with links := { s2.links with io := [], ioModule := s2.firstHl.getD s2.links.ioModule } }
  s3.report { source := 7, cls := 1, unit := some (64 + s.links.ioModule), detail := 0x10 }

/-- Module k enters DOWN with a cause (R291, R295, R310). -/
def State.downMod (s : State) (k cause : Nat) : State :=
  let x := s.mod k
  let s1 := x.retry.foldl (fun s f => s.keyGive f.key) s
  let s2 := (s1.modMod k fun m =>
    { m with downCause := cause, width := 0, retry := [], q0 := [], q1 := [], q2 := [], q3 := [], nakFor := none, ackDue := false
             fr0 := 0, fr1 := 0, fr2 := 0, fr3 := 0 }).setModState k 8
  let s3 := s2.mgtEvent 0x20 (some (64 + k)) none (fld cause 8 4 + fld x.partnerDie 0 5)
  let s4 := s3.report { source := if k < 4 then 7 else 8, cls := 1, unit := some (64 + k), detail := cause }
  if 4 ≤ k then s4.endOn (k - 4) else if k = s.links.ioModule then s4.moveIo else s4

/-- The mainband of module k has been tested: `lo` and `hi` are the failed data lanes of its halves (R289, R290). -/
def State.mainbandTrained (s : State) (k lo hi : Nat) : State :=
  if (s.mod k).st ≠ 3 then s
  else match trainWidth lo hi with
    | none => s.downMod k 2
    | some (w, n) =>
      let fresh (m : Module) : Module := { m with
        width := w, spares := n, retry := [], nextSeq := 0, rxNext := 0, rxAny := false, nakFor := none, replaysHere := 0 }
      let s1 := (s.modMod k fresh).setModState k 4
      if k < 4 then s1 else s1.sendCtl (k - 4) (s1.paramBody (k - 4))

/-- Has a flit a good CRC (R298)? -/
def flitGood (b : Bytes) : Bool := b.length == 256 && fieldAt b 248 8 == crc64 0 (b.take 248)
/-- Header fields of a flit (R299). -/
def hdr (b : Bytes) : Nat := fieldAt b 0 8
def fType (b : Bytes) : Nat := bits (hdr b) 61 3
def fKgen (b : Bytes) : Nat := bits (hdr b) 60 1
def fPart (b : Bytes) : Nat := bits (hdr b) 56 4
def fSeq (b : Bytes) : Nat := bits (hdr b) 46 10
/-- Subtype of a LINK_CTL flit (R317). -/
def ctlType (b : Bytes) : Nat := if fType b = 2 then byteAt b 8 else 0
/-- Is a flit sequenced (R300)? -/
def sequenced (b : Bytes) : Bool := fType b == 1 || ctlType b == 3
/-- Slot j of a flit's body. -/
def slotOf (b : Bytes) (j : Nat) : Bytes := slice b (8 + 16 * j) 16

/-- The module at the other end of PL[m] (R290). -/
def facing (m : Nat) : Nat := 5 * ((m / 5 + 2) % 4) + m % 5

/-- Credits a PARAM flit advertises. -/
def Module.takeParam (m : Module) (b : Bytes) : Module :=
  { m with cr0 := fieldAt (slotOf b 0) 8 2, cr1 := fieldAt (slotOf b 0) 10 2, cr2 := fieldAt (slotOf b 0) 12 2, cr3 := fieldAt (slotOf b 0) 14 2
           partnerDie := byteAt (slotOf b 0) 2 % 32, partnerMod := byteAt (slotOf b 0) 3 }

/-- Module k comes up. -/
def State.linkUp (s : State) (k : Nat) : State :=
  let s1 := (s.modMod k fun m => { m with idleFrom := s.clk.mgt, attempts := 0, downCause := 0
                                          ackAt := if k < 4 then 0 else Tab.at s.clk.pl (k - 4) }).setModState k 5
  let s2 := if k < 4 && !(s1.mod s1.links.ioModule).carries && (s1.mod s1.links.ioModule).st != 6 then
      { s1 with links := { s1.links with ioModule := s1.firstHl.getD k } } else s1
  if k < 4 then s2 else s2.pump (k - 4)

/-- The partner's PARAM flit arrives in PARAM; for a host-link module, the CXL parameter exchange has ended (R290). -/
def State.paramReceived (s : State) (k : Nat) (b : Bytes) : State :=
  if (s.mod k).st ≠ 4 then s
  else if k < 4 then s.linkUp k
  else if !flitGood b then s.modMod k fun m => { m with crcErrors := satAdd 16 m.crcErrors 1 }
  else if ctlType b ≠ 2 then s
  else
    let s1 := s.modMod k fun m => { m.takeParam b with nextSeq := fieldAt (slotOf b 1) 0 2 % 1024 }
    if byteAt (slotOf b 0) 1 ≠ 1 then s1.downMod k 4
    else if byteAt (slotOf b 0) 3 ≠ facing (k - 4) then s1.downMod k 3
    else s1.linkUp k

/-- A training attempt of module k reaches its limit (R288). -/
def State.trainingLimit (s : State) (k : Nat) : State :=
  let x := s.mod k
  let due := fun n => decide (x.limitFrom + n ≤ s.clk.mgt)
  let fail (st cause : Nat) : State :=
    let s1 := s.modMod k fun m => { m with attempts := m.attempts + 1, limitFrom := s.clk.mgt }
    if 3 ≤ x.attempts + 1 then s1.downMod k cause else s1.setModState k st
  if x.st = 2 && due (2 ^ 20) then s.downMod k 1
  else if (x.st = 3 || x.st = 4) && due (2 ^ 22) then fail 3 1
  else if x.st = 6 && due (2 ^ 22) then fail 6 5
  else s

/-! ## Acknowledgements, credits and replay (R305, R309) -/

/-- Frees retry-buffer entries of PL[m] up to sequence number `seq`, if one has it. -/
def State.freeRetry (s : State) (m seq : Nat) : State :=
  let x := s.mod (4 + m)
  match x.retry.findIdx? fun f => f.seq == seq with
  | none => s
  | some i =>
    let s1 := (x.retry.take (i + 1)).foldl (fun s f => s.keyGive f.key) s
    s1.modMod (4 + m) fun x => { x with retry := x.retry.drop (i + 1), replaysHere := 0, ackAt := Tab.at s.clk.pl m }

/-- Takes the ACK and credit fields of a good flit (R299, R305). -/
def State.takeAck (s : State) (m : Nat) (b : Bytes) : State :=
  let h := hdr b
  let s1 := if bit h 35 then s.freeRetry m (bits h 36 10) else s
  (s1.modMod (4 + m) fun x => x.addCredit (bits h 33 2) (bits h 20 13) false).pump m

/-- Sends again every flit of PL[m]'s retry buffer. -/
def State.resend (s : State) (m : Nat) : State := s.each (s.mod (4 + m)).retry fun s f => s.sendFlit m f.header f.body

/-- Module k enters RETRAIN (R309). -/
def State.enterRetrain (s : State) (k : Nat) : State :=
  (s.modMod k fun x => { x with retrains := satAdd 16 x.retrains 1, attempts := 0, limitFrom := s.clk.mgt
                                replaysHere := 0 }).setModState k 6

/-- One replay of module k, or RETRAIN when four have brought no progress (R309). -/
def State.replay (s : State) (k : Nat) : State :=
  if 4 ≤ (s.mod k).replaysHere then s.enterRetrain k
  else
    let s1 := s.modMod k fun x => { x with
      replays := satAdd 16 x.replays 1, replaysHere := x.replaysHere + 1, ackAt := if k < 4 then 0 else Tab.at s.clk.pl (k - 4) }
    if k < 4 then s1 else s1.resend (k - 4)

/-- Sends a NAK that names the expected flit (R309, R317). -/
def State.sendNak (s : State) (m : Nat) : State :=
  let x := s.mod (4 + m)
  (s.modMod (4 + m) fun y => { y with nakFor := some y.rxNext, nakAt := Tab.at s.clk.pl m }).sendCtl m
    (leBytes 1 1 ++ zeros 1 ++ leBytes 2 x.rxNext)

/-- A flit with a wrong CRC arrives on module k (R309). -/
def State.crcError (s : State) (k : Nat) (b : Bytes) : State :=
  if (s.mod k).st ≠ 5 || (4 ≤ k && flitGood b) then s
  else
    let s1 := s.modMod k fun x => { x with crcErrors := satAdd 16 x.crcErrors 1 }
    if 4 ≤ k && sequenced b then s1.sendNak (k - 4) else s1

/-- A sequenced flit out of order arrives on PL[m] (R309). -/
def State.outOfOrder (s : State) (m : Nat) (b : Bytes) : State :=
  let x := s.mod (4 + m)
  if x.st ≠ 5 || !flitGood b || !sequenced b || fSeq b == x.rxNext then s
  else
    let s1 := s.takeAck m b
    if x.nakFor.isSome then s1 else s1.sendNak m

/-- Cycles of a flit time (R459). -/
def Module.flitTime (m : Module) : Nat := if m.width = 32 then 2 else 1

/-- 256 flit times have passed since the last NAK and the expected flit has not arrived (R309). -/
def State.nakRepeat (s : State) (m : Nat) : State :=
  let x := s.mod (4 + m)
  if x.st = 5 && x.nakFor.isSome && decide (x.nakAt + 256 * x.flitTime ≤ Tab.at s.clk.pl m) then s.sendNak m else s

/-- A NAK arrives; on a host-link module, the partner's retry request of CXL 3.1 (R309). -/
def State.nakReceived (s : State) (k : Nat) (b : Bytes) : State :=
  if (s.mod k).st ≠ 5 then s
  else if k < 4 then s.replay k
  else if !flitGood b || ctlType b ≠ 1 then s
  else
    let seq := fieldAt (slotOf b 0) 2 2 % 1024
    (((s.takeAck (k - 4) b).freeRetry (k - 4) ((seq + 1023) % 1024)).replay k).pump (k - 4)

/-- No ACK has advanced for 4,096 cycles with flits unacknowledged (R309). -/
def State.replayTimeout (s : State) (m : Nat) : State :=
  let x := s.mod (4 + m)
  if x.st = 5 && !x.retry.isEmpty && decide (x.ackAt + 4096 ≤ Tab.at s.clk.pl m) then s.replay (4 + m) else s

/-- An IDLE flit arrives (R300, R305); on a host-link module, a flit that shows progress. -/
def State.idleReceived (s : State) (k : Nat) (b : Bytes) : State :=
  if (s.mod k).st ≠ 5 then s
  else if k < 4 then s.modMod k fun x => { x with replaysHere := 0 }
  else if flitGood b && fType b == 0 then s.takeAck (k - 4) b
  else s

/-- An attempt to retrain module k ends: with usable lanes the link comes up again, credits are restored and PL[m] replays from the
partner's next expected SEQ `next` (R309). -/
def State.retrainDone (s : State) (k lo hi : Nat) (param : Bytes) : State :=
  let x := s.mod k
  if x.st ≠ 6 then s
  else match trainWidth lo hi with
    | none =>
      let s1 := s.modMod k fun m => { m with attempts := m.attempts + 1, limitFrom := s.clk.mgt }
      if 3 ≤ x.attempts + 1 then s1.downMod k 5 else s1
    | some (w, n) =>
      let s1 := s.modMod k fun m => { m with width := w, spares := n, nakFor := none, fr0 := 0, fr1 := 0, fr2 := 0, fr3 := 0 }
      if k < 4 then s1.linkUp k
      else if !flitGood param || ctlType param ≠ 2 then s
      else
        let next := fieldAt (slotOf param 1) 0 2 % 1024
        let s2 := (s1.modMod k fun m => m.takeParam param).sendCtl (k - 4) (s1.paramBody (k - 4))
        (((s2.freeRetry (k - 4) ((next + 1023) % 1024)).setModState k 5).resend (k - 4)).linkUp k

/-! ## Low power (R462, R463) -/

/-- Is PL[m] owned by a partition that is CREATED or SCRUBBING? -/
def State.ownerIdle (s : State) (m : Nat) : Bool :=
  match s.moduleOwner m with
  | some p => (s.part p).st == 1 || (s.part p).st == 3
  | none => false

/-- Module k, idle and with its partner's agreement, enters LOW_POWER. -/
def State.enterLp (s : State) (k : Nat) : State :=
  let x := s.mod k
  let quiet := x.retry.isEmpty && x.q0.isEmpty && x.q1.isEmpty && x.q2.isEmpty && x.q3.isEmpty
  if x.st = 5 && s.mc.pwr.lpEn && quiet && decide (x.idleFrom + 2 ^ 14 ≤ s.clk.mgt) && !(4 ≤ k && s.ownerIdle (k - 4)) then
    s.setModState k 7
  else s

/-- Module k leaves LOW_POWER. -/
def State.exitLp (s : State) (k : Nat) : State := if (s.mod k).st = 7 then s.linkUp k else s

/-! ## Traffic generators and checkers (R320) -/

/-- One step of a pattern register: its next value and the bit it gives. PRBS31 is x^31 + x^28 + 1, PRBS23 is x^23 + x^18 + 1. -/
def prbsStep (pat r : Nat) : Nat × Bool :=
  let (n, t) := if pat = 0 then (31, 27) else (23, 17)
  let b := bit r (n - 1) != bit r t
  ((2 * r + b2n b) % 2 ^ n, b)

/-- `n` pattern bits, the first the least significant. -/
def prbsBits (pat : Nat) : Nat → Nat → Nat × Nat
  | 0, r => (r, 0)
  | n + 1, r =>
    let (r1, b) := prbsStep pat r
    let (r2, v) := prbsBits pat n r1
    (r2, b2n b + 2 * v)

/-- `n` bytes of a pattern from its register: PRBS31, PRBS23, alternating 0x55 and 0xAA, or zero. -/
def patternBytes (pat : Nat) : Nat → Nat → Nat × Bytes
  | 0, r => (r, [])
  | n + 1, r =>
    let (r1, v) := if pat < 2 then prbsBits pat 8 r else (r + 1, if pat = 2 then (if r % 2 = 0 then 0x55 else 0xAA) else 0)
    let (r2, bs) := patternBytes pat n r1
    (r2, BitVec.ofNat 8 v :: bs)

/-- May the generators and checkers act, and on this module (R320)? -/
def State.tgMay (s : State) (k : Nat) : Bool :=
  s.mc.mode != 0 && (if k < 4 then (s.mod k).loopback else (s.moduleOwner (k - 4)).isNone)

/-- A write to TG_CTRL of module k (R320). -/
def State.writeTg (s : State) (k w : Nat) : State :=
  if !s.tgMay k then s
  else
    s.modMod k fun m =>
      let gen := bit w 0
      let start := gen && !m.tgGen
      let check := bit w 3
      let pat := bits w 1 2
      { m with tgCount := bits w 32 32, tgCheck := check, tgPattern := pat, tgGen := gen
               tgSent := if start then 0 else m.tgSent, tgTx := if start then (if pat = 0 then 2 ^ 31 - 1 else if pat = 1 then 2 ^ 23 - 1 else 0) else m.tgTx
               tgLocked := m.tgLocked && check && m.tgCheck, tgChecked := if check && !m.tgCheck then 0 else m.tgChecked
               tgErrors := if check && !m.tgCheck then 0 else m.tgErrors }

/-- Module k's generator sends a TEST flit in a free flit time (R318, R320). -/
def State.sendTest (s : State) (k : Nat) : State :=
  let x := s.mod k
  let busy := !(x.q0.isEmpty && x.q1.isEmpty && x.q2.isEmpty && x.q3.isEmpty)
  if x.st ≠ 5 || !x.tgGen || !s.tgMay k || (x.tgCount != 0 && decide (x.tgCount ≤ x.tgSent)) || busy || (4 ≤ k && s.idleOnly (k - 4)) then s
  else
    let (r, d) := patternBytes x.tgPattern 224 x.tgTx
    let s1 := s.modMod k fun m => { m with tgTx := r, tgSent := m.tgSent + 1 }
    if k < 4 then s1 else s1.sendCtl (k - 4) (leBytes 1 4 ++ zeros 15 ++ d)

/-- Bits in which two runs of bytes differ. -/
def bitDiffs : Bytes → Bytes → Nat
  | a :: as, b :: bs => popCount 8 (a.toNat ^^^ b.toNat) + bitDiffs as bs
  | _, _ => 0

/-- Pattern register after a run of received bytes, taken from its last bits. -/
def lockReg (pat : Nat) (d : Bytes) : Nat :=
  let n := if pat = 0 then 31 else 23
  if pat < 2 then
    let v := leNat (d.drop (d.length - 4))
    (List.range n).foldl (fun r i => 2 * r + b2n (bit v (32 - n + i))) 0
  else if pat = 2 then (if byteAt d 0 = 0xAA then 225 else 224) else 0

/-- A TEST flit arrives at module k's checker (R320). -/
def State.testReceived (s : State) (k : Nat) (b : Bytes) : State :=
  let x := s.mod k
  if x.st ≠ 5 || !flitGood b || ctlType b ≠ 4 then s
  else
    let s0 := if k < 4 then s else s.takeAck (k - 4) b
    let d := slice b 24 224
    if !x.tgCheck || !s.tgMay k then s0
    else if !x.tgLocked then s0.modMod k fun m => { m with tgLocked := true, tgRx := lockReg x.tgPattern d }
    else
      let (r, want) := patternBytes x.tgPattern 224 x.tgRx
      s0.modMod k fun m =>
        { m with tgRx := r, tgChecked := satAdd 32 m.tgChecked 1, tgErrors := satAdd 31 m.tgErrors (bitDiffs d want) }

end Sys2Proof.Machine
end

