-- ==== Sys2Proof/Machine/Kpp.lean ====
section
/-! DEFINITION. The receiving side of the peer links: PAYLOAD and RESP flits, the packets in them, requests served for other dies, and
replica reports (R269 to R271, R301 to R315, R317, R319, R383). -/

namespace Sys2Proof.Machine

/-! ## Packets -/

/-- A received packet: header fields, data and byte-enable mask. -/
structure Rx where
  op : Nat
  vc : Nat
  acc : Nat
  be : Bool
  src : Nat
  dst : Nat
  tag : Nat
  len : Nat
  status : Nat
  addr : Nat
  slots : Bytes
  mask : Nat := 0
deriving DecidableEq, Repr

/-- Fields of a header slot, with the packet's slots (R302). -/
def rxOf (slots : Bytes) : Rx :=
  { op := byteAt slots 0, vc := bits (byteAt slots 1) 6 2, acc := bits (byteAt slots 1) 4 2, be := bit (byteAt slots 1) 3
    src := byteAt slots 2 % 32, dst := byteAt slots 3 % 32, tag := fieldAt slots 4 2, len := byteAt slots 6 + 1
    status := byteAt slots 7, addr := fieldAt slots 8 8 % 2 ^ 52, slots := slots }

/-- Does a packet carry data slots (R303)? -/
def Rx.bearing (x : Rx) : Bool := x.op == 2 || x.op == 3 || x.op == 4 || (x.op == 0x11 && x.status == 0)
/-- Is it a request? -/
def Rx.request (x : Rx) : Bool := x.op == 1 || x.op == 2 || x.op == 3
/-- Data bytes of a packet. -/
def Rx.data (x : Rx) : Bytes := padTo x.len (x.slots.drop 16)

/-- Does the packet meet the conditions of R303 and R319? -/
def Rx.ok (x : Rx) : Bool :=
  let block := x.addr / 256 == (x.addr + x.len - 1) / 256
  match x.op with
  | 1 => decide (x.vc ≤ 1) && block
  | 2 => decide (x.vc ≤ 1) && block && decide (x.len ≤ 192) && (!x.be || (x.len == 64 && x.addr % 64 == 0))
  | 3 =>
    decide (x.vc ≤ 1) && block && decide (x.len ≤ 192) && x.acc != 0 && !x.be && x.addr % accWidth x.acc == 0 && x.len % accWidth x.acc == 0
  | 4 => x.vc == 3 && x.len == 32 && x.status == 0x10
  | 0x11 => x.vc == 2
  | 0x12 => x.vc == 2
  | 0x14 => x.vc == 2
  | _ => false

/-- The packets of a decrypted body of 14 slots (R301). -/
def packetsOf (body : Bytes) : List Rx :=
  let first := rxOf (body.take 16)
  if first.bearing then
    let n := if first.op = 4 then 2 else ceilDiv first.len 16
    let last := body.drop 208
    let p := { first with slots := body.take (16 + 16 * n), mask := if first.be then fieldAt last 0 8 else 0 }
    if first.be || byteAt last 0 = 0 then [p] else [p, rxOf (last.take 16)]
  else (((List.range 14).map fun j => rxOf (slice body (16 * j) 16)).filter fun x => x.op != 0)

/-- Receive-buffer slots of a packet are freed (R305). -/
def State.freeSlots (s : State) (m : Nat) (x : Rx) : State :=
  let n := x.slots.length / 16 + b2n x.be
  s.modMod (4 + m) fun y =>
    match x.vc with
    | 0 => { y with fr0 := y.fr0 + n }
    | 1 => { y with fr1 := y.fr1 + n }
    | 2 => { y with fr2 := y.fr2 + n }
    | _ => { y with fr3 := y.fr3 + n }

/-! ## Responses of this die -/

/-- The header slot of a response to packet x with a status (R302). -/
def State.answer (s : State) (x : Rx) (status : Nat) : Bytes :=
  let op := if x.op = 1 then 0x11 else if x.op = 4 then 0x14 else 0x12
  kppHeader op 2 0 false s.dieId x.src x.tag x.len status x.addr

/-- Answers UNAVAILABLE or NO_ROUTE in a RESP flit (R317). -/
def State.refuseKpp (s : State) (p : Nat) (x : Rx) (status : Nat) : State := s.sendResponse p x.src x.tag (s.answer x status) true

/-- Answers in a PAYLOAD flit. -/
def State.replyKpp (s : State) (p : Nat) (x : Rx) (status : Nat) : State := s.sendResponse p x.src x.tag (s.answer x status) false

/-! ## Requests served for other dies (R314) -/

/-- Serves a request at its destination (R30, R32, R314, R384). -/
def State.serveKpp (s : State) (m p : Nat) (x : Rx) : State :=
  let write := x.op != 1
  match s.kppIn p x.addr x.len write with
  | .error c =>
    let s1 := (s.violate 3 p c x.addr write (some p)).modMod (4 + m) fun y => { y with deniedSent := satAdd 16 y.deniedSent 1 }
    s1.replyKpp p x 1
  | .ok pa =>
    let id := s.links.next
    let item : KppItem := { id := id, module := m, part := p, op := x.op, src := x.src, tag := x.tag, len := x.len, addr := x.addr }
    let s1 := { s with links := { s.links with kpp := s.links.kpp ++ [item], next := id + 1 } }
    let kind := if x.op = 1 then ReqKind.read else if x.op = 2 then .write else .acc x.acc
    (s1.count p 3 x.len).send
      { part := p, unit := 69, purpose := .kppServe id, path := .fabric 0, kind := kind, pa := pa, len := x.len, mask := x.mask
        data := if write then x.data else [], wire := if write then x.data else [] }

/-- The die-fabric access of a served request has ended with a KPP status and data (R179, R304, R314). -/
def State.kppDone (s : State) (id status : Nat) (data : Bytes) : State :=
  match s.links.kpp.find? fun i => i.id == id with
  | none => s
  | some i =>
    let s1 := { s with links := { s.links with kpp := s.links.kpp.filter fun k => k.id != id } }
    let op := if i.op = 1 then 0x11 else 0x12
    let h := kppHeader op 2 0 false s.dieId i.src i.tag i.len status i.addr
    s1.sendResponse i.part i.src i.tag (h ++ if i.op = 1 && status = 0 then kppData data else []) false

/-- The die-fabric write of an inbound KPP write is acknowledged (R143, R179). -/
def State.inboundAcked (s : State) (q : Req) (res : WrRes) : State :=
  match q.purpose with
  | .kppServe id =>
    if q.kind == .read || (q.isAcc && res == .ok) then s
    else
      let c := ackCode res
      ((s.performAdds q res).finishReq q).kppDone id (if c = 0 then 0 else if c = 9 then 4 else 5) []
  | _ => s

/-- The die-fabric read of an inbound KPP read returns. -/
def State.kppRead (s : State) (q : Req) (id : Nat) (res : RdRes) : State :=
  match res with
  | .ok b => (s.finishReq q).kppDone id 0 (padTo q.len b)
  | .poison _ => (s.finishReq q).kppDone id 4 []
  | .error => (s.finishReq q).kppDone id 5 []

/-! ## Messages (R269 to R271, R319) -/

/-- Accepts or drops a replica report (R271, R272). -/
def State.takeReport (s : State) (p : Nat) (b : Bytes) : State :=
  let set := byteAt b 1 % 8
  let die := byteAt b 2 % 32
  let region := fieldAt b 4 4
  let x := Tab.at s.rk.sets (8 * p + set)
  let count (f : Reck → Reck) (s : State) : State := { s with rk := f s.rk }
  let drop : State → State := count fun r => { r with replDropped := Tab.upd r.replDropped p fun n => satAdd 16 n 1 }
  let member := decide (4 ≤ die) && bit x.mask (die - 4)
  if byteAt b 0 = 1 && (s.part p).st == 2 && x.valid && !x.member && member && decide (region < ceilDiv (wcOff x.fmt x.mx x.n) 2097152) then
    let (ok, s1) := s.placeRepair p set region (2 ^ (die - 4)) (fieldAt b 8 8)
    let s2 := s1.fabEvent 0x10 none (some p) (fld set 56 3 + fld die 48 5 + region)
    if ok then count (fun r => { r with replAccepted := Tab.upd r.replAccepted p fun n => satAdd 16 n 1 }) s2
    else (drop s2).report { source := 4, cls := 1, unit := some 88, part := some p, detail := 2 }
  else drop s

/-- Logs a lost message (R319). -/
def State.lostMessage (s : State) (p dst tag : Nat) : State := s.fabEvent 0x12 none (some p) (fld dst 48 5 + tag)

/-- Sends a MESSAGE of 32 bytes to a die; none when no tag or no tokens are free (R311, R315, R319, R357). -/
def State.sendMessage (s : State) (p dst : Nat) (payload : Bytes) : Option State :=
  match s.freeTag with
  | none => none
  | some (t, s1) =>
    match s1.pickMod p (requestPort s.dieId dst) (foldTag t) with
    | none => some (s1.lostMessage p dst t)
    | some m =>
      if 1 ≤ s.level (68 + m) || !s.tokensOk p 2 48 then none
      else
        let e : PeerTag := { live := true, module := m, dst := dst, part := p, start := s.clk.fab }
        let s2 := { s1 with links := { s1.links with tags := Tab.put s1.links.tags t e } }
        let h := kppHeader 4 3 0 false s.dieId dst t 32 0x10 0
        some ((s2.takeTokens p 2 48).queuePacket m { part := p, vc := 3, slots := h ++ padTo 32 payload })

/-- The 32 bytes of a replica report (R270). -/
def State.reportBytes (s : State) (r : Report) : Bytes :=
  leBytes 1 1 ++ leBytes 1 r.set ++ leBytes 1 s.dieId ++ zeros 1 ++ leBytes 4 r.drift.region ++ leBytes 8 r.drift.expected ++
    leBytes 8 r.drift.observed ++ zeros 8

/-- Sends partition p's oldest replica report, once the completion entry of its job has been written (R269). -/
def State.sendReport (s : State) (p : Nat) : State :=
  match s.rk.reports.find? fun r => r.part == p with
  | none => s
  | some r =>
    if (s.work r.ring r.pos).isSome || !s.rkMayIssue p then s
    else
      let s1 := { s with rk := { s.rk with reports := s.rk.reports.erase r, sent := Tab.upd s.rk.sent p fun n => satAdd 16 n 1 } }
      match s1.sendMessage p r.die (s.reportBytes r) with
      | some s2 => s2
      | none => s

/-- A MESSAGE has had no answer within its limit (R319). -/
def State.messageTimeout (s : State) (t : Nat) : State :=
  let e := s.tag t
  if e.live && e.req.isNone && decide (e.start + 2 ^ 24 ≤ s.clk.fab) then (s.freeTagOf t).lostMessage e.part e.dst t else s

/-! ## Responses to this die (R304, R315) -/

/-- Status of R151 for a KPP status. -/
def kppStatus : Nat → Nat
  | 0 => 0
  | 1 => 3
  | 2 => 0x0B
  | 4 => 9
  | _ => 8

/-- A response of another die reaches this die; `exact` compares SRC_DIE too (R315). -/
def State.takeResponse (s : State) (x : Rx) (exact : Bool) : State :=
  let e := s.tag x.tag
  if !e.live || (exact && e.dst != x.src) then s
  else match e.req with
    | none => if x.op = 0x14 then (if x.status = 0 then s.freeTagOf x.tag else (s.freeTagOf x.tag).lostMessage e.part e.dst x.tag) else s
    | some id => match s.req id with
      | none => s.freeTagOf x.tag
      | some q =>
        if (q.kind == .read) != (x.op == 0x11) || x.op == 0x14 then s
        else s.endPeer x.tag (kppStatus x.status) false (if x.bearing then padTo q.len x.data else [])

/-! ## Delivery and forwarding (R313, R383) -/

/-- Forwards a packet on its next hop, or answers or drops it (R313). -/
def State.forward (s : State) (m p : Nat) (x : Rx) (resp : Bool) : State :=
  let isReq := x.request || x.op == 4
  let port := if isReq then requestPort s.dieId x.dst else responsePort s.dieId x.dst
  let h := if x.request then foldPa x.addr else foldTag x.tag
  match (if (s.part p).st = 2 && port != m / 5 then s.pickMod p port h else none) with
  | some n => s.queuePacket n { part := p, vc := x.vc, own := false, slots := x.slots, resp := resp, be := if x.be then some x.mask else none }
  | none =>
    if x.request then
      (s.modMod (4 + m) fun y => { y with noRouteSent := satAdd 16 y.noRouteSent 1 }).refuseKpp p x 3
    else s

/-- Handles one packet of partition p that arrived on PL[m] (R303, R313, R314, R319, R383). -/
def State.deliver (s0 : State) (m p : Nat) (x : Rx) : State :=
  let s := s0.freeSlots m x
  let st := (s.part p).st
  if st = 1 || st = 3 then
    if x.request then s.refuseKpp p x 2
    else s.modPart p fun y => { y with inboundDrops := satAdd 16 y.inboundDrops 1 }
  else if !x.ok then
    let s1 := s.modMod (4 + m) fun y => { y with malformed := satAdd 16 y.malformed 1 }
    if x.request || x.op = 4 then s1.replyKpp p x 6 else s1
  else if x.dst ≠ s.dieId then s.forward m p x false
  else if x.request then s.serveKpp m p x
  else if x.op = 4 then (s.takeReport p x.data).replyKpp p x 0
  else s.takeResponse x true

/-! ## Flits -/

/-- Takes a sequenced flit that is in order: it is acknowledged (R308, R309). -/
def State.acceptSeq (s : State) (m : Nat) (b : Bytes) : State :=
  (s.takeAck m b).modMod (4 + m) fun x =>
    { x with rxNext := (x.rxNext + 1) % 1024, rxAny := true, nakFor := none, ackDue := true, idleFrom := s.clk.mgt }

/-- Is a sequenced flit of a type good and in order on PL[m]? -/
def State.inOrder (s : State) (m : Nat) (b : Bytes) : Bool :=
  (s.mod (4 + m)).st == 5 && flitGood b && sequenced b && fSeq b == (s.mod (4 + m)).rxNext

/-- A PAYLOAD flit arrives in sequence with a good CRC (R307, R308, R384). -/
def State.payloadReceived (s : State) (m : Nat) (b : Bytes) : State :=
  if !s.inOrder m b || fType b != 1 then s
  else
    let p := fPart b
    let k := 2 * p + fKgen b
    let x := s.mod (4 + m)
    let iv := payloadIv x.partnerDie x.partnerMod (Tab.at x.ivRx k)
    let s1 := (s.acceptSeq m b).modMod (4 + m) fun x =>
      { x with flitsRx := wrapAdd 64 x.flitsRx 1, ivRx := Tab.put x.ivRx k (wrapAdd 80 (Tab.at x.ivRx k) 1) }
    let slot := (s.part p).slot (fKgen b)
    let plain := if slot.st == .empty then none else Config.gcmOpen slot.peerKey iv (leBytes 1 (hdr b >>> 56)) (slice b 8 240)
    let fail (f : Module → Module) (detail : Nat) : State :=
      (s1.modMod (4 + m) f).report { source := 8, cls := 1, unit := some (68 + m), part := s.moduleOwner m, detail := detail }
    let s2 :=
      if s.moduleOwner m ≠ some p then fail (fun x => { x with partMismatch := satAdd 16 x.partMismatch 1 }) 0x21
      else match plain with
        | none => fail (fun x => { x with secFail := satAdd 16 x.secFail 1 }) 0x20
        | some d =>
          let live := (s.part p).st == 2
          (if live then s1.count p 2 256 else s1).each (packetsOf (padTo 224 d)) fun s x => s.deliver m p x
    s2.sendIdle m 5

/-- A RESP flit arrives in sequence (R315, R317, R383). -/
def State.respReceived (s : State) (m : Nat) (b : Bytes) : State :=
  if !s.inOrder m b || ctlType b != 3 then s
  else
    let p := fPart b
    let l := ((List.range 14).map fun j => rxOf (slotOf b (j + 1))).filter fun x => x.op != 0
    let one (s : State) (x : Rx) : State :=
      let s := s.freeSlots m x
      let st := (s.part p).st
      if st = 1 || st = 3 then s.modPart p fun y => { y with inboundDrops := satAdd 16 y.inboundDrops 1 }
      else if x.dst ≠ s.dieId then s.forward m p x true
      else s.takeResponse x false
    ((s.acceptSeq m b).each l one).sendIdle m 5

end Sys2Proof.Machine
end

