-- ==== Sys2Proof/Machine/Capo.lean ====
section
/-! DEFINITION. The PCI Express port's errors, its containment freeze Capo, its resets and its link power requests (R322 to R324,
R336, R339 to R344, R349). -/

namespace Sys2Proof.Machine

/-- Changes the port. -/
def State.modPx (s : State) (f : Px → Px) : State := { s with px := f s.px }
/-- Changes function f of the endpoint. -/
def State.modFn (s : State) (f : Nat) (g : PxFn → PxFn) : State := s.modPx fun x => { x with fns := Tab.upd x.fns f g }
/-- A TLP passes now (R323). -/
def State.tlp (s : State) : State := s.modPx fun x => { x with tlpAt := s.clk.px, l1 := false }

/-! ## Capo (R341 to R344) -/

/-- Would a release be refused now (R343)? -/
def Px.blocked (x : Px) : Bool :=
  x.frozen && ((x.cause == 1 || (x.cause == 2 && x.rootPort)) && bit x.uncStatus x.triggerErr || x.cause == 6 && bit x.rootErr 6)

/-- CAPO_STATUS. -/
def Px.capoStatus (x : Px) : Nat :=
  fld x.triggerErr 8 8 + fld x.cause 4 4 + fld (b2n x.linkUp) 3 1 + fld (b2n x.blocked) 2 1 + b2n x.frozen

/-- Place of a cause in the order of precedence 2, 6, 1, 3, 5, 4. -/
def capoRank : Nat → Nat
  | 2 => 0
  | 6 => 1
  | 1 => 2
  | 3 => 3
  | 5 => 4
  | _ => 5

/-- Inbound reads and doorbells taken and not completed end when Capo freezes the port; configuration requests and the writes already
passed to the die fabric go on (R342). -/
def State.abortReads (s : State) : State :=
  let ids : List Nat := s.px.inbound.filterMap fun i => match i with
    | .reading _ _ r => some r
    | _ => none
  let wait := s.px.inbound.any fun i => match i with
    | .posted _ => true
    | _ => false
  let s1 := { s with reqs := s.reqs.map fun (r : Req) => if ids.contains r.id then { r with purpose := .dropped } else r }
  let discard (s : State) : State := s.modPx fun x => { x with frozenDiscards := satAdd 16 x.frozenDiscards 1 }
  let s2 := s1.each s.px.inbound fun s i => match i with
    | .posted _ => s
    | .answered txn _ status pois true data => if wait then s else s.emit (.completion false txn status pois data)
    | .doorbell _ _ _ _ => discard s
    | .read txn _ _ _ => discard (s.emit (.completion false txn 4 false []))
    | .reading txn _ _ => discard (s.emit (.completion false txn 4 false []))
    | .answered txn _ _ _ false _ => discard (s.emit (.completion false txn 4 false []))
  s2.modPx fun x => { x with inbound := x.inbound.filter fun i => match i with
    | .posted _ => true
    | .answered _ _ _ _ c _ => c && wait
    | _ => false }

/-- In root-port mode a frozen link is held in Disabled, except for CAUSE 5 (R342). -/
def State.holdLink (s : State) : State :=
  if s.px.rootPort && s.px.cause != 5 then s.modPx fun x => { x with linkUp := false, linkWidth := 0, linkRate := 0, wasDown := true } else s

/-- A trigger of Capo with its CAUSE and TRIGGER_ERR (R341, R342, R344). -/
def State.capoTrigger (s : State) (cause err : Nat) : State :=
  let x := s.px
  let s1 := s.modPx fun y => { y with triggers := satAdd 16 y.triggers 1, trigAt := some s.clk.px }
  if x.frozen then
    let s2 := if x.releaseAt.isSome then
        s1.modPx fun y => { y with releaseAt := none, refusedReleases := satAdd 16 y.refusedReleases 1, refusedAt := some s.clk.px }
      else s1
    if x.frozenAt = some s.clk.px && decide (capoRank cause < capoRank x.cause) then
      (s2.modPx fun y => { y with cause := cause, triggerErr := err }).holdLink
    else s2
  else
    let s2 := (s1.modPx fun y => { y with frozen := true, cause := cause, triggerErr := err, frozenAt := some s.clk.px }).holdLink
    (s2.abortReads).event 0x42 4 s.clk.px none none (bits s2.px.capoStatus 0 16)

/-- A write of RELEASE on either path (R343, R344). -/
def State.capoRelease (s : State) : State :=
  let x := s.px
  let refuse := s.modPx fun y => { y with refusedReleases := satAdd 16 y.refusedReleases 1, refusedAt := some s.clk.px }
  if !x.frozen || x.releaseAt.isSome || x.refusedAt == some s.clk.px then s
  else if x.blocked || x.trigAt == some s.clk.px then refuse
  else s.modPx fun y => { y with releaseAt := some s.clk.px }

/-- Sends the pending message of entry k of the MSI-X tables, if nothing masks it any longer (R336). -/
def State.sendPending (s : State) (k : Nat) : State :=
  let o := k / 512
  let e := Tab.at s.px.msix k
  let f := s.fn o
  if e.pending && !e.masked && !f.msixMask && s.fnExists o && f.msixEnable && f.busMaster && !s.px.frozen then
    let s1 := s.modPx fun x => { x with msix := Tab.put x.msix k { e with pending := false } }
    s1.tlp.emit (.msix e.addr e.data)
  else s

/-- Sends every pending message that nothing holds. -/
def State.sendAllPending (s : State) : State := s.each (Tab.ixs s.px.msix) State.sendPending

/-- An accepted release takes effect in the next CK_PX cycle (R343). -/
def State.releaseDue (s : State) : State :=
  match s.px.releaseAt with
  | some c =>
    if c < s.clk.px then (s.modPx fun x => { x with frozen := false, releaseAt := none }).sendAllPending else s
  | none => s

/-! ## AER (R339, R340) -/

/-- Logs correctable error `b` (R339, R340). -/
def State.aerCorrectable (s : State) (b : Nat) : State :=
  let s1 := s.modPx fun x => { x with corStatus := x.corStatus ||| 2 ^ b }
  if bit s.px.corMask b then s1 else s1.report { source := 9, cls := 0, detail := b }

/-- Logs uncorrectable error `b` with the header of its TLP, and reports it when it is not masked (R339, R340). -/
def State.aerUncorrectable (s : State) (b : Nat) (header : Bytes) : State :=
  let s1 := s.modPx fun x => { x with uncStatus := x.uncStatus ||| 2 ^ b }
  if bit s.px.uncMask b then s1
  else
    let s2 := match s.px.firstErr with
      | none => s1.modPx fun x => { x with firstErr := some b, headerLog := header }
      | some _ => s1.aerCorrectable 15
    s2.report { source := 9, cls := if bit s.px.uncSev b then 2 else 1, detail := b }

/-- An unmasked uncorrectable error whose bit is set in CAPO_TRIGGER_MASK triggers Capo (R341). -/
def State.aerCapo (s : State) (b : Nat) : State :=
  if !bit s.px.uncMask b && bit s.px.capoMask b then s.capoTrigger 1 b else s

/-- Detects uncorrectable error `b`. -/
def State.aerError (s : State) (b : Nat) (header : Bytes) : State := (s.aerUncorrectable b header).aerCapo b

/-- The bits of the AER table of R339. -/
def corBits : List Nat := [0, 8, 12, 13, 14, 15]
def uncBits : List Nat := [4, 5, 12, 13, 14, 15, 16, 17, 18, 20, 22]

/-- An error of R339 is detected. -/
def State.aerDetected (s : State) (correctable : Bool) (b : Nat) (header : Bytes) : State :=
  if correctable then (if corBits.contains b then s.aerCorrectable b else s)
  else if uncBits.contains b then s.aerError b header else s

/-- An Unsupported Request is answered and logged (R338, R339). -/
def State.unsupported (s : State) (header : Bytes) : State :=
  (s.modPx fun x => { x with unsupported := satAdd 16 x.unsupported 1 }).aerError 20 header

/-! ## Resets and the link -/

/-- A port reset: every configuration register but Capo's (R324, R344). -/
def State.resetPort (s : State) : State :=
  s.modPx fun x =>
    { x with uncStatus := 0, uncMask := 0x00400000, uncSev := 0x00462030, corStatus := 0, corMask := 0x0000E000, firstErr := none
             headerLog := [], rootErr := 0, fns := [], vfEnable := false, vfMemSpace := false, numVfs := 0, vfBar0 := 0, vfBar2 := 0
             vfBar4 := 0, bar2Log2 := 36, winMisaligned := s.pt.pfWinBase % 2 ^ 36 != 0, msix := [], l1Enable := false
             linkDisable := false, rootSrc := 0 }

/-- A reset of VF p's configuration space (R334). -/
def State.resetVf (s : State) (p : Nat) : State :=
  s.modPx fun x => { x with fns := Tab.put x.fns p default, msix := Tab.keep x.msix fun k => k / 512 != p }

/-- The data link layer goes down (R324, R339, R341). -/
def State.dlDown (s : State) : State :=
  if !s.px.linkUp then s
  else
    let byDisable := s.px.linkDisable
    let s1 := s.modPx fun x => { x with linkUp := false, linkWidth := 0, linkRate := 0, wasDown := true, l0p := 0, l1 := false }
    if s.px.rootPort then
      if byDisable then s1 else ((s1.aerUncorrectable 5 []).capoTrigger 2 5).aerCapo 5
    else
      let s2 := s1.resetPort
      if byDisable then s2 else s2.capoTrigger 2 0xFF

/-- The link trains and reaches DL_Up (R322, R341); `insert` is the insertion-hold case. -/
def State.dlUp (s : State) (width rate : Nat) (insert : Bool) : State :=
  let hold := s.px.rootPort && s.px.wasDown && s.px.insertHold
  if s.px.linkUp || (s.px.rootPort && s.px.frozen) || hold != insert then s
  else
    let s1 := (s.modPx fun x => { x with linkUp := true, linkWidth := width, linkRate := rate, wasDown := false }).tlp
    if hold then s1.capoTrigger 5 0 else s1

/-- Requests L0p ×4 after 8,192 idle cycles (R323). -/
def State.l0pEnter (s : State) : State :=
  if s.px.linkUp && s.px.l0p != 2 && decide (s.px.tlpAt + 8192 ≤ s.clk.px) && s.px.linkWidth == 16 then
    (s.modPx fun x => { x with l0p := 2 }).emit (.portPower 0)
  else s

/-- A TLP or an MSI-X message is queued: requests ×16 again (R323). -/
def State.l0pLeave (s : State) : State :=
  if s.px.linkUp && s.px.l0p != 0 then (s.tlp.modPx fun x => { x with l0p := 0 }).emit (.portPower 1) else s

/-- Requests ASPM L1 (R323). -/
def State.l1Enter (s : State) : State :=
  let idle := decide (s.px.tlpAt + 16384 ≤ s.clk.px)
  let pend := s.px.msix.any fun e => e.2.pending
  if s.px.linkUp && s.px.l1Enable && !s.px.l1 && idle && !pend && s.px.inbound.isEmpty && s.px.rpNow.isNone then
    (s.modPx fun x => { x with l1 := true }).emit (.portPower 2)
  else s

/-- An ERR message arrives from below: 0 ERR_COR, 1 ERR_NONFATAL, 2 ERR_FATAL (R349). -/
def State.errMessage (s : State) (rid kind : Nat) : State :=
  if !s.px.rootPort then s
  else if s.px.frozen then s.modPx fun x => { x with frozenDiscards := satAdd 16 x.frozenDiscards 1 }
  else
    let bits_ := if kind = 0 then (if bit s.px.rootErr 0 then 2 else 1) else
      (if bit s.px.rootErr 2 then 8 else 4 + (if kind = 2 then 16 else 0)) ||| (if kind = 1 then 32 else 64)
    let part := (s.px.assigns.find? fun a => decide (a.first ≤ rid) && decide (rid ≤ a.last)).map fun a => a.part
    let src := if kind = 0 then (if bit s.px.rootErr 0 then s.px.rootSrc else setBits s.px.rootSrc 0 16 rid)
      else if bit s.px.rootErr 2 then s.px.rootSrc else setBits s.px.rootSrc 16 16 rid
    let s1 := (s.tlp.modPx fun x => { x with rootErr := x.rootErr ||| bits_, rootSrc := src }).event 0x41 4 s.clk.px none part (fld kind 16 2 + fld rid 0 16)
    if kind = 2 then s1.capoTrigger 6 0 else s1

end Sys2Proof.Machine
end

