-- ==== Sys2Proof/Machine/Err.lean ====
section
/-! DEFINITION. The error collector: latching, escalation, acknowledgement, recovery, fault injection and the reconcile pass (R417 to
R436). -/

namespace Sys2Proof.Machine

/-- Reset value of a fatal severity (R423). -/
def sevReset (src : Nat) : Nat := if src = 11 || src = 14 || src = 15 then 4 else 1

/-- Is a class of a source masked? -/
def Source.masked (x : Source) (k : Nat) : Bool := if k = 0 then x.m0 else if k = 1 then x.m1 else x.m2
/-- Status bit of a class. -/
def Source.status (x : Source) (k : Nat) : Bool := if k = 0 then x.s0 else if k = 1 then x.s1 else x.s2
/-- Has the source an unacknowledged unmasked non-fatal or fatal bit (R420)? -/
def Source.unacked (x : Source) : Bool := (x.s1 && !x.m1) || (x.s2 && !x.m2)
/-- Sets the status bit of a class. -/
def Source.setStatus (x : Source) (k : Nat) : Source :=
  if k = 0 then { x with s0 := true } else if k = 1 then { x with s1 := true } else { x with s2 := true }
/-- Severity of a class as EC acts on it (R423). -/
def Source.severity (x : Source) (src k : Nat) : Nat := min 4 (if k = 2 then x.sevFatal.getD (sevReset src) else x.sevNon)
/-- Grace length (R424). -/
def Source.graceLen (x : Source) : Nat := 2 ^ (if 16 ≤ x.graceLog2 && x.graceLog2 ≤ 32 then x.graceLog2 else 26)
/-- Quiet length (R431). -/
def Ec.quietLen (e : Ec) : Nat := 2 ^ (if 20 ≤ e.quietLog2 && e.quietLog2 ≤ 36 then e.quietLog2 else 28)

/-- Is some source at level 4 (R427)? -/
def State.stopped (s : State) : Bool := s.ec.sources.any fun e => e.2.level == 4
/-- Is FAULT_N asserted (R434)? -/
def State.faultN (s : State) : Bool := s.ec.sources.any fun e => e.2.unacked || decide (1 ≤ e.2.level)

/-- The partition that owns a unit of R415. -/
def State.unitOwner (s : State) (u : Nat) : Option Nat :=
  if u < 64 then s.groupOwner (u / 4)
  else if 68 ≤ u && u < 88 then s.moduleOwner (u - 68)
  else if 96 ≤ u && u < 112 then some (u - 96)
  else none

/-- The partition an error is attributed to (R418). -/
def State.attributed (s : State) (e : ErrorEv) : Option Nat :=
  match e.part, e.unit with
  | some p, _ => some p
  | none, some u => s.unitOwner u
  | none, none => none

/-- The units and partition units an error puts into a target set (R422). -/
def State.targetsOf (s : State) (e : ErrorEv) : List Nat :=
  let units := (e.unit.toList).filter fun u => decide (u ≤ 88)
  let owner := (e.unit.bind s.unitOwner).toList
  (units ++ (e.part.toList ++ owner).map fun p => 96 + p).dedup

/-- DATA of an ERROR event (R436). -/
def errorData (e : ErrorEv) (kind level : Nat) (second : Bool) : Nat :=
  fld e.detail 24 8 + fld (b2n e.injected) 15 1 + fld kind 12 3 + fld (b2n second) 11 1 + fld level 8 3 + fld e.cls 6 2 + fld e.source 0 4

/-- Logs an ERROR event with the source's level after it (R436). -/
def State.errorEvent (s : State) (e : ErrorEv) (kind level : Nat) (second : Bool) : State :=
  s.mgtEvent 0x60 e.unit (s.attributed e) (errorData e kind level second)

/-- EC quarantines unit u for a source; a fused unit never changes, and a quarantine of the same cause that nobody has released stays
as it is (R416, R426, R447). -/
def State.ecQuarantine (s : State) (src u cause : Nat) : State :=
  let w := s.unit u
  let noted := s.modUnit u fun w => { w with sources := w.sources ||| 2 ^ src }
  if (s.hwCause u).2 = 1 then s
  else if w.qHw && w.cause == cause && !w.qHwRel && !w.qMcRel then noted
  else noted.quarantine u cause

/-- Level 1: isolates the units of a list (R426). -/
def State.isolate (s : State) (src : Nat) (l : List Nat) : State :=
  s.each (l.filter fun u => decide (u ≤ 88)) fun s u => s.ecQuarantine src u 2

/-- Level 2: freezes the partitions of a list (R426). -/
def State.freeze (s : State) (src : Nat) (l : List Nat) : State :=
  s.each (l.filter fun u => decide (96 ≤ u)) fun s u =>
    (s.ecQuarantine src u 3).modPart (u - 96) fun x => { x with frozen := true }

/-- The actions of level L on a list of targets (R426). -/
def State.levelAction (s : State) (src : Nat) (l : List Nat) (level : Nat) : State :=
  match level with
  | 1 => s.isolate src l
  | 2 => s.freeze src l
  | 3 => s.capoTrigger 3 0
  | _ => s.each (List.range 89 ++ (List.range 16).map fun p => 96 + p) fun s u => s.ecQuarantine src u 2

/-- Raises a source to a level and applies the actions of every level up to it. A step of R425 is counted and logged, and restarts the
grace timer (R424 to R426, R436). -/
def State.raiseTo (s : State) (e : ErrorEv) (level : Nat) (step : Bool) : State :=
  let src := e.source
  let s1 := s.modSource src fun x => { x with level := level }
  let s2 := if step then
      let s2 := s1.modSource src fun x => { x with grace := some s.clk.mgt, stepAt := some s.clk.mgt }
      State.errorEvent { s2 with ec := { s2.ec with steps := satAdd 32 s2.ec.steps 1 } } e 1 level false
    else s1
  s2.each ((List.range level).map (· + 1)) fun s l => s.levelAction src (s.source src).targets l

/-- An unmasked non-fatal or fatal error is latched (R420 to R426). -/
def State.latchUnmasked (s : State) (e : ErrorEv) : State :=
  let src := e.source
  let x := s.source src
  let second := x.status e.cls
  let first := !x.unacked
  let mine := s.targetsOf e
  let s1 := s.modSource src fun x =>
    let y := { (x.setStatus e.cls) with uncorrected := satAdd 16 x.uncorrected 1, targets := (x.targets ++ mine).dedup }
    if first then { y with grace := some s.clk.mgt, quiet := none, record := some { e with part := s.attributed e }, recordCycle := s.clk.mgt
                           recordSeq := s.mc.seq } else y
  let step := second && x.stepAt != some s.clk.mgt
  let level := min 4 (max (x.severity src e.cls) (if step then x.level + 1 else x.level))
  let s2 := s1.errorEvent e 0 (max x.level level) second
  if x.level < level then s2.raiseTo e level step
  else
    if 1 ≤ x.level then
      let s3 := s2.isolate src mine
      if 2 ≤ x.level then s3.freeze src mine else s3
    else s2

/-- EC latches an error (R419 to R426). -/
def State.latch (s : State) (e : ErrorEv) : State :=
  let x := s.source e.source
  if e.cls = 0 then
    let s1 := s.modSource e.source fun x => { (x.setStatus 0) with corrected := satAdd 16 x.corrected 1 }
    if x.s0 || x.m0 then s1 else s1.errorEvent e 0 x.level false
  else if x.masked e.cls then
    (s.modSource e.source fun x => { (x.setStatus e.cls) with uncorrected := satAdd 16 x.uncorrected 1 }).errorEvent e 4 x.level false
  else s.latchUnmasked e

/-- EC latches an error from a line; one its unit has reported in this model leaves the line (R419). -/
def State.latchLine (s : State) (e : ErrorEv) : State := ({ s with ec := { s.ec with lines := s.ec.lines.erase e } }).latch e

/-- The error a source's record names, for its later events. -/
def State.recordOf (s : State) (src : Nat) : ErrorEv := (s.source src).record.getD { source := src, cls := 1 }

/-- The grace timer of a source expires (R424, R425). -/
def State.graceExpiry (s : State) (src : Nat) : State :=
  let x := s.source src
  match x.grace with
  | some t =>
    if x.unacked && decide (t + x.graceLen ≤ s.clk.mgt) && decide (x.level < 4) && x.stepAt != some s.clk.mgt then
      s.raiseTo (s.recordOf src) (x.level + 1) true
    else s
  | none => s

/-- A source has been acknowledged (R430). -/
def State.acknowledge (s : State) (src : Nat) : State :=
  let e := s.recordOf src
  let s1 := s.modSource src fun x => { x with grace := none, targets := [], quiet := some s.clk.mgt }
  let s2 :=
    if s1.stopped then s1
    else
      let held := s1.ec.sources.flatMap fun x => x.2.targets
      s1.each ((Tab.ixs s1.units).filter fun u => !held.contains u) fun s u => s.clearQuarantine u
  s2.errorEvent e 2 (s.source src).level false

/-- Changes a source's status bits or masks; the source may be acknowledged by it, or have errors to acknowledge again (R420, R424,
R431). -/
def State.changeSource (s : State) (src : Nat) (f : Source → Source) : State :=
  let was := (s.source src).unacked
  let s1 := s.modSource src f
  let now := (s1.source src).unacked
  if was && !now then s1.acknowledge src
  else if !was && now then s1.modSource src fun x => { x with grace := some s.clk.mgt, quiet := none }
  else s1

/-- A write of 1 to EC_STATUS bits (R420). -/
def State.clearStatus (s : State) (w : Nat) : State :=
  s.each (List.range 16) fun s src =>
    if bits w (3 * src) 3 = 0 then s
    else s.changeSource src fun x =>
      { x with s0 := x.s0 && !bit w (3 * src), s1 := x.s1 && !bit w (3 * src + 1), s2 := x.s2 && !bit w (3 * src + 2) }

/-- The MC releases the units a recovered source quarantined, unless the operator holds them (R432). -/
def State.releaseUnits (s : State) (src : Nat) : State :=
  s.each ((Tab.ixs s.units).filter fun u => bit (s.unit u).sources src) fun s u =>
    let s1 := s.modUnit u fun w => { w with sources := setBits w.sources src 1 0 }
    let w := s1.unit u
    if w.operator then s1 else ((s1.mcWrite u 0 w.epoch).getD s1).modUnit u fun w => { w with intended := 0 }

/-- The quiet timer of a source expires (R431, R432). -/
def State.quietExpiry (s : State) (src : Nat) : State :=
  let x := s.source src
  match x.quiet with
  | some t =>
    if x.unacked || !decide (t + s.ec.quietLen ≤ s.clk.mgt) then s
    else if x.level = 0 || x.level = 4 then s.modSource src fun x => { x with quiet := none }
    else
      let s1 := s.modSource src fun x => { x with quiet := none, level := 0, recoveries := satAdd 16 x.recoveries 1 }
      let s2 := { s1 with ec := { s1.ec with recoveries := satAdd 32 s1.ec.recoveries 1 } }
      (s2.errorEvent (s.recordOf src) 3 0 false).releaseUnits src
  | none => s

/-- A write to EC_INJECT (R435). -/
def State.inject (s : State) (w : Nat) : State :=
  if !s.ec.testMode || !bit w 0 || bits w 8 2 = 3 then s
  else s.latch { source := bits w 12 4, cls := bits w 8 2, unit := if bits w 16 16 = 0xFFFF then none else some (bits w 16 16)
                 part := if bit w 36 then some (bits w 32 4) else none, detail := bits w 40 8, injected := true }

/-- EC toggles ALIVE_OUT (R433). -/
def State.aliveToggle (s : State) : State :=
  if s.stopped || !decide (s.ec.aliveAt + 2 ^ 19 ≤ s.clk.mgt) then s
  else { s with ec := { s.ec with alive := !s.ec.alive, aliveAt := s.clk.mgt } }

/-- The MC's view of unit u, in the layout of the hardware word (R417). -/
def UnitWord.view (w : UnitWord) : Nat :=
  packUnit w.viewEpoch false false false w.viewQ w.viewCause w.intended w.viewHw (if w.viewQ then 3 else max w.viewHw w.intended)

/-- The reconcile pass over unit u (R417). -/
def State.reconcileUnit (s : State) (u : Nat) : State :=
  let w := s.unit u
  let hw := w.viewHw != w.hwAdmit || w.viewCause != w.cause || w.viewEpoch != w.epoch || w.viewQ != w.qHw
  if !hw && w.intended == w.mcAdmit then s
  else
    let data := bits (s.unitWord u) 0 32 + fld w.view 32 32
    let s1 := s.modUnit u fun w => { w with viewHw := w.hwAdmit, viewCause := w.cause, viewEpoch := w.epoch, viewQ := w.qHw }
    let s2 := if w.mcAdmit < w.intended then (s1.mcWrite u w.intended w.epoch).getD s1
      else s1.modUnit u fun x => { x with intended := x.mcAdmit }
    (State.mgtEvent { s2 with mc := { s2.mc with skews := wrapAdd 64 s2.mc.skews 1 } } 0x50 (some u) none data)

/-- A reconcile pass (R417). -/
def State.reconcile (s : State) : State :=
  if s.mc.ready && decide (s.mc.reconcileAt + 2 ^ 20 ≤ s.clk.mgt) then
    (State.each { s with mc := { s.mc with reconcileAt := s.clk.mgt } } (Tab.ixs s.units) State.reconcileUnit)
  else s

end Sys2Proof.Machine
end

