-- ==== Sys2Proof/Machine/Meter.lean ====
section
/-! DEFINITION. Tally: pulses, flushes, records, their commit and the record port (R386 to R398). -/

namespace Sys2Proof.Machine

/-- Changes Tally. -/
def State.modTally (s : State) (f : Tally → Tally) : State := { s with tally := f s.tally }

/-- Sends every accumulator, then the MARK pulses of the counting units, one for each counter code (R390). -/
def State.flushUnits (s : State) : State :=
  let s1 := s.each (Tab.ixs s.tally.acc) fun s k => s.sendPulse (k / 8) (k % 8)
  s1.modTally fun t => { t with pulses := t.pulses ++ List.replicate 7 { part := 0, code := 7, amount := 2 } }

/-- The MC flushes every counting unit and issues COMMIT; Tally acts on it once it has taken every pulse then queued (R390, R391). -/
def State.requestCommit (s : State) (box : Option Nat) : State :=
  s.flushUnits.modTally fun t => { t with asks := t.asks ++ [(t.pulses.length, box)] }

/-- An accumulator has been non-zero for 2^16 cycles of its unit's domain (R386). -/
def State.accumAge (s : State) (p k : Nat) : State :=
  let a := Tab.at s.tally.acc (8 * p + k)
  if a.amount ≠ 0 ∧ a.since + 2 ^ 16 ≤ s.countClock k then s.sendPulse p k else s

/-- Takes the pulse at the head of the queue. -/
def Tally.pop (t : Tally) : Tally := { t with pulses := t.pulses.drop 1, asks := t.asks.map fun a => (a.1 - 1, a.2) }

/-- Tally takes one count pulse (R387). -/
def State.takePulse (s : State) : State :=
  match s.tally.pulses with
  | [] => s
  | x :: _ =>
    if x.code ≠ 7 then
      s.modTally fun t =>
        { t.pop with counters := Tab.upd t.counters (8 * x.part + x.code) fun n => wrapAdd 64 n x.amount
                     total := wrapAdd 64 t.total 1, since := t.since + 1 }
    else if x.amount = 1 || x.amount = 2 then s
    else s.modTally Tally.pop

/-- Tally takes a LIFETIME pulse (R387). -/
def State.takeLifetime (s : State) : State :=
  match s.tally.pulses with
  | [] => s
  | x :: _ =>
    if x.code = 7 ∧ x.amount = 1 then
      s.modTally fun t => { t.pop with lifetimes := Tab.upd t.lifetimes x.part fun n => wrapAdd 32 n 1 }
    else s

/-- Tally takes a MARK pulse (R387). -/
def State.takeMark (s : State) : State :=
  match s.tally.pulses with
  | [] => s
  | x :: _ => if x.code = 7 ∧ x.amount = 2 then s.modTally Tally.pop else s

/-- CAUSE of the commit that is pending: 0 none (R389). -/
def Tally.pendingCause (t : Tally) : Nat :=
  t.cause + b2n (decide (2 ^ 24 ≤ t.since)) + 2 * b2n (t.asks.any fun a => a.1 == 0)

/-- The commit cycle: Tally copies every counter into a new record and begins to sign (R389). -/
def State.tallyCommit (s : State) : State :=
  let t := s.tally
  let c := t.pendingCause
  if c = 0 || t.signing.isSome || t.selfFail then s
  else
    let done := t.asks.filter fun a => a.1 == 0
    s.modTally fun t =>
      { t with
        signing := some { live := true, cause := c, seq := t.next, pulses := t.total, counters := t.counters, lifetimes := t.lifetimes }
        waiters := done.filterMap Prod.snd, asks := t.asks.filter fun a => a.1 != 0
        next := t.next + 1, since := 0, cause := 0 }

/-- The record is signed and stored (R392). -/
def State.tallyStored (s : State) : State :=
  match s.tally.signing with
  | none => s
  | some r =>
    let s1 := s.modTally fun t => { t with records := Tab.put t.records (r.seq % 8) r, signing := none, waiters := [] }
    let s2 := s1.event 0x31 6 s.clk.tly none none r.seq
    s2.each s.tally.waiters fun s m => s.respond m 0 0 (leBytes 8 r.seq)

/-- PWR_WARN_N has stayed low for 16 CK_TLY cycles after a falling edge: every unit flushes (R389, R390). -/
def State.powerWarn (s : State) : State := s.flushUnits.modTally fun t => { t with warnLow := true, warnAt := some s.clk.tly }

/-- A further 256 CK_TLY cycles have passed; `low` is the pin's level then (R389, R457). -/
def State.powerWarnDue (s : State) (low : Bool) : State :=
  match s.tally.warnAt with
  | some c =>
    if c + 256 ≤ s.clk.tly then s.modTally fun t => { t with warnAt := none, warnLow := low, cause := t.cause ||| 4 } else s
  | none => s

/-- Partition p's block of a record (R395). -/
def TallyRec.block (r : TallyRec) (p : Nat) : Bytes :=
  ((List.range 7).flatMap fun k => leBytes 8 (Tab.at r.counters (8 * p + k))) ++ leBytes 4 (Tab.at r.lifetimes p) ++ leBytes 1 p ++ zeros 3

/-- Bytes 0 to 831 of a record of EPOCH `epoch` (R395). -/
def TallyRec.signed (r : TallyRec) (epoch : Nat) : Bytes :=
  leBytes 4 0x594C4C54 ++ leBytes 2 1 ++ leBytes 1 r.cause ++ zeros 1 ++ leBytes 8 r.seq ++ leBytes 8 epoch ++ leBytes 8 Config.tallySeal ++
    leBytes 8 r.pulses ++ leBytes 8 Config.serial ++ zeros 16 ++ (List.range 16).flatMap fun p => padTo 48 (Config.sha384 (r.block p))

/-- The 1,952 bytes of a record (R395). -/
def TallyRec.bytes (r : TallyRec) (epoch : Nat) : Bytes :=
  let m := r.signed epoch
  m ++ padTo 96 (Config.tallySign m) ++ (List.range 16).flatMap r.block

/-- A write of SEQ to TY_REC_SELECT reads that record through the record port (R392). -/
def State.selectRecord (s : State) (w : Nat) : State :=
  let seq := bits w 0 62
  let r := Tab.at s.tally.records (seq % 8)
  s.modTally fun t => { t with select := seq, held := if r.live && r.seq == seq then some r else none }

/-- SEQ of the newest stored record; 0 when none is. -/
def Tally.newest (t : Tally) : Nat := t.records.foldl (fun n e => max n e.2.seq) 0

/-- TY_STATUS. -/
def Tally.status (t : Tally) : Nat :=
  fld t.newest 8 56 + fld (b2n t.selfFail) 4 1 + fld (b2n t.warnLow) 3 1 + fld (b2n (t.pendingCause != 0)) 2 1 +
    fld (b2n t.signing.isSome) 1 1 + b2n (!t.records.isEmpty)

end Sys2Proof.Machine
end

