-- ==== Sys2Proof/Machine/Partition.lean ====
section
/-! DEFINITION. Partitions: create, activate, scrub, key slots and re-key passes, and shared-chunk repairs (R279 to R284, R351 to R367,
R378 to R383). -/

namespace Sys2Proof.Machine

/-! ## Ending a partition's work (R379, R438) -/

/-- Is a request a write whose bytes have not left for the host tier: merged in a write-combining entry, or waiting for the merge of
its unit (R361)? -/
def Req.unsent (q : Req) : Bool :=
  let push : Bool := match q.purpose with
    | .wcPush _ => true
    | _ => false
  q.kind != .read && ((q.path == .combining && !push) || (q.path == .narrow && q.key.isSome && q.wire == []))

/-- Is a request one that the block serves for the outside (R182, R183, R314)? -/
def Req.inbound (q : Req) : Bool :=
  match q.purpose with
  | .inboundWrite _ _ => true
  | .kppServe _ => true
  | _ => false

/-- Ends requests without acting on them. -/
def State.forget (s : State) (pick : Req → Bool) : State := s.each (s.reqs.filter pick) fun s q => s.finishReq q

/-- Nobody waits any longer for the requests of partition p. A scrub, a compute-part reset or a host-link loss discards its unsent
writes (R379, R438); otherwise its write-combining entries flush and what waits for a merge goes on (R438). -/
def State.orphanPart (s : State) (p : Nat) (discard : Bool) : State :=
  let s1 := if discard then (s.dropWc p).forget fun q => q.part == p && q.unsent else s.flushAll (wcIxs p)
  let s2 := { s1 with
    reqs := s1.reqs.map fun (q : Req) => if q.part = p then { q with purpose := dropKeep (!discard) q.purpose } else q
    tier := { s1.tier with fills := s1.tier.fills.map fun (f : Fill) => if f.part = p then { f with noInstall := true } else f } }
  let pushes := s2.tier.pushes.filter fun e => e.2.part != p || !discard || s2.reqs.any fun q => q.purpose == .wcPush e.1
  { s2 with tier := { s2.tier with pushes := pushes } }
where
  /-- Pushes and fills keep their purpose: lines and buffers follow their responses; `more`: so do merges and re-key writes. -/
  dropKeep (more : Bool) : Purpose → Purpose
    | .wcPush n => .wcPush n
    | .cacheFill n => .cacheFill n
    | .inboundWrite a b => .inboundWrite a b
    | .kppServe n => .kppServe n
    | .wcMerge n => if more then .wcMerge n else .dropped
    | .tagMerge n => if more then .tagMerge n else .dropped
    | .rekeyLeaf p => if more then .rekeyLeaf p else .dropped
    | _ => .dropped

/-- The packets of partition p that wait for a peer module are discarded (R382). -/
def State.dropPackets (s : State) (p : Nat) : State :=
  let keep (l : List Packet) : List Packet := l.filter fun x => x.part != p || x.resp
  s.each (List.range 20) fun s m => s.modMod (4 + m) fun x =>
    { x with q0 := keep x.q0, q1 := keep x.q1, q2 := keep x.q2, q3 := keep x.q3 }

/-- Every job, repair entry, report and array tile of partition p ends (R379). -/
def State.dropJobs (s : State) (p : Nat) : State :=
  { s with rk := { s.rk with
    jobs := Tab.keep s.rk.jobs fun e => e / 4 != p
    queue := Tab.keep s.rk.queue fun k => k / 64 != p
    reports := s.rk.reports.filter fun r => r.part != p
    array := s.rk.array.filter fun a => a.part != p
    bufs := s.rk.bufs.filter fun a => a.part != p } }

/-- Every consumed descriptor of partition p ends with no memory write, its park slots free, and its rings enter a state (R379, R438). -/
def State.dropWorks (s : State) (p : Nat) (f : Ring → Ring) : State :=
  let rings := s.ringsOf p
  let s1 := s.each rings fun s r => s.modRing r f
  let slots := (Tab.ixs s.qc.park).filter fun k => (s.slot k).part = p && (s.slot k).valid
  s1.each slots fun s k => s.freeSlot k

/-- The misses and walks of partition p end, and its invalidation queue fetches nothing (R379). -/
def State.dropWalks (s : State) (p : Nat) : State :=
  let s1 := { s with xl := { s.xl with
    misses := s.xl.misses.filter fun m => m.part != p
    walks := s.xl.walks.filter fun w => w.part != p } }
  s1.modInvq p fun q => { q with st := 0, again := false, stale := false, refetch := 0 }

/-- The pending and waiting invalidations of partition p end, with no note (R379, R438, R485). -/
def State.dropInvals (s : State) (p : Nat) : State :=
  let s1 := { s with xl := { s.xl with invals := s.xl.invals.filter fun i => i.part != p } }
  s1.modInvq p fun q => { q with waiting := [] }

/-- The mailboxes whose commands wait for an invalidation of partition p (R485). -/
def State.invWaiters (s : State) (p : Nat) : List Nat :=
  (s.xl.invals.filter fun i => i.part == p).filterMap (fun i => i.mailbox) ++ (s.invq p).waiting.map fun w => w.2.1

/-- All work of partition p ends; its rings become what `f` makes of them. -/
def State.stopWork (s : State) (p : Nat) (discard : Bool) (f : Ring → Ring) : State :=
  (((((s.orphanPart p discard).dropWorks p f).dropJobs p).dropChords p).dropWalks p)

/-! ## Scrub (R378 to R383) -/

/-- A ring at T0: DRAINING, nothing consumed or fetched (R379). -/
def Ring.scrubbed (g : Ring) : Ring :=
  if g.st = 0 then g
  else { g with st := 6, works := [], fetched := [], staged := none, refetch := 0, stale := false, exhausted := false, backoff := none
                again := false, fetchErr := none }

/-- A DISABLED ring without configuration (R380, R438). -/
def Ring.cleared (g : Ring) : Ring := { rung := g.rung }

/-- Scrub start T0 of partition p; `detail` is the DETAIL of waiting invalidation commands (R378, R379, R485). -/
def State.startScrub (s : State) (p detail : Nat) : State :=
  let waiters := s.invWaiters p
  let held := (s.part p).heldLoad
  let s1 := (((s.stopWork p true Ring.scrubbed).dropInvals p).dropPackets p).modPart p fun x =>
    { x with st := 3, scrubT0 := s.clk.fab, scrubPhase := 1, rekey := {}, heldLoad := none }
  let s2 := { s1 with links := { s1.links with kpp := s1.links.kpp.filter fun i => i.part != p } }
  let s3 := s2.each (maskBits 20 (s.part p).modules) fun s m => s.exitLp (4 + m)
  let s4 := match held with
    | some (se, _, _) => s3.emit (.spdm (some se) [0x82, 2, 0, 0])
    | none => s3
  let mask := (List.range 32).foldl (fun n c => if s.chanOwner c = some p then n + 2 ^ c else n) 0
  let s5 := (s4.emit (.dieNetwork 2 (leBytes 4 mask))).settleUnit (96 + p)
  s5.each waiters fun s m => s.respond m 2 detail []

/-- Length of the ZERO phase (R378). -/
def State.zeroLen (s : State) : Nat := s.chSize / 128
/-- Duration of a scrub (R378). -/
def State.scrubLen (s : State) : Nat := 2 ^ 24 + s.zeroLen + 2 ^ 16

/-- QUIESCE of partition p ends: what is still out has reached its limit, and the rings become DISABLED (R378, R379). -/
def State.quiesceEnd (s : State) (p : Nat) : State :=
  let x := s.part p
  if x.st ≠ 3 || x.scrubPhase ≠ 1 || s.clk.fab < x.scrubT0 + 2 ^ 24 then s
  else
    let s1 := s.forget fun q => q.part == p && !q.inbound
    let s2 := { s1 with tier := { s1.tier with
      fills := s1.tier.fills.filter fun f => f.part != p
      pushes := s1.tier.pushes.filter fun e => e.2.part != p } }
    let s3 := { s2 with links := { s2.links with tags := s2.links.tags.filter fun e => e.2.part != p || !e.2.live } }
    let s4 := s3.modPart p fun x => { x with scrubPhase := 2 }
    s4.each (s.ringsOf p) fun s r =>
      let g := s.ring r
      (s.modRing r fun g => { g with st := 0, waiters := [] }).each g.waiters fun s m => s.ok m

/-- What the CLOSE phase clears of partition p (R380). -/
def State.close (s : State) (p : Nat) : State :=
  let part (t : Tab Nat) : Tab Nat := Tab.keep t fun k => k != p
  let s1 := (s.emptyTlbs p).dropLines p
  let s2 := s1.each (s.ringsOf p) fun s r => s.modRing r Ring.cleared
  let qc := { s2.qc with
    park := Tab.keep s2.qc.park fun k => k != 16384 + p
    fq := Tab.upd s2.qc.fq p fun q => { q with placed := false, base := 0, prod := 0, cons := 0, timeout := 2 ^ 31 }
    cqs := Tab.keep s2.qc.cqs fun k => k / 256 != p
    areas := Tab.keep s2.qc.areas fun k => k != p }
  let xl := { s2.xl with
    asids := Tab.keep s2.xl.asids fun a => a / 64 != p
    l1 := Tab.keep s2.xl.l1 fun t => if t < 64 then !bit (s.part p).groups (t / 4) else t % 16 != p
    walkCache := Tab.keep s2.xl.walkCache fun k => k != p
    invq := Tab.upd s2.xl.invq p fun q => { drainHit := q.drainHit, acked := q.acked } }
  let rk := { s2.rk with
    scheds := Tab.keep s2.rk.scheds fun t => t / 4 != p, sets := Tab.keep s2.rk.sets fun k => k / 8 != p, normSum := part s2.rk.normSum }
  let pt := { s2.pt with windows := Tab.keep s2.pt.windows fun k => k / 64 != p, pasids := s2.pt.pasids.filter fun e => e.2 != p + 1 }
  let ch := { s2.ch with queues := Tab.upd s2.ch.queues p fun q => { committed := q.committed, conflict := q.conflict, others := q.others, staleEvents := q.staleEvents } }
  let s3 := { s2 with qc := qc, xl := xl, rk := rk, pt := pt, ch := ch }
  (s3.modPart p fun x =>
    { x with
      scrubPhase := 3, slot0 := {}, slot1 := {}, sets := [], tenantKey := [], claimed := false, claimFails := 0, counter := 0
      buckets := Tab.mapV x.buckets fun _ b => { waits := b.waits } }).emit (.dieNetwork 4 (leBytes 1 p))

/-- The ZERO sweep of partition p ends and CLOSE begins (R378, R380). -/
def State.zeroEnd (s : State) (p : Nat) : State :=
  let x := s.part p
  if x.st ≠ 3 || x.scrubPhase ≠ 2 || s.clk.fab < x.scrubT0 + 2 ^ 24 + s.zeroLen then s else s.close p

/-- Partition p becomes FREE: every ownership of R356 is released (R355, R380, R391). -/
def State.freePart (s : State) (p : Nat) : State :=
  let mods := maskBits 20 (s.part p).modules
  let pt := { s.pt with
    channels := s.pt.channels.filter fun e => e.2 != p + 1
    ranges := Tab.mapV s.pt.ranges fun _ r => { r with mask := setBits r.mask p 1 0 }
    scrubs := wrapAdd 16 s.pt.scrubs 1 }
  let s1 := { s with pt := pt }.modPart p fun x =>
    { prevTag := some x.checkTag, inboundDrops := x.inboundDrops, buckets := x.buckets, flr := x.flr }
  let s2 := (s1.settleUnit (96 + p)).fabEvent 0x71 (some (96 + p)) (some p) s1.pt.scrubs
  (s2.requestCommit none).each mods fun s m => s.pump m

/-- CLOSE of partition p ends (R378, R380). -/
def State.closeEnd (s : State) (p : Nat) : State :=
  let x := s.part p
  if x.st ≠ 3 || x.scrubPhase ≠ 3 || s.clk.fab < x.scrubT0 + s.scrubLen then s else s.freePart p

/-! ## Create and activate (R353, R354) -/

/-- The resources a create names. -/
structure Create where
  part : Nat
  tag : Nat
  groups : Nat
  tcWays : Nat
  tlbWays : Nat
  channels : Nat
  modules : Nat
  digest : Bytes
  /-- RATE and BURST_LOG2 by bucket. -/
  regs : List (Nat × Nat)
deriving DecidableEq, Repr

/-- Bits of a mask that other partitions own. -/
def State.othersOwn (s : State) (p : Nat) (f : Part → Nat) (mask : Nat) : Bool :=
  partIxs.any fun q => q != p && (s.part q).st != 0 && f (s.part q) &&& mask != 0

/-- Is the create command well formed (R353, R357)? -/
def State.createOk (s : State) (c : Create) : Bool :=
  decide (c.part < 16) && (s.part c.part).st == 0 && !s.othersOwn c.part Part.groups c.groups && !s.othersOwn c.part Part.tcWays c.tcWays &&
    !s.othersOwn c.part Part.tlbWays c.tlbWays && !s.othersOwn c.part Part.modules c.modules && decide (c.modules < 2 ^ 20) &&
    ((maskBits 32 c.channels).all fun k => (s.chanOwner k).isNone) && (c.groups &&& s.fuses.groups == 0) &&
    ((maskBits 20 c.modules).all fun m => (s.mod (4 + m)).st != 0 && (s.mod (4 + m)).st != 1) && (c.groups == 0 || c.tlbWays != 0) &&
    (s.part c.part).prevTag != some c.tag && c.regs.all fun r => decide (8 ≤ r.2) && decide (r.2 ≤ 24)

/-- A bucket that is full (R357). -/
def fullBucket (rate burst : Nat) : Bucket := { rate := rate, burstLog2 := burst, tokens := 16 * 2 ^ burst }

/-- PT accepts the create (R353, R388, R391). -/
def State.createPart (s : State) (c : Create) : State :=
  let p := c.part
  let buckets := Tab.ofList ((List.range 5).map fun b =>
    let r := c.regs.getD b (0, 8)
    (b, { fullBucket r.1 r.2 with waits := (Tab.at (s.part p).buckets b).waits }))
  let chans := Tab.ofList ((List.range 32).map fun k =>
    (k, if bit c.channels k then p + 1 else Tab.at s.pt.channels k))
  let s1 := (({ s with pt := { s.pt with channels := chans } }.modPart p fun x =>
    { st := 1, groups := c.groups, tcWays := c.tcWays, tlbWays := c.tlbWays, modules := c.modules, checkTag := c.tag, prevTag := x.prevTag
      claimDigest := c.digest, buckets := buckets, inboundDrops := x.inboundDrops, flr := x.flr }).emptyTlbs p).settleUnit (96 + p)
  (s1.controlPulse p 1).requestCommit none

/-- RESULT and DETAIL of an activate (R354). -/
def State.activate (s : State) (p : Nat) : (Nat × Nat) × State :=
  let x := s.part p
  if x.st ≠ 1 || !x.claimed then ((2, 1), s)
  else if (x.slot x.scope0).st ≠ .loaded || (x.slot x.scope1).st ≠ .loaded then ((2, 3), s)
  else ((0, 0), s.modPart p fun x => { x with st := 2 })

/-! ## Re-key (R364 to R367) -/

/-- May the re-key of generation g start (R364)? -/
def State.rekeyOk (s : State) (p g : Nat) (items : List RekeyItem) : Bool :=
  let x := s.part p
  decide (g < 2) && decide (1 ≤ items.length) && decide (items.length ≤ 16) && x.scope0 != g && x.scope1 != g &&
    (x.slot g).st == .loaded && !x.rekey.hostPass && !x.rekey.hbmPass &&
    items.all fun i => i.va % 4096 == 0 && i.len % 4096 == 0 && decide (64 * p ≤ i.asid) && decide (i.asid < 64 * p + 64)

/-- Slot g becomes RETIRING and both passes start (R364). -/
def State.startRekey (s : State) (p g : Nat) (items : List RekeyItem) : State :=
  (s.modPart p fun x => (x.modSlot g fun k => { k with st := .retiring })).modPart p fun x =>
    { x with rekey := { gen := g, items := items, hostPass := true, hbmPass := true, start := s.clk.fab } }

/-- Physical address of the page of a leaf entry. -/
def leafPa (l : FoundLeaf) : Nat := bits l.entry 12 40 * 4096 / 2 ^ l.sizeLog2 * 2 ^ l.sizeLog2

/-- Must the walker treat a leaf: in an item, on die 0 to 3, tagged with the partition and the old generation (R364)? -/
def Rekey.treats (x : Rekey) (p : Nat) (l : FoundLeaf) : Bool :=
  bit l.entry 0 && bit l.entry 57 && bits l.entry 58 4 == p && bits l.entry 62 1 == x.gen && decide (dieOf (leafPa l) < 4) &&
    x.items.any fun i => i.asid == l.asid && decide (l.va < i.va + i.len) && decide (i.va < l.va + 2 ^ l.sizeLog2)

/-- The walker locks the next page and cuts its invalidation; with no leaf left, the host pass ends (R364, R365). -/
def State.lockPage (s : State) (p : Nat) (leaf : Option FoundLeaf) : State :=
  let x := (s.part p).rekey
  if !x.hostPass || x.lock.isSome || !s.xlMay p then s
  else match leaf with
    | none => s.modPart p fun y => { y with rekey := { y.rekey with hostPass := false } }
    | some l =>
      if !x.treats p l then s
      else
        let id := s.xl.next
        let s1 := s.cutInval p (.range l.asid l.va (2 ^ l.sizeLog2 / 4096)) { rekey := true, va := l.va }
        let lock : LockedPage := { pa := leafPa l, size := 2 ^ l.sizeLog2, leaf := l.at_, entry := l.entry, step := 1, inval := id }
        s1.modPart p fun y => { y with rekey := { y.rekey with lock := some lock } }

/-- Every re-encrypted push of the locked page, read as `old`, has its GO response: the walker updates KT_GEN in the leaf (R365). -/
def State.pagePushed (s : State) (p : Nat) (old : Bytes) : State :=
  let x := (s.part p).rekey
  match x.lock with
  | none => s
  | some l =>
    if l.step ≠ 1 || s.xl.invals.any (fun i => i.id == l.inval) || !s.xlMay p then s
    else
      let data := s.seal (some (p, 1 - x.gen)) l.pa (s.unseal (some (p, x.gen)) l.pa (padTo l.size old))
      let entry := setBits l.entry 62 1 (1 - x.gen)
      let lines := s.tier.lines.filter fun e => !(decide (l.pa ≤ e.2.pa) && decide (e.2.pa < l.pa + l.size))
      let s1 := (({ s with tier := { s.tier with lines := lines } }.count p 0 l.size).count p 1 l.size).emit (.pushes l.pa data)
      let s2 := s1.modPart p fun y => { y with rekey := { y.rekey with
        lock := some { l with step := 4, entry := entry }, pages := y.rekey.pages + l.size / 4096 } }
      s2.sendHost { part := p, unit := 65, purpose := .rekeyLeaf p, path := .narrow, kind := .write, pa := l.leaf, len := 8
                    data := leBytes 8 entry, wire := leBytes 8 entry }

/-- The leaf update has been pushed: the page is unlocked (R365). -/
def State.unlockPage (s : State) (p : Nat) : State :=
  match s.reqFor (.rekeyLeaf p) with
  | none => s
  | some q => (s.finishReq q).modPart p fun y => { y with rekey := { y.rekey with lock := none } }

/-- The HBM pass has covered every owned channel (R364). -/
def State.hbmPassEnd (s : State) (p : Nat) : State :=
  let x := (s.part p).rekey
  if x.hbmPass && decide (x.start + s.chSize / 64 ≤ s.clk.fab) then s.modPart p fun y => { y with rekey := { y.rekey with hbmPass := false } }
  else s

/-- A RETIRING slot with both passes done and nothing in flight is zeroed and EMPTY; a held load completes (R366, R367). -/
def State.retireSlot (s : State) (p g : Nat) : State :=
  let x := s.part p
  if (x.slot g).st ≠ .retiring || x.rekey.hostPass || x.rekey.hbmPass || (x.slot g).inflight ≠ 0 then s
  else
    let s1 := (s.modPart p fun x => x.modSlot g fun _ => {}).fabEvent 0x30 none (some p) g
    match x.heldLoad with
    | some (se, h, b) =>
      if h = g then
        let key : KeySlot := { st := .loaded, hostKey := slice b 0 64, peerKey := slice b 64 32, hbmKey := slice b 96 64 }
        ((s1.modPart p fun x => x.modSlot g fun _ => key).modPart p fun x => { x with heldLoad := none }).emit (.spdm (some se) [0x82, 0, 0, 0])
      else s1
    | none => s1

/-! ## Shared-chunk repairs (R281 to R284) -/

/-- The host-tier key a tag names, if its slot holds one. -/
def State.tagKey (s : State) (t : Nat × Nat) : Bytes :=
  let k := (s.part t.1).slot t.2
  if k.st = .empty then [] else k.hostKey

/-- The oldest queued repair opens (R281, R282). -/
def State.openRepair (s : State) : State :=
  match s.pt.repairQueue with
  | [] => s
  | (e, c) :: rest =>
    if 4 ≤ s.pt.repairs.length then s
    else
      let x := Tab.at s.pt.shared e
      let r : SharedRepair := { id := s.pt.nextRepair, entry := e, chunk := c, start := s.clk.fab, rangeKey := s.tagKey x.rangeTag
                                originKey := s.tagKey x.originTag }
      { s with pt := { s.pt with repairs := s.pt.repairs ++ [r], repairQueue := rest, nextRepair := s.pt.nextRepair + 1 } }

/-- The open repair of a number. -/
def State.repairOf (s : State) (id : Nat) : Option SharedRepair := s.pt.repairs.find? fun r => r.id == id

/-- A repair closes. -/
def State.closeRepair (s : State) (id : Nat) : State := { s with pt := { s.pt with repairs := s.pt.repairs.filter fun r => r.id != id } }

/-- A repair fails (R284). -/
def State.failShared (s : State) (r : SharedRepair) : State :=
  let s1 := s.closeRepair r.id
  let pt := { s1.pt with
    shared := Tab.upd s1.pt.shared r.entry fun x => { x with failed := if x.failed.contains r.chunk then x.failed else x.failed ++ [r.chunk] }
    sharedFailed := satAdd 16 s1.pt.sharedFailed 1 }
  { s1 with pt := pt }.report { source := 6, cls := 1 }

/-- Do the tags of a repair still name the keys they named when it opened (R284)? -/
def State.keysHeld (s : State) (r : SharedRepair) : Bool :=
  let x := Tab.at s.pt.shared r.entry
  r.rangeKey != [] && r.originKey != [] && s.tagKey x.rangeTag == r.rangeKey && s.tagKey x.originTag == r.originKey

/-- The origin chunk has been read, as `data` on the path, and its table entry as `digest`; none for a failed read (R283, R284). -/
def State.originRead (s : State) (id : Nat) (res : Option (Bytes × Bytes)) : State :=
  match s.repairOf id with
  | none => s
  | some r =>
    if r.step ≠ 0 then s
    else match res with
      | none => s.failShared r
      | some (data, digest) =>
        let x := Tab.at s.pt.shared r.entry
        let at_ := x.base + r.chunk * 2 ^ 21
        let org := x.origin + r.chunk * 2 ^ 21
        let plain := xtsRun Config.xtsDec r.originKey 131072 (org / 16) (padTo (2 ^ 21) data)
        if !s.keysHeld r || Config.sha384 plain != digest then s.failShared r
        else
          let lines := s.tier.lines.filter fun e => !(decide (at_ ≤ e.2.pa) && decide (e.2.pa < at_ + 2 ^ 21))
          let s1 := { s with tier := { s.tier with lines := lines }, pt := { s.pt with
            repairs := s.pt.repairs.map fun (y : SharedRepair) => if y.id = id then { y with step := 1 } else y } }
          s1.emit (.pushes at_ (xtsRun Config.xtsEnc r.rangeKey 131072 (at_ / 16) plain))

/-- Every push of a repair has its GO response (R283). -/
def State.repairClosed (s : State) (id : Nat) : State :=
  match s.repairOf id with
  | none => s
  | some r =>
    if r.step ≠ 1 then s
    else if !s.keysHeld r then s.failShared r
    else
      let s1 := s.closeRepair id
      { s1 with pt := { s1.pt with sharedDone := satAdd 16 s1.pt.sharedDone 1 } }

/-- A repair has run for 2^26 CK_FAB cycles (R284). -/
def State.repairTimeout (s : State) (id : Nat) : State :=
  match s.repairOf id with
  | none => s
  | some r => if r.start + 2 ^ 26 ≤ s.clk.fab then s.failShared r else s

end Sys2Proof.Machine
end

