-- ==== Sys2Proof/Machine/Box.lean ====
section
/-! DEFINITION. Mailbox commands: submission, the order of checks, and the whole-block refusals (R402 to R407, R427, R440, R441, R445,
R486). -/

namespace Sys2Proof.Machine

/-- Payload size of an opcode on a command's bytes; none for a reserved opcode (R407). -/
def payloadSize (cmd : Bytes) : Option Nat :=
  match fieldAt cmd 0 2 with
  | 0x0101 => some 92
  | 0x0102 => some 8
  | 0x0103 => some 8
  | 0x0104 => some 8
  | 0x0105 => some 24
  | 0x0106 => some 8
  | 0x0107 => some 8
  | 0x0108 => some 16
  | 0x0109 => some 40
  | 0x010A => some 8
  | 0x0201 => some 16
  | 0x0202 => some 16
  | 0x0203 => some 4
  | 0x0204 => some 40
  | 0x0301 => some 8
  | 0x0302 => some 8
  | 0x0401 => some 16
  | 0x0402 => some 8
  | 0x0403 => some 8
  | 0x0404 => some 24
  | 0x0405 => some 16
  | 0x0406 => some 16
  | 0x0501 => some 24
  | 0x0601 => some 8
  | 0x0602 => some (8 + 24 * byteAt cmd 33)
  | 0x0603 => some 24
  | 0x0604 => some 24
  | 0x0701 => some (8 + 8 * byteAt cmd 33)
  | 0x0702 => some 72
  | 0x0703 => some 8
  | 0x0801 => some 16
  | 0x0901 => some 8
  | 0x0A01 => some 8
  | 0x0A02 => some 16
  | 0x0A03 => some 24
  | 0x0A04 => some 8
  | 0x0B01 => some 16
  | 0x0B02 => some 8
  | 0x0B03 => some (8 + fieldAt cmd 36 4)
  | 0x0B04 => some 8
  | 0x0B05 => some 8
  | 0x0B06 => some 8
  | 0x0B07 => some 8
  | 0x0B08 => some 8
  | 0x0B09 => some 0
  | _ => none

/-- Kind of a mailbox: 0 partition, 1 operator, 2 board management. -/
def boxClass (m : Nat) : Nat := if m < 16 then 0 else if m = 16 then 1 else 2

/-- May an opcode stand on a mailbox of a class (R407)? -/
def allowedOn (op cls : Nat) : Bool :=
  let hi := op / 256
  if op = 0x0204 || op = 0x0801 || op = 0x0A02 || op = 0x0A03 then cls == 0 || cls == 1
  else if op = 0x0901 || op = 0x0B01 || op = 0x0B07 || op = 0x0B09 then true
  else if hi = 1 || op = 0x0A04 then cls == 1
  else if hi = 0x0A || hi = 0x0B then cls == 1 || cls == 2
  else cls == 0

/-- The first three checks of R486 on mailbox m's command: one that fails is answered at once. -/
def State.judgeCmd (s : State) (m : Nat) : State :=
  let b := s.box m
  match payloadSize b.cmd with
  | none => s.respond m 4 0 []
  | some n =>
    if !allowedOn b.opcode (boxClass m) then s.respond m 3 0 []
    else if b.length ≠ n || 16352 < b.length then s.respond m 1 0 []
    else s

/-- Submits the request in mailbox m's request area: BUSY set, DONE clear; the MC's checks follow once its firmware runs (R404). -/
def State.submit (s : State) (m : Nat) (mctp : Bool) : State :=
  let b := s.box m
  let head := Tab.readBytes b.ram 0x1000 32
  let cmd := head ++ Tab.readBytes b.ram 0x1020 (min (fieldAt head 4 4) 16352)
  let s1 := s.modBox m fun b => { b with busy := true, done := false, taken := false, mctp := mctp, cmd := cmd }
  if s.mc.ready then s1.judgeCmd m else s1

/-- A write of 1 to MB_CTRL.GO of mailbox m (R404). -/
def State.mailboxGo (s : State) (m : Nat) : State :=
  if (s.box m).busy then s.modBox m fun b => { b with busyDrops := satAdd 16 b.busyDrops 1 } else s.submit m false

/-- An MCTP request on the board-management mailbox (R401, R404). -/
def State.mctpRequest (s : State) (body : Bytes) : State :=
  let b := s.box 17
  if b.busy then
    let h := responseHeader (fieldAt body 0 2) (fieldAt body 2 2) 5 0 0 s.clk.mgt s.mc.seq
    (s.modBox 17 fun b => { b with busyDrops := satAdd 16 b.busyDrops 1 }).emit (.mctp (leBytes 1 0x7E ++ h))
  else
    let s1 := s.modBox 17 fun b => { b with ram := Tab.writeBytes b.ram 0x1000 (body.take 16384) }
    s1.submit 17 true

/-- The mailbox the MC serves next: round-robin in mailbox order (R405). -/
def State.nextBox (s : State) : Option Nat :=
  ((List.range 18).map fun i => (s.mc.served + 1 + i) % 18).find? fun m => (s.box m).busy && !(s.box m).taken

/-- Refusals for the whole HXU and for the partition's state: checks 4 and 5 of R486. -/
def State.gate (s : State) (m op : Nat) : Option Nat :=
  let report := op == 0x0B09 || op == 0x0B01 || op == 0x0B07
  let board := op == 0x0B09 || op == 0x0B02 || op == 0x0B01 || op == 0x0B03 || op == 0x0B04 || op == 0x0B05
  let st := (s.part m).st
  if s.stopped && !(report || op == 0x0B02) then some 5
  else if s.mc.fw.recovery && !(m == 17 && board) then some 5
  else if s.mc.rd.cp != 0 && !(report || op == 0x0B02) then some 5
  else if m < 16 && !report && (st == 0 || st == 3 || (s.part m).flr.isSome) then some 1
  else none

/-- The MC takes the command of mailbox m when its opcode is `op` and its turn has come; `body` acts on its payload (R405, R486). -/
def State.command (s : State) (m op : Nat) (body : State → Bytes → State) : State :=
  let b := s.box m
  if !s.mc.ready || s.nextBox ≠ some m || b.opcode ≠ op then s
  else
    let s1 := { s with mc := { s.mc with served := m } }.modBox m fun b => { b with taken := true }
    match s.gate m op with
    | some d => s1.respond m 2 d []
    | none => body s1 b.payload

/-- Responds MALFORMED. -/
def State.malformed (s : State) (m : Nat) : State := s.respond m 1 0 []
/-- Responds STATE with a DETAIL. -/
def State.state (s : State) (m d : Nat) : State := s.respond m 2 d []
/-- Responds FAILED with a DETAIL. -/
def State.failed (s : State) (m d : Nat) : State := s.respond m 6 d []
/-- Responds OK to a command that has taken effect. -/
def State.okIf (s : State) (m : Nat) (good : Bool) (s' : State) : State := if good then s'.ok m else s.malformed m

end Sys2Proof.Machine
end

