-- ==== Sys2Proof/Machine/Cmds.lean ====
section
/-! DEFINITION. The mailbox commands that configure PT, XL, the queue cells, the chord unit and the Reckoner (R407). Each takes the
mailbox, and acts on its payload when the MC's turn for it has come. -/

namespace Sys2Proof.Machine

/-! ## Operator: partitions and the fret table -/

/-- PART_CREATE (R353, R448, R450). -/
def State.cmdCreate (s : State) (m : Nat) : State :=
  s.command m 0x0101 fun s b =>
    let c : Create := { part := byteAt b 0, tag := byteAt b 1, groups := fieldAt b 8 2, tcWays := fieldAt b 10 2, tlbWays := fieldAt b 12 2
                        channels := fieldAt b 16 4, modules := fieldAt b 20 4, digest := slice b 24 48
                        regs := (List.range 5).map fun k => (fieldAt b (72 + 4 * k) 2, byteAt b (74 + 4 * k)) }
    if !s.createOk c then s.malformed m
    else if s.mc.mode = 1 || s.mc.rd.st ≠ 2 then s.state m 5
    else (s.createPart c).ok m

/-- PART_ACTIVATE (R354). -/
def State.cmdActivate (s : State) (m : Nat) : State :=
  s.command m 0x0102 fun s b =>
    if 16 ≤ byteAt b 0 then s.malformed m
    else
      let (r, s1) := s.activate (byteAt b 0)
      s1.respond m r.1 r.2 []

/-- PART_DESTROY (R355, R381). -/
def State.cmdDestroy (s : State) (m : Nat) : State :=
  s.command m 0x0103 fun s b =>
    let p := byteAt b 0
    if 16 ≤ p then s.malformed m
    else match (s.part p).st with
      | 0 => s.state m 1
      | 3 => s.ok m
      | _ => (s.startScrub p 1).ok m

/-- REG_SET (R357, R407). -/
def State.cmdReg (s : State) (m : Nat) : State :=
  s.command m 0x0104 fun s b =>
    let p := byteAt b 0
    let burst := byteAt b 4
    if 16 ≤ p || 5 ≤ byteAt b 1 || burst < 8 || 24 < burst then s.malformed m
    else if (s.part p).st ≠ 1 && (s.part p).st ≠ 2 then s.state m 1
    else
      let set (k : Bucket) : Bucket := { k with rate := fieldAt b 2 2, burstLog2 := burst, tokens := min k.tokens (16 * 2 ^ burst) }
      (s.modPart p fun x => { x with buckets := Tab.upd x.buckets (byteAt b 1) set }).ok m

/-- HOST_RANGE_SET (R34). -/
def State.cmdRange (s : State) (m : Nat) : State :=
  s.command m 0x0105 fun s b =>
    let base := fieldAt b 8 8
    let limit := fieldAt b 16 8
    let r : HostRange := { base := base, limit := limit, mask := fieldAt b 2 2, we := bit (byteAt b 1) 1, valid := bit (byteAt b 1) 0 }
    s.okIf m (base % 2 ^ 21 == 0 && limit % 2 ^ 21 == 0) { s with pt := { s.pt with ranges := Tab.put s.pt.ranges (byteAt b 0) r } }

/-- PASID_BIND (R32, R407). -/
def State.cmdPasid (s : State) (m : Nat) : State :=
  s.command m 0x0106 fun s b =>
    let pasid := fieldAt b 0 4 % 2 ^ 20
    let p := byteAt b 4
    let bound := Tab.at s.pt.pasids pasid != 0
    let set (pasids : Tab Nat) (op : Option Nat) : State := { s with pt := { s.pt with pasids := pasids, operatorPasid := op } }
    let free := if s.pt.operatorPasid = some pasid then none else s.pt.operatorPasid
    if !bit (byteAt b 5) 0 then (set (Tab.put s.pt.pasids pasid 0) free).ok m
    else if bit (byteAt b 5) 1 then
      s.okIf m (s.pt.operatorPasid.isNone || s.pt.operatorPasid == some pasid) (set (Tab.put s.pt.pasids pasid 0) (some pasid))
    else s.okIf m (decide (p < 16) && (bound || decide (s.pt.pasids.length < 256))) (set (Tab.put s.pt.pasids pasid (p + 1)) free)

/-- PF_WIN_BASE (R33, R330). -/
def State.cmdPfWin (s : State) (m : Nat) : State :=
  s.command m 0x0107 fun s b =>
    s.okIf m (fieldAt b 0 8 % 2 ^ s.px.bar2Log2 == 0)
      ({ s with pt := { s.pt with pfWinBase := fieldAt b 0 8 }, px := { s.px with winMisaligned := false } })

/-- VF_WIN_BASE (R33). -/
def State.cmdVfWin (s : State) (m : Nat) : State :=
  s.command m 0x0108 fun s b =>
    let base := fieldAt b 8 8
    s.okIf m (decide (byteAt b 0 < 16) && base % 2 ^ 32 == 0 && decide (base < 2 ^ 41))
      { s with pt := { s.pt with vfWinBase := Tab.put s.pt.vfWinBase (byteAt b 0) base } }

/-- Is `[a, b)` wholly covered by valid host-tier ranges (R279)? -/
def State.rangesCover (s : State) (a b : Nat) : Bool :=
  ivCovers (s.pt.ranges.foldl (fun l e => if e.2.valid then ivAdd e.2.base e.2.limit l else l) []) a b

/-- Does `[a, b)` overlap a host-tier range that a partition owns (R279)? -/
def State.ownedOverlap (s : State) (a b : Nat) : Bool :=
  s.pt.ranges.any fun e => e.2.valid && e.2.mask != 0 && decide (a < e.2.limit) && decide (e.2.base < b)

/-- Does `[a, b)` overlap a registered shared range other than entry k (R279)? -/
def State.sharedOverlap (s : State) (k a b : Nat) : Bool :=
  s.pt.shared.any fun e => e.1 != k && e.2.valid && decide (a < e.2.base + e.2.chunks * 2 ^ 21) && decide (e.2.base < b)

/-- SHARED_REGISTER (R279). -/
def State.cmdShared (s : State) (m : Nat) : State :=
  s.command m 0x0109 fun s b =>
    let k := byteAt b 0
    let n := fieldAt b 4 4
    let base := fieldAt b 8 8
    let org := fieldAt b 16 8
    let dig := fieldAt b 24 8
    let size := n * 2 ^ 21
    let tag (x : Nat) : Nat × Nat := (bits x 0 4, bits x 4 1)
    let put (x : Shared) : State :=
      { s with pt := { s.pt with
        shared := Tab.put s.pt.shared k x, repairs := s.pt.repairs.filter fun r => r.entry != k
        repairQueue := s.pt.repairQueue.filter fun r => r.1 != k } }
    if 64 ≤ k then s.malformed m
    else if n = 0 then (put {}).ok m
    else
      let good := decide (n ≤ 2 ^ 20) && base % 2 ^ 21 == 0 && org % 2 ^ 21 == 0 && decide (base + size ≤ 2 ^ 49) && decide (org + size ≤ 2 ^ 49) &&
        s.rangesCover base (base + size) && !s.ownedOverlap org (org + size) && !s.ownedOverlap dig (dig + 48 * n) &&
        !s.sharedOverlap k org (org + size) && (decide (org + size ≤ base) || decide (base + size ≤ org))
      s.okIf m good (put { valid := true, base := base, chunks := n, origin := org, digestAddr := dig, rangeTag := tag (byteAt b 32)
                           originTag := tag (byteAt b 33), failed := [] })

/-- A range of requester IDs without those of `[a, b]`. -/
def RpAssign.without (x : RpAssign) (a b : Nat) : List RpAssign :=
  (if x.first < a then [{ x with last := min x.last (a - 1) }] else []) ++ (if b < x.last then [{ x with first := max x.first (b + 1) }] else [])

/-- RP_ASSIGN (R347). -/
def State.cmdAssign (s : State) (m : Nat) : State :=
  s.command m 0x010A fun s b =>
    let a := fieldAt b 0 2
    let z := fieldAt b 2 2
    let p := byteAt b 4
    let rest := s.px.assigns.flatMap fun x => x.without a z
    let new : List RpAssign := if bit (byteAt b 5) 0 then [{ first := a, last := z, part := p }] else []
    s.okIf m (decide (a ≤ z) && (new == [] || decide (p < 16))) (s.modPx fun x => { x with assigns := rest ++ new })

/-! ## Translation -/

/-- Does an ASID belong to partition p (R45)? -/
def localAsid (p a : Nat) : Bool := a / 64 == p && decide (a < 1024)

/-- Files a mailbox invalidation: it is cut at once when the partition has room and nothing waits before it (R69). -/
def State.boxInval (s : State) (p m kind asid va pages : Nat) : State :=
  let q := s.invq p
  let stamp := s.xl.next
  let s1 := { s with xl := { s.xl with next := stamp + 1 } }.modInvq p fun q =>
    { q with waiting := q.waiting ++ [(stamp, m, kind, asid, va, pages)] }
  if s.invPending p < 8 && q.waiting.isEmpty && q.st != 4 then s1.cutWaiting p else s1

/-- ASID_BIND (R46, R69). -/
def State.cmdAsid (s : State) (m : Nat) : State :=
  s.command m 0x0201 fun s b =>
    let a := fieldAt b 0 2
    let w := byteAt b 2
    let root := fieldAt b 8 8
    let valid := bit (byteAt b 3) 0
    let new : AddrSpace := if valid then { bound := true, root := root, wide := w == 57 } else {}
    if !localAsid m a || (valid && ((w != 48 && w != 57) || root % 4096 != 0 || decide (2 ^ 49 ≤ root))) then s.malformed m
    else if !(Tab.at s.xl.asids a).bound then ({ s with xl := { s.xl with asids := Tab.put s.xl.asids a new } }).ok m
    else ({ s with xl := { s.xl with binds := Tab.put s.xl.binds m (some (a, new)) } }).boxInval m m 2 a 0 0

/-- INVQ_PLACE (R62). -/
def State.cmdInvq (s : State) (m : Nat) : State :=
  s.command m 0x0202 fun s b =>
    let k := byteAt b 0
    let base := fieldAt b 8 8
    if k < 8 || 12 < k || base % 4096 ≠ 0 || !s.inReadable m base (32 * 2 ^ k) then s.malformed m
    else if s.invPending m ≠ 0 then s.state m 3
    else ((s.orphan fun u => match u with
        | .invFetch p _ => p == m
        | _ => false).modInvq m fun q =>
      { q with placed := true, base := base, size := 2 ^ k, p := 0, c := 0, refetch := 0, st := 0, again := false, stale := false }).ok m

/-- DRAIN_LIMIT (R70). -/
def State.cmdDrainLimit (s : State) (m : Nat) : State :=
  s.command m 0x0203 fun s b =>
    let n := fieldAt b 0 4
    s.okIf m (decide (2 ^ 16 ≤ n) && decide (n ≤ 2 ^ 31)) (s.modInvq m fun q => { q with drainLimit := n })

/-- INVALIDATE (R63, R66, R69). -/
def State.cmdInvalidate (s : State) (m : Nat) : State :=
  s.command m 0x0204 fun s b =>
    let p := if m = 16 then byteAt b 0 else m
    let e := slice b 8 32
    if 16 ≤ p || (invKind p e).isNone then s.malformed m
    else if (s.part p).st = 3 then s.state m 1
    else s.boxInval p m (byteAt e 0) (fieldAt e 2 2 % 1024) (fieldAt e 8 8 / 4096 * 4096) (fieldAt e 16 8)

/-! ## Faults, rings, completion rings, counters and chords -/

/-- FQ_PLACE (R87, R89). -/
def State.cmdFq (s : State) (m : Nat) : State :=
  s.command m 0x0301 fun s b =>
    let base := fieldAt b 0 8
    let parked := s.qc.park.any fun e => e.2.valid && e.2.part == m
    if base % 4096 ≠ 0 || !s.inQualifying m base 131072 then s.malformed m
    else if parked then s.state m 3
    else (s.modFq m fun q => { q with placed := true, base := base, prod := 0, cons := 0 }).ok m

/-- FAULT_TIMEOUT (R98). -/
def State.cmdFaultTimeout (s : State) (m : Nat) : State :=
  s.command m 0x0302 fun s b =>
    let n := fieldAt b 0 8
    s.okIf m (decide (2 ^ 20 ≤ n) && decide (n ≤ 2 ^ 36)) (s.modFq m fun q => { q with timeout := n })

/-- RING_CONFIGURE (R24, R102, R103, R155). -/
def State.cmdRing (s : State) (m : Nat) : State :=
  s.command m 0x0401 fun s b =>
    let k := byteAt b 2
    let phys := bit (byteAt b 4) 0
    let q := byteAt b 5
    let asid := fieldAt b 6 2
    let base := fieldAt b 8 8
    match s.globalRing m (fieldAt b 0 2) with
    | none => s.malformed m
    | some r =>
      let good := (s.ring r).st == 0 && decide (6 ≤ k) && decide (k ≤ 16) && decide (byteAt b 3 < 4) && base % 4096 == 0 &&
        s.inQualifying m base (128 * 2 ^ k) && (phys || localAsid m asid) && (s.cq (256 * m + q)).placed
      if !good then s.malformed m
      else if phys && s.mc.mode = 0 then s.state m 5
      else (s.modRing r fun g =>
        { rung := g.rung, configured := true, base := base, sizeLog2 := k, tc := byteAt b 3, asid := asid, phys := phys, cq := q }).ok m

/-- RING_ENABLE (R122). -/
def State.cmdEnable (s : State) (m : Nat) : State :=
  s.command m 0x0402 fun s b =>
    match s.globalRing m (fieldAt b 0 2) with
    | none => s.malformed m
    | some r =>
      let g := s.ring r
      let pi := fieldAt b 2 2
      if !g.configured then s.state m 2
      else if g.size ≤ pi then s.malformed m
      else if g.st ≠ 0 then s.state m 2
      else (s.enableRing r ((fieldAt b 4 2 * g.size + pi) % g.m)).ok m

/-- RING_DISABLE (R124). -/
def State.cmdDisable (s : State) (m : Nat) : State :=
  s.command m 0x0403 fun s b =>
    match s.globalRing m (fieldAt b 0 2) with
    | none => s.malformed m
    | some r =>
      let wait (s : State) : State := s.modRing r fun g => { g with waiters := g.waiters ++ [m] }
      if (s.ring r).st = 0 then s.ok m
      else if (s.ring r).st = 6 then wait s
      else wait (s.disableRing m r)

/-- CQ_PLACE (R155). -/
def State.cmdCq (s : State) (m : Nat) : State :=
  s.command m 0x0404 fun s b =>
    let q := byteAt b 0
    let k := byteAt b 1
    let v := fieldAt b 2 2
    let base := fieldAt b 8 8
    let word := fieldAt b 16 8
    let good := decide (6 ≤ k) && decide (k ≤ 16) && (decide (v < 512) || v == 0xFFFF) && base % 4096 == 0 && word % 8 == 0 &&
      s.inQualifying m base (32 * 2 ^ k) && s.inQualifying m word 8
    if !good then s.malformed m
    else if (s.ringsOf m).any fun r => (s.ring r).st != 0 && (s.ring r).cq == q then s.state m 2
    else (s.modCq (256 * m + q) fun c =>
      { placed := true, base := base, sizeLog2 := k, word := word, vector := if v = 0xFFFF then none else some v, fullEvents := c.fullEvents }).ok m

/-- COUNTER_AREA (R134). -/
def State.cmdArea (s : State) (m : Nat) : State :=
  s.command m 0x0405 fun s b =>
    let k := byteAt b 0
    let base := fieldAt b 8 8
    let last := base + 8 * 2 ^ k - 1
    let inHbm := dieOf base == s.dieId && dieOf last == s.dieId && bits (offOf base) 45 2 == 0 && s.populated (offOf last) &&
      ((List.range 32).all fun c => !(decide (s.chanOf (offOf base) ≤ c) && decide (c ≤ s.chanOf (offOf last))) || s.chanOwner c == some m)
    let busy := (s.ringsOf m).any fun r => (s.ring r).works.any fun w => dCounterEn w.raw
    if k < 6 || 16 < k || base % 4096 ≠ 0 || !(inHbm || s.inQualifying m base (8 * 2 ^ k)) then s.malformed m
    else if busy then s.state m 3
    else
      let a : CounterArea := { placed := true, base := base, log2 := k }
      ({ s with qc := { s.qc with areas := Tab.put s.qc.areas m a } }).ok m

/-- CHORD_QUEUE (R160, R487). -/
def State.cmdChordQueue (s : State) (m : Nat) : State :=
  s.command m 0x0406 fun s b =>
    let k := byteAt b 0
    let base := fieldAt b 8 8
    if k < 4 || 10 < k || base % 4096 ≠ 0 || !s.inQualifying m base (2048 * 2 ^ k) then s.malformed m
    else if (chordSlots m).any fun i => (s.chord i).st != 0 then s.state m 3
    else (s.modChq m fun q =>
      { placed := true, base := base, sizeLog2 := k, committed := q.committed, conflict := q.conflict, others := q.others
        staleEvents := q.staleEvents }).ok m

/-! ## Windows, keys, programs -/

/-- WINDOW_SET (R37 to R39). -/
def State.cmdWindow (s : State) (m : Nat) : State :=
  s.command m 0x0501 fun s b =>
    let k := byteAt b 0
    let n := byteAt b 2
    let valid := bit (byteAt b 1) 2
    let w : Window := if valid then
        { part := m, apOff := fieldAt b 8 8, sizeLog2 := n, target := fieldAt b 16 8, re := bit (byteAt b 1) 0, we := bit (byteAt b 1) 1, valid := true }
      else {}
    let t := Tab.put s.pt.windows (64 * m + k) w
    let good := decide (k < 64) && (!valid ||
      (decide (21 ≤ n) && decide (n ≤ 41) && decide (w.apOff + 2 ^ n ≤ 2 ^ 41) && s.windowsOk t))
    s.okIf m good { s with pt := { s.pt with windows := t } }

/-- KEY_SWITCH (R362, R363). -/
def State.cmdSwitch (s : State) (m : Nat) : State :=
  s.command m 0x0601 fun s b =>
    let g := byteAt b 1
    if 2 ≤ byteAt b 0 || 2 ≤ g then s.malformed m
    else if ((s.part m).slot g).st ≠ .loaded then s.state m 3
    else (s.modPart m fun x => if byteAt b 0 = 0 then { x with scope0 := g } else { x with scope1 := g }).ok m

/-- REKEY (R364). -/
def State.cmdRekey (s : State) (m : Nat) : State :=
  s.command m 0x0602 fun s b =>
    let items := (List.range (byteAt b 1)).map fun i =>
      let e := slice b (8 + 24 * i) 24
      ({ asid := fieldAt e 0 2, va := fieldAt e 8 8, len := fieldAt e 16 8 } : RekeyItem)
    s.okIf m (s.rekeyOk m (byteAt b 0) items) (s.startRekey m (byteAt b 0) items)

/-- UNWRAP: the package's header has been read, or could not be (R374, R375). -/
def State.cmdUnwrap (s : State) (m : Nat) (header : Option Bytes) : State :=
  s.command m 0x0603 fun s b =>
    if !localAsid m (fieldAt b 0 2) then s.malformed m
    else match header with
      | none => s.failed m 6
      | some h =>
        let len := fieldAt h 128 8
        let set := (s.part m).sets.find? fun e => e.2.valid && e.2.setId == slice h 8 16 && e.2.digest == slice h 24 48
        if fieldAt h 0 4 ≠ 0x4B50574B || fieldAt h 4 2 ≠ 1 || len = 0 || 2 ^ 40 < len then s.malformed m
        else match set with
          | none => s.state m 3
          | some e => match Config.aesUnwrap e.2.setKey (slice h 72 40) with
            | none => s.failed m 1
            | some key =>
              let u : Unwrap := { live := true, part := m, asid := fieldAt b 0 2, dest := fieldAt b 16 8, header := padTo 256 h, key := key }
              { s with mc := { s.mc with unwraps := Tab.put s.mc.unwraps m u } }

/-- The package of mailbox m's UNWRAP has been decrypted: `data` is the ciphertext payload as read (R375). -/
def State.unwrapDone (s : State) (m : Nat) (data : Bytes) : State :=
  let u := Tab.at s.mc.unwraps m
  let h := u.header
  let len := fieldAt h 128 8
  if !u.live then s
  else
    let s1 := { s with mc := { s.mc with unwraps := Tab.put s.mc.unwraps m {} } }
    let bad := (s1.emit (.mcZero m u.asid u.dest len)).failed m 1
    if (s1.part m).st ≠ 1 && (s1.part m).st ≠ 2 then s1.failed m 1 else
    match Config.gcmOpen u.key (slice h 112 12) (slice h 0 184) (data ++ slice h 184 16) with
    | none => bad
    | some plain =>
      if data.length ≠ len || Config.sha384 plain ≠ slice h 136 48 then bad
      else
        let s2 := s1.emit (.mcWrite m u.asid u.dest plain)
        (s2.modPart m fun x => { x with measPkg := Config.sha384 (x.measPkg ++ slice h 136 48) }).ok m

/-- PROGRAM_LOAD: the image has been read, or could not be (R376, R407). -/
def State.cmdProgram (s : State) (m : Nat) (image : Option Bytes) : State :=
  s.command m 0x0604 fun s b =>
    if !localAsid m (fieldAt b 0 2) then s.malformed m
    else match image with
      | none => s.failed m 6
      | some d =>
        ((s.modPart m fun x => { x with measProg := Config.sha384 (x.measProg ++ Config.sha384 d) }).emit (.program m d)).ok m

/-! ## Reckoner and tier cache -/

/-- Do the steps of a schedule table increase strictly (R218)? -/
def strictlyRising : List (Nat × Nat) → Bool
  | [] => true
  | [_] => true
  | a :: b :: t => decide (a.2 < b.2) && strictlyRising (b :: t)

/-- SCHED_LOAD (R218). -/
def State.cmdSched (s : State) (m : Nat) : State :=
  s.command m 0x0701 fun s b =>
    let n := byteAt b 1
    let t := 4 * m + byteAt b 0
    let l := (List.range n).map fun i => (fieldAt b (8 + 8 * i + 4) 4, fieldAt b (8 + 8 * i) 4)
    s.okIf m (decide (byteAt b 0 < 4) && decide (1 ≤ n) && decide (n ≤ 64) && strictlyRising l)
      { s with rk := { s.rk with scheds := Tab.put s.rk.scheds t l, loads := Tab.upd s.rk.loads t fun k => wrapAdd 16 k 1 } }

/-- The dies that the readiness report names as partners (R268, R451). -/
def State.reported (s : State) (die : Nat) : Bool := s.mc.rd.mods.any fun e => bits e.2 16 5 == die

/-- REPLICA_SET (R268). -/
def State.cmdReplica (s : State) (m : Nat) : State :=
  s.command m 0x0702 fun s b =>
    let k := byteAt b 0
    let role := byteAt b 1
    let x : ReplicaSet := { valid := true, member := role == 1, asid := fieldAt b 2 2, fmt := byteAt b 4, mx := byteAt b 5 == 1, sr := byteAt b 6 == 1
                            ownerDie := byteAt b 7, wcopy := fieldAt b 8 8 % 2 ^ 57, fprint := fieldAt b 16 8 % 2 ^ 57, n := fieldAt b 24 8
                            master := fieldAt b 32 8 % 2 ^ 57, masterFmt := byteAt b 40, mask := fieldAt b 41 2, seed := fieldAt b 48 8
                            table := fieldAt b 56 8, note := fieldAt b 64 8 }
    let queued := s.rk.queue.any fun e => e.1 / 64 == m && e.2.valid && e.2.set == k
    let clash := s.rk.sets.any fun e => e.1 / 8 == m && e.1 != 8 * m + k && e.2.valid && e.2.wcopy == x.wcopy
    let common := localAsid m x.asid && decide (1 ≤ x.n) && decide (x.n ≤ 2 ^ 36) && decide (byteAt b 5 < 2) && decide (byteAt b 6 < 2) &&
      wcFmtOk x.fmt x.mx && !clash
    let owner := !bit x.mask (s.dieId - 4) && ((maskBits 16 x.mask).all fun i => s.reported (4 + i)) && (x.masterFmt == 0 || x.masterFmt == 10) &&
      x.table % 16 == 0 && s.inReadable m x.table 256 && x.note % 32 == 0 && s.inQualifying m x.note 32
    let member := decide (4 ≤ x.ownerDie) && decide (x.ownerDie < 20)
    let put (v : ReplicaSet) : State := { s with rk := { s.rk with sets := Tab.put s.rk.sets (8 * m + k) v } }
    if 8 ≤ k || 3 ≤ role || (role != 2 && !(common && (if role = 0 then owner else member))) then s.malformed m
    else if queued then s.state m 3
    else (put (if role = 2 then {} else x)).ok m

/-- TC_FLUSH (R193). -/
def State.cmdTcFlush (s : State) (m : Nat) : State :=
  s.command m 0x0703 fun s _ =>
    let lines := Tab.mapV s.tier.lines fun _ l => if l.part = m then { l with keep := false } else l
    ({ s with tier := { s.tier with lines := lines } }).ok m

/-! ## Interrupts, Tally, modules, the port -/

/-- VECTOR_SET (R335, R337). -/
def State.cmdVector (s : State) (m : Nat) : State :=
  s.command m 0x0801 fun s b =>
    let v := fieldAt b 0 2
    let route := byteAt b 2
    let addr := fieldAt b 8 8
    let h : HostVector := { set := true, addr := addr, data := fieldAt b 4 4 }
    let good := decide (v < 512) && decide (route < 2) && addr % 4 == 0 && decide (addr < 2 ^ 49) && !(s.px.rootPort && route == 0)
    s.okIf m good (s.modPx fun x =>
      { x with hostVec := Tab.put x.hostVec (512 * m + v) h, routePcie := Tab.put x.routePcie m (route == 0) })

/-- TALLY_COMMIT (R390, R391). -/
def State.cmdTally (s : State) (m : Nat) : State := s.command m 0x0901 fun s _ => s.requestCommit (some m)

/-- MODULE_RETRAIN (R291). -/
def State.cmdRetrain (s : State) (m : Nat) : State :=
  s.command m 0x0A01 fun s b =>
    let k := byteAt b 0
    let st := (s.mod k).st
    if 24 ≤ k then s.malformed m
    else if st = 0 || st = 1 then s.state m 7
    else ((if st = 5 || st = 6 || st = 7 then s.downMod k 6 else s).startTraining k).ok m

/-- Is a requester ID assigned to a partition (R347)? -/
def State.assignedTo (s : State) (rid : Nat) : Option Nat :=
  (s.px.assigns.find? fun a => decide (a.first ≤ rid) && decide (rid ≤ a.last)).map fun a => a.part

/-- Does Capo refuse a request of R350 (R342)? -/
def State.rpFrozen (s : State) (config : Bool) : Bool := s.px.frozen && !(config && s.px.cause == 5)

/-- Sends the next request of R350, if none is out; a frozen port refuses it (R342, R350). -/
def State.rpPump (s : State) : Nat → State
  | 0 => s
  | n + 1 =>
    match s.px.rpNow, s.px.rpWait with
    | none, r :: rest =>
      let s1 := s.modPx fun x => { x with rpWait := rest }
      if s.rpFrozen r.config then (s1.failed r.mailbox 4).rpPump n
      else
        (s1.tlp.modPx fun x => { x with rpNow := some { r with start := s.clk.px } }).emit
          (.downstream r.config r.write r.target r.reg r.size r.value)
    | _, _ => s

/-- Queues a request of R350 of mailbox m. -/
def State.rpQueue (s : State) (m rid : Nat) (r : RpReq) : State :=
  if !s.px.rootPort then s.state m 5
  else if m < 16 && s.assignedTo rid ≠ some m then s.respond m 3 0 []
  else (s.modPx fun x => { x with rpWait := x.rpWait ++ [{ r with mailbox := m }] }).rpPump (s.px.rpWait.length + 1)

/-- RP_CONFIG (R350). -/
def State.cmdRpConfig (s : State) (m : Nat) : State :=
  s.command m 0x0A02 fun s b =>
    let n := byteAt b 5
    if fieldAt b 2 2 % 4 ≠ 0 || 4096 ≤ fieldAt b 2 2 || 2 ≤ byteAt b 4 || (n ≠ 1 && n ≠ 2 && n ≠ 4) then s.malformed m
    else s.rpQueue m (fieldAt b 0 2) { config := true, write := byteAt b 4 == 1, target := fieldAt b 0 2, reg := fieldAt b 2 2, size := n
                                       value := fieldAt b 8 4 }

/-- RP_MEMORY (R350). -/
def State.cmdRpMemory (s : State) (m : Nat) : State :=
  s.command m 0x0A03 fun s b =>
    let n := byteAt b 3
    if 2 ≤ byteAt b 2 || n = 0 || 8 < n then s.malformed m
    else s.rpQueue m (fieldAt b 0 2) { config := false, write := byteAt b 2 == 1, target := fieldAt b 8 8, reg := fieldAt b 0 2, size := n
                                       value := fieldAt b 16 8 }

/-- The downstream request in progress completes, or its completion does not come (R339, R342, R350). -/
def State.rpDone (s : State) (res : RpRes) : State :=
  match s.px.rpNow with
  | none => s
  | some r =>
    let s1 := s.modPx fun x => { x with rpNow := none }
    let next (s : State) : State := s.rpPump (s.px.rpWait.length + 1)
    if s.rpFrozen r.config then next (s1.failed r.mailbox 4)
    else match res with
      | .data v => next (s1.tlp.respond r.mailbox 0 0 (leBytes (if r.config then 4 else 8) v))
      | .error => next (s1.tlp.failed r.mailbox 6)
      | .timeout =>
        if s.clk.px < r.start + 2 ^ 24 then s
        else next ((s1.aerError 14 []).failed r.mailbox 5)

/-- TEST_LOOPBACK (R320). -/
def State.cmdLoopback (s : State) (m : Nat) : State :=
  s.command m 0x0A04 fun s b =>
    if 4 ≤ byteAt b 0 || 2 ≤ byteAt b 1 then s.malformed m
    else if s.mc.mode = 0 then s.state m 5
    else (s.modMod (byteAt b 0) fun x => { x with loopback := byteAt b 1 == 1 }).ok m

end Sys2Proof.Machine
end

