-- ==== Sys2Proof/Machine/Reports.lean ====
section
/-! DEFINITION. The reporting, firmware, admission and mode commands, sensors and frequency steps (R407, R412, R413, R415, R448, R460,
R466, R467). -/

namespace Sys2Proof.Machine

/-! ## Reports -/

/-- Fields of a firmware manifest (R414). -/
def mSvn (b : Bytes) : Nat := fieldAt b 8 4
def mVersion (b : Bytes) : Nat := fieldAt b 12 4
def mMcDigest (b : Bytes) : Bytes := slice b 16 48
def mRkDigest (b : Bytes) : Bytes := slice b 64 48
def mCcDigest (b : Bytes) : Bytes := slice b 112 48
/-- The die expected across port n of die d: N 0, E 1, S 2, W 3. -/
def mExpected (b : Bytes) (d n : Nat) : Nat := byteAt b (160 + 4 * (d - 4) + n)

/-- EVENT_READ (R412). -/
def State.cmdEvents (s : State) (m : Nat) : State :=
  s.command m 0x0B01 fun s b =>
    let first := fieldAt b 0 8
    let n := byteAt b 8
    if n = 0 || 64 < n then s.malformed m
    else
      let mine := s.mc.log.filter fun e => decide (first ≤ e.seq) && (16 ≤ m || e.part == some m)
      let l := mine.take n
      let lost := match s.mc.log with
        | [] => false
        | e :: _ => decide (first < e.seq)
      s.respond m 0 0 (leBytes 1 l.length ++ leBytes 1 (b2n lost) ++ zeros 6 ++ l.flatMap fun e => e.bytes false)

/-- MC_SENSOR[k]. -/
def State.sensorWord (s : State) (k : Nat) : Nat :=
  let x := Tab.at s.mc.pwr.sensors k
  fld x.2 16 16 + fld x.1 0 16

/-- SENSOR_READ (R407). -/
def State.cmdSensors (s : State) (m : Nat) : State :=
  s.command m 0x0B02 fun s _ => s.respond m 0 0 ((List.range 8).flatMap fun k => leBytes 8 (s.sensorWord k))

/-- Is unit u one that exists (R415)? -/
def realUnit (u : Nat) : Bool := decide (u ≤ 88) || (decide (96 ≤ u) && decide (u < 112))

/-- UNIT_ADMIT (R415, R432). -/
def State.cmdAdmit (s : State) (m : Nat) : State :=
  s.command m 0x0B06 fun s b =>
    let u := fieldAt b 0 2
    let l := byteAt b 2
    if !realUnit u || 4 ≤ l then s.malformed m
    else match s.mcWrite u l (fieldAt b 4 2) with
      | none => s.respond m 2 4 (leBytes 8 (s.unitWord u))
      | some s1 =>
        let raised := decide ((s.unit u).mcAdmit < l)
        let s2 := s1.modUnit u fun w => { w with intended := l, operator := raised || (w.operator && l != 0) }
        s2.respond m 0 0 (leBytes 8 (s2.unitWord u))

/-- UNIT_READ (R407). -/
def State.cmdUnits (s : State) (m : Nat) : State :=
  s.command m 0x0B07 fun s b =>
    let first := fieldAt b 0 2
    let n := byteAt b 2
    let sees (u : Nat) : Bool := 16 ≤ m || u == 96 + m || (decide (u < 64) && bit (s.part m).groups (u / 4)) ||
      (decide (68 ≤ u) && decide (u < 88) && bit (s.part m).modules (u - 68))
    if n = 0 || 112 < first + n then s.malformed m
    else s.respond m 0 0 (((List.range n).map fun i => first + i).flatMap fun u =>
      leBytes 8 (if realUnit u && sees u then s.unitWord u else 0))

/-- MODE_SET (R448). -/
def State.cmdMode (s : State) (m : Nat) : State :=
  s.command m 0x0B08 fun s b =>
    let k := byteAt b 0
    if 4 ≤ k then s.malformed m
    else if partIxs.any fun p => (s.part p).st != 0 then s.state m 1
    else if (k = 2 && !s.ec.testMode) || (k = 0 && s.mc.rd.st != 2) then s.state m 5
    else ({ s with mc := { s.mc with mode := k } }).ok m

/-- GET_INFO (R407). -/
def State.cmdInfo (s : State) (m : Nat) : State :=
  s.command m 0x0B09 fun s _ =>
    let f := s.mc.fw
    s.respond m 0 0 (leBytes 4 (mVersion f.manifest) ++ leBytes 4 (mSvn f.manifest) ++ leBytes 1 0xB0 ++ leBytes 1 s.dieId ++ zeros 2 ++
      leBytes 2 s.fuses.groups ++ leBytes 1 (b2n s.fuses.halfArray) ++ zeros 1 ++ leBytes 4 s.fuses.modules)

/-! ## Firmware (R413) -/

/-- Changes the firmware state. -/
def State.modFw (s : State) (f : Firmware → Firmware) : State := { s with mc := { s.mc with fw := f s.mc.fw } }

/-- The bank the MC does not run from. -/
def State.spareBank (s : State) : Nat := 1 - s.mc.fw.bootBank

/-- FW_STAGE (R413). -/
def State.cmdStage (s : State) (m : Nat) : State :=
  s.command m 0x0B03 fun s b =>
    let off := fieldAt b 0 4
    let n := fieldAt b 4 4
    let data := slice b 8 n
    if n = 0 || 8192 < n || 2 ^ 22 < off + n then s.malformed m
    else if off = 0 then
      ((s.modFw fun f => { f with staged := Tab.writeBytes [] 0 data, stagedLen := n, owner := some m, verified := false }).emit
        (.flash s.spareBank 0 data)).ok m
    else if s.mc.fw.owner ≠ some m then s.state m 6
    else ((s.modFw fun f => { f with staged := Tab.writeBytes f.staged off data, stagedLen := max f.stagedLen (off + n) }).emit
      (.flash s.spareBank off data)).ok m

/-- The checks of FW_VERIFY on a manifest and the digest of its bank's image: 0, or the DETAIL of the first that fails (R413). -/
def manifestFault (manifest image : Bytes) (svnMin : Nat) : Nat :=
  if !Config.ecdsaVerify Config.firmwareKey (slice manifest 0 256) (slice manifest 256 96) then 2
  else if image ≠ mMcDigest manifest then 1
  else if byteAt manifest 6 ≠ 0xB0 then 1
  else if mSvn manifest < svnMin then 3
  else 0

/-- FW_VERIFY (R413, R414). -/
def State.cmdVerify (s : State) (m : Nat) : State :=
  s.command m 0x0B04 fun s _ =>
    let f := s.mc.fw
    if f.owner ≠ some m then s.state m 6
    else
      let man := Tab.readBytes f.staged 0 352
      match manifestFault man (Config.sha384 (Tab.readBytes f.staged 352 (f.stagedLen - 352))) f.svnMin with
      | 0 => ((s.modFw fun f => { f with verified := true }).mgtEvent 0x70 none none (mSvn man)).ok m
      | d => s.failed m d

/-- FW_ACTIVATE (R413). -/
def State.cmdFwActivate (s : State) (m : Nat) : State :=
  s.command m 0x0B05 fun s b =>
    let f := s.mc.fw
    let svn := mSvn (Tab.readBytes f.staged 0 352)
    let raise_ := bit (byteAt b 0) 0 && decide (f.svnMin < svn)
    if f.owner ≠ some m then s.state m 6
    else if !f.verified then
      let (d, s1) := s.choose 256
      s1.state m d
    else if raise_ && 32 ≤ f.raises then s.failed m 3
    else (s.modFw fun f =>
      { f with active := s.spareBank, svnMin := if raise_ then svn else f.svnMin, raises := f.raises + b2n raise_ }).ok m

/-! ## Sensors and CK_ARR (R460, R466, R467) -/

/-- Changes the power control. -/
def State.modPwr (s : State) (f : Power → Power) : State := { s with mc := { s.mc with pwr := f s.mc.pwr } }

/-- Reports a PWR or CLK error of the MC's domain. -/
def State.pwrError (s : State) (source cls detail : Nat) : State := s.report { source := source, cls := cls, detail := detail }

/-- Bounds of CK_ARR as the MC takes them. -/
def Power.top (x : Power) : Nat := if 12 ≤ x.fmax && x.fmax ≤ 21 then x.fmax else 21
def Power.low (x : Power) : Nat := if 12 ≤ x.fmin && x.fmin ≤ 21 && x.fmin ≤ x.top then x.fmin else 12

/-- Requests one step of CK_ARR, if none is in progress; both counts restart (R460, R466). -/
def State.stepArr (s : State) (up : Bool) : State :=
  if s.mc.pwr.step.isSome then s
  else s.modPwr fun x => { x with step := some (s.clk.mgt, up), late := false, over_ := 0, under := 0 }

/-- Is a sample of sensor k beyond its warning limit, or (`trip`) its trip limit (R467)? Temperatures are signed. -/
def beyond (k v : Nat) (trip : Bool) : Bool :=
  let t := signed 16 v
  if k < 4 then decide ((if trip then 1760 else 1520) < t)
  else if k = 4 then (if trip then decide (v < 675) || decide (825 < v) else decide (v < 713) || decide (787 < v))
  else if k = 5 then (if trip then decide (v < 765) || decide (935 < v) else decide (v < 808) || decide (892 < v))
  else if k = 6 then trip && decide (2000 < v)
  else false

/-- Takes a sample of one sensor and reports what its limits ask (R467). -/
def State.takeSensor (s : State) (k v : Nat) : State :=
  let old := Tab.at s.mc.pwr.sensors k
  let top := if k < 4 then (if signed 16 old.2 < signed 16 v then v else old.2) else max old.2 v
  let first := s.mc.pwr.sensors.all fun e => e.1 != k
  let s1 := s.modPwr fun x => { x with sensors := Tab.put x.sensors k (v, if first then v else top) }
  let s2 := if beyond k v false then s1.pwrError 15 1 k else s1
  if beyond k v true then s2.pwrError 15 2 k else s2

/-- The MC samples the sensors and caps the power (R466, R467). -/
def State.sampleSensors (s : State) (v : List Nat) : State :=
  if s.clk.mgt < s.mc.pwr.sampled + 2 ^ 16 then s
  else
    let s1 := (s.each (List.range 8) fun s k => s.takeSensor k (v.getD k 0 % 2 ^ 16)).modPwr fun x => { x with sampled := s.clk.mgt }
    let x := s1.mc.pwr
    let p := v.getD 6 0
    let hot := (List.range 4).any fun k => beyond k (v.getD k 0) false
    let limit := 8 * x.limit
    let atMin := x.freq == x.low
    let floor_ := if atMin && limit < p then x.floor_ + 1 else 0
    let s2 := s1.modPwr fun x => { x with floor_ := if floor_ = 16 then 0 else floor_ }
    let s3 := if floor_ = 16 then s2.pwrError 15 1 6 else s2
    if !x.capEn then s3
    else
      let over_ := if limit < p || hot then x.over_ + 1 else 0
      let under := if p + 64 < limit && !hot then x.under + 1 else 0
      let s4 := s3.modPwr fun x => { x with over_ := over_, under := under }
      if 2 ≤ over_ && x.low < x.freq then s4.stepArr false
      else if 16 ≤ under && x.freq < x.top then s4.stepArr true
      else s4

/-- The PLL has relocked: CK_ARR runs at the new frequency (R460). -/
def State.arrStepDone (s : State) : State :=
  match s.mc.pwr.step with
  | none => s
  | some (_, up) => s.modPwr fun x => { x with step := none, freq := if up then min 21 (x.freq + 1) else max 12 (x.freq - 1) }

/-- A step has not completed within 2^16 CK_MGT cycles (R418, R460). -/
def State.arrStepLate (s : State) : State :=
  match s.mc.pwr.step with
  | none => s
  | some (t, _) =>
    if s.mc.pwr.late || s.clk.mgt < t + 2 ^ 16 then s
    else (s.modPwr fun x => { x with late := true }).report { source := 14, cls := 1, detail := 1 }

/-- A write to MC_PWR_CTRL; an ARR_FREQ_MAX below the present frequency steps down at once (R466). -/
def State.writePwr (s : State) (w : Nat) : State :=
  let s1 := s.modPwr fun x =>
    { x with limit := bits w 40 8, fmax := bits w 24 8, fmin := bits w 16 8, capEn := bit w 1, lpEn := bit w 0 }
  if s1.mc.pwr.capEn && decide (s1.mc.pwr.top < s1.mc.pwr.freq) then (s1.stepArr false).modPwr fun x => { x with maxAt := some s.clk.mgt } else s1

/-- One further step down while the frequency is above ARR_FREQ_MAX (R466). -/
def State.freqMaxStep (s : State) : State :=
  match s.mc.pwr.maxAt with
  | none => s
  | some t =>
    if s.mc.pwr.freq ≤ s.mc.pwr.top || !s.mc.pwr.capEn then s.modPwr fun x => { x with maxAt := none }
    else if s.clk.mgt < t + 2 ^ 16 || s.mc.pwr.step.isSome then s
    else (s.stepArr false).modPwr fun x => { x with maxAt := some s.clk.mgt }

end Sys2Proof.Machine
end

