-- ==== Sys2Proof/Machine/Resets.lean ====
section
/-! DEFINITION. The four resets, boot, the compute-cell broadcast, topology and readiness (R296, R324, R334, R393, R398, R437 to R452,
R457 to R459, R485). -/

namespace Sys2Proof.Machine

/-! ## Cold reset and boot -/

/-- Does the port of PL[m] face the package edge (R454)? -/
def State.edge (s : State) (m : Nat) : Bool :=
  match m / 5 with
  | 0 => s.pos / 4 == 0
  | 1 => s.pos % 4 == 3
  | 2 => s.pos / 4 == 3
  | _ => s.pos % 4 == 0

/-- Cold reset: every unit returns to its reset values, and the straps are sampled (R438, R457). What waits outside the block, the flash
and the free values already drawn are no state of a unit. -/
def State.coldReset (s : State) (x : Straps) : State :=
  let (n, s0) := s.draw
  let fw := s.mc.fw
  let fuses : Fuses := { groups := x.groups.toNat, modules := x.modules.toNat, halfArray := x.halfArray }
  let s1 : State :=
    { pending := s.pending, outbox := s.outbox, free := s0.free, nextReq := s.nextReq, clk := { ticks := s.clk.ticks }, pos := x.pos, fuses := fuses
      units := moduleWords, rk := { halfArray := x.halfArray }, ec := { testMode := x.testMode }, px := { rootPort := x.rootPort }
      tally := { epoch := n % 2 ^ 64, selfFail := !x.tallyOk }
      mc := { fw := { active := fw.active, svnMin := fw.svnMin, raises := fw.raises } } }
  let s2 := s1.each (List.range 89) fun s u => s.modUnit u fun w =>
    let c := s.hwCause u
    { w with hwAdmit := c.1, cause := c.2, viewHw := c.1, viewCause := c.2 }
  if x.tallyOk then s2 else s2.report { source := 10, cls := 2 }

/-- Directory entries and objects of an identity image, the first object at `at_` (R332). -/
def imageParts : Nat → List (Nat × Bytes) → Bytes × Bytes
  | _, [] => ([], [])
  | at_, (k, b) :: rest =>
    let r := imageParts (at_ + b.length) rest
    (leBytes 4 k ++ leBytes 4 at_ ++ leBytes 4 b.length ++ zeros 4 ++ padTo 48 (Config.sha384 b) ++ r.1, b ++ r.2)

/-- The identity image of objects by type (R331, R332). -/
def identityImage (objs : List (Nat × Bytes)) : Bytes :=
  let start := 0x90 + 64 * objs.length
  let parts := imageParts start objs
  let units := ceilDiv (start + parts.2.length) 512
  let pcir := [0x50, 0x43, 0x49, 0x52] ++ leBytes 2 0x1F3C ++ leBytes 2 0x4B30 ++ zeros 2 ++ leBytes 2 28 ++ leBytes 1 3 ++ leBytes 3 0x120000 ++
    leBytes 2 units ++ zeros 2 ++ leBytes 1 0xFE ++ leBytes 1 0x80 ++ zeros 6
  let dir := leBytes 4 0x4944494B ++ leBytes 2 1 ++ leBytes 2 objs.length ++ zeros 8
  padTo (512 * units) (([0x55, 0xAA] ++ zeros 0x16 ++ leBytes 2 0x40 ++ zeros 0x26 ++ pcir) ++ zeros 0x24 ++ dir ++ parts.1 ++ parts.2)

/-- The bank that the die ROM loads: the active one if it passes, else the other (R444). -/
def State.bootChoice (s : State) (b0 b1 : Bank) : Option Nat :=
  let good (k : Nat) : Bool :=
    let b := if k = 0 then b0 else b1
    manifestFault b.manifest b.digest s.mc.fw.svnMin == 0
  let a := s.mc.fw.active
  if good a then some a else if good (1 - a) then some (1 - a) else none

/-- Steps 2 to 5 of the boot: firmware or ROM recovery, the identity image, the array-empty bits, and the start of training
(R287, R325, R444, R445). -/
def State.romBoot (s : State) (b0 b1 : Bank) : State :=
  if s.mc.ready then s
  else
    let run := s.bootChoice b0 b1
    let man := match run with
      | some 0 => b0.manifest
      | some _ => b1.manifest
      | none => []
    let image := match run with
      | some _ => identityImage [(1, Config.certChain), (2, man), (3, Config.tallyCert)]
      | none => identityImage [(1, Config.certChain)]
    let s1 := s.modFw fun f => { f with manifest := man, authOk := run.isSome, recovery := run.isNone, bootBank := run.getD f.active }
    let s2 := { s1 with
      mc := { s1.mc with ready := true, reconcileAt := s.clk.mgt, rd := { s1.mc.rd with st := 1 } }
      px := { s1.px with configReady := true, image := image }
      xl := { s1.xl with ready := true }, ch := { s1.ch with ready := true }, rk := { s1.rk with ready := true } }
    let s3 := s2.each (List.range 24) fun s k =>
      if 4 ≤ k && (bit s.fuses.modules (k - 4) || s.edge (k - 4)) then s.setModState k 1 else s.startTraining k
    s3.each (List.range 18) fun s m => if (s.box m).busy then s.judgeCmd m else s

/-! ## Compute-cell firmware (R446) -/

/-- The MC checks the compute-cell image and broadcasts it block by block. -/
def State.broadcast (s : State) (image : Bytes) : State :=
  let f := s.mc.fw
  if !s.mc.ready || f.recovery || f.ccStep ≠ 0 || s.mc.rd.cp = 1 then s
  else if Config.sha384 image = mCcDigest f.manifest then
    (s.modFw fun f => { f with ccStep := 1, ccSeen := [], ccFailed := 0, ccAt := s.clk.mgt }).emit (.dieNetwork 0 image)
  else s.modFw fun f => { f with ccStep := 2, ccFailed := 255 }

/-- Cell `c` has answered or run out of time; `bad` counts it in CC_FAILED. -/
def State.cellEnds (s : State) (c : Nat) (bad : Bool) : State :=
  s.modFw fun f => { f with ccSeen := f.ccSeen ++ [c], ccFailed := min 254 (f.ccFailed + b2n bad) }

/-- A compute cell returns its digest. -/
def State.cellDigest (s : State) (c : Nat) (digest : Bytes) : State :=
  let f := s.mc.fw
  if f.ccStep ≠ 1 || f.ccSeen.contains c then s else s.cellEnds c (digest != mCcDigest f.manifest)

/-- A compute cell has returned no digest in time. -/
def State.cellTimeout (s : State) (c : Nat) : State :=
  let f := s.mc.fw
  if f.ccStep ≠ 1 || f.ccSeen.contains c || s.clk.mgt < f.ccAt + 2 ^ 22 then s else s.cellEnds c true

/-! ## Topology and readiness (R449 to R452) -/

/-- Is every module in LINK_UP, DOWN or DISABLED? -/
def State.settled (s : State) : Bool :=
  (List.range 24).all fun k =>
    let x := s.mod k
    x.st == 1 || x.st == 8 || x.carries

/-- The die expected across port n, 0x1F for none. -/
def State.expected (s : State) (n : Nat) : Nat :=
  if s.mc.fw.authOk then mExpected s.mc.fw.manifest s.dieId n else 0x1F

/-- The MC compares every peer module in LINK_UP with the manifest (R449). -/
def State.topologyCheck (s : State) : State :=
  if !s.mc.ready || !s.settled then s
  else s.each (List.range 20) fun s m =>
    let e := s.expected (m / 5)
    let x := s.mod (4 + m)
    if x.carries && e != 0x1F && x.partnerDie != e then s.downMod (4 + m) 3 else s

/-- MC_READY_MOD[k] (R451). -/
def State.readyMod (s : State) (k : Nat) : Nat :=
  let x := s.mod k
  let peer := decide (4 ≤ k)
  let fused := peer && bit s.fuses.modules (k - 4)
  let edge := peer && s.edge (k - 4)
  let e := if peer then s.expected ((k - 4) / 5) else 0x1F
  let die := if peer && x.carries then x.partnerDie else 0x1F
  fld e 24 5 + fld die 16 5 + fld x.width 8 8 + fld (b2n fused) 7 1 + fld (b2n edge) 6 1 + fld (b2n (!x.carries && !fused && !edge)) 5 1 +
    fld (b2n (x.carries && x.width == 32)) 4 1 + fld (b2n (x.downCause == 3)) 3 1 + fld x.spares 0 3

/-- Is port n acceptable (R450)? -/
def State.acceptable (s : State) (n : Nat) : Bool :=
  let e := s.expected n
  let good (i : Nat) : Bool :=
    let x := s.mod (4 + 5 * n + i)
    x.carries && x.partnerDie == e
  s.edge (5 * n) || e == 0x1F || decide (3 ≤ ((List.range 5).filter good).length)

/-- Do all conditions of R450 hold? -/
def State.readyNow (s : State) : Bool :=
  s.mc.fw.authOk && decide (s.mc.fw.ccFailed < 255) && s.firstHl.isSome && (List.range 4).all s.acceptable

/-- The link fields of MC_READY as the hardware stands (R451). -/
def State.linkWord (s : State) : Nat :=
  let up (l : List Nat) : Nat := (l.filter fun k => (s.mod k).carries).length
  let short := (List.range 4).foldl (fun n k => if s.acceptable k then n else n + 2 ^ k) 0
  let poor := (List.range 4).foldl (fun n k =>
    if (List.range 5).any fun i => bits (s.readyMod (4 + 5 * k + i)) 4 2 != 0 then n + 2 ^ k else n) 0
  fld (up (List.range 4)) 24 3 + fld (up ((List.range 20).map (4 + ·))) 16 5 + fld short 12 4 + fld poor 8 4

/-- MC_READY. -/
def State.readyWord (s : State) : Nat :=
  fld s.mc.fw.ccFailed 32 8 + s.mc.rd.word + fld (b2n s.mc.fw.recovery) 2 1 + s.mc.rd.st

/-- Changes the readiness state. -/
def State.modRd (s : State) (f : Readiness → Readiness) : State := { s with mc := { s.mc with rd := f s.mc.rd } }

/-- Logs READINESS_CHANGE (R452). -/
def State.readyEvent (s : State) : State := s.mgtEvent 0x22 none none s.readyWord

/-- May the MC decide readiness now? First after boot and after a compute-part reset, once training has settled and the broadcast has
been tried; then at every module state change (R444, R450). -/
def State.mayDecide (s : State) : Bool :=
  s.mc.ready && s.mc.rd.cp != 1 &&
    (if s.mc.rd.st ≤ 1 || s.mc.rd.cp = 2 then s.settled && (s.mc.fw.ccStep != 0 || s.mc.fw.recovery) else s.mc.decide)

/-- The MC decides readiness and writes its report (R448, R450 to R452). -/
def State.decideReady (s : State) : State :=
  if !s.mayDecide then s
  else
    let good := s.readyNow
    let old := s.mc.rd
    let st := if good then 2 else 3
    let mods := Tab.ofList ((List.range 24).map fun k => (k, s.readyMod k))
    let word := s.linkWord
    let s1 := State.modRd { s with mc := { s.mc with decide := false, mode := if good && !old.declared then 0 else s.mc.mode } } fun r =>
      { r with st := st, word := word, mods := mods, was := r.was || good, declared := r.declared || good, cp := 0, hold := r.hold && !good }
    let s2 := if old.was && old.st != st then s1.readyEvent else s1
    if old.hold && good then s2.each (List.range 20) fun s m => s.pump m else s2

/-! ## Compute-part reset (R438, R441, R442, R458) -/

/-- CP_RST_N has been low for 16 CK_MGT cycles: scrubs start, readiness and MISSION mode are lost (R441). -/
def State.computeReset (s : State) : State :=
  if s.mc.rd.cp ≠ 0 then s
  else
    let s1 := s.each (partIxs.filter fun p => (s.part p).st == 1 || (s.part p).st == 2) fun s p => s.startScrub p 5
    let s2 := s1.modRd fun r => { r with st := 3, cp := 1, cpResets := satAdd 16 r.cpResets 1, last := 1, declared := false, hold := true }
    State.readyEvent { s2 with mc := { s2.mc with mode := 1 } }

/-- Every scrub has ended: the data path and PT return to their reset values, but for the check tags of the lifetimes before, and the
compute cells are reset (R441). -/
def State.computeRestore (s : State) : State :=
  let busy := partIxs.any fun p => (s.part p).st != 0 || (s.part p).flr.isSome
  if s.mc.rd.cp ≠ 1 || busy || s.links.lossReset then s
  else
    let parts := Tab.mapV s.pt.parts fun _ x => { prevTag := x.prevTag }
    let s1 := { s with
      qc := {}, xl := { ready := true }, ch := { ready := true }, rk := { ready := true, halfArray := s.fuses.halfArray }, tier := {}
      pt := { parts := parts }, px := { s.px with winMisaligned := false } }
    let s2 := s1.modFw fun f => { f with ccStep := 0, ccSeen := [], ccFailed := 0 }
    (s2.modRd fun r => { r with cp := 2 }).emit (.dieNetwork 1 [])

/-! ## Partition function-level reset (R334, R438 to R440, R442) -/

/-- The placements of partition p are cleared (R438). -/
def State.unplace (s : State) (p : Nat) : State :=
  let qc := { s.qc with
    fq := Tab.upd s.qc.fq p fun q => { q with placed := false, base := 0 }
    cqs := Tab.mapV s.qc.cqs fun k q => if k / 256 = p then { fullEvents := q.fullEvents } else q
    areas := Tab.keep s.qc.areas fun k => k != p }
  let xl := { s.xl with invq := Tab.upd s.xl.invq p fun q => { q with placed := false, base := 0, size := 0, p := 0, c := 0, entry := [] } }
  let ch := { s.ch with queues := Tab.upd s.ch.queues p fun q => { q with placed := false, base := 0, sizeLog2 := 0, p := 0, c := 0 } }
  { s with qc := qc, xl := xl, ch := ch }

/-- The mailboxes whose RING_DISABLE waits for a ring of partition p. -/
def State.ringWaiters (s : State) (p : Nat) : List Nat := (s.ringsOf p).flatMap fun r => (s.ring r).waiters

/-- A function-level reset of VF p (R334, R438, R442). -/
def State.partitionReset (s : State) (p : Nat) : State :=
  let s1 := (s.resetVf p).modRd fun r => { r with flrs := satAdd 16 r.flrs 1, lastPart := p, last := 2 }
  if (s.part p).st = 3 || (s.part p).flr.isSome then s1
  else
    let waiters := s1.ringWaiters p
    let s2 := ((s1.stopWork p false Ring.cleared).unplace p).dropLines p
    let s3 := (s2.modPart p fun x => { x with flr := some s.clk.fab }).settleUnit (96 + p)
    s3.each waiters fun s m => s.ok m

/-- A function-level reset of the PF: its configuration space only (R334). -/
def State.pfReset (s : State) : State :=
  if s.px.rootPort then s
  else
    let x := s.px
    let s1 := s.resetPort
    s1.modPx fun y => { y with
      fns := Tab.put x.fns 16 default, msix := Tab.keep x.msix fun k => k / 512 != 16, linkDisable := x.linkDisable
      vfEnable := x.vfEnable, vfMemSpace := x.vfMemSpace, numVfs := x.numVfs, vfBar0 := x.vfBar0, vfBar2 := x.vfBar2, vfBar4 := x.vfBar4 }

/-- A request that belongs to the work that a partition function-level reset of p ends. -/
def Req.ofReset (q : Req) (p : Nat) : Bool :=
  q.part == p && !q.inbound && match q.purpose with
    | .rekeyLeaf _ => false
    | _ => true

/-- The partition function-level reset of p ends: its translations are emptied and its invalidations acknowledged with no note
(R438, R440, R485). -/
def State.partitionResetEnd (s : State) (p : Nat) : State :=
  match (s.part p).flr with
  | none => s
  | some t0 =>
    if s.reqs.any (fun q => q.ofReset p) && s.clk.fab < t0 + 2 ^ 24 then s
    else
      let s1 := (s.forget fun q => q.ofReset p).emptyTlbs p
      let acked := (s1.xl.invals.filter fun i => i.part == p).length
      let done := (s1.xl.invals.filter fun i => i.part == p).filterMap fun i => i.mailbox
      let waiting := (s1.invq p).waiting.map fun w => w.2.1
      let s2 := (s1.each waiting fun s m => s.applyBind m).dropInvals p
      let s3 := s2.modInvq p fun q => { q with acked := wrapAdd 16 q.acked (acked + waiting.length) }
      let s4 := (s3.modPart p fun x => { x with flr := none }).settleUnit (96 + p)
      s4.each (done ++ waiting) fun s m => s.ok m

/-! ## Host-link loss (R296, R438, R442, R485) -/

/-- Every partition's work ends and what hangs on the host is forgotten (R438). -/
def State.forgetHost (s : State) : State :=
  let inv := partIxs.flatMap s.invWaiters
  let waiters := partIxs.flatMap s.ringWaiters
  let s1 := s.each partIxs fun s p => ((s.stopWork p true Ring.cleared).dropInvals p).unplace p
  let s2 := { s1 with
    xl := { s1.xl with l1 := [], l2 := [], walkCache := [], asids := [], binds := [] }
    tier := { s1.tier with lines := [] }
    pt := { s1.pt with ranges := [], shared := [], repairs := [], repairQueue := [], pasids := [], operatorPasid := none }
    px := { s1.px with hostVec := Tab.keep s1.px.hostVec fun k => Tab.at s1.px.routePcie (k / 512) } }
  s2.each (inv ++ waiters) fun s m => s.ok m

/-- Host-link loss is declared: 1 every module out, 2 CXL hot reset or link-disable, 3 sideband reset indication (R296). -/
def State.hostLoss (s : State) (cause : Nat) : State :=
  let l := { s.links with lossCount := satAdd 16 s.links.lossCount 1, lastCause := cause }
  if s.links.lossReset then { s with links := l }
  else
    let s1 := { s with links := { l with lossReset := true, io := [] } }.orphan fun u => match u with
      | .inboundWrite 0 _ => true
      | _ => false
    let s2 := (s1.forgetHost.modRd fun r => { r with last := 3 }).mgtEvent 0x21 none none cause
    let s3 := s2.each ((List.range 4).filter fun k => (s2.mod k).st != 1) fun s k => s.startTraining k
    { s3 with links := { s3.links with everUp := false, outFrom := none } }

/-- Every host-link module has been out of LINK_UP for 2^20 CK_MGT cycles (R296). -/
def State.outTimer (s : State) : State :=
  match s.links.outFrom with
  | some t => if s.links.everUp && decide (t + 2 ^ 20 ≤ s.clk.mgt) && !s.links.lossReset then s.hostLoss 1 else s
  | none => s

/-- The host-link-loss reset ends (R296). -/
def State.hostLossEnd (s : State) : State :=
  let settled := (List.range 4).all fun k =>
    let x := s.mod k
    x.st == 1 || x.st == 8 || x.carries
  if s.links.lossReset && settled then
    { s with links := { s.links with lossReset := false, everUp := s.firstHl.isSome, outFrom := none } }
  else s

/-! ## The rest -/

/-- A hot reset or a link disable arrives in endpoint mode (R324). -/
def State.portReset (s : State) (disable : Bool) : State :=
  if s.px.rootPort then s else s.resetPort.modPx fun x => { x with linkDisable := disable }

/-- A reference clock has had no edge for 1 µs: REFCLK_CORE, or (`px`) PX_REFCLK (R459). -/
def State.clockLoss (s : State) (px : Bool) : State := s.report { source := 14, cls := 2, detail := if px then 4 else 0 }

/-- The HBM controllers report the channel size (R27). -/
def State.channelSize (s : State) (log2 : Nat) : State := { s with pt := { s.pt with chSizeLog2 := log2, mapValid := true } }

end Sys2Proof.Machine
end

