-- ==== Sys2Proof/Machine/Regs.lean ====
section
/-! DEFINITION. The BAR_0 register map: what each register reads, and what a write to it does (R6 to R9, R336, R399 to R404, R481 to
R483). -/

namespace Sys2Proof.Machine

/-! ## Queue cells -/

/-- QC[c].RING_STATE[i] and RING_INDEX[i] of global ring r. -/
def State.ringRead (s : State) (r : Nat) (second : Bool) : Nat :=
  let g := s.ring r
  if second then fld (g.lapOf g.p) 48 16 + fld (g.p % g.size) 32 16 + fld (g.lapOf g.c) 16 16 + fld (g.c % g.size) 0 16
  else fld g.asid 48 10 + fld ((s.ringOwner r).getD 0) 40 4 + fld g.sizeLog2 32 5 + fld g.tc 28 2 + fld g.refetch 24 4 +
    fld (b2n g.staged.isSome) 16 1 + fld (b2n g.phys) 3 1 + fld g.st 0 3

/-- QC[c].PARK_INFO[s] and PARK_LINEAR[s] of global ring r. -/
def State.parkRead (s : State) (r : Nat) (second : Bool) : Nat :=
  let k := s.slot r
  if second then k.linear
  else fld (b2n k.valid) 63 1 + fld (b2n (k.valid && k.issued)) 62 1 + fld k.gen 48 8 + fld k.ring 32 14 + fld k.descIndex 16 16 + fld k.fault.cause 0 4

/-- The registers of a queue cell at offset o in it. -/
def State.cellRead (s : State) (c o : Nat) : Nat :=
  let x := s.cell c
  if bit s.fuses.groups (c / 4) then 0
  else if 0x10000 ≤ o && o < 0x11000 then s.ringRead (256 * c + (o - 0x10000) / 16) (o % 16 == 8)
  else if 0x30000 ≤ o && o < 0x31000 then s.parkRead (256 * c + (o - 0x30000) / 16) (o % 16 == 8)
  else match o with
  | 0x00 => fld x.w3 8 4 + fld x.w2 4 4 + fld x.w1 0 4
  | 0x10 => fld x.dbStale 48 16 + fld x.dbSuperseded 32 16 + fld x.dbRange 16 16 + fld x.dbDisabled 0 16
  | 0x18 => x.dbAccepted
  | 0x20 => x.xferBytes
  | 0x28 => fld x.errMalformed 48 16 + fld x.errBus 32 16 + fld x.errPoison 16 16 + fld x.errTimeout 0 16
  | 0x30 => fld x.cvtSat 32 32 + fld x.cvtNan 0 32
  | 0x38 => fld x.fenceGlobal 32 32 + fld x.fenceRing 0 32
  | _ => 0

/-! ## Translation and the fault engine -/

/-- XL_INV_STATE[p]. -/
def State.invRead (s : State) (p : Nat) : Nat :=
  let q := s.invq p
  fld (if q.size = 0 then 0 else q.lap q.c) 48 16 + fld (if q.size = 0 then 0 else q.c % q.size) 32 16 + fld (s.invPending p) 24 4 +
    fld (b2n (q.st == 5)) 18 1 + fld (b2n (q.st == 3)) 17 1 + fld (b2n q.drainHit) 16 1 + fld q.acked 0 16

/-- XL_FQ_STATE[p] and XL_FQ_COUNT[p]. -/
def State.fqRead (s : State) (p : Nat) (second : Bool) : Nat :=
  let q := s.fq p
  let parked := s.slotsOf p
  if second then fld q.late 48 16 + fld q.stale 32 16 + fld q.timeouts 16 16 + fld q.heldEvents 0 16
  else fld q.cons 48 16 + fld q.prod 32 16 + fld (b2n q.placed) 31 1 + fld (parked.filter fun k => (s.slot k).held).length 16 15 +
    fld parked.length 0 15

/-- The XL space. -/
def State.xlRead (s : State) (o : Nat) : Nat :=
  let x := s.xl
  if 0x1000 ≤ o && o < 0x1080 then s.invRead ((o - 0x1000) / 8)
  else if 0x100000 ≤ o && o < 0x100100 then s.fqRead ((o - 0x100000) / 16) (o % 16 == 8)
  else if 0x100100 ≤ o && o < 0x100180 then (s.fq ((o - 0x100100) / 8)).timeout
  else match o with
  | 0x00 => fld x.walks.length 40 8 + fld x.invals.length 16 8 + b2n x.ready
  | 0x08 => fld x.perfPart 4 4 + fld (b2n x.perfAll) 1 1 + b2n x.perfEnable
  | 0x10 => x.l2Hits
  | 0x18 => x.l2Misses
  | 0x20 => x.walkCount
  | 0x28 => x.walkReads
  | 0x30 => x.adUpdates
  | 0x40 => fld (b2n x.errValid) 63 1 + fld x.errKind 60 3 + fld x.errPart 56 4 + fld x.errAsid 46 10
  | 0x48 => fld x.errVa 0 57
  | _ => 0

/-! ## Chords -/

/-- CH_PART_STATE[p] and CH_PART_COUNT[p]. -/
def State.chordRead (s : State) (p : Nat) (second : Bool) : Nat :=
  let q := s.chq p
  let held := ((chordSlots p).filter fun k => (s.chord k).st != 0).length
  if second then fld q.committed 48 16 + fld q.conflict 32 16 + fld q.others 16 16 + fld q.staleEvents 0 16
  else fld (q.p % q.size) 48 16 + fld (q.c % q.size) 32 16 + fld (b2n q.placed) 31 1 + fld held 28 3 + fld q.sizeLog2 24 4 +
    fld (b2n q.stopped) 17 1 + fld (b2n (s.chordInvWait p)) 16 1 + fld q.refetch 8 4 + fld q.st 0 2

/-- The CH space. -/
def State.chRead (s : State) (o : Nat) : Nat :=
  if 0x1000 ≤ o && o < 0x1100 then s.chordRead ((o - 0x1000) / 16) (o % 16 == 8)
  else if 0x2000 ≤ o && o < 0x2200 then
    let k := (o - 0x2000) / 8
    let c := s.chord k
    let q := s.chq (k / 4)
    if c.st = 0 then 0 else fld (c.pos % q.size) 32 16 + fld (q.lap c.pos) 16 16 + fld (chordCount c.raw) 0 6
  else if 0x2200 ≤ o && o < 0x2400 then fld (s.chord ((o - 0x2200) / 8)).st 0 3
  else if o = 0 then fld (s.ch.slots.filter fun e => e.2.st != 0).length 32 8 + b2n s.ch.ready
  else if o = 8 then match s.ch.last with
    | some (cycle, p) => fld p 32 4 + fld cycle 0 32
    | none => 0
  else 0

/-! ## Reckoner -/

/-- The job that RK_PART_STATE[p] names: in progress, else parked, else waiting; the first of each in order of acceptance. -/
def State.shownJob (s : State) (p : Nat) : Option Nat :=
  let rank (e : Nat) : Nat := match (s.job e).phase with
    | .running => 0
    | .draining => 0
    | .noting => 0
    | .parked => 1
    | .waiting => 2
  let key (e : Nat) : Nat × Nat := (rank e, (s.job e).stamp)
  let less (a b : Nat × Nat) : Bool := decide (a.1 < b.1) || (a.1 == b.1 && decide (a.2 < b.2))
  (s.jobsOf p).foldl (fun best e => match best with
    | none => some e
    | some b => if less (key e) (key b) then some e else some b) none

/-- RK_PART_STATE[p] and RK_PART_COUNT[p]. -/
def State.rkPartRead (s : State) (p : Nat) (second : Bool) : Nat :=
  let x := s.rk
  if second then fld (Tab.at x.finished p) 48 16 + fld (Tab.at x.skipped p) 32 16 + fld (Tab.at x.drifts p) 16 16 + fld (Tab.at x.clipped p) 0 16
  else
    let jobs := s.jobsOf p
    let flags := fld jobs.length 8 3 + fld (b2n (Tab.at x.limitHit p)) 4 1 +
      fld (b2n (jobs.any fun e => (s.job e).phase == .waiting && (s.job e).normFrom.isSome && !(s.job e).normDone)) 3 1 +
      fld (b2n (s.parkedJob p).isSome) 2 1 +
      fld (b2n (jobs.any fun e => (s.job e).phase == .running || (s.job e).phase == .draining || (s.job e).phase == .noting)) 1 1
    match s.shownJob p with
    | none => flags
    | some e =>
      let j := s.job e
      match j.repair with
      | some r => flags + fld r.entry 16 16 + fld j.pass 12 4 + 1
      | none => flags + fld j.ring 32 14 + fld j.index 16 16 + fld j.pass 12 4

/-- Tiles whose read-ahead buffers a job holds (R212, R244). -/
def Job.tilesHeld (j : Job) : Nat :=
  ((List.range 16).filter fun i => decide (j.tile + i < j.tileCount) &&
    (j.reads (j.tile + i)).any fun x => ivMeets (Tab.at j.rd x.1) x.2.1 x.2.2).length

/-- RK_POOL_STATE (R243, R244). -/
def State.poolRead (s : State) : Nat :=
  let jobs := (s.rk.jobs.map Prod.snd).filter Job.inLanes
  let held := (jobs.map fun j => j.tilesHeld * j.tileBytes).sum
  let quota := jobs.foldl (fun n j => min n (s.quota j)) 16
  fld (ceilDiv s.reserved 1024) 32 16 + fld (30720 - ceilDiv (s.reserved + held) 1024) 16 16 + fld quota 0 5

/-- The RK space. -/
def State.rkRead (s : State) (o : Nat) : Nat :=
  let x := s.rk
  if 0x1000 ≤ o && o < 0x1100 then s.rkPartRead ((o - 0x1000) / 16) (o % 16 == 8)
  else if 0x1200 ≤ o && o < 0x1280 then
    let p := (o - 0x1200) / 8
    match s.parkedJob p with
    | some e => fld (s.job e).pass 48 4 + fld (s.slot (16384 + p)).linear 0 48
    | none => 0
  else if 0x2000 ≤ o && o < 0x2200 then
    let t := (o - 0x2000) / 8
    fld (Tab.at x.loads t) 8 16 + fld (Tab.at x.scheds t).length 0 7
  else if 0x4000 ≤ o && o < 0x4080 then
    let p := (o - 0x4000) / 8
    fld (Tab.at x.replAccepted p) 48 16 + fld (Tab.at x.repaired p) 32 16 + fld (Tab.at x.superseded p) 16 16 + fld (Tab.at x.replDropped p) 0 16
  else if 0x4100 ≤ o && o < 0x4180 then
    let p := (o - 0x4100) / 8
    fld (x.queue.filter fun e => e.1 / 64 == p && e.2.valid).length 32 7 + fld (Tab.at x.failed p) 16 16 + fld (Tab.at x.sent p) 0 16
  else match o with
  | 0x0000 =>
    let live := (x.jobs.map Prod.snd).filter fun j => j.live
    fld s.mc.pwr.freq 40 8 + fld (live.filter fun j => j.phase == .running && !j.issuedAll).length 32 8 + fld live.length 24 8 +
      fld (b2n x.halfArray) 1 1 + b2n x.ready
  | 0x0008 => x.elements
  | 0x0010 => x.laneBusy
  | 0x3000 => match x.array with
    | some t => fld t.part 44 4 + fld x.bufs.length 32 5 + 1
    | none => fld x.bufs.length 32 5
  | 0x3008 => x.arrBusy
  | 0x3010 => x.arrStall
  | 0x3018 => x.arrMacs
  | 0x3020 => s.poolRead
  | _ => 0

/-! ## Links -/

/-- The registers of module k at offset o in them. -/
def State.modRead (s : State) (k o : Nat) : Nat :=
  let x := s.mod k
  let peer := decide (4 ≤ k)
  match o with
  | 0x00 =>
    let own := if peer then s.moduleOwner (k - 4) else none
    (if peer then fld x.partnerDie 51 5 + fld x.partnerMod 46 5 + fld (own.getD 0) 40 4 + fld (b2n own.isSome) 39 1 +
      fld (b2n (s.idleOnly (k - 4))) 38 1 else 0) +
      fld x.spares 32 3 + fld x.width 16 8 + fld x.attempts 8 2 + fld x.downCause 4 4 + fld x.st 0 4
  | 0x08 => fld x.crcErrors 48 16 + fld x.replays 32 16 + (if peer then fld x.secFail 16 16 else 0) + fld x.retrains 0 16
  | 0x10 => if peer then fld x.partMismatch 48 16 + fld x.deniedSent 32 16 + fld x.noRouteSent 16 16 + fld x.malformed 0 16 else 0
  | 0x18 => if peer then x.flitsTx else 0
  | 0x20 => if peer then x.flitsRx else 0
  | 0x28 => fld x.tgCount 32 32 + fld (b2n x.tgCheck) 3 1 + fld x.tgPattern 1 2 + b2n x.tgGen
  | 0x30 => fld x.tgChecked 32 32 + fld x.tgErrors 1 31 + b2n x.tgLocked
  | _ => 0

/-- The HL space. -/
def State.hlRead (s : State) (o : Nat) : Nat :=
  let t := s.tier
  if o < 0x4000 then s.modRead (o / 0x1000) (o % 0x1000)
  else if 0x300100 ≤ o && o < 0x300180 then
    let p := (o - 0x300100) / 8
    fld (Tab.at t.narrowOcc p) 32 8 + fld (Tab.at t.narrowWait p) 0 32
  else match o with
  | 0x10000 =>
    let mask := (List.range 4).foldl (fun n k => if (s.mod k).carries then n + 2 ^ k else n) 0
    fld s.links.lossCount 48 16 + fld s.links.lastCause 8 4 + fld s.links.ioModule 4 2 + mask
  | 0x300000 => fld t.perfPart 4 4 + fld (b2n t.perfAll) 1 1 + b2n t.perfEnable
  | 0x300008 => t.hits
  | 0x300010 => t.misses
  | 0x300018 => t.snoopInv
  | 0x300020 => t.pushFull
  | 0x300028 => t.pushPartial
  | 0x300040 => fld t.switches 48 16 + fld t.conflictRuns 32 16 + fld t.refreshWindows 16 16
  | 0x300048 => fld t.lostIn 32 32 + fld t.lostOut 0 32
  | _ => 0

/-- One port's 16 bits of PL_PORT_STATUS. -/
def State.portRead (s : State) (n : Nat) : Nat :=
  let up := (List.range 5).filter fun i => (s.mod (4 + 5 * n + i)).carries
  fld (b2n (!s.edge (5 * n))) 15 1 + fld up.length 12 3 + fld (up.filter fun i => (s.mod (4 + 5 * n + i)).width == 32).length 9 3

/-- The PL space. -/
def State.plRead (s : State) (o : Nat) : Nat :=
  if o < 0x14000 then s.modRead (4 + o / 0x1000) (o % 0x1000)
  else if o = 0x20000 then (List.range 4).foldl (fun n k => n + fld (s.portRead k) (16 * k) 16) 0
  else 0

/-! ## The port -/

/-- Byte offset o, a multiple of 8, of the MSI-X table of function f (R336). -/
def State.msixRead (s : State) (f o : Nat) : Nat :=
  let e := Tab.at s.px.msix (512 * f + o / 16)
  if o % 16 = 0 then e.addr else fld (b2n e.masked) 32 1 + fld e.data 0 32

/-- 64 bits of the pending-bit array of function f from vector `8 o` on. -/
def State.pbaRead (s : State) (f o : Nat) : Nat :=
  (List.range 64).foldl (fun n i => if (Tab.at s.px.msix (512 * f + 8 * o + i)).pending then n + 2 ^ i else n) 0

/-- The PX space. -/
def State.pxRead (s : State) (o : Nat) : Nat :=
  let x := s.px
  if 0x10000 ≤ o && o < 0x12000 then s.msixRead 16 (o - 0x10000)
  else if 0x18000 ≤ o && o < 0x18040 then s.pbaRead 16 (o - 0x18000)
  else match o with
  | 0x00 => fld x.linkWidth 32 8 + fld x.linkRate 24 4 + fld x.l0p 3 2 + fld (b2n x.winMisaligned) 2 1 + fld (b2n x.configReady) 1 1 + b2n x.rootPort
  | 0x08 => fld x.triggers 48 16 + fld x.capoStatus 0 16
  | 0x10 => fld x.frozenDiscards 48 16 + fld x.refused 32 16 + fld x.unsupported 16 16 + fld x.irqDropped 0 16
  | _ => 0

/-! ## Partitions and keys -/

/-- Code of a key slot's state. -/
def SlotState.code : SlotState → Nat
  | .empty => 0
  | .loaded => 1
  | .retiring => 2

/-- Channels of partition p. -/
def State.channelMask (s : State) (p : Nat) : Nat :=
  (List.range 32).foldl (fun n c => if s.chanOwner c = some p then n + 2 ^ c else n) 0

/-- PT_CQ_STATE[p][q]. -/
def State.cqRead (s : State) (k : Nat) : Nat :=
  let q := s.cq k
  fld q.n 32 32 + fld q.fullEvents 16 16 + fld q.sizeLog2 8 5 + fld (b2n (q.placed && q.full)) 1 1 + b2n q.placed

/-- The PT space. -/
def State.ptRead (s : State) (o : Nat) : Nat :=
  let x := s.pt
  let ix (base step : Nat) : Nat := (o - base) / step
  let within (base n : Nat) : Bool := decide (base ≤ o) && decide (o < base + n)
  if within 0x400 0x80 then
    let p := ix 0x400 8
    fld (Tab.at x.dbBadCheck p) 48 16 + fld (Tab.at x.dbBadAccess p) 32 16 + fld (Tab.at x.dbUnbacked p) 16 16 + fld (Tab.at x.dbNotActive p) 0 16
  else if within 0x1000 0x100 then
    let p := ix 0x1000 16
    let y := s.part p
    if o % 16 = 8 then fld (s.channelMask p) 32 32 + fld y.modules 0 20
    else fld y.groups 48 16 + fld y.tcWays 32 16 + fld y.tlbWays 16 16 + fld y.checkTag 8 8 + fld (b2n y.claimed) 7 1 + fld (b2n y.frozen) 6 1 + y.st
  else if within 0x2000 0x100 then
    let y := s.part (ix 0x2000 16)
    if o % 16 = 8 then fld y.slot1.inflight 32 32 + fld y.slot0.inflight 0 32
    else fld y.rekey.pages 32 32 + fld (b2n y.heldLoad.isSome) 16 1 + fld (b2n y.rekey.hbmPass) 9 1 + fld (b2n y.rekey.hostPass) 8 1 +
      fld y.scope1 5 1 + fld y.scope0 4 1 + fld y.slot1.st.code 2 2 + y.slot0.st.code
  else if within 0x3000 0x80 then
    let b := (s.part (ix 0x3000 8)).buckets
    let w (l : List Nat) : Nat := min 0xFFFF ((l.map fun i => (Tab.at b i).waits).sum / 1024)
    fld (w [0, 1]) 48 16 + fld (w [2]) 32 16 + fld (w [3, 4]) 16 16
  else if within 0x3100 0x80 then
    let y := s.part (ix 0x3100 8)
    let left := if y.st = 3 then min (2 ^ 32 - 1) (y.scrubT0 + s.scrubLen - s.clk.fab) else 0
    fld y.inboundDrops 48 16 + fld (if y.st = 3 then y.scrubPhase else 0) 32 2 + fld left 0 32
  else if within 0x10000 0x8000 then s.cqRead (ix 0x10000 8)
  else if within 0x20000 0x200 then
    let e := ix 0x20000 8
    let y := Tab.at x.shared e
    fld (b2n y.valid) 63 1 + fld y.failed.length 32 20 + fld (x.repairs.filter fun r => r.entry == e).length 0 3
  else match o with
  | 0x0010 => fld 0x20 32 8 + fld x.chSizeLog2 24 8 + fld s.dieId 8 5 + fld s.pos 4 4 + b2n x.mapValid
  | 0x0018 => fld x.violAddr 0 52
  | 0x0020 => fld (b2n x.violValid) 31 1 + fld x.violRequester 28 3 + fld x.violPart 24 4 + fld x.violCheck 20 4 + fld (b2n x.violWrite) 19 1
  | 0x0028 => fld x.addressCount 32 32 + fld x.protectCount 0 32
  | 0x3200 => fld x.scrubs 48 16 + fld s.scrubLen 0 36
  | 0x20200 => fld x.sharedRetries 48 16 + fld x.sharedDone 32 16 + fld x.sharedFailed 16 16 + fld x.sharedDropped 0 16
  | _ => 0

/-! ## Tally -/

/-- The TY space. -/
def State.tyRead (s : State) (o : Nat) : Nat :=
  let t := s.tally
  if 0x1000 ≤ o && o < 0x1000 + 8 * 244 then
    match t.held with
    | some r => fieldAt (r.bytes t.epoch) (o - 0x1000) 8
    | none => 0
  else match o with
  | 0x00 => t.status
  | 0x08 => Config.tallySeal % 2 ^ 64
  | 0x10 => t.epoch
  | 0x18 => Config.serial % 2 ^ 64
  | 0x20 => fld (b2n t.held.isSome) 63 1 + fld t.select 0 62
  | _ => 0

/-! ## Mailboxes and the management core -/

/-- Does the firmware serve mailbox m (R444, R445)? -/
def State.served (s : State) (m : Nat) : Bool := s.mc.ready && (!s.mc.fw.recovery || m == 17)

/-- 64 bits of mailbox m at offset o (R399). -/
def State.boxRead (s : State) (m o : Nat) : Nat :=
  let b := s.box m
  if 0x1000 ≤ o && o < 0xB000 then leNat (Tab.readBytes b.ram o 8)
  else match o with
  | 0x08 => fld b.respTag 48 16 + fld b.result 40 8 + fld b.detail 32 8 + fld (b2n b.overflow) 3 1 + fld (b2n b.busy) 2 1 + fld (b2n b.done) 1 1 +
      b2n (s.served m)
  | 0x10 => fld b.producer 32 16 + fld b.consumer 0 16
  | 0x18 => fld b.commands 32 32 + fld b.busyDrops 16 16 + fld b.droppedWrites 0 16
  | _ => 0

/-- MC_PWR_CTRL. -/
def State.pwrWord (s : State) : Nat :=
  let x := s.mc.pwr
  fld x.limit 40 8 + fld x.fmax 24 8 + fld x.fmin 16 8 + fld (b2n x.step.isSome) 2 1 + fld (b2n x.capEn) 1 1 + b2n x.lpEn

/-- The MC registers at offset o of their 64 KiB. -/
def State.mcRead (s : State) (o : Nat) : Nat :=
  let f := s.mc.fw
  let r := s.mc.rd
  if 0x100 ≤ o && o < 0x140 then s.sensorWord ((o - 0x100) / 8)
  else if 0x1000 ≤ o && o < 0x1380 then
    let u := (o - 0x1000) / 8
    if realUnit u then s.unitWord u else 0
  else if 0x2100 ≤ o && o < 0x21C0 then Tab.at r.mods ((o - 0x2100) / 8)
  else match o with
  | 0x0000 => fld (mVersion f.manifest) 32 32 + fld f.svnMin 24 8 + fld f.bootBank 4 1 + fld (b2n f.verified) 3 1 +
      fld (b2n f.authOk) 1 1 + b2n s.mc.ready
  | 0x0008 => s.mc.seq
  | 0x0010 => s.mc.skews
  | 0x2000 => fld s.fuses.modules 32 20 + fld (b2n s.fuses.halfArray) 16 1 + fld s.fuses.groups 0 16
  | 0x2008 => s.readyWord
  | 0x2010 => fld s.mc.mode 0 2
  | 0x2018 => fld r.cpResets 48 16 + fld r.flrs 32 16 + fld r.lastPart 4 4 + fld r.last 0 4
  | 0x3000 => s.pwrWord
  | _ => 0

/-- Does mailbox m accept a requester (R400)? -/
def mayBox (w : Who) (m : Nat) : Bool :=
  if m < 16 then w == .vf m || w == .bound m else m == 16 && (w == .pf || w == .operator)

/-- What BAR_0 offset 0x0342_0000 to 0x0342_FFFF is to a requester: the MC registers, or mailbox 2, or nothing (R483). -/
def boxTwo (w : Who) : Option Bool :=
  if w == .pf || w == .operator then some true else if mayBox w 2 then some false else none

/-- The MC space. -/
def State.mcSpaceRead (s : State) (w : Who) (o : Nat) : Nat :=
  let m := o / 0x10000
  if m = 2 then match boxTwo w with
    | some true => s.mcRead (o % 0x10000)
    | some false => s.boxRead 2 (o % 0x10000)
    | none => 0
  else if m < 18 && mayBox w m then s.boxRead m (o % 0x10000)
  else 0

/-! ## The error collector -/

/-- EC_SRC_CTRL[i]. -/
def Source.ctrl (x : Source) (i : Nat) : Nat :=
  fld x.graceLog2 24 5 + fld (x.sevFatal.getD (sevReset i)) 8 3 + fld x.sevNon 4 3 + fld (b2n x.m2) 2 1 + fld (b2n x.m1) 1 1 + b2n x.m0

/-- EC_SRC_STATE[i]. -/
def Source.state (x : Source) : Nat :=
  fld x.corrected 48 16 + fld x.uncorrected 32 16 + fld x.recoveries 16 16 + fld (b2n x.quiet.isSome) 5 1 + fld (b2n x.grace.isSome) 4 1 + fld x.level 0 3

/-- EC_REC[i]. -/
def Source.rec_ (x : Source) : Nat :=
  match x.record with
  | none => 0
  | some e =>
    fld (e.unit.getD 0xFFFF) 48 16 + fld (e.part.getD 0) 44 4 + fld (b2n e.part.isSome) 43 1 + fld e.cls 41 2 + fld (b2n x.unacked) 40 1 +
      fld e.detail 32 8 + fld (b2n e.injected) 31 1 + fld x.recordCycle 0 31

/-- The EC space. -/
def State.ecRead (s : State) (o : Nat) : Nat :=
  if 0x1000 ≤ o && o < 0x1100 then
    let i := (o - 0x1000) / 16
    if o % 16 = 8 then (s.source i).state else (s.source i).ctrl i
  else if 0x2000 ≤ o && o < 0x2100 then
    let x := s.source ((o - 0x2000) / 16)
    if o % 16 = 8 then x.recordSeq else x.rec_
  else match o with
  | 0x00 =>
    let top := s.ec.sources.foldl (fun n e => max n e.2.level) 0
    let cls := (List.range 16).foldl (fun n i =>
      let x := s.source i
      n + fld (b2n x.s2) (3 * i + 2) 1 + fld (b2n x.s1) (3 * i + 1) 1 + fld (b2n x.s0) (3 * i) 1) 0
    fld top 61 3 + fld (b2n s.stopped) 60 1 + fld (b2n s.faultN) 59 1 + fld (b2n s.stopped) 58 1 + fld (b2n s.ec.testMode) 57 1 + cls
  | 0x08 => fld s.ec.quietLog2 0 6
  | 0x10 => fld s.ec.steps 32 32 + fld s.ec.recoveries 0 32
  | _ => 0

/-! ## Reads and writes of BAR_0 -/

/-- The 64-bit register at BAR_0 offset `o`, a multiple of 8 (R7, R481, R482). -/
def State.regRead (s : State) (w : Who) (o : Nat) : Nat :=
  if o < 0x01000000 then s.cellRead (o / 0x40000) (o % 0x40000)
  else if o < 0x01400000 then s.xlRead (o - 0x01000000)
  else if o < 0x01800000 then s.chRead (o - 0x01400000)
  else if o < 0x02000000 then s.rkRead (o - 0x01800000)
  else if o < 0x02400000 then s.hlRead (o - 0x02000000)
  else if o < 0x02800000 then s.plRead (o - 0x02400000)
  else if o < 0x02C00000 then s.pxRead (o - 0x02800000)
  else if o < 0x03000000 then s.ptRead (o - 0x02C00000)
  else if o < 0x03400000 then s.tyRead (o - 0x03000000)
  else if o < 0x03800000 then s.mcSpaceRead w (o - 0x03400000)
  else s.ecRead (o - 0x03800000)

/-- Is an access one that R6 allows: 32 or 64 bits, aligned? -/
def regShape (o n : Nat) : Bool := (n == 4 || n == 8) && o % n == 0

/-- The value a BAR_0 read of n bytes at offset o returns (R6, R7); all ones where R6 refuses it. -/
def State.bar0Read (s : State) (w : Who) (o n : Nat) : Nat :=
  if regShape o n then bits (s.regRead w (o / 8 * 8)) (8 * (o % 8)) (8 * n) else 2 ^ (8 * n) - 1

/-- A write as its register sees it: the bits it writes in place, zeros elsewhere, and which bits they are. -/
structure RegWrite where
  value : Nat
  mask : Nat
deriving DecidableEq, Repr, Inhabited

/-- The word an RW register takes: the written bits over the present ones. -/
def RegWrite.over (x : RegWrite) (old : Nat) : Nat := (x.value &&& x.mask) ||| (old &&& (2 ^ 64 - 1 - x.mask))
/-- Does the write set bit i? -/
def RegWrite.one (x : RegWrite) (i : Nat) : Bool := bit (x.value &&& x.mask) i

/-- Writes the MSI-X table of function f at offset o, a multiple of 8 (R336). -/
def State.msixWrite (s : State) (f o : Nat) (x : RegWrite) : State :=
  let k := 512 * f + o / 16
  let w := x.over (s.msixRead f o)
  let e := Tab.at s.px.msix k
  let e1 : MsixEntry := if o % 16 = 0 then { e with addr := w / 4 * 4 } else { e with data := bits w 0 32, masked := bit w 32 }
  (s.modPx fun y => { y with msix := Tab.put y.msix k e1 }).sendPending k

/-- Writes mailbox m at offset o, a multiple of 8: GO, the RW1C bits, CONSUMER, or the request area (R399, R404). -/
def State.boxWrite (s : State) (m o : Nat) (x : RegWrite) : State :=
  if o = 0 then (if x.one 0 then s.mailboxGo m else s)
  else if o = 8 then s.modBox m fun b => { b with overflow := b.overflow && !x.one 3, done := b.done && !x.one 1 }
  else if o = 0x10 then s.modBox m fun b => { b with consumer := bits (x.over b.consumer) 0 16 }
  else if 0x1000 ≤ o && o < 0x5000 && !(s.box m).busy then
    s.modBox m fun b => { b with ram := Tab.writeBytes b.ram o (leBytes 8 (x.over (leNat (Tab.readBytes b.ram o 8)))) }
  else s

/-- Counts a mailbox write dropped under R400. -/
def State.dropBox (s : State) (m : Nat) : State := s.modBox m fun b => { b with droppedWrites := satAdd 16 b.droppedWrites 1 }

/-- A write to PX_CAPO: TRIGGER, then RELEASE, which a trigger of the same cycle beats (R343, R344). -/
def State.writeCapo (s : State) (trigger release : Bool) : State :=
  let s1 := if trigger then s.capoTrigger 4 0 else s
  if release then s1.capoRelease else s1

/-- A write to EC_SRC_CTRL[i] (R420, R423, R424). -/
def State.writeSource (s : State) (i w : Nat) : State :=
  s.changeSource i fun y =>
    { y with graceLog2 := bits w 24 5, sevFatal := some (bits w 8 3), sevNon := bits w 4 3, m2 := bit w 2, m1 := bit w 1, m0 := bit w 0 }

/-- Writes the MC space. -/
def State.mcSpaceWrite (s : State) (w : Who) (o : Nat) (x : RegWrite) : State :=
  let m := o / 0x10000
  if m = 2 then match boxTwo w with
    | some true => if o % 0x10000 = 0x3000 then s.writePwr (x.over s.pwrWord) else s
    | some false => s.boxWrite 2 (o % 0x10000) x
    | none => s
  else if 18 ≤ m then s
  else if mayBox w m then s.boxWrite m (o % 0x10000) x
  else s.dropBox m

/-- The 64-bit register at BAR_0 offset `o`, a multiple of 8, takes a write by its access codes (R7, R8). -/
def State.regWrite (s : State) (w : Who) (o : Nat) (x : RegWrite) : State :=
  let old := s.regRead w o
  let v := x.over old
  if o < 0x01000000 then
    let c := o / 0x40000
    if o % 0x40000 = 0 && !bit s.fuses.groups (c / 4) then s.modCell c fun y => { y with w3 := bits v 8 4, w2 := bits v 4 4, w1 := bits v 0 4 } else s
  else if o = 0x01000008 then { s with xl := { s.xl with perfPart := bits v 4 4, perfAll := bit v 1, perfEnable := bit v 0 } }
  else if o = 0x01000040 then { s with xl := { s.xl with errValid := s.xl.errValid && !x.one 63 } }
  else if 0x01001000 ≤ o && o < 0x01001080 then s.modInvq ((o - 0x01001000) / 8) fun q => { q with drainHit := q.drainHit && !x.one 16 }
  else if 0x01801000 ≤ o && o < 0x01801100 && o % 16 = 0 then
    let p := (o - 0x01801000) / 16
    { s with rk := { s.rk with limitHit := Tab.put s.rk.limitHit p (Tab.at s.rk.limitHit p && !x.one 4) } }
  else if 0x02000000 ≤ o && o < 0x02004000 && o % 0x1000 = 0x28 then s.writeTg ((o - 0x02000000) / 0x1000) v
  else if o = 0x02300000 then { s with tier := { s.tier with perfPart := bits v 4 4, perfAll := bit v 1, perfEnable := bit v 0 } }
  else if 0x02400000 ≤ o && o < 0x02414000 && o % 0x1000 = 0x28 then s.writeTg (4 + (o - 0x02400000) / 0x1000) v
  else if o = 0x02800008 then s.writeCapo (x.one 33) (x.one 32)
  else if 0x02810000 ≤ o && o < 0x02812000 then s.msixWrite 16 (o - 0x02810000) x
  else if o = 0x02C00020 then { s with pt := { s.pt with violValid := s.pt.violValid && !x.one 31 } }
  else if o = 0x03000020 then s.selectRecord v
  else if o = 0x03000028 then (if x.one 0 then s.requestCommit none else s)
  else if 0x03400000 ≤ o && o < 0x03800000 then s.mcSpaceWrite w (o - 0x03400000) x
  else if o = 0x03800000 then s.clearStatus (x.value &&& x.mask)
  else if o = 0x03800008 then { s with ec := { s.ec with quietLog2 := bits v 0 6 } }
  else if o = 0x03800018 then s.inject (x.value &&& x.mask)
  else if 0x03801000 ≤ o && o < 0x03801100 && o % 16 = 0 then s.writeSource ((o - 0x03801000) / 16) v
  else s

/-- A write of n bytes at an offset of a register space, as its 64-bit register sees it. -/
def regWriteOf (o n value : Nat) : RegWrite :=
  let sh := 8 * (o % 8)
  { value := value % 2 ^ (8 * n) * 2 ^ sh, mask := (2 ^ (8 * n) - 1) * 2 ^ sh }

/-- A BAR_0 write of n bytes at offset o: dropped where R6 or R7 says so. -/
def State.bar0Write (s : State) (w : Who) (o n value : Nat) : State :=
  if regShape o n && decide (o < 0x04000000) then s.regWrite w (o / 8 * 8) (regWriteOf o n value) else s

/-- Who a CXL.io request is, by its PASID (R32). -/
def State.whoOf (s : State) (pasid : Option Nat) : Who :=
  match pasid with
  | none => .host
  | some k =>
    if s.pt.operatorPasid = some k then .operator
    else match Tab.at s.pt.pasids k with
      | 0 => .host
      | p + 1 => .bound p

end Sys2Proof.Machine
end

