-- ==== Sys2Proof/Machine/ConfigSpace.lean ====
section
/-! DEFINITION. Configuration space of the PF, the VFs, the root port and the CXL function (R292, R324 to R334, R339 to R344). Where
the spec leaves a doubleword to PCI Express, its contents are `Config.cfgReset` and `Config.cfgMask`. -/

namespace Sys2Proof.Machine

/-- Kind of function f: 0 PF, 1 VF, 2 root port. -/
def State.cfgKind (s : State) (f : Nat) : Nat := if f < 16 then 1 else if s.px.rootPort then 2 else 0

/-- A configuration doubleword whose contents PCI Express or CXL lays out: what software last wrote over what reset leaves. -/
def cfgWord (kind reg stored : Nat) : Nat :=
  let m := Config.cfgMask kind reg % 2 ^ 32
  (stored &&& m) ||| (Config.cfgReset kind reg &&& (2 ^ 32 - 1 - m))

/-- The extended capability at an offset of a function of a kind: its ID and the next offset, in the order of R327. -/
def extCap (kind reg : Nat) : Option (Nat × Nat) :=
  if kind = 1 then
    match reg with
    | 0x148 => some (0x0E, 0x110)
    | 0x110 => some (0x0B, 0)
    | _ => none
  else
    match reg with
    | 0x100 => some (0x01, if kind = 0 then 0x148 else 0x1A8)
    | 0x148 => if kind = 0 then some (0x0E, 0x158) else none
    | 0x158 => if kind = 0 then some (0x10, 0x198) else none
    | 0x198 => if kind = 0 then some (0x15, 0x1A8) else none
    | 0x1A8 => some (0x25, 0x1B8)
    | 0x1B8 => some (0x26, 0x1E8)
    | 0x1E8 => some (0x2A, 0x218)
    | 0x218 => some (0x31, 0x228)
    | 0x228 => some (0x32, 0x248)
    | 0x248 => some (0x1E, if kind = 0 then 0x258 else 0x270)
    | 0x258 => if kind = 0 then some (0x2E, 0x270) else none
    | 0x270 => some (0x03, 0x280)
    | 0x280 => some (0x0B, 0)
    | _ => none

/-- Low or high half of a 64-bit BAR with its type bits. -/
def barHalf (base type : Nat) (high : Bool) : Nat := if high then base / 2 ^ 32 else base % 2 ^ 32 + type

/-- The low registers of a function: header and capabilities below 0x100 (R326 to R330, R336, R346). -/
def State.cfgLow (s : State) (f reg : Nat) : Nat :=
  let kind := s.cfgKind f
  let x := s.px
  let g := s.fn f
  let std := cfgWord kind reg (Tab.at g.cfg reg)
  match reg with
  | 0x00 => if kind = 1 then 0xFFFFFFFF else if kind = 2 then 0x4B311F3C else 0x4B301F3C
  | 0x04 => setBits (setBits (setBits std 1 1 (if kind = 1 then 0 else b2n g.memSpace)) 2 1 (b2n g.busMaster)) 20 1 1
  | 0x08 => (if kind = 2 then 0x060400 else 0x120000) * 256 + 0xB0
  | 0x0C => setBits std 16 8 (if kind = 0 then 0x80 else if kind = 1 then 0 else 1)
  | 0x10 => if kind = 0 then barHalf g.bar0 4 false else if kind = 1 then 0 else std
  | 0x14 => if kind = 0 then barHalf g.bar0 4 true else if kind = 1 then 0 else std
  | 0x18 => if kind = 0 then barHalf g.bar2 0xC false else if kind = 1 then 0 else std
  | 0x1C => if kind = 0 then barHalf g.bar2 0xC true else if kind = 1 then 0 else std
  | 0x20 => if kind = 0 then barHalf g.bar4 4 false else if kind = 1 then 0 else std
  | 0x24 => if kind = 0 then barHalf g.bar4 4 true else if kind = 1 then 0 else std
  | 0x30 => if kind = 0 then g.rom % 2 ^ 32 + b2n g.romEnable else if kind = 1 then 0 else std
  | 0x34 => if kind = 1 then 0x50 else 0x40
  | 0x40 => if kind = 1 then std else setBits (setBits std 0 8 1) 8 8 (if kind = 0 then 0x50 else 0x60)
  | 0x44 => if kind = 1 then std else setBits std 0 2 (if g.d3 then 3 else 0)
  | 0x50 => if kind = 2 then std else 0x6011 + fld 0x1FF 16 11 + fld (b2n g.msixMask) 30 1 + fld (b2n g.msixEnable) 31 1
  | 0x54 => if kind = 0 then 0x02810000 else if kind = 1 then 4 else std
  | 0x58 => if kind = 0 then 0x02818000 else if kind = 1 then 0x8004 else std
  | 0x60 => setBits (setBits (setBits std 0 16 0x10) 20 4 (if kind = 2 then 4 else 0)) 24 1 (b2n (kind == 2))
  | 0x64 => setBits (setBits std 0 3 2) 28 1 (b2n (kind != 2))
  | 0x68 => setBits (setBits (setBits std 4 1 0) 11 1 0) 15 1 0
  | 0x70 =>
    if kind = 1 then std
    else setBits (setBits (setBits (setBits (setBits std 0 2 (2 * b2n x.l1Enable)) 4 1 (b2n x.linkDisable)) 16 4 x.linkRate) 20 6 x.linkWidth)
      29 1 (b2n x.linkUp)
  | 0x74 => if kind = 2 then 0x60 else std
  | _ => std

/-- PART_STATUS of VF p (R334). -/
def State.partStatus (s : State) (p : Nat) : Nat :=
  let y := s.part p
  fld (b2n s.px.frozen) 3 1 + fld (b2n y.frozen) 2 1 + fld (b2n (y.st == 3)) 1 1 + b2n (y.st == 2)

/-- The extended capabilities of the PF and the root port (R327, R330, R333, R339 to R344). -/
def State.cfgExt (s : State) (f reg : Nat) : Nat :=
  let kind := s.cfgKind f
  let x := s.px
  let std := cfgWord kind reg (Tab.at (s.fn f).cfg reg)
  match reg with
  | 0x104 => x.uncStatus
  | 0x108 => x.uncMask
  | 0x10C => x.uncSev
  | 0x110 => x.corStatus
  | 0x114 => x.corMask
  | 0x118 => setBits std 0 5 (x.firstErr.getD 0)
  | 0x11C => fieldAt x.headerLog 0 4
  | 0x120 => fieldAt x.headerLog 4 4
  | 0x124 => fieldAt x.headerLog 8 4
  | 0x128 => fieldAt x.headerLog 12 4
  | 0x130 => if kind = 2 then x.rootErr else std
  | 0x134 => if kind = 2 then x.rootSrc else std
  | 0x138 => fieldAt x.headerLog 16 4
  | 0x13C => fieldAt x.headerLog 20 4
  | 0x140 => fieldAt x.headerLog 24 4
  | 0x144 => fieldAt x.headerLog 28 4
  | 0x160 => if kind = 0 then setBits (setBits std 0 1 (b2n x.vfEnable)) 3 1 (b2n x.vfMemSpace) else std
  | 0x164 => if kind = 0 then 0x00100010 else std
  | 0x168 => if kind = 0 then setBits std 0 16 x.numVfs else std
  | 0x16C => if kind = 0 then 0x00010001 else std
  | 0x170 => if kind = 0 then setBits std 16 16 0x4B38 else std
  | 0x17C => if kind = 0 then barHalf x.vfBar0 4 false else std
  | 0x180 => if kind = 0 then barHalf x.vfBar0 4 true else std
  | 0x184 => if kind = 0 then barHalf x.vfBar2 0xC false else std
  | 0x188 => if kind = 0 then barHalf x.vfBar2 0xC true else std
  | 0x18C => if kind = 0 then barHalf x.vfBar4 4 false else std
  | 0x190 => if kind = 0 then barHalf x.vfBar4 4 true else std
  | 0x19C => if kind = 0 then fld 0x7FF 14 11 else std
  | 0x1A0 => if kind = 0 then fld (x.bar2Log2 - 20) 8 6 + fld 1 5 3 + 2 else std
  | 0x274 => Config.serial % 2 ^ 32
  | 0x278 => Config.serial / 2 ^ 32 % 2 ^ 32
  | 0x284 => 0x01810C01
  | 0x288 => x.capoStatus
  | 0x28C => fld (b2n x.insertHold) 1 1
  | 0x290 => x.capoMask
  | 0x294 => fld x.triggers 16 16 + fld x.refusedReleases 0 16
  | _ => std

/-- The configuration doubleword at offset `reg` of function f (R326 to R334). -/
def State.cfgRead (s : State) (f reg : Nat) : Nat :=
  let kind := s.cfgKind f
  match extCap kind reg with
  | some (id, next) => setBits (setBits (cfgWord kind reg 0) 0 16 id) 20 12 next |> fun w => if id = 0x0B then setBits w 16 4 1 else w
  | none =>
    if reg < 0x100 then s.cfgLow f reg
    else if kind = 1 then
      match reg with
      | 0x114 => 0x00C10C02
      | 0x118 => s.partStatus f
      | _ => cfgWord 1 reg (Tab.at (s.fn f).cfg reg)
    else s.cfgExt f reg

/-! ## Writes -/

/-- A base with one half written, cut to its size. -/
def barPut (base size v : Nat) (high : Bool) : Nat :=
  (if high then v * 2 ^ 32 + base % 2 ^ 32 else base / 2 ^ 32 * 2 ^ 32 + v / 16 * 16) / size * size

/-- A write of the Resizable BAR control: PF BAR_2 becomes 2^log2 bytes (R328, R330). -/
def State.resizeBar (s : State) (log2 : Nat) : State :=
  if s.px.rootPort || log2 < 30 || 40 < log2 then s
  else
    (s.modFn 16 fun g => { g with bar2 := g.bar2 / 2 ^ log2 * 2 ^ log2 }).modPx fun x =>
      { x with bar2Log2 := log2, winMisaligned := s.pt.pfWinBase % 2 ^ log2 != 0 }

/-- The bits of a list. -/
def bitSet (l : List Nat) : Nat := l.foldl (fun n b => n + 2 ^ b) 0

/-- Sets VF Enable; clearing it resets the VFs. -/
def State.vfEnableTo (s : State) (b : Bool) : State :=
  let s1 := s.modPx fun x => { x with vfEnable := b }
  if s.px.vfEnable && !b then s1.each partIxs State.resetVf else s1

/-- Writes of the extended capabilities of the PF and the root port. `w` is the doubleword as an RW register would hold it. -/
def State.cfgExtWrite (s : State) (f reg w : Nat) (x : RegWrite) : State :=
  let kind := s.cfgKind f
  let store : State := s.modFn f fun g => { g with cfg := Tab.put g.cfg reg w }
  match reg with
  | 0x104 =>
    let st := s.px.uncStatus &&& (2 ^ 32 - 1 - (x.value &&& x.mask) % 2 ^ 32)
    let gone := match s.px.firstErr with
      | some b => !bit st b
      | none => false
    s.modPx fun y => { y with uncStatus := st, firstErr := if gone then none else y.firstErr, headerLog := if gone then [] else y.headerLog }
  | 0x108 => s.modPx fun y => { y with uncMask := w &&& bitSet uncBits }
  | 0x10C => s.modPx fun y => { y with uncSev := w &&& bitSet uncBits }
  | 0x110 => s.modPx fun y => { y with corStatus := y.corStatus &&& (2 ^ 32 - 1 - (x.value &&& x.mask) % 2 ^ 32) }
  | 0x114 => s.modPx fun y => { y with corMask := w &&& bitSet corBits }
  | 0x130 => if kind = 2 then s.modPx fun y => { y with rootErr := y.rootErr &&& (2 ^ 32 - 1 - (x.value &&& x.mask) % 2 ^ 32) } else store
  | 0x160 => if kind = 0 then ((store.modPx fun y => { y with vfMemSpace := bit w 3 }).vfEnableTo (bit w 0)) else store
  | 0x168 => if kind = 0 then (if s.px.vfEnable || 16 < bits w 0 16 then s else s.modPx fun y => { y with numVfs := bits w 0 16 }) else store
  | 0x17C => if kind = 0 then s.modPx fun y => { y with vfBar0 := barPut y.vfBar0 (2 ^ 20) w false } else store
  | 0x180 => if kind = 0 then s.modPx fun y => { y with vfBar0 := barPut y.vfBar0 (2 ^ 20) w true } else store
  | 0x184 => if kind = 0 then s.modPx fun y => { y with vfBar2 := barPut y.vfBar2 (2 ^ 32) w false } else store
  | 0x188 => if kind = 0 then s.modPx fun y => { y with vfBar2 := barPut y.vfBar2 (2 ^ 32) w true } else store
  | 0x18C => if kind = 0 then s.modPx fun y => { y with vfBar4 := barPut y.vfBar4 (2 ^ 17) w false } else store
  | 0x190 => if kind = 0 then s.modPx fun y => { y with vfBar4 := barPut y.vfBar4 (2 ^ 17) w true } else store
  | 0x1A0 => if kind = 0 then s.resizeBar (20 + bits w 8 6) else store
  | 0x28C => (s.modPx fun y => { y with insertHold := bit w 1 }).writeCapo (x.one 2) (x.one 0)
  | 0x290 => s.modPx fun y => { y with capoMask := w }
  | _ => store

/-- Writes of the header and the low capabilities. -/
def State.cfgLowWrite (s : State) (f reg w : Nat) (x : RegWrite) : State :=
  let kind := s.cfgKind f
  let store : State := s.modFn f fun g => { g with cfg := Tab.put g.cfg reg w }
  let pf (g : PxFn → PxFn) : State := if kind = 0 then s.modFn f g else if kind = 1 then s else store
  match reg with
  | 0x04 => store.modFn f fun g => { g with memSpace := bit w 1 && kind != 1, busMaster := bit w 2 }
  | 0x10 => pf fun g => { g with bar0 := barPut g.bar0 (2 ^ 26) w false }
  | 0x14 => pf fun g => { g with bar0 := barPut g.bar0 (2 ^ 26) w true }
  | 0x18 => pf fun g => { g with bar2 := barPut g.bar2 (2 ^ s.px.bar2Log2) w false }
  | 0x1C => pf fun g => { g with bar2 := barPut g.bar2 (2 ^ s.px.bar2Log2) w true }
  | 0x20 => pf fun g => { g with bar4 := barPut g.bar4 (2 ^ 24) w false }
  | 0x24 => pf fun g => { g with bar4 := barPut g.bar4 (2 ^ 24) w true }
  | 0x30 => pf fun g => { g with rom := w / 2 ^ 20 * 2 ^ 20, romEnable := bit w 0 }
  | 0x44 =>
    if kind = 1 then store
    else
      let st := bits w 0 2
      store.modFn f fun g => { g with d3 := if st = 0 then false else if st = 3 then true else g.d3 }
  | 0x50 => if kind = 2 then store else s.modFn f fun g => { g with msixEnable := bit w 31, msixMask := bit w 30 }
  | 0x68 => if x.one 15 && kind != 2 then (if kind = 1 then store.partitionReset f else store.pfReset) else store
  | 0x70 =>
    if kind = 1 then store else store.modPx fun y => { y with l1Enable := bit w 1, linkDisable := kind == 2 && bit w 4 }
  | _ => store

/-- Writes the configuration doubleword at offset `reg` of function f, then sends what it unmasks (R326 to R344). -/
def State.cfgWrite (s : State) (f reg : Nat) (x : RegWrite) : State :=
  let kind := s.cfgKind f
  let w := bits (x.over (s.cfgRead f reg)) 0 32
  let s1 :=
    if (extCap kind reg).isSome then s
    else if reg < 0x100 then s.cfgLowWrite f reg w x
    else if kind = 1 then s.modFn f fun g => { g with cfg := Tab.put g.cfg reg w }
    else s.cfgExtWrite f reg w x
  s1.sendAllPending

/-! ## The CXL function (R292) -/

/-- A doubleword of the CXL function: it has no BARs. -/
def State.cxlCfgRead (s : State) (reg : Nat) : Nat :=
  if 0x10 ≤ reg && reg < 0x28 then 0 else cfgWord 3 reg (Tab.at s.links.ioCfg reg)

/-- Writes one. -/
def State.cxlCfgWrite (s : State) (reg : Nat) (x : RegWrite) : State :=
  if 0x10 ≤ reg && reg < 0x28 then s
  else { s with links := { s.links with ioCfg := Tab.put s.links.ioCfg reg (bits (x.over (s.cxlCfgRead reg)) 0 32) } }

end Sys2Proof.Machine
end

