-- ==== Sys2Proof/Machine/Port.lean ====
section
/-! DEFINITION. Inbound requests of the PCI Express port and of CXL.io: where they go, the checks of R32, their order, and their
completions (R107, R182 to R184, R295, R328 to R333, R338, R347, R348, R383). Port 0 is CXL.io, port 1 the PCI Express port. -/

namespace Sys2Proof.Machine

/-- Inbound requests that port 0 or 1 has taken and not completed. -/
def State.inItems (s : State) (port : Nat) : List InItem := if port = 0 then s.links.io else s.px.inbound
/-- Replaces them. -/
def State.setItems (s : State) (port : Nat) (l : List InItem) : State :=
  if port = 0 then { s with links := { s.links with io := l } } else s.modPx fun x => { x with inbound := l }

/-! ## Completions -/

/-- Cuts the data of a read at 64-byte boundaries into completions of at most 512 B (R338). `lo` is the address within its line. -/
def splitData (lo : Nat) : Nat → Bytes → List Bytes
  | 0, _ => []
  | n + 1, d =>
    let k := 512 - lo
    if d.length ≤ k then [d] else d.take k :: splitData 0 n (d.drop k)

/-- Sends the completions of a read. -/
def State.complete (s : State) (port txn lo status : Nat) (poisoned : Bool) (data : Bytes) : State :=
  let s1 := if port = 1 then s.tlp else s
  if status ≠ 0 then
    let s2 := s1.emit (.completion (port == 0) txn status poisoned [])
    if port = 1 && status = 4 then s2.aerError 15 [] else s2
  else s1.each (splitData (lo % 64) (data.length + 1) data) fun s d => s.emit (.completion (port == 0) txn 0 poisoned d)

/-! ## Doorbell pages -/

/-- A write to partition p's doorbell page reaches the doorbell path (R105 to R108). -/
def State.pageWrite (s : State) (p off n value : Nat) : State :=
  if n ≠ 8 || off % 8 ≠ 0 then s.dropBadAccess p
  else if off % 64 = 0 then s.ringDoorbell p (off / 64) value
  else match off with
  | 0x08 => s.faultDoorbell p value
  | 0x10 => s.invDoorbell p value
  | 0x18 => s.chordDoorbell p value
  | _ => s.dropBadAccess p

/-! ## The queue of a port -/

/-- Bytes of a space read by 64-bit words. -/
def readWords (f : Nat → Nat) (off n : Nat) : Bytes :=
  (List.range n).map fun i => BitVec.ofNat 8 (bits (f ((off + i) / 8 * 8)) (8 * ((off + i) % 8)) 8)

/-- The 64-bit word at offset o, a multiple of 8, of VF p's BAR_4 (R329). -/
def State.vfBarRead (s : State) (p o : Nat) : Nat :=
  if o < 0x2000 then s.msixRead p o
  else if 0x8000 ≤ o && o < 0x8040 then s.pbaRead p (o - 0x8000)
  else if 0x10000 ≤ o then s.boxRead p (o - 0x10000)
  else 0

/-- Writes it. -/
def State.vfBarWrite (s : State) (p o : Nat) (x : RegWrite) : State :=
  if o < 0x2000 then s.msixWrite p o x
  else if 0x10000 ≤ o then s.boxWrite p (o - 0x10000) x
  else s

/-- Writes a run of bytes to a space of 64-bit words, word by word. -/
def State.wordsWrite (s : State) (f : State → Nat → RegWrite → State) : Nat → Nat → Bytes → State
  | 0, _, _ => s
  | k + 1, off, d =>
    if d.isEmpty then s
    else
      let n := min d.length (8 - off % 8)
      (f s (off / 8 * 8) (regWriteOf off n (leNat (d.take n)))).wordsWrite f k (off + n) (d.drop n)

/-- Bytes that a read of a space other than memory returns. -/
def State.spaceRead (s : State) (n : Nat) : InSpace → Bytes
  | .memory _ _ => []
  | .regs w off => leBytes n (s.bar0Read w off n)
  | .vfBar p off => readWords (s.vfBarRead p) off n
  | .rom off => padTo n (slice s.px.image off n)
  | .zero => zeros n
  | .ones => List.replicate n 0xFF

/-- Sends the die-fabric request of an inbound access to this die's memory; a partition's HBM counts for it (R384). -/
def State.sendInbound (s : State) (port : Nat) (part : Option Nat) (pa len : Nat) (data : Option Bytes) : State :=
  let d := data.getD []
  let s1 := match part with
    | some p => s.count p 3 len
    | none => s
  s1.send { part := part.getD 0, unit := 69, purpose := .inboundWrite port s.nextReq, path := .fabric 0
            kind := if data.isSome then .write else .read, pa := pa, len := len, data := d, wire := d }

/-- The next thing port `port` can do for the requests it holds, oldest first: a doorbell passes, a read issues or completes; `wait`
says that an earlier posted write is not acknowledged, `before` that an earlier read is not complete (R182 to R184). -/
def State.pumpStep (s : State) (port : Nat) (wait before : Bool) (done : List InItem) : List InItem → Option State
  | [] => none
  | i :: rest =>
    match i with
    | .posted _ => s.pumpStep port true before (done ++ [i]) rest
    | .doorbell p off n v =>
      if wait then s.pumpStep port true before (done ++ [i]) rest
      else some ((s.setItems port (done ++ rest)).pageWrite p off n v)
    | .read txn lo len space =>
      if wait then s.pumpStep port true true (done ++ [i]) rest
      else match space with
        | .memory part pa =>
          some ((s.setItems port (done ++ [InItem.reading txn lo s.nextReq] ++ rest)).sendInbound port part pa len none)
        | _ => some (s.setItems port (done ++ [InItem.answered txn lo 0 false false (s.spaceRead len space)] ++ rest))
    | .reading _ _ _ => s.pumpStep port wait true (done ++ [i]) rest
    | .answered txn lo status pois _ data =>
      if wait || before then s.pumpStep port wait true (done ++ [i]) rest
      else some ((s.setItems port (done ++ rest)).complete port txn lo status pois data)

/-- Does what port `port` can do now. -/
def State.pumpPort (s : State) (port : Nat) : Nat → State
  | 0 => s
  | n + 1 => match s.pumpStep port false false [] (s.inItems port) with
    | some t => t.pumpPort port n
    | none => s

/-- Takes one more inbound request, and does what can be done. -/
def State.take (s : State) (port : Nat) (i : InItem) : State :=
  let l := s.inItems port ++ [i]
  (s.setItems port l).pumpPort port (3 * l.length)

/-- The die-fabric write of an inbound posted write is acknowledged (R178, R182 to R184). -/
def State.inboundWritten (s : State) (q : Req) (port : Nat) : State :=
  let l := (s.inItems port).filter fun i => i != .posted q.id
  ((s.finishReq q).setItems port l).pumpPort port (3 * l.length)

/-- The die-fabric read of an inbound read returns: with EP = 1 where HBM returned poison, with Completer Abort on an error (R338). -/
def State.inboundRead (s : State) (q : Req) (port : Nat) (res : RdRes) : State :=
  let l := (s.inItems port).map fun i => match i with
    | .reading txn lo r =>
      if r = q.id then
        match res with
        | .ok b => InItem.answered txn lo 0 false false (padTo q.len b)
        | .poison b => .answered txn lo 0 true false (padTo q.len b)
        | .error => .answered txn lo 4 false false []
      else i
    | _ => i
  ((s.finishReq q).setItems port l).pumpPort port (3 * l.length)

/-! ## Where an inbound access goes -/

/-- Where an inbound access goes. -/
inductive InDest where
  | memory (part : Option Nat) (pa : Nat)
  | regs (who : Who) (off : Nat)
  | vfBar (p off : Nat)
  | rom (off : Nat)
  /-- The doorbell page of partition p. -/
  | page (p off : Nat)
  /-- Refused by R6 or R383, which count no violation. -/
  | refused
  /-- Refused by R32 or R330: requester, its partition, CHECK and physical address of the violation record. -/
  | violation (requester part check pa : Nat) (errPart : Option Nat)
deriving DecidableEq, Repr, Inhabited

/-- A direct-HBM access of a requester of the host (R32, R33). -/
def State.destDirect (s : State) (requester off len : Nat) : InDest :=
  match s.directIn none off len with
  | .ok pa => .memory none pa
  | .error c => .violation requester 0 c (s.dieId * 2 ^ 47 + off) none

/-- An access to offset `a` of partition p's window aperture by a requester that may reach it (R32, R33, R383). -/
def State.destWindow (s : State) (requester p a len : Nat) (write : Bool) : InDest :=
  if (s.part p).st = 1 || (s.part p).st = 3 then .refused
  else match s.windowIn p a len write with
    | .ok pa => .memory (some p) pa
    | .error c => .violation requester p c (s.dieId * 2 ^ 47 + 2 ^ 45 + p * 2 ^ 41 + a) (some p)

/-- A register access under R6 and R7. -/
def destRegs (who : Who) (off len : Nat) : InDest := if regShape off len then .regs who off else .refused

/-- An inbound CXL.io access to an offset of this die (R27, R32). -/
def State.cxlDest (s : State) (pasid : Option Nat) (off len : Nat) (write : Bool) : InDest :=
  let who := s.whoOf pasid
  let part := match who with
    | .bound p => p
    | _ => 0
  let pa := s.dieId * 2 ^ 47 + off
  if off < 2 ^ 45 then s.destDirect 2 off len
  else if off < 2 ^ 46 then
    let p := bits off 41 4
    if who = .bound p then s.destWindow 2 p (bits off 0 41) len write else .violation 2 part 5 pa none
  else
    let o := off - 2 ^ 46
    if o < 0x04000000 then destRegs who o len
    else if o < 0x05000000 then .page ((o - 0x04000000) / 0x100000) (o % 0x100000)
    else if 0x10000000 ≤ o && o < 0x100000000 then (if who = .operator then .memory none pa else .violation 2 part 5 pa none)
    else .violation 2 part 4 pa none

/-- The BAR of an endpoint function that an address lies in: function, BAR (6 for the expansion ROM), offset (R328, R333). -/
def State.barOf (s : State) (addr : Nat) : Option (Nat × Nat × Nat) :=
  let hit (base size : Nat) : Bool := decide (base ≤ addr) && decide (addr < base + size)
  let f := s.fn 16
  if f.memSpace && !f.d3 && hit f.bar0 (2 ^ 26) then some (16, 0, addr - f.bar0)
  else if f.memSpace && !f.d3 && hit f.bar2 (2 ^ s.px.bar2Log2) then some (16, 2, addr - f.bar2)
  else if f.memSpace && !f.d3 && hit f.bar4 (2 ^ 24) then some (16, 4, addr - f.bar4)
  else if f.memSpace && !f.d3 && f.romEnable && hit f.rom (2 ^ 20) then some (16, 6, addr - f.rom)
  else if !s.px.vfMemSpace || !s.px.vfEnable then none
  else
    let vf (base size bar : Nat) : Option (Nat × Nat × Nat) :=
      if base ≤ addr && (addr - base) / size < min 16 s.px.numVfs then some ((addr - base) / size, bar, (addr - base) % size) else none
    (vf s.px.vfBar0 (2 ^ 20) 0).or ((vf s.px.vfBar2 (2 ^ 32) 2).or (vf s.px.vfBar4 (2 ^ 17) 4))

/-- An inbound memory request in endpoint mode; none outside every BAR (R32, R328 to R333). -/
def State.endpointDest (s : State) (addr len : Nat) (write : Bool) : Option InDest :=
  match s.barOf addr with
  | none => none
  | some (f, bar, x) =>
    if f = 16 then
      match bar with
      | 0 => some (destRegs .pf x len)
      | 2 =>
        let off := s.pt.pfWinBase + x
        some (if s.px.winMisaligned then .violation 4 0 7 (s.dieId * 2 ^ 47 + off) none else s.destDirect 4 off len)
      | 4 => some (.page (x / 0x100000) (x % 0x100000))
      | _ => some (.rom x)
    else
      match bar with
      | 0 => some (.page f x)
      | 2 => some (s.destWindow 5 f (Tab.at s.pt.vfWinBase f + x) len write)
      | _ => some (.vfBar f x)

/-- An inbound memory request of requester `rid` in root-port mode (R32, R347). -/
def State.deviceDest (s : State) (rid addr len : Nat) (write : Bool) : InDest :=
  match s.assignedTo rid with
  | none => .violation 6 0 3 (s.dieId * 2 ^ 47 + 2 ^ 45 + addr % 2 ^ 45) none
  | some p =>
    if addr + len ≤ 2 ^ 41 then s.destWindow 6 p addr len write
    else .violation 6 p 3 (s.dieId * 2 ^ 47 + 2 ^ 45 + addr % 2 ^ 45) (some p)

/-- Counts a refusal of the port (R338) and records a violation. -/
def State.refuse (s : State) (port : Nat) (write : Bool) (d : InDest) : State :=
  let s1 := if port = 1 then s.modPx fun x => { x with refused := satAdd 16 x.refused 1 } else s
  match d with
  | .violation requester part check pa errPart => s1.violate requester part check pa write errPart
  | _ => s1

/-- Serves or refuses an inbound write (R32, R107, R183, R184). -/
def State.takeWrite (s : State) (port : Nat) (d : InDest) (data : Bytes) : State :=
  match d with
  | .memory part pa => (s.setItems port (s.inItems port ++ [InItem.posted s.nextReq])).sendInbound port part pa data.length (some data)
  | .regs who off => s.bar0Write who off data.length (leNat data)
  | .vfBar p off => s.wordsWrite (fun s o x => s.vfBarWrite p o x) (data.length + 1) off data
  | .rom _ => s
  | .page p off => s.take port (.doorbell p off data.length (leNat data))
  | .refused => s.refuse port true d
  | .violation _ _ _ _ _ => s.refuse port true d

/-- Serves or refuses an inbound read; a refused one returns all ones in its turn (R32, R182, R183). -/
def State.takeRead (s : State) (port txn lo len : Nat) (d : InDest) : State :=
  match d with
  | .memory part pa => s.take port (.read txn lo len (.memory part pa))
  | .regs who off => s.take port (.read txn lo len (.regs who off))
  | .vfBar p off => s.take port (.read txn lo len (.vfBar p off))
  | .rom off => s.take port (.read txn lo len (.rom off))
  | .page _ _ => s.take port (.read txn lo len .zero)
  | .refused => (s.refuse port false d).take port (.read txn lo len .ones)
  | .violation _ _ _ _ _ => (s.refuse port false d).take port (.read txn lo len .ones)

/-! ## CXL.io (R182, R292, R295) -/

/-- Does the I/O module carry traffic? -/
def State.ioUp (s : State) : Bool := (s.mod s.links.ioModule).carries

/-- An inbound CXL.io posted write of host cores. -/
def State.cxlWrite (s : State) (pasid : Option Nat) (off : Nat) (data : Bytes) : State :=
  if !s.ioUp then s else s.takeWrite 0 (s.cxlDest pasid off data.length true) data

/-- An inbound CXL.io read; an AtomicOp or an I/O request is unsupported (R292). -/
def State.cxlRead (s : State) (pasid : Option Nat) (txn off len : Nat) (memory : Bool) : State :=
  if !s.ioUp then s
  else if !memory then s.take 0 (.answered txn 0 1 false false [])
  else s.takeRead 0 txn (off % 64) len (s.cxlDest pasid off len false)

/-- A CXL.io configuration request to the Type 1 function (R292). -/
def State.cxlConfig (s : State) (txn reg : Nat) (write : Option RegWrite) : State :=
  if !s.ioUp then s
  else match write with
    | none => s.take 0 (.answered txn 0 0 false true (leBytes 4 (s.cxlCfgRead reg)))
    | some x => (s.cxlCfgWrite reg x).take 0 (.answered txn 0 0 false true [])

/-! ## Memory requests of the PCI Express port (R338, R342, R347, R348) -/

/-- A device's interrupt write (R348). -/
def State.deviceInterrupt (s : State) (p addr value : Nat) : State :=
  s.event 0x40 4 s.clk.px none (some p) (fld value 32 32 + fld addr 0 32)

/-- An assigned device writes 4 bytes to the interrupt range (R348). -/
def State.interruptWrite (s : State) (rid addr value : Nat) : State :=
  if !s.px.linkUp || !s.px.rootPort || addr % 4 ≠ 0 || addr < 0xFFFFFFFFFFF00000 then s
  else if s.px.frozen then s.tlp.modPx fun x => { x with frozenDiscards := satAdd 16 x.frozenDiscards 1 }
  else match s.assignedTo rid with
    | some p => s.tlp.deviceInterrupt p addr value
    | none => s.tlp.takeWrite 1 (s.deviceDest rid addr 4 true) (leBytes 4 value)

/-- An inbound memory, AtomicOp or I/O request on the port; the first matching row of R338 decides. -/
def State.memoryRequest (s0 : State) (kind : TlpKind) (rid txn addr len : Nat) (poisoned : Bool) (data header : Bytes) : State :=
  let posted := kind == .write || kind == .pasidWrite
  let write := posted
  let s := s0.tlp
  let ur : State := if posted then s.unsupported header else (s.unsupported header).take 1 (.answered txn 0 1 false false [])
  let dest (f : InDest → State) : State :=
    if s.px.rootPort then f (s.deviceDest rid addr len write)
    else match s.endpointDest addr len write with
      | some d => f d
      | none => ur
  if !s0.px.linkUp then s0
  else if s.px.frozen then
    let s1 := s.modPx fun x => { x with frozenDiscards := satAdd 16 x.frozenDiscards 1 }
    if posted then s1 else s1.emit (.completion false txn 4 false [])
  else if kind ≠ .read && kind ≠ .write then ur
  else if 4096 < len || 4096 < addr % 4096 + len || (write && 512 < len) then s.aerError 18 header
  else if write && s.px.rootPort && len = 4 && addr % 4 = 0 && 0xFFFFFFFFFFF00000 ≤ addr && (s.assignedTo rid).isSome then
    if poisoned then s.aerError 12 header else s.deviceInterrupt ((s.assignedTo rid).getD 0) addr (leNat data)
  else dest fun d =>
    let refusal := match d with
      | .refused => true
      | .violation _ _ _ _ _ => true
      | _ => false
    if write then (if poisoned && !refusal then s.aerError 12 header else s.takeWrite 1 d data)
    else s.takeRead 1 txn (addr % 64) len d

/-- A configuration request on the port, or of the MC to the root port: 0 to 15 the VFs, 16 the PF or the root port (R325, R333,
R342). -/
def State.configRequest (s0 : State) (f txn reg : Nat) (write : Option RegWrite) : State :=
  let there := f = 16 || s0.fnExists f
  if !s0.px.rootPort && !s0.px.linkUp then s0
  else
    let s := s0.tlp
    if !s.px.configReady || (f < 16 && (s.part f).flr.isSome) then s.take 1 (.answered txn 0 2 false true [])
    else if !there then (s.modPx fun x => { x with unsupported := satAdd 16 x.unsupported 1 }).take 1 (.answered txn 0 1 false true [])
    else match write with
      | none => s.take 1 (.answered txn 0 0 false true (leBytes 4 (s.cfgRead f reg)))
      | some x => (s.cfgWrite f reg x).take 1 (.answered txn 0 0 false true [])

end Sys2Proof.Machine
end

