-- ==== Sys2Proof/Machine/Tenant.lean ====
section
/-! DEFINITION. The SPDM responder, tenant claims and the signed requests of a claimed partition, and attestation (R345, R367 to R377).
Messages whose layout SPDM 1.3 gives and this spec does not are `Config.spdmReply` of what the request carries and what the spec says
they hold. -/

namespace Sys2Proof.Machine

/-! ## Tenant requests (R369 to R373) -/

/-- The body of a request payload. -/
def reqBody (b : Bytes) : Bytes := slice b 16 (fieldAt b 4 4)

/-- Has a request payload the layout of R369 to R373 for its CODE? -/
def tenantShape (b : Bytes) : Bool :=
  let code := byteAt b 0
  let arg := byteAt b 2
  let len := fieldAt b 4 4
  let body := match code with
    | 1 => len == 128
    | 2 => len == 160 && decide (arg < 2)
    | 3 => decide (arg < 4) && len == 80 + 48 * byteAt b 32 && decide (1 ≤ byteAt b 32) && decide (byteAt b 32 ≤ 64)
    | 4 => decide (arg < 4) && len == 0
    | 5 => len == 0
    | _ => false
  body && b.length == 16 + len + (if code = 1 then 0 else 96)

/-- A CLAIM for partition p (R370): its RESULT. -/
def State.claim (s : State) (p : Nat) (body : Bytes) : Nat × State :=
  let x := s.part p
  if (x.st ≠ 1 && x.st ≠ 2) || x.claimed then (2, s)
  else if 16 ≤ x.claimFails then (6, s)
  else if Config.sha384 (slice body 0 32) ≠ x.claimDigest then (6, s.modPart p fun x => { x with claimFails := x.claimFails + 1 })
  else (0, s.modPart p fun x => { x with claimed := true, tenantKey := slice body 32 96, counter := 0 })

/-- A KEY_LOAD into slot g (R367, R372): its RESULT, or none while it is held. -/
def State.keyLoad (s : State) (session p g : Nat) (body : Bytes) : Option Nat × State :=
  let x := s.part p
  match (x.slot g).st with
  | .empty =>
    let key : KeySlot := { st := .loaded, hostKey := slice body 0 64, peerKey := slice body 64 32, hbmKey := slice body 96 64 }
    (some 0, s.modPart p fun x => x.modSlot g fun _ => key)
  | .retiring => if x.heldLoad.isSome then (some 2, s) else (none, s.modPart p fun x => { x with heldLoad := some (session, g, body) })
  | .loaded => (some 2, s)

/-- The 48-byte digests of a run of bytes. -/
def digestsOf (n : Nat) (b : Bytes) : List Bytes := (List.range n).map fun i => slice b (48 * i) 48

/-- A SET_PROVISION of set k (R373): its RESULT. -/
def State.setProvision (s : State) (p k : Nat) (body : Bytes) : Nat × State :=
  let members := slice body 80 (48 * byteAt body 16)
  if !(digestsOf (byteAt body 16) members).contains (Config.sha384 Config.identityKey) then (5, s)
  else
    let d : DeviceSet := { setId := slice body 0 16, setKey := slice body 48 32, digest := Config.sha384 members, valid := true }
    (0, s.modPart p fun x => { x with sets := Tab.put x.sets k d })

/-- The three checks of R371 on a request for partition p: 0, or the RESULT of the first that fails. -/
def State.tenantCheck (s : State) (p : Nat) (b : Bytes) : Nat :=
  let x := s.part p
  let n := 16 + fieldAt b 4 4
  if (x.st ≠ 1 && x.st ≠ 2) || !x.claimed then 2
  else if !Config.ecdsaVerify x.tenantKey (slice b 0 n) (slice b n 96) then 3
  else if fieldAt b 8 8 ≤ x.counter then 4
  else 0

/-- The action of an accepted request: its RESULT, or none while it is held (R355, R367, R372, R373). -/
def State.tenantAct (s : State) (session p : Nat) (b : Bytes) : Option Nat × State :=
  let arg := byteAt b 2
  match byteAt b 0 with
  | 2 => s.keyLoad session p arg (reqBody b)
  | 3 => let r := s.setProvision p arg (reqBody b); (some r.1, r.2)
  | 4 => (some 0, s.modPart p fun x => { x with sets := Tab.put x.sets arg {} })
  | _ => (some 0, s.startScrub p 1)

/-- Sends a tenant response (R369). -/
def State.tenantReply (s : State) (session code result : Nat) : State :=
  s.emit (.spdm (some session) [BitVec.ofNat 8 (code ||| 0x80), BitVec.ofNat 8 result, 0, 0])

/-- May the MC answer SPDM: its firmware runs and no source is at level 4 (R427, R445)? -/
def State.spdmMay (s : State) : Bool := s.mc.ready && !s.mc.fw.recovery && !s.stopped

/-- A request payload of R369 arrives in a session; outside a secured session it is dropped. -/
def State.tenantRequest (s : State) (session : Nat) (b : Bytes) : State :=
  let p := byteAt b 1 % 16
  let code := byteAt b 0
  if !s.spdmMay || !s.mc.spdm.sessions.contains session then s
  else if !tenantShape b then s.tenantReply session code 1
  else if code = 1 then
    let r := s.claim p (reqBody b)
    r.2.tenantReply session 1 r.1
  else match s.tenantCheck p b with
    | 0 =>
      let r := (s.modPart p fun x => { x with counter := fieldAt b 8 8 }).tenantAct session p b
      match r.1 with
      | some c => r.2.tenantReply session code c
      | none => r.2
    | c => s.tenantReply session code c

/-! ## Measurements (R376, R377) -/

/-- The indices of the measurements. -/
def measIxs : List Nat := [1, 2, 3] ++ (List.range 16).map (0x10 + ·) ++ (List.range 16).map (0x20 + ·) ++ (List.range 16).map (0x30 + ·)

/-- Value of a measurement. -/
def State.measValue (s : State) (i : Nat) : Bytes :=
  let p := i % 16
  let x := s.part p
  let free := x.st == 0
  match i / 16 with
  | 0 => match i with
    | 1 => mMcDigest s.mc.fw.manifest
    | 2 => mRkDigest s.mc.fw.manifest
    | _ => Config.romDigest
  | 1 => if free then zeros 48 else x.measProg
  | 2 => if free then zeros 48 else x.measPkg
  | _ =>
    if free || !x.claimed then zeros 48
    else
      let masks := leBytes 2 x.groups ++ leBytes 2 x.tcWays ++ leBytes 2 x.tlbWays ++ leBytes 4 (s.channelMask p) ++ leBytes 4 x.modules
      Config.sha384 (x.tenantKey ++ x.claimDigest ++ masks)

/-- DMTF value type of a measurement. -/
def measType (i : Nat) : Nat :=
  match i / 16 with
  | 0 => if i = 3 then 0 else 1
  | 3 => 2
  | _ => 3

/-- A measurement block (R377). -/
def State.measBlock (s : State) (i : Nat) : Bytes :=
  leBytes 1 i ++ leBytes 1 1 ++ leBytes 2 51 ++ leBytes 1 (measType i) ++ leBytes 2 48 ++ padTo 48 (s.measValue i)

/-! ## The responder (R345) -/

/-- Request code of SPDM 1.3. -/
def spdmCode : SpdmCode → Nat
  | .version => 0x84
  | .capabilities => 0xE1
  | .algorithms => 0xE3
  | .digests => 0x81
  | .certificate => 0x82
  | .challenge => 0x83
  | .measurements => 0xE0
  | .keyExchange => 0xE4
  | .finish => 0xE5
  | .heartbeat => 0xE8
  | .keyUpdate => 0xE9
  | .endSession => 0xEC
  | .vendor => 0xFE
  | .other c => c

/-- Changes the responder. -/
def State.modSpdm (s : State) (f : Spdm → Spdm) : State := { s with mc := { s.mc with spdm := f s.mc.spdm } }

/-- Sends an SPDM ERROR message. -/
def State.spdmError (s : State) (session : Option Nat) (error code : Nat) : State :=
  s.emit (.spdm session [0x13, 0x7F, BitVec.ofNat 8 error, BitVec.ofNat 8 code])

/-- Sends the response of a request code: its content as the spec gives it, laid out by SPDM. -/
def State.spdmAnswer (s : State) (session : Option Nat) (c : SpdmCode) (content : Bytes) : State :=
  let (n, s1) := s.draw
  s1.emit (.spdm session (Config.spdmReply (spdmCode c) content n))

/-- Does a request belong inside a session, or outside any? Some go either way. -/
def spdmPlace (session : Option Nat) (s : Spdm) : SpdmCode → Bool
  | .version => session.isNone
  | .capabilities => session.isNone && decide (1 ≤ s.step)
  | .algorithms => session.isNone && decide (2 ≤ s.step)
  | .challenge => session.isNone && decide (3 ≤ s.step)
  | .keyExchange => session.isNone && decide (3 ≤ s.step)
  | .finish => match session with
    | some k => s.opening.contains k
    | none => false
  | .heartbeat => session.isSome
  | .keyUpdate => session.isSome
  | .endSession => session.isSome
  | _ => session.isSome || decide (3 ≤ s.step)

/-- An SPDM 1.3 request arrives over DOE or over MCTP (R345, R369, R376): `session` is the secured session it came in. `body` holds the
bytes after the code: for GET_CERTIFICATE slot, reserved, offset and length; for GET_MEASUREMENTS attributes and index; for
VENDOR_DEFINED_REQUEST the payload of R369. -/
def State.spdmRequest (s : State) (doe : Bool) (session : Option Nat) (c : SpdmCode) (body : Bytes) : State :=
  let x := s.mc.spdm
  let known := match session with
    | some k => x.sessions.contains k || (x.opening.contains k && c == .finish)
    | none => true
  if !s.spdmMay || !known || (doe && (s.px.rootPort || !s.px.configReady)) then s
  else if !spdmPlace session x c then (if c = .vendor then s else s.spdmError session 4 0)
  else match c with
    | .version => (s.modSpdm fun x => { x with step := 1 }).spdmAnswer session c [0x13]
    | .capabilities => (s.modSpdm fun x => { x with step := max x.step 2 }).spdmAnswer session c body
    | .algorithms => (s.modSpdm fun x => { x with step := 3 }).spdmAnswer session c body
    | .digests => s.spdmAnswer session c (Config.sha384 Config.certChain)
    | .certificate =>
      if byteAt body 0 ≠ 0 then s.spdmError session 1 0
      else s.spdmAnswer session c (slice Config.certChain (fieldAt body 2 2) (fieldAt body 4 2))
    | .challenge => s.spdmAnswer session c (Config.identitySign body)
    | .measurements =>
      let i := byteAt body 1
      let blocks := if i = 0 then [] else if i = 0xFF then measIxs.flatMap s.measBlock else s.measBlock i
      if i ≠ 0 && i ≠ 0xFF && !measIxs.contains i then s.spdmError session 1 0
      else
        let (n, s1) := s.draw
        let sign := if bit (byteAt body 0) 0 then some (Config.identitySign (body ++ blocks ++ leBytes 32 n)) else none
        s1.emit (.measurements session (if i = 0 then leBytes 1 measIxs.length else blocks) sign)
    | .keyExchange =>
      if 4 ≤ x.sessions.length + x.opening.length then s.spdmError session 0x0A 0
      else (s.modSpdm fun x => { x with opening := x.opening ++ [x.next], next := x.next + 1 }).spdmAnswer session c body
    | .finish =>
      match session with
      | some k => (s.modSpdm fun x => { x with opening := x.opening.erase k, sessions := x.sessions ++ [k] }).spdmAnswer session c body
      | none => s
    | .heartbeat => s.spdmAnswer session c []
    | .keyUpdate => s.spdmAnswer session c body
    | .endSession =>
      match session with
      | some k => (s.modSpdm fun x => { x with sessions := x.sessions.erase k }).spdmAnswer session c []
      | none => s
    | .vendor =>
      match session with
      | some k => s.tenantRequest k body
      | none => s
    | .other code => s.spdmError session 7 code

end Sys2Proof.Machine
end

