-- ==== Sys2Proof/Machine/Acks.lean ====
section
/-! DEFINITION. Which unit takes the end of a request: data and acknowledgements that return, and the limit of R148. -/

namespace Sys2Proof.Machine

/-- A response that nobody waits for any longer is discarded; one still merged with others, in a fill or on a peer link ends there. -/
def State.discardRes (s : State) (q : Req) : State := if q.onPeer || q.onFill || q.path == .combining then s else s.finishReq q

/-- Data return for request `id` on the die fabric, the host link or from the tier cache (R75, R182, R183, R314). -/
def State.readBack (s : State) (id : Nat) (res : RdRes) : State :=
  match s.req id with
  | none => s
  | some q =>
    if q.kind != .read then s
    else match q.purpose with
      | .inboundWrite port _ => s.inboundRead q port res
      | .kppServe i => s.kppRead q i res
      | .dropped => s.discardRes q
      | _ => s.dataReturned q res

/-- Request `id`, a write, is acknowledged at its point of global visibility or fails (R178). -/
def State.writeBack (s : State) (id : Nat) (res : WrRes) : State :=
  match s.req id with
  | none => s
  | some q =>
    if q.kind == .read then s
    else match q.purpose with
      | .inboundWrite port _ => s.inboundWritten q port
      | .dropped => if q.isAcc && res == .ok then s else (s.performAdds q res).discardRes q
      | _ => s.dataAcked q res

/-- The die-fabric write of an inbound KPP write is acknowledged (R179). -/
def State.kppBack (s : State) (id : Nat) (res : WrRes) : State :=
  match s.req id with
  | some q => s.inboundAcked q res
  | none => s

/-- A cache fill that none of its readers waits for any longer ends. -/
def State.endFill (s : State) (q : Req) (f : Nat) : State :=
  let waits := s.tier.fills.any fun x => x.id == f && x.waiters.any s.isOut
  if waits then s else { s.finishReq q with tier := { s.tier with fills := s.tier.fills.filter fun x => x.id != f } }

/-- Counts a request of a queue cell that has reached its limit: QC[c].XFER_ERR.TIMEOUT (R148). -/
def State.countLimit (s : State) (q : Req) : State :=
  let internal : Bool := match q.purpose with
    | .cacheFill _ => true
    | .wcPush _ => true
    | .wcMerge _ => true
    | .tagMerge _ => true
    | .dropped => true
    | _ => false
  if decide (q.unit < 64) && !internal then s.modCell q.unit fun c => { c with errTimeout := satAdd 16 c.errTimeout 1 } else s

/-- Ends a request as with an error response, TIMEOUT set (R120, R148, R153, R215, R487). -/
def State.endAtLimit (s : State) (q : Req) : State :=
  match q.path, q.purpose with
  | .peer _ tag, _ => s.endPeer tag 8 true []
  | _, .descFetch r x => (s.finishReq q).fetchReturned q r x .error
  | _, .descDropped _ => s.finishReq q
  | _, .dropped => if q.path == .combining then s else s.finishReq q
  | _, .srcRead _ _ _ _ => s.endRead q 8 true []
  | _, .jobRead _ _ _ _ => s.endRead q 8 true []
  | _, .normTable _ => s.endRead q 8 true []
  | _, .statusBlock r _ => s.endFinish q.part r q.purpose .error
  | _, .ownClear r _ => s.endFinish q.part r q.purpose .error
  | _, .completionEntry r _ => s.endFinish q.part r q.purpose .error
  | _, .consumerWord k => (s.finishReq q).consumerReturned q k .error
  | _, .faultRecord k gen => s.recordAcked k gen .error
  | _, .invFetch p _ => s.invReturned p .error
  | _, .chordHeader k => s.headerReturned (k / 4) .error
  | _, .chordLine k _ => s.takeChord (k / 4) (List.replicate (s.linesOf k).length .error)
  | _, .chordStatus _ => s.chordAck q.part q.purpose .error
  | _, .chordOwn _ => s.chordAck q.part q.purpose .error
  | _, .wcPush n => (s.finishReq q).endPush n 8
  | _, .wcMerge n => (s.finishReq q).endPush n 8
  | _, .tagMerge w => (s.finishReq q).endWrites [w] 8
  | _, .cacheFill f => s.endFill q f
  | _, .inboundWrite port _ => if q.kind == .read then s.inboundRead q port .error else s.inboundWritten q port
  | _, .kppServe i => if q.kind == .read then s.kppRead q i .error else s.inboundAcked q .error
  | _, .walkRead _ => s
  | _, .ownedRead _ => s
  | _, _ => s.endWrite q 8 true

/-- Request `id` has reached 2^24 CK_FAB cycles: it ends as with an error response, TIMEOUT set (R120, R148, R153, R215, R487). -/
def State.requestLimit (s : State) (id : Nat) : State :=
  match s.req id with
  | none => s
  | some q =>
    if s.clk.fab < q.start + 2 ^ 24 then s
    else (s.countLimit q).endAtLimit q

/-! ## Events that name a request or a requester -/

/-- A descriptor fetch returns (R115); one whose descriptor the cell no longer wants is discarded. -/
def State.fetchBack (s : State) (id : Nat) (res : RdRes) : State :=
  match s.req id with
  | none => s
  | some q => match q.purpose with
    | .descFetch r x => (s.finishReq q).fetchReturned q r x res
    | .descDropped _ => s.finishReq q
    | _ => s

/-- A consumer-word read returns (R157). -/
def State.consumerBack (s : State) (id : Nat) (res : RdRes) : State :=
  match s.req id with
  | none => s
  | some q => match q.purpose with
    | .consumerWord k => (s.finishReq q).consumerReturned q k res
    | _ => s

/-- A norm-table read returns (R221). -/
def State.normBack (s : State) (id : Nat) (res : RdRes) : State :=
  match s.req id with
  | none => s
  | some q => match q.purpose with
    | .normTable _ => s.dataReturned q res
    | _ => s

/-- The issue arbiter grants one request (R128). -/
def State.grant (s : State) : Requester → State
  | .cellRead r off => (s.grantRead r off).advanceOwner r
  | .cellWrite r pos off => (s.grantWrite r pos off).advanceOwner r
  | .jobRead e stream off len => s.grantJobRead e stream off len
  | .jobWrite e => (s.jobWriteOne e).2

/-- A dynamic I3C address is assigned to the board-management target (R401). -/
def State.assignI3c (s : State) (addr : Nat) : State := { s with mc := { s.mc with i3c := some addr } }

/-- A register write of the PF over BAR_0, or of host cores over the register image with a PASID or none (R6 to R8, R32, R342). -/
def State.registerWrite (s : State) (via : Option (Option Nat)) (off n value : Nat) : State :=
  match via with
  | none => if s.px.rootPort || s.px.frozen || !s.px.linkUp then s else s.tlp.bar0Write .pf off n value
  | some pasid => if s.ioUp then s.bar0Write (s.whoOf pasid) off n value else s

/-- A configuration write of some bytes of a doubleword. -/
def cfgOperand (w : Option (BitVec 4 × BitVec 32)) : Option RegWrite :=
  w.map fun (x : BitVec 4 × BitVec 32) =>
    let mask := (maskBits 4 x.1.toNat).foldl (fun n i => n + 0xFF * 2 ^ (8 * i)) 0
    { value := x.2.toNat &&& mask, mask := mask }

end Sys2Proof.Machine
end

