-- ==== Sys2Proof/Machine/Tick.lean ====
section
/-! DEFINITION. One tick of the clocks: what happens of itself as cycles pass (R10, R200, R248, R343, R357; log entries 2 and 3). -/

namespace Sys2Proof.Machine

/-- The clocks after one more tick. -/
def Clocks.tick (c : Clocks) : Clocks :=
  let by_ (d : Nat) : Nat := Config.cyclesPerTick d c.ticks
  let all (base n : Nat) (t : Tab Nat) : Tab Nat := (List.range n).foldl (fun t k => Tab.upd t k fun x => x + by_ (base + k)) t
  { fab := c.fab + by_ 0, arr := c.arr + by_ 1, mgt := c.mgt + by_ 2, px := c.px + by_ 3, tly := c.tly + by_ 4
    hl := all 8 4 c.hl, pl := all 16 20 c.pl, ticks := c.ticks + 1 }

/-- A bucket after n CK_FAB cycles: it fills up to its burst, and counts the cycles in which a request waited (R357). -/
def Bucket.tick (b : Bucket) (n : Nat) : Bucket :=
  { b with tokens := if b.rate = 0 then b.tokens else min (b.tokens + n * b.rate) (16 * 2 ^ b.burstLog2)
           waits := if b.waiting then b.waits + n else b.waits }

/-- The array's busy and stall counts after CK_ARR has gone from `a` to `b` (R248): it idles between chunks of the tile in progress. -/
def State.tickArray (s : State) (a b : Nat) : State :=
  match s.rk.array with
  | none => s
  | some t =>
    let idle := if t.chunks.length < (s.job t.job).chunkCount then b - max a (min t.until_ b) else 0
    { s with rk := { s.rk with arrBusy := wrapAdd 64 s.rk.arrBusy (b - a), arrStall := wrapAdd 64 s.rk.arrStall idle } }

/-- Counts and occupancies that depend on what no command shows: losses at host DRAM, and the narrow queues (R200, R201). `f` numbers
the first of 37 free values. -/
def State.tickTier (s : State) (f : Nat) : State :=
  let t := s.tier
  let v (i : Nat) : Nat := Config.free (f + i)
  let busy (p : Nat) : Bool := s.reqs.any fun q => q.part == p && q.path == .narrow
  let occ := partIxs.foldl (fun (m : Tab Nat) p => Tab.put m p (if busy p then v (5 + p) % 33 else 0)) t.narrowOcc
  let wait := partIxs.foldl (fun (m : Tab Nat) p => if busy p then Tab.upd m p fun n => max n (v (21 + p) % 2 ^ 32) else m) t.narrowWait
  let t1 := { t with narrowOcc := occ, narrowWait := wait }
  let t2 := if t.perfEnable then
      { t1 with switches := satAdd 16 t.switches (v 0), conflictRuns := satAdd 16 t.conflictRuns (v 1)
                refreshWindows := satAdd 16 t.refreshWindows (v 2), lostIn := satAdd 32 t.lostIn (v 3), lostOut := satAdd 32 t.lostOut (v 4) }
    else t1
  { s with tier := t2 }

/-- One tick: cycles pass in every domain. -/
def State.tick (s : State) : State :=
  let c := s.clk.tick
  let n := c.fab - s.clk.fab
  let parts := Tab.mapV s.pt.parts fun _ (x : Part) => { x with buckets := Tab.mapV x.buckets fun _ b => b.tick n }
  let s1 := { s with clk := c, pt := { s.pt with parts := parts }, free := s.free + 37 }
  ((s1.tickArray s.clk.arr c.arr).tickTier s.free).releaseDue

end Sys2Proof.Machine
end

