-- ==== Sys2Proof/Machine/Meaning.lean ====
section
/-! DEFINITION. What the meanings of all families share. -/

namespace Sys2Proof.Machine

/-- The outcome of a command. -/
abbrev Result := Host.Outcome State Fault Refusal

/-- A next state for a well-formed command; an ill-formed one is refused by name. -/
def checked (i : Instr) (name : String) (s : State) : Result := if i.wf then .next s else .refused (.illFormed name)

end Sys2Proof.Machine
end

