-- ==== Sys2Proof/Machine/ExecChordUnit.lean ====
section
/-! DEFINITION. Meanings: chords (R160 to R177). -/

namespace Sys2Proof.Machine

/-- CHORD_HEADER_FETCH: The chord unit issues the header fetch of the next chord position while the partition has a free slot, claiming
the slot (R167). -/
def execChordHeaderFetch (p : Fin 16) (s : State) : Result := .next (s.fetchChord p)

/-- CHORD_HEADER_RETURN: A chord header returns and is judged by LAP and OWN; a valid header leads to action-line fetches and a stale
one to backoff (R162). -/
def execChordHeaderReturn (p : Fin 16) (res : RdRes) (s : State) : Result := .next (s.headerReturned p res)

/-- CHORD_BACKOFF_EXPIRY: The backoff before refetching a stale chord header expires and the refetch is issued (R162). -/
def execChordBackoffExpiry (p : Fin 16) (s : State) : Result := .next (s.refetchChord p)

/-- CHORD_TAKE: The chord's action lines have all returned, and the chord is checked for structure and ownership and becomes TAKEN or
finishes (R167). -/
def execChordTake (p : Fin 16) (lines : List RdRes) (s : State) : Result := .next (s.takeChord p lines)

/-- CHORD_COMMIT: A ready chord is evaluated in its commit cycle for conflict and state, and all its actions take effect together or the
chord aborts (R169). -/
def execChordCommit (p : Fin 16) (s : State) : Result := .next (s.commitChord p)

/-- CHORD_TIMEOUT: A chord not committed within 2^24 CK_FAB cycles of its take aborts with status TIMEOUT (R172). -/
def execChordTimeout (k : Fin 64) (s : State) : Result := .next (s.chordTimeout k)

/-- CHORD_STATUS_WRITE: After commit or abort, and once its invalidations have drained, the chord unit writes the header status fields
(R173). -/
def execChordStatusWrite (k : Fin 64) (s : State) : Result := .next (s.chordStatus k)

/-- CHORD_OWN_CLEAR: After the status write is acknowledged, the chord unit clears OWN in header byte 63 (R173). -/
def execChordOwnClear (k : Fin 64) (ack : WrRes) (s : State) : Result := .next (s.chordOwn k ack)

/-- CHORD_NOTE_WRITE: After the OWN write is acknowledged, the chord unit writes the trailing note when NOTE_EN is 1 and frees the slot
(R174). -/
def execChordNoteWrite (k : Fin 64) (ack : WrRes) (s : State) : Result := .next (s.chordNote k ack)

end Sys2Proof.Machine
end

