-- ==== Sys2Proof/Machine/ExecErrorCmd.lean ====
section
/-! DEFINITION. Meanings: the error collector, reconciling, and register writes (R418 to R436, R6 to R8). -/

namespace Sys2Proof.Machine

/-- ERROR_LATCH: EC latches an error from a line, sets its status bit, fills records and target sets, and may step the source level
(R419). -/
def execErrorLatch (e : ErrorEv) (s : State) : Result := checked (.errorLatch e) "ERROR_LATCH" (s.latchLine e)

/-- GRACE_EXPIRY: A source's grace timer expires and the source steps up one level (R425). -/
def execGraceExpiry (src : Fin 16) (s : State) : Result := .next (s.graceExpiry src)

/-- EC_STATUS_CLEAR: A write of 1 to EC_STATUS bits clears them and may acknowledge a source, releasing its hardware quarantines (R420).
-/
def execEcStatusClear (w : Word) (s : State) : Result := .next (s.clearStatus w.toNat)

/-- QUIET_EXPIRY: A source's quiet timer expires, the source recovers to level 0, and the MC writes releases (R431). -/
def execQuietExpiry (src : Fin 16) (s : State) : Result := .next (s.quietExpiry src)

/-- EC_INJECT: With TEST_MODE 1, a write with GO latches an injected error as if from a line (R435). -/
def execEcInject (w : Word) (s : State) : Result := .next (s.inject w.toNat)

/-- ALIVE_TOGGLE: Every 2^19 CK_MGT cycles EC toggles ALIVE_OUT below level 4 (R433). -/
def execAliveToggle (s : State) : Result := .next s.aliveToggle

/-- RECONCILE_PASS: Every 2^20 CK_MGT cycles the MC reconciles its view of all 112 unit state words with the hardware (R417). -/
def execReconcilePass (s : State) : Result := .next s.reconcile

/-- REGISTER_WRITE: A BAR_0 write to any other register takes effect by its access codes, or is dropped under R6 and R7 (R8). -/
def execRegisterWrite (via : Option (Option (BitVec 20))) (off : BitVec 26) (n : Nat) (value : Word) (s : State) : Result :=
  .next (s.registerWrite (via.map fun (x : Option (BitVec 20)) => x.map fun (y : BitVec 20) => y.toNat) off.toNat n value.toNat)

end Sys2Proof.Machine
end

