-- ==== Sys2Proof/Machine/ExecKeys.lean ====
section
/-! DEFINITION. Meanings: scrub phases, re-key steps and key slots (R362 to R380). -/

namespace Sys2Proof.Machine

/-- SCRUB_QUIESCE_END: The QUIESCE phase ends; the partition's rings become DISABLED and the ZERO sweep restarts at offset 0 (R379). -/
def execScrubQuiesceEnd (p : Fin 16) (s : State) : Result := .next (s.quiesceEnd p)

/-- SCRUB_ZERO_END: The ZERO sweep ends and CLOSE begins, zeroing keys, bindings and buffers (R378). -/
def execScrubZeroEnd (p : Fin 16) (s : State) : Result := .next (s.zeroEnd p)

/-- SCRUB_CLOSE_END: CLOSE ends and the partition becomes FREE, releasing its resources (R380). -/
def execScrubCloseEnd (p : Fin 16) (s : State) : Result := .next (s.closeEnd p)

/-- REKEY_PAGE_LOCK: The walker locks a page of the host pass and cuts a RANGE invalidation of it (R365). -/
def execRekeyPageLock (p : Fin 16) (leaf : Option FoundLeaf) (s : State) : Result := .next (s.lockPage p leaf)

/-- REKEY_PAGE_PUSHES_DONE: Every re-encrypted push of the page has its GO response, and the walker updates KT_GEN in the leaf (R365).
-/
def execRekeyPagePushesDone (p : Fin 16) (old : Bytes) (s : State) : Result := .next (s.pagePushed p old)

/-- REKEY_PAGE_UNLOCK: After the leaf update is pushed, the walker unlocks the page, and waiting requests translate afresh (R365). -/
def execRekeyPageUnlock (p : Fin 16) (s : State) : Result := .next (s.unlockPage p)

/-- HBM_PASS_END: The HBM re-encrypt pass finishes over every owned channel (R364). -/
def execHbmPassEnd (p : Fin 16) (s : State) : Result := .next (s.hbmPassEnd p)

/-- KEY_SLOT_RETIRE: A RETIRING slot whose passes are done and whose in-flight count is zero is zeroed and set EMPTY, and a held load
completes (R366). -/
def execKeySlotRetire (p : Fin 16) (g : Fin 2) (s : State) : Result := .next (s.retireSlot p g)

/-- HBM_CHANNEL_SIZE_REPORT: The HBM controllers report the channel size S at bring-up, setting PT_ADDR_INFO.HBM_CH_SIZE_LOG2 and
MAP_VALID and fixing the scrub duration (R27). -/
def execHbmChannelSizeReport (log2 : Fin 46) (s : State) : Result := .next (s.channelSize log2)

end Sys2Proof.Machine
end

