-- ==== Sys2Proof/Machine/ExecLinkMod.lean ====
section
/-! DEFINITION. Meanings: link modules and peer traffic (R285 to R320). -/

namespace Sys2Proof.Machine

/-- SIDEBAND_UP: A module's sideband comes up and it moves from SB_INIT to MB_TRAIN (R287). -/
def execSidebandUp (k : Fin 24) (s : State) : Result := .next (s.sidebandUp k)

/-- MAINBAND_TRAINED: Mainband training tests each half, repairs lanes and chooses the width, or sends the module to DOWN (R289). -/
def execMainbandTrained (k : Fin 24) (lo : Fin 33) (hi : Fin 33) (s : State) : Result := .next (s.mainbandTrained k lo hi)

/-- PARAM_FLIT_RECEIVE: A PARAM control flit is checked for version and partner port, bringing the module to LINK_UP or DOWN (R290). -/
def execParamFlitReceive (k : Fin 24) (b : Bytes) (s : State) : Result :=
  checked (.paramFlitReceive k b) "PARAM_FLIT_RECEIVE" (s.paramReceived k b)

/-- TRAINING_LIMIT_EXPIRY: A training attempt exceeds its limit; the module retries or enters DOWN after the third failure (R288). -/
def execTrainingLimitExpiry (k : Fin 24) (s : State) : Result := .next (s.trainingLimit k)

/-- RETRAIN_COMPLETE: A retrain succeeds, restores credits and replays from the partner's next expected SEQ, or fails and the module
enters DOWN (R309). -/
def execRetrainComplete (k : Fin 24) (lo : Fin 33) (hi : Fin 33) (b : Bytes) (s : State) : Result :=
  checked (.retrainComplete k lo hi b) "RETRAIN_COMPLETE" (s.retrainDone k lo hi b)

/-- PAYLOAD_FLIT_RECEIVE: A PAYLOAD flit received in sequence with good CRC is acknowledged, checked for partition and tag, and its
packets delivered, forwarded or answered (R308). -/
def execPayloadFlitReceive (m : Fin 20) (b : Bytes) (s : State) : Result :=
  checked (.payloadFlitReceive m b) "PAYLOAD_FLIT_RECEIVE" (s.payloadReceived m b)

/-- FLIT_CRC_ERROR: A flit with a bad CRC is discarded and a NAK naming the expected SEQ is sent (R309). -/
def execFlitCrcError (k : Fin 24) (b : Bytes) (s : State) : Result := checked (.flitCrcError k b) "FLIT_CRC_ERROR" (s.crcError k b)

/-- NAK_REPEAT_EXPIRY: Every 256 flit times until the expected flit arrives, the receiver sends the NAK again (R309). -/
def execNakRepeatExpiry (m : Fin 20) (s : State) : Result := .next (s.nakRepeat m)

/-- NAK_RECEIVE: A NAK arrives and the sender replays from the named SEQ, entering RETRAIN after four replays without progress (R309).
-/
def execNakReceive (k : Fin 24) (b : Bytes) (s : State) : Result := checked (.nakReceive k b) "NAK_RECEIVE" (s.nakReceived k b)

/-- REPLAY_TIMEOUT: No ACK has advanced for 4,096 CK_PL_n cycles with unacknowledged flits, so the sender replays from the oldest
(R309). -/
def execReplayTimeout (m : Fin 20) (s : State) : Result := .next (s.replayTimeout m)

/-- RESP_FLIT_RECEIVE: A RESP control flit carries UNAVAILABLE or NO_ROUTE responses that are routed or matched to their requests
(R317). -/
def execRespFlitReceive (m : Fin 20) (b : Bytes) (s : State) : Result :=
  checked (.respFlitReceive m b) "RESP_FLIT_RECEIVE" (s.respReceived m b)

/-- INBOUND_WRITE_ACK: The die-fabric write of an inbound KPP write is acknowledged and the WRITE_CPL is sent (R179). -/
def execInboundWriteAck (id : Nat) (res : WrRes) (s : State) : Result := .next (s.kppBack id res)

/-- MESSAGE_TIMEOUT: A MESSAGE has no answer within 2^24 CK_FAB cycles and the MC logs a lost-message event (R319). -/
def execMessageTimeout (tag : Fin 65536) (s : State) : Result := .next (s.messageTimeout tag)

/-- TEST_FLIT_RECEIVE: The checker locks to the pattern and counts checked flits and differing bits (R320). -/
def execTestFlitReceive (k : Fin 24) (b : Bytes) (s : State) : Result :=
  checked (.testFlitReceive k b) "TEST_FLIT_RECEIVE" (s.testReceived k b)

/-- LINK_LOW_POWER_ENTRY: A link idle for 2^14 CK_MGT cycles with partner agreement enters LOW_POWER (R462). -/
def execLinkLowPowerEntry (k : Fin 24) (s : State) : Result := .next (s.enterLp k)

/-- LINK_LOW_POWER_EXIT: A queued flit or snoop starts an exit from LOW_POWER, ending in LINK_UP (R462). -/
def execLinkLowPowerExit (k : Fin 24) (s : State) : Result := .next (s.exitLp k)

/-- TG_CTRL_WRITE: A write to TG_CTRL starts or stops a module's traffic generator and checker where permitted (R320). -/
def execTgCtrlWrite (k : Fin 24) (w : Word) (s : State) : Result := .next (s.writeTg k w.toNat)

/-- TEST_FLIT_GENERATE: The generator sends TEST flits in free flit times until COUNT is reached (R320). -/
def execTestFlitGenerate (k : Fin 24) (s : State) : Result := .next (s.sendTest k)

/-- IDLE_FLIT_RECEIVE: An IDLE flit arrives on a peer module and its ACK and credit fields free retry-buffer entries and return receive
credits (R300). -/
def execIdleFlitReceive (k : Fin 24) (b : Bytes) (s : State) : Result :=
  checked (.idleFlitReceive k b) "IDLE_FLIT_RECEIVE" (s.idleReceived k b)

/-- OUT_OF_ORDER_FLIT: A sequenced flit with a good CRC but not the expected SEQ arrives; the receiver discards it and sends a NAK
naming the expected SEQ (R309). -/
def execOutOfOrderFlit (m : Fin 20) (b : Bytes) (s : State) : Result :=
  checked (.outOfOrderFlit m b) "OUT_OF_ORDER_FLIT" (s.outOfOrder m b)

end Sys2Proof.Machine
end

