-- ==== Sys2Proof/Machine/ExecMailCmd.lean ====
section
/-! DEFINITION. Meanings: mailboxes and their commands (R399 to R417). -/

namespace Sys2Proof.Machine

/-- MAILBOX_GO: A write of 1 to MB_CTRL.GO submits the request, setting BUSY and clearing DONE (R404). -/
def execMailboxGo (m : Fin 17) (s : State) : Result := .next (s.mailboxGo m)

/-- MCTP_REQUEST: An MCTP request on the board-management mailbox is written into the request area, or answered BUSY while a command is
outstanding (R404). -/
def execMctpRequest (body : Bytes) (s : State) : Result := checked (.mctpRequest body) "MCTP_REQUEST" (s.mctpRequest body)

/-- I3C_ADDRESS_ASSIGN: SETDASA or ENTDAA assigns the board-management target's dynamic address (R401). -/
def execI3cAddressAssign (addr : BitVec 7) (s : State) : Result := .next (s.assignI3c addr.toNat)

/-- PART_CREATE: Creates partition p with its named resources, regulators, check tag and CLAIM_DIGEST and sends a LIFETIME pulse (R353).
-/
def execPartCreate (m : Fin 18) (s : State) : Result := .next (s.cmdCreate m)

/-- PART_ACTIVATE: Activates a created, claimed partition whose named key slots are LOADED (R354). -/
def execPartActivate (m : Fin 18) (s : State) : Result := .next (s.cmdActivate m)

/-- PART_DESTROY: Moves the partition to SCRUBBING and starts its scrub at T0 (R355). -/
def execPartDestroy (m : Fin 18) (s : State) : Result := .next (s.cmdDestroy m)

/-- REG_SET: Sets the rate and burst of one regulator bucket (R357). -/
def execRegSet (m : Fin 18) (s : State) : Result := .next (s.cmdReg m)

/-- HOST_RANGE_SET: Writes a host-tier range entry of the fret table (R34). -/
def execHostRangeSet (m : Fin 18) (s : State) : Result := .next (s.cmdRange m)

/-- PASID_BIND: Binds or unbinds a PASID to a partition or as the operator PASID (R32). -/
def execPasidBind (m : Fin 18) (s : State) : Result := .next (s.cmdPasid m)

/-- PF_WIN_BASE: Sets the PF BAR_2 window base into direct HBM (R33). -/
def execPfWinBase (m : Fin 18) (s : State) : Result := .next (s.cmdPfWin m)

/-- VF_WIN_BASE: Sets a VF's BAR_2 window base within its aperture (R33). -/
def execVfWinBase (m : Fin 18) (s : State) : Result := .next (s.cmdVfWin m)

/-- SHARED_REGISTER: Registers or removes a shared read-only range with its origin, digests and tags (R279). -/
def execSharedRegister (m : Fin 18) (s : State) : Result := .next (s.cmdShared m)

/-- RP_ASSIGN: Assigns or unassigns a range of downstream requester IDs to a partition (R347). -/
def execRpAssign (m : Fin 18) (s : State) : Result := .next (s.cmdAssign m)

/-- ASID_BIND: Binds, rebinds or unbinds an ASID to a page-table root; rebinds and unbinds respond when their invalidation is
acknowledged (R46). -/
def execAsidBind (m : Fin 18) (s : State) : Result := .next (s.cmdAsid m)

/-- INVQ_PLACE: Places the partition's invalidation queue and resets XL's consumer count (R62). -/
def execInvqPlace (m : Fin 18) (s : State) : Result := .next (s.cmdInvq m)

/-- DRAIN_LIMIT: Sets the partition's invalidation drain limit (R70). -/
def execDrainLimit (m : Fin 18) (s : State) : Result := .next (s.cmdDrainLimit m)

/-- INVALIDATE: Cuts an invalidation for the partition when room allows and responds on its acknowledgement (R69). -/
def execInvalidate (m : Fin 18) (s : State) : Result := .next (s.cmdInvalidate m)

/-- FQ_PLACE: Places the partition's fault queue and resets its producer count (R87). -/
def execFqPlace (m : Fin 18) (s : State) : Result := .next (s.cmdFq m)

/-- FAULT_TIMEOUT: Sets the partition's fault timeout for timers that start afterwards (R98). -/
def execFaultTimeout (m : Fin 18) (s : State) : Result := .next (s.cmdFaultTimeout m)

/-- RING_CONFIGURE: Configures a DISABLED ring's base, size, class, ASID or physical mode, and completion ring (R102). -/
def execRingConfigure (m : Fin 18) (s : State) : Result := .next (s.cmdRing m)

/-- RING_ENABLE: Enables a configured DISABLED ring with C and P set to the start count (R122). -/
def execRingEnable (m : Fin 18) (s : State) : Result := .next (s.cmdEnable m)

/-- RING_DISABLE: Disables a ring at the disable cycle, aborting its issuing and parked descriptors, and responds when the ring is
DISABLED (R124). -/
def execRingDisable (m : Fin 18) (s : State) : Result := .next (s.cmdDisable m)

/-- CQ_PLACE: Places a completion ring with its consumer word and vector (R155). -/
def execCqPlace (m : Fin 18) (s : State) : Result := .next (s.cmdCq m)

/-- COUNTER_AREA: Places the partition's delivery-counter area (R134). -/
def execCounterArea (m : Fin 18) (s : State) : Result := .next (s.cmdArea m)

/-- CHORD_QUEUE: Places the chord queue, sets P and C to 0 and clears FETCH_STOPPED (R160). -/
def execChordQueue (m : Fin 18) (s : State) : Result := .next (s.cmdChordQueue m)

/-- WINDOW_SET: Writes or removes a window entry after the checks of R38 (R38). -/
def execWindowSet (m : Fin 18) (s : State) : Result := .next (s.cmdWindow m)

/-- KEY_SWITCH: Makes a LOADED key slot current for peer flits or HBM writes (R363). -/
def execKeySwitch (m : Fin 18) (s : State) : Result := .next (s.cmdSwitch m)

/-- REKEY: Retires generation g, starting the host and HBM re-key passes (R364). -/
def execRekey (m : Fin 18) (s : State) : Result := .next (s.cmdRekey m)

/-- UNWRAP: Unwraps and decrypts a weight package into a destination and extends the package measurement (R375). -/
def execUnwrap (m : Fin 18) (header : Option Bytes) (s : State) : Result := .next (s.cmdUnwrap m header)

/-- UNWRAP_DONE: The package decryption ends; a failed check zeroes the destination, and the command responds (R375). -/
def execUnwrapDone (m : Fin 16) (data : Bytes) (s : State) : Result := .next (s.unwrapDone m data)

/-- PROGRAM_LOAD: Reads a program image, extends measurement 0x10 + p and loads it into the partition's compute cells (R376). -/
def execProgramLoad (m : Fin 18) (image : Option Bytes) (s : State) : Result := .next (s.cmdProgram m image)

/-- SCHED_LOAD: Loads one of the partition's schedule tables (R218). -/
def execSchedLoad (m : Fin 18) (s : State) : Result := .next (s.cmdSched m)

/-- REPLICA_SET: Declares or removes a replica-set record (R268). -/
def execReplicaSet (m : Fin 18) (s : State) : Result := .next (s.cmdReplica m)

/-- TC_FLUSH: Clears every KEEP mark of the partition in the tier cache (R193). -/
def execTcFlush (m : Fin 18) (s : State) : Result := .next (s.cmdTcFlush m)

/-- VECTOR_SET: Sets one vector's address and data and the route of the owner's vectors (R337). -/
def execVectorSet (m : Fin 18) (s : State) : Result := .next (s.cmdVector m)

/-- TALLY_COMMIT: Flushes every counting unit and requests a Tally commit, responding with the stored record's SEQ (R390). -/
def execTallyCommit (m : Fin 18) (s : State) : Result := .next (s.cmdTally m)

/-- MODULE_RETRAIN: Restarts training of a module at SB_INIT, through DOWN from a running state (R291). -/
def execModuleRetrain (m : Fin 18) (s : State) : Result := .next (s.cmdRetrain m)

/-- RP_CONFIG: Sends one configuration request to a downstream device (R350). -/
def execRpConfig (m : Fin 18) (s : State) : Result := .next (s.cmdRpConfig m)

/-- RP_MEMORY: Sends one memory request of 1 to 8 B to a downstream device (R350). -/
def execRpMemory (m : Fin 18) (s : State) : Result := .next (s.cmdRpMemory m)

/-- TEST_LOOPBACK: Selects UCIe near-end loopback on a host-link module (R320). -/
def execTestLoopback (m : Fin 18) (s : State) : Result := .next (s.cmdLoopback m)

/-- EVENT_READ: Returns event-log records from FROM_SEQ, filtered by partition (R412). -/
def execEventRead (m : Fin 18) (s : State) : Result := .next (s.cmdEvents m)

/-- SENSOR_READ: Returns the eight MC_SENSOR values (R407). -/
def execSensorRead (m : Fin 18) (s : State) : Result := .next (s.cmdSensors m)

/-- FW_STAGE: Writes firmware data into the inactive bank, with offset 0 erasing it and setting the staging owner (R413). -/
def execFwStage (m : Fin 18) (s : State) : Result := .next (s.cmdStage m)

/-- FW_VERIFY: Checks the staged manifest's signature, digest, stepping and SVN (R413). -/
def execFwVerify (m : Fin 18) (s : State) : Result := .next (s.cmdVerify m)

/-- FW_ACTIVATE: Makes the verified bank active for the next cold reset and optionally raises the fused SVN (R413). -/
def execFwActivate (m : Fin 18) (s : State) : Result := .next (s.cmdFwActivate m)

/-- UNIT_ADMIT: Writes the MC admission level of a unit state word, subject to the epoch rule for lowering writes (R415). -/
def execUnitAdmit (m : Fin 18) (s : State) : Result := .next (s.cmdAdmit m)

/-- UNIT_READ: Returns a run of unit state words from the hardware (R407). -/
def execUnitRead (m : Fin 18) (s : State) : Result := .next (s.cmdUnits m)

/-- MODE_SET: Changes the HXU mode while every partition is FREE (R448). -/
def execModeSet (m : Fin 18) (s : State) : Result := .next (s.cmdMode m)

/-- GET_INFO: Returns firmware version, SVN, stepping, die ID and fuse information (R407). -/
def execGetInfo (m : Fin 18) (s : State) : Result := .next (s.cmdInfo m)

end Sys2Proof.Machine
end

