-- ==== Sys2Proof/Machine/ExecPortCmd.lean ====
section
/-! DEFINITION. Meanings: CXL.io and the PCI Express port (R182 to R184, R292, R321 to R350). -/

namespace Sys2Proof.Machine

/-- CXL_IO_POSTED_WRITE: An inbound CXL.io posted write is taken in arrival order, checked under R32 and served, or passed to the
doorbell path (R182). -/
def execCxlIoPostedWrite (pasid : Option (BitVec 20)) (off : BitVec 47) (data : Bytes) (s : State) : Result :=
  checked (.cxlIoPostedWrite pasid off data) "CXL_IO_POSTED_WRITE" (s.cxlWrite (pasid.map fun (x : BitVec 20) => x.toNat) off.toNat data)

/-- CXL_IO_READ: An inbound CXL.io read completes after earlier posted writes are acknowledged, with completions in request order
(R182). -/
def execCxlIoRead (pasid : Option (BitVec 20)) (txn : Nat) (off : BitVec 47) (len : Nat) (memory : Bool) (s : State) : Result :=
  checked (.cxlIoRead pasid txn off len memory) "CXL_IO_READ" (s.cxlRead (pasid.map fun (x : BitVec 20) => x.toNat) txn off.toNat len memory)

/-- PCIE_MEMORY_REQUEST: An inbound PCIe memory request is refused, discarded or served by the rules of R338 (R338). -/
def execPcieMemoryRequest (kind : TlpKind) (rid : BitVec 16) (txn : Nat) (addr : Word) (len : Nat) (poisoned : Bool) (data : Bytes)
    (header : Bytes) (s : State) : Result :=
  checked (.pcieMemoryRequest kind rid txn addr len poisoned data header) "PCIE_MEMORY_REQUEST" (s.memoryRequest kind rid.toNat txn addr.toNat len poisoned data header)

/-- PCIE_CONFIG_REQUEST: An inbound configuration request is served, or answered with Request Retry Status during boot or VF reset
(R325). -/
def execPcieConfigRequest (f : Fin 256) (txn : Nat) (reg : BitVec 10) (write : Option (BitVec 4 × BitVec 32)) (s : State) : Result :=
  .next (s.configRequest f txn (4 * reg.toNat) (cfgOperand write))

/-- AER_ERROR_DETECTED: The port logs an AER error and reports it to EC, triggering Capo when unmasked in CAPO_TRIGGER_MASK (R339). -/
def execAerErrorDetected (correctable : Bool) (b : Fin 32) (header : Bytes) (s : State) : Result :=
  .next (s.aerDetected correctable b header)

/-- DL_DOWN: Link loss without a preceding disable triggers Capo with CAUSE 2 (R341). -/
def execDlDown (s : State) : Result := .next s.dlDown

/-- DL_UP_INSERT: DL_Up after a link-down interval in root-port mode with INSERT_HOLD = 1 triggers Capo with CAUSE 5 (R341). -/
def execDlUpInsert (width : Nat) (rate : Nat) (s : State) : Result :=
  checked (.dlUpInsert width rate) "DL_UP_INSERT" (s.dlUp width rate true)

/-- CAPO_RELEASE: A write of RELEASE to CAPO_CONTROL or PX_CAPO returns the port to RUN unless the blocking condition persists (R343).
-/
def execCapoRelease (s : State) : Result := .next s.capoRelease

/-- CAPO_SOFTWARE_TRIGGER: A write of TRIGGER to CAPO_CONTROL or PX_CAPO triggers Capo with CAUSE 4 (R341). -/
def execCapoSoftwareTrigger (s : State) : Result := .next (s.capoTrigger 4 0)

/-- CAPO_INSERT_HOLD_WRITE: A write to CAPO_CONTROL.INSERT_HOLD sets whether insertion freezes the root port (R341). -/
def execCapoInsertHoldWrite (hold : Bool) (s : State) : Result := .next (s.modPx fun x => { x with insertHold := hold })

/-- BAR_RESIZE: A write to the Resizable BAR control resizes PF BAR_2 and refuses its accesses while PF_WIN_BASE is misaligned (R330).
-/
def execBarResize (log2 : Fin 64) (s : State) : Result := .next (s.resizeBar log2)

/-- MSIX_PENDING_SEND: When a masked vector or function is unmasked, the pending MSI-X message is sent (R336). -/
def execMsixPendingSend (f : Fin 17) (v : Fin 512) (s : State) : Result := .next (s.sendPending (512 * f + v))

/-- L0P_ENTRY: After 8,192 CK_PX cycles without TLPs the port requests L0p ×4 (R323). -/
def execL0pEntry (s : State) : Result := .next s.l0pEnter

/-- L0P_RESTORE: A TLP or MSI-X message queued for transmission requests ×16 again (R323). -/
def execL0pRestore (s : State) : Result := .next s.l0pLeave

/-- ASPM_L1_ENTRY: With L1 enabled and 16,384 idle CK_PX cycles, the port requests ASPM L1 (R323). -/
def execAspmL1Entry (s : State) : Result := .next s.l1Enter

/-- ERR_MESSAGE_RECEIVED: An ERR_COR, ERR_NONFATAL or ERR_FATAL from below is forwarded into Root Error Status and notified, triggering
Capo for ERR_FATAL (R349). -/
def execErrMessageReceived (rid : BitVec 16) (kind : Fin 3) (s : State) : Result := .next (s.errMessage rid.toNat kind)

/-- DEVICE_INTERRUPT_WRITE: A 4-byte write of an assigned device to the interrupt range is posted as a device-interrupt notification
(R348). -/
def execDeviceInterruptWrite (rid : BitVec 16) (addr : Word) (value : BitVec 32) (s : State) : Result :=
  .next (s.interruptWrite rid.toNat addr.toNat value.toNat)

/-- RP_REQUEST_COMPLETION: A downstream configuration or memory request completes, or fails with FROZEN or Completion Timeout, and its
mailbox command responds (R350). -/
def execRpRequestCompletion (res : RpRes) (s : State) : Result := .next (s.rpDone res)

/-- PCIE_LINK_UP: The PCI Express link trains and reaches DL_Up outside the insertion-hold case, updating LINK_UP, LINK_WIDTH and
LINK_RATE (R322). -/
def execPcieLinkUp (width : Nat) (rate : Nat) (s : State) : Result :=
  checked (.pcieLinkUp width rate) "PCIE_LINK_UP" (s.dlUp width rate false)

/-- CXL_IO_CONFIGURATION_REQUEST: A CXL.io configuration request from the host reaches the host-link Type 1 function and is served from
its DVSECs (R292). -/
def execCxlIoConfigurationRequest (txn : Nat) (reg : BitVec 10) (write : Option (BitVec 4 × BitVec 32)) (s : State) : Result :=
  .next (s.cxlConfig txn (4 * reg.toNat) (cfgOperand write))

end Sys2Proof.Machine
end

