-- ==== Sys2Proof/Machine/ExecPower.lean ====
section
/-! DEFINITION. Meanings: power, clocks and sensors (R389, R459, R460, R466, R467). -/

namespace Sys2Proof.Machine

/-- POWER_WARN: A falling edge of PWR_WARN_N stays low for 16 CK_TLY cycles, and every counting unit flushes its accumulators (R389). -/
def execPowerWarn (s : State) : Result := .next s.powerWarn

/-- POWER_WARN_WAIT_EXPIRY: 256 CK_TLY cycles after the accepted edge, a POWER_WARN commit trigger becomes pending (R389). -/
def execPowerWarnWaitExpiry (low : Bool) (s : State) : Result := .next (s.powerWarnDue low)

/-- CLOCK_MONITOR_LOSS: REFCLK_CORE or PX_REFCLK has had no edge for 1 µs, so the clock monitor reports a fatal CLK error (R459). -/
def execClockMonitorLoss (px : Bool) (s : State) : Result := .next (s.clockLoss px)

/-- SENSOR_SAMPLE: Every 2^16 CK_MGT cycles the MC samples the sensors, checks their limits and applies the power cap, requesting CK_ARR
steps (R466). -/
def execSensorSample (v : List (BitVec 16)) (s : State) : Result :=
  checked (.sensorSample v) "SENSOR_SAMPLE" (s.sampleSensors (v.map fun (x : BitVec 16) => x.toNat))

/-- CK_ARR_STEP_DONE: The PLL relocks after a 100 MHz CK_ARR step and the Reckoner resumes at the new frequency (R460). -/
def execCkArrStepDone (s : State) : Result := .next s.arrStepDone

/-- CK_ARR_STEP_TIMEOUT: A CK_ARR step not completed within 2^16 CK_MGT cycles raises the CLK non-fatal error (R460). -/
def execCkArrStepTimeout (s : State) : Result := .next s.arrStepLate

/-- MC_PWR_CTRL_WRITE: A write to MC_PWR_CTRL sets the power limit, the frequency bounds and the enables, and steps CK_ARR down when
ARR_FREQ_MAX falls below the current frequency (R466). -/
def execMcPwrCtrlWrite (w : Word) (s : State) : Result := .next (s.writePwr w.toNat)

/-- ARR_FREQ_MAX_STEP_DOWN: While the frequency is above ARR_FREQ_MAX, one further step down is requested every 2^16 CK_MGT cycles
(R466). -/
def execArrFreqMaxStepDown (s : State) : Result := .next s.freqMaxStep

end Sys2Proof.Machine
end

