-- ==== Sys2Proof/Machine/ExecReckon.lean ====
section
/-! DEFINITION. Meanings: the Reckoner, replicas and shared weights (R203 to R284). -/

namespace Sys2Proof.Machine

/-- UPDATE_DESCRIPTOR_PASS: A queue cell passes a checked TC2 descriptor to the Reckoner when its partition has a free job entry (R203).
-/
def execUpdateDescriptorPass (r : Fin 16384) (s : State) : Result := .next (s.passUpdate r)

/-- NORM_TABLE_READ: A CLIP = GLOBAL job reads its norm table, and rereads it every 256 CK_FAB cycles until every slot carries TAG =
STEP (R221). -/
def execNormTableRead (e : Fin 64) (s : State) : Result := .next (s.readNorm e)

/-- NORM_TABLE_RETURN: The norm-table read returns; a complete table forms S, and a failed read ends the job unstarted (R221). -/
def execNormTableReturn (id : Nat) (res : RdRes) (s : State) : Result := .next (s.normBack id res)

/-- NORM_WAIT_LIMIT_EXPIRY: A norm-table wait reaches 2^26 CK_FAB cycles, so the Reckoner reports an RK error and sets NORM_LIMIT_HIT
(R221). -/
def execNormWaitLimitExpiry (e : Fin 64) (s : State) : Result := .next (s.normLimit e)

/-- JOB_START: A job starts when its partition's earlier jobs have issued, none is parked, its norm table is complete and the partition
is active; it computes its scalars (R204). -/
def execJobStart (e : Fin 64) (s : State) : Result := .next (s.startJob e)

/-- TILE_READS_COMPLETE: All reads of a tile have returned, so the lanes compute it and issue its writes in order (R212). -/
def execTileReadsComplete (e : Fin 64) (s : State) : Result := .next (s.tileReads e)

/-- TILE_WRITES_ACKED: A tile's writes are acknowledged, which advances the pass cursor and may start the next pass or return the job
(R213). -/
def execTileWritesAcked (e : Fin 64) (s : State) : Result := .next (s.tileAcks e)

/-- FINGERPRINT_WRITE: Once every working-copy write of a region is acknowledged, the Reckoner writes its CRC fingerprint (R230). -/
def execFingerprintWrite (e : Fin 64) (region : Nat) (s : State) : Result := .next (s.writeFingerprint e region)

/-- JOB_PARK: A job that faults stops issuing, drains and keeps its pass, cursor and retained tiles in its partition's park slot (R214).
-/
def execJobPark (e : Fin 64) (s : State) : Result := .next (s.parkJob e)

/-- JOB_RETURN: Every write of the job is acknowledged, so the job returns to its queue cell for finishing (R234). -/
def execJobReturn (e : Fin 64) (s : State) : Result := .next (s.returnJob e)

/-- ARRAY_CHUNK_START: The array begins a 2,048-k-step chunk once its operand panels are complete (R240). -/
def execArrayChunkStart (e : Fin 64) (q : Nat) (s : State) : Result := .next (s.startChunk e q)

/-- ARRAY_TILE_FINISH: A tile's last chunk ends and its accumulators move into a free accumulator buffer, or the array waits for one
(R245). -/
def execArrayTileFinish (s : State) : Result := .next s.finishTile

/-- OUTPUT_PATH_TILE: The output path takes a finished tile, applies the epilogue and row reductions, converts it and issues its writes
(R246). -/
def execOutputPathTile (s : State) : Result := .next s.outputTile

/-- REPLICA_REPORT_SEND: After a mismatching WC_CHECK's completion entry is written, the HXU sends one replica report per mismatching
region to the owner (R269). -/
def execReplicaReportSend (p : Fin 16) (s : State) : Result := .next (s.sendReport p)

/-- REPAIR_JOB_START: The oldest repair-queue entry takes a job entry and reads the owner's fingerprint for the region (R273). -/
def execRepairJobStart (p : Fin 16) (s : State) : Result := .next (s.startRepair p)

/-- REPAIR_FINGERPRINT_CHECK: The owner's fingerprint returns; a change marks the repair SUPERSEDED, otherwise the region is derived
from the master (R273). -/
def execRepairFingerprintCheck (e : Fin 64) (s : State) : Result := .next (s.checkRepair e)

/-- REPAIR_MEMBER_WRITE: After the owner's copy is acknowledged, the repair writes the derived elements to the members (R273). -/
def execRepairMemberWrite (e : Fin 64) (s : State) : Result := .next (s.writeMembers e)

/-- REPAIR_FINGERPRINT_WRITE: After the member writes are acknowledged, the repair writes the region fingerprint to the owner and the
written members (R273). -/
def execRepairFingerprintWrite (e : Fin 64) (s : State) : Result := .next (s.writeRegionPrints e)

/-- REPAIR_NOTE_WRITE: The repair writes its note and frees its job and queue entries (R275). -/
def execRepairNoteWrite (e : Fin 64) (s : State) : Result := .next (s.writeRepairNote e)

/-- SHARED_REPAIR_OPEN: A shared-chunk repair opens, from then refusing bulk reads of the chunk, and reads the origin (R281). -/
def execSharedRepairOpen (s : State) : Result := .next s.openRepair

/-- SHARED_REPAIR_ORIGIN_DONE: The origin chunk has been read and hashed; a digest match writes the chunk back and a mismatch fails the
repair (R283). -/
def execSharedRepairOriginDone (repair : Nat) (res : Option (Bytes × Bytes)) (s : State) : Result := .next (s.originRead repair res)

/-- SHARED_REPAIR_CLOSE: Every repair push has its GO response and the repair closes (R283). -/
def execSharedRepairClose (repair : Nat) (s : State) : Result := .next (s.repairClosed repair)

/-- SHARED_REPAIR_TIMEOUT: A repair running for 2^26 CK_FAB cycles fails, marks the chunk failed and reports a PT error (R284). -/
def execSharedRepairTimeout (repair : Nat) (s : State) : Result := .next (s.repairTimeout repair)

end Sys2Proof.Machine
end

