-- ==== Sys2Proof/Machine/ExecReset.lean ====
section
/-! DEFINITION. Meanings: resets, bring-up and readiness (R437 to R452). -/

namespace Sys2Proof.Machine

/-- COLD_RESET: Assertion of COLD_RST_N resets every unit, including Tally, EC, the MC and every link module, to its reset values, and
the straps are sampled on deassertion (R457). -/
def execColdReset (x : Straps) (s : State) : Result := .next (s.coldReset x)

/-- ROM_BOOT: The MC runs die ROM, verifies and loads the firmware of the first bank that passes, places the identity image and the
configuration defaults, and starts module training (R444). -/
def execRomBoot (b0 : Bank) (b1 : Bank) (s : State) : Result := checked (.romBoot b0 b1) "ROM_BOOT" (s.romBoot b0 b1)

/-- COMPUTE_CELL_FIRMWARE_BROADCAST: The MC checks the compute-cell image against CC_DIGEST and broadcasts it block by block to the
compute cells (R446). -/
def execComputeCellFirmwareBroadcast (image : Bytes) (s : State) : Result := .next (s.broadcast image)

/-- CELL_DIGEST_RETURN: A compute cell returns the digest it computed over the image; a differing digest counts in CC_FAILED (R446). -/
def execCellDigestReturn (cell : Nat) (digest : Bytes) (s : State) : Result := .next (s.cellDigest cell digest)

/-- CELL_DIGEST_TIMEOUT: A cell that returns no digest within 2^22 CK_MGT cycles of the last block counts in CC_FAILED (R446). -/
def execCellDigestTimeout (cell : Nat) (s : State) : Result := .next (s.cellTimeout cell)

/-- TOPOLOGY_CHECK: Once every module is settled, the MC compares each peer partner with the manifest TOPOLOGY and retrains miswired
modules into DOWN (R449). -/
def execTopologyCheck (s : State) : Result := .next s.topologyCheck

/-- READINESS_DECISION: The MC decides READY or NOT_READY, writes the readiness report and logs READINESS_CHANGE events (R450). -/
def execReadinessDecision (s : State) : Result := .next s.decideReady

/-- COMPUTE_PART_RESET: CP_RST_N sampled low for 16 CK_MGT cycles starts a compute-part reset: every partition enters scrub, the MC goes
NOT_READY and the mode becomes BRING_UP (R458). -/
def execComputePartReset (s : State) : Result := .next s.computeReset

/-- COMPUTE_PART_RESET_RESTORE: When every scrub has ended, the data-path units return to their reset values and the compute cells are
reset and reloaded (R441). -/
def execComputePartResetRestore (s : State) : Result := .next s.computeRestore

/-- PARTITION_FUNCTION_LEVEL_RESET: A function-level reset of VF p ends the work of partition p, clears its rings and placements, and
resets VF p's configuration space (R334). -/
def execPartitionFunctionLevelReset (p : Fin 16) (s : State) : Result := .next (if s.fnExists p then s.partitionReset p else s)

/-- PF_FUNCTION_LEVEL_RESET: A function-level reset of the PF resets only the PF's configuration space (R334). -/
def execPfFunctionLevelReset (s : State) : Result := .next s.pfReset

/-- PARTITION_RESET_END: The partition function-level reset ends once every request that p issued before the start cycle has completed
or timed out; pending invalidations are acknowledged and TLB entries emptied (R440). -/
def execPartitionResetEnd (p : Fin 16) (s : State) : Result := .next (s.partitionResetEnd p)

/-- HOST_LINK_LOSS_RESET: A CXL hot reset, link-disable or sideband reset indication declares host-link loss, performs the
host-link-loss reset and retrains the host-link modules (R296). -/
def execHostLinkLossReset (sideband : Bool) (s : State) : Result := .next (s.hostLoss (if sideband then 3 else 2))

/-- HOST_LINK_OUT_TIMER_EXPIRY: Every host-link module has been out of LINK_UP for 2^20 CK_MGT cycles, so host-link loss is declared
(R296). -/
def execHostLinkOutTimerExpiry (s : State) : Result := .next s.outTimer

/-- HOST_LINK_LOSS_RESET_END: The host-link-loss reset ends in the first cycle in which every retrained module has reached LINK_UP or
DOWN (R296). -/
def execHostLinkLossResetEnd (s : State) : Result := .next s.hostLossEnd

/-- PORT_RESET: A hot reset, link disable or DL_Down resets the port's configuration-space registers except the Capo capability and RWS
fields (R324). -/
def execPortReset (disable : Bool) (s : State) : Result := .next (s.portReset disable)

end Sys2Proof.Machine
end

