-- ==== Sys2Proof/Machine/ExecRing.lean ====
section
/-! DEFINITION. Meanings: rings, descriptors, data requests, finishing and faults (R73 to R159, R178 to R202). -/

namespace Sys2Proof.Machine

/-- RING_DOORBELL: An ordinary ring doorbell passes the checks of R108 and moves the ring's producer count within its window, restarting
fetches of a stale head (R111). -/
def execRingDoorbell (p : Fin 16) (j : Fin 16384) (w : Word) (s : State) : Result := .next (s.ringDoorbell p j w.toNat)

/-- STAGED_DOORBELL: A ring doorbell with CHORD_HINT = 1 records a staged count, which the cell may fetch ahead to without consuming
(R112). -/
def execStagedDoorbell (p : Fin 16) (j : Fin 16384) (w : Word) (s : State) : Result := .next (s.ringDoorbell p j w.toNat)

/-- INVALIDATION_DOORBELL: An invalidation doorbell moves the partition's invalidation-queue producer count and starts entry fetches
(R62). -/
def execInvalidationDoorbell (p : Fin 16) (w : Word) (s : State) : Result := .next (s.invDoorbell p w.toNat)

/-- CHORD_DOORBELL: A chord doorbell moves the partition's chord-queue producer count (R161). -/
def execChordDoorbell (p : Fin 16) (w : Word) (s : State) : Result := .next (s.chordDoorbell p w.toNat)

/-- DOORBELL_PAGE_BAD_WRITE: A write to a doorbell page of the wrong size, unaligned, or to reserved bytes is dropped and counted as
BAD_ACCESS (R107). -/
def execDoorbellPageBadWrite (p : Fin 16) (off : Fin 1048576) (n : Nat) (s : State) : Result :=
  checked (.doorbellPageBadWrite p off n) "DOORBELL_PAGE_BAD_WRITE" (s.dropBadAccess p)

/-- FAULT_RESPONSE_CONSUME: A fault response with ACTION CONSUME updates the fault queue's consumer count, freeing space for held
records (R93). -/
def execFaultResponseConsume (p : Fin 16) (w : Word) (s : State) : Result := .next (s.faultDoorbell p w.toNat)

/-- FAULT_RESPONSE_RESUME: A RESUME response returns the parked descriptor or job to the head of its ring to continue from the cursor
with fresh translation (R95). -/
def execFaultResponseResume (p : Fin 16) (w : Word) (s : State) : Result := .next (s.faultDoorbell p w.toNat)

/-- FAULT_RESPONSE_ABORT: An ABORT response marks the parked descriptor or job bad with status FAULT and frees the park slot (R94). -/
def execFaultResponseAbort (p : Fin 16) (w : Word) (s : State) : Result := .next (s.faultDoorbell p w.toNat)

/-- DESCRIPTOR_FETCH: The fetch arbiter grants a descriptor fetch to the narrow path, up to 4 ahead of C and never beyond P or the
staged count (R116). -/
def execDescriptorFetch (r : Fin 16384) (s : State) : Result := .next (s.grantFetch r)

/-- DESCRIPTOR_FETCH_RETURN: A descriptor fetch returns and the descriptor is judged by LAP and OWN; a valid one is consumed and a stale
one enters backoff (R115). -/
def execDescriptorFetchReturn (id : Nat) (res : RdRes) (s : State) : Result := .next (s.fetchBack id res)

/-- DESCRIPTOR_REFETCH_BACKOFF_EXPIRY: The backoff wait before the next refetch of a stale head descriptor expires and the refetch is
issued (R117). -/
def execDescriptorRefetchBackoffExpiry (r : Fin 16384) (s : State) : Result := .next (s.refetch r)

/-- DESCRIPTOR_START: The next consumed descriptor becomes the ring's issuing descriptor once the previous one has issued its last
request and an execution context is free; malformed descriptors finish at once (R123). -/
def execDescriptorStart (r : Fin 16384) (s : State) : Result := .next ((s.startWork r).advanceOwner r)

/-- REQUEST_ISSUE: The issue arbiter grants one request, which is translated and checked under R29 and regulator tokens, then issued or
refused (R128). -/
def execRequestIssue (q : Requester) (s : State) : Result := .next (s.grant q)

/-- DATA_READ_RETURN: A data read returns to the cell, which converts it and issues the destination writes it feeds, or marks the
descriptor bad on error or poison (R75). -/
def execDataReadReturn (id : Nat) (res : RdRes) (s : State) : Result := .next (s.readBack id res)

/-- DATA_WRITE_ACK: A data write is acknowledged at its point of global visibility, which advances delivery and may complete a drain, a
fence set or a delivery-counter update (R178). -/
def execDataWriteAck (id : Nat) (res : WrRes) (s : State) : Result := .next (s.writeBack id res)

/-- REQUEST_TIMEOUT: A request reaches 2^24 CK_FAB cycles without completing and is treated as an error response with DETAIL.TIMEOUT
(R148). -/
def execRequestTimeout (id : Nat) (s : State) : Result := .next (s.requestLimit id)

/-- FLAG_WRITE_ISSUE: A FLAG issues its 8-byte write once every write in its fence set has been acknowledged (R188). -/
def execFlagWriteIssue (r : Fin 16384) (s : State) : Result := .next (s.issueFlag r)

/-- STATUS_BLOCK_WRITE: After the counter step is acknowledged, the cell writes the status block over descriptor bytes 96 to 126 (R154).
-/
def execStatusBlockWrite (r : Fin 16384) (s : State) : Result := .next (s.writeStatus r)

/-- OWN_CLEAR_WRITE: After the status block is acknowledged, the cell writes byte 127 with OWN = 0 (R152). -/
def execOwnClearWrite (r : Fin 16384) (ack : WrRes) (s : State) : Result := .next (s.writeOwn r ack)

/-- COMPLETION_ENTRY_WRITE: After the OWN write is acknowledged, the cell writes the completion entry, or waits while the completion
ring is full (R156). -/
def execCompletionEntryWrite (r : Fin 16384) (ack : WrRes) (s : State) : Result := .next (s.writeEntry r ack)

/-- COMPLETION_ENTRY_ACK: The completion entry (or the OWN write when there is no entry) is acknowledged, and the completion ring's
vector is signalled for IRQ = 1 (R159). -/
def execCompletionEntryAck (r : Fin 16384) (ack : WrRes) (s : State) : Result := .next (s.endWork r ack)

/-- CONSUMER_WORD_POLL: While a completion ring shows full, the HXU reads its consumer word every 1,024 CK_FAB cycles (R157). -/
def execConsumerWordPoll (k : Fin 4096) (s : State) : Result := .next (s.pollConsumer k)

/-- CONSUMER_WORD_RETURN: The consumer-word read returns and updates the cached consumer count, releasing waiting entries (R157). -/
def execConsumerWordReturn (id : Nat) (res : RdRes) (s : State) : Result := .next (s.consumerBack id res)

/-- WC_ENTRY_IDLE_FLUSH: A write-combining entry unwritten for 256 CK_FAB cycles flushes as one push (R198). -/
def execWcEntryIdleFlush (k : Fin 64) (s : State) : Result := .next (s.idleFlush k)

/-- TIER_CACHE_FILL_RETURN: A coherent fill returns to the tier cache and serves its waiting reads, installing the line unless a snoop
or write intervened (R196). -/
def execTierCacheFillReturn (fill : Nat) (res : RdRes) (s : State) : Result := .next (s.fillReturned fill res)

/-- HOST_SNOOP: A host snoop arrives and the tier cache answers it within 128 CK_FAB cycles, removing the line on snoop-invalidate
(R195). -/
def execHostSnoop (module : Fin 4) (pa : BitVec 52) (invalidate : Bool) (s : State) : Result :=
  .next (s.snoop module pa.toNat invalidate)

/-- PARK_DRAIN_COMPLETE: Every issued request of the parking descriptor has completed, so the cursor is stored in the park slot and the
fault record is written or held (R81). -/
def execParkDrainComplete (r : Fin 16384) (s : State) : Result := .next (s.parkRing r)

/-- FAULT_RECORD_ACK: The fault-record write is acknowledged and the slot's fault timer starts; a failed write marks the descriptor bad
with FAULT (R98). -/
def execFaultRecordAck (slot : Fin 16400) (gen : Fin 256) (ack : WrRes) (s : State) : Result := .next (s.recordAcked slot gen ack)

/-- PARK_TIMER_EXPIRY: A park slot's fault timer expires with no matching response, so the descriptor is marked FAULT_TIMEOUT and the
slot freed (R100). -/
def execParkTimerExpiry (slot : Fin 16400) (s : State) : Result := .next (s.timerExpired slot)

/-- RING_DRAIN_COMPLETE: A DRAINING ring has completed every issued request and finished every consumed descriptor, so it becomes
DISABLED (R124). -/
def execRingDrainComplete (r : Fin 16384) (s : State) : Result := .next (s.drainRing r)

end Sys2Proof.Machine
end

