-- ==== Sys2Proof/Machine/ExecTallyCmd.lean ====
section
/-! DEFINITION. Meanings: Tally (R384 to R396). -/

namespace Sys2Proof.Machine

/-- ACCUMULATOR_AGE_EXPIRY: An accumulator non-zero for 2^16 cycles is sent as a count pulse (R386). -/
def execAccumulatorAgeExpiry (p : Fin 16) (k : Fin 7) (s : State) : Result := .next (s.accumAge p k)

/-- COUNT_PULSE_TAKE: Tally takes one count pulse and adds its amount to the named counter (R387). -/
def execCountPulseTake (s : State) : Result := .next s.takePulse

/-- LIFETIME_PULSE: A control pulse of amount 1 increments the partition's lifetime count (R387). -/
def execLifetimePulse (s : State) : Result := .next s.takeLifetime

/-- MARK_PULSE: A control pulse of amount 2 acknowledges a unit's flush (R387). -/
def execMarkPulse (s : State) : Result := .next s.takeMark

/-- TALLY_RECORD_COMMIT: On the first idle cycle with a pending trigger, Tally copies every counter into a new record and begins signing
(R389). -/
def execTallyRecordCommit (s : State) : Result := .next s.tallyCommit

/-- TALLY_RECORD_STORED: The record is signed and stored, and the MC posts a record notification (R392). -/
def execTallyRecordStored (s : State) : Result := .next s.tallyStored

/-- TY_REC_SELECT_WRITE: A write of SEQ to TY_REC_SELECT starts a READ of that record through the record port (R392). -/
def execTyRecSelectWrite (w : Word) (s : State) : Result := .next (s.selectRecord w.toNat)

/-- TY_COMMIT_WRITE: A write of REQUEST to TY_COMMIT requests a commit under R390 (R391). -/
def execTyCommitWrite (s : State) : Result := .next (s.requestCommit none)

end Sys2Proof.Machine
end

