-- ==== Sys2Proof/Machine/ExecTenantCmd.lean ====
section
/-! DEFINITION. Meanings: SPDM and the tenant requests (R345, R367 to R377). -/

namespace Sys2Proof.Machine

/-- SPDM_REQUEST: The MC answers an SPDM 1.3 request over DOE or MCTP, including certificates and measurements (R345). -/
def execSpdmRequest (doe : Bool) (session : Option Nat) (code : SpdmCode) (body : Bytes) (s : State) : Result :=
  .next (s.spdmRequest doe session code body)

/-- CLAIM: A CLAIM binds TENANT_KEY to partition p when SHA-384(SECRET) matches CLAIM_DIGEST (R370). -/
def execClaim (session : Nat) (payload : Bytes) (s : State) : Result := .next (s.tenantRequest session payload)

/-- KEY_LOAD: A signed KEY_LOAD loads a key bundle into an EMPTY slot, or holds it while the slot retires (R372). -/
def execKeyLoad (session : Nat) (payload : Bytes) (s : State) : Result := .next (s.tenantRequest session payload)

/-- SET_PROVISION: A signed SET_PROVISION stores a device set when this die's identity is a member (R373). -/
def execSetProvision (session : Nat) (payload : Bytes) (s : State) : Result := .next (s.tenantRequest session payload)

/-- SET_REVOKE: A signed SET_REVOKE zeroes the named device set (R373). -/
def execSetRevoke (session : Nat) (payload : Bytes) (s : State) : Result := .next (s.tenantRequest session payload)

/-- RELEASE: A signed RELEASE request moves the partition into scrub (R371). -/
def execRelease (session : Nat) (payload : Bytes) (s : State) : Result := .next (s.tenantRequest session payload)

end Sys2Proof.Machine
end

