-- ==== Sys2Proof/Machine/ExecTranslate.lean ====
section
/-! DEFINITION. Meanings: walks and invalidations (R45 to R72). -/

namespace Sys2Proof.Machine

/-- WALK_START: A TLB miss obtains a walker of its partition and begins the walk from the deepest walk-cache hit (R60). -/
def execWalkStart (p : Fin 16) (s : State) : Result := .next (s.startWalk p)

/-- WALK_READ_RETURN: A walk read returns and the entry is checked level by level, continuing the walk or deciding its outcome and
installing the translation (R54). -/
def execWalkReadReturn (walk : Nat) (res : RdRes) (s : State) : Result := .next (s.walkReturned walk res)

/-- WALK_READ_TIMEOUT: A walk read not returned within 2^20 CK_FAB cycles ends the walk with WALK_ERROR (R61). -/
def execWalkReadTimeout (walk : Nat) (s : State) : Result := .next (s.walkTimeout walk)

/-- AD_UPDATE_OWNED_READ_RETURN: The owned read for an A or D update returns; XL sets the bit if still permitted and writes the line
back as a dirty eviction (R53). -/
def execAdUpdateOwnedReadReturn (walk : Nat) (res : RdRes) (s : State) : Result := .next (s.ownedReturned walk res)

/-- INVALIDATION_ENTRY_FETCH: XL fetches the invalidation-queue entry at its consumer count through the narrow path (R64). -/
def execInvalidationEntryFetch (p : Fin 16) (s : State) : Result := .next (s.fetchInv p)

/-- INVALIDATION_ENTRY_RETURN: An invalidation entry returns and is judged by LAP; a stale entry enters backoff, a failed fetch stops
the queue, a malformed entry is skipped (R64). -/
def execInvalidationEntryReturn (p : Fin 16) (res : RdRes) (s : State) : Result := .next (s.invReturned p res)

/-- INVALIDATION_REFETCH_BACKOFF_EXPIRY: The backoff before refetching a stale invalidation entry expires and the refetch is issued
(R64). -/
def execInvalidationRefetchBackoffExpiry (p : Fin 16) (s : State) : Result := .next (s.refetchInv p)

/-- INVALIDATION_CUT: XL takes an invalidation when fewer than 8 are pending; in that cycle it removes the matching TLB and walk-cache
entries and discards walks in progress (R66). -/
def execInvalidationCut (p : Fin 16) (s : State) : Result := .next (s.takeInval p)

/-- INVALIDATION_ACKNOWLEDGE: Every span in flight at the cut has drained, so XL acknowledges the invalidation and writes its note when
requested (R68). -/
def execInvalidationAcknowledge (inval : Nat) (s : State) : Result := .next (s.ackInval inval)

/-- INVALIDATION_DRAIN_LIMIT_EXPIRY: An invalidation pending for its partition's drain limit raises a KIND 5 XL error and sets
DRAIN_LIMIT_HIT (R70). -/
def execInvalidationDrainLimitExpiry (inval : Nat) (s : State) : Result := .next (s.drainLimit inval)

end Sys2Proof.Machine
end

