-- ==== Sys2Proof/Machine/Dispatch.lean ====
section
/-! DEFINITION. The meaning of every command. -/

namespace Sys2Proof.Machine

def exec (i : Instr) (s : State) : Host.Outcome State Fault Refusal :=
  match i with
  | .coldReset x => Sys2Proof.Machine.execColdReset x s
  | .romBoot b0 b1 => Sys2Proof.Machine.execRomBoot b0 b1 s
  | .computeCellFirmwareBroadcast image => Sys2Proof.Machine.execComputeCellFirmwareBroadcast image s
  | .cellDigestReturn cell digest => Sys2Proof.Machine.execCellDigestReturn cell digest s
  | .cellDigestTimeout cell => Sys2Proof.Machine.execCellDigestTimeout cell s
  | .topologyCheck => Sys2Proof.Machine.execTopologyCheck s
  | .readinessDecision => Sys2Proof.Machine.execReadinessDecision s
  | .computePartReset => Sys2Proof.Machine.execComputePartReset s
  | .computePartResetRestore => Sys2Proof.Machine.execComputePartResetRestore s
  | .partitionFunctionLevelReset p => Sys2Proof.Machine.execPartitionFunctionLevelReset p s
  | .pfFunctionLevelReset => Sys2Proof.Machine.execPfFunctionLevelReset s
  | .partitionResetEnd p => Sys2Proof.Machine.execPartitionResetEnd p s
  | .hostLinkLossReset sideband => Sys2Proof.Machine.execHostLinkLossReset sideband s
  | .hostLinkOutTimerExpiry => Sys2Proof.Machine.execHostLinkOutTimerExpiry s
  | .hostLinkLossResetEnd => Sys2Proof.Machine.execHostLinkLossResetEnd s
  | .portReset disable => Sys2Proof.Machine.execPortReset disable s
  | .powerWarn => Sys2Proof.Machine.execPowerWarn s
  | .powerWarnWaitExpiry low => Sys2Proof.Machine.execPowerWarnWaitExpiry low s
  | .clockMonitorLoss px => Sys2Proof.Machine.execClockMonitorLoss px s
  | .sensorSample v => Sys2Proof.Machine.execSensorSample v s
  | .ckArrStepDone => Sys2Proof.Machine.execCkArrStepDone s
  | .ckArrStepTimeout => Sys2Proof.Machine.execCkArrStepTimeout s
  | .mcPwrCtrlWrite w => Sys2Proof.Machine.execMcPwrCtrlWrite w s
  | .arrFreqMaxStepDown => Sys2Proof.Machine.execArrFreqMaxStepDown s
  | .ringDoorbell p j w => Sys2Proof.Machine.execRingDoorbell p j w s
  | .stagedDoorbell p j w => Sys2Proof.Machine.execStagedDoorbell p j w s
  | .invalidationDoorbell p w => Sys2Proof.Machine.execInvalidationDoorbell p w s
  | .chordDoorbell p w => Sys2Proof.Machine.execChordDoorbell p w s
  | .doorbellPageBadWrite p off n => Sys2Proof.Machine.execDoorbellPageBadWrite p off n s
  | .faultResponseConsume p w => Sys2Proof.Machine.execFaultResponseConsume p w s
  | .faultResponseResume p w => Sys2Proof.Machine.execFaultResponseResume p w s
  | .faultResponseAbort p w => Sys2Proof.Machine.execFaultResponseAbort p w s
  | .descriptorFetch r => Sys2Proof.Machine.execDescriptorFetch r s
  | .descriptorFetchReturn id res => Sys2Proof.Machine.execDescriptorFetchReturn id res s
  | .descriptorRefetchBackoffExpiry r => Sys2Proof.Machine.execDescriptorRefetchBackoffExpiry r s
  | .descriptorStart r => Sys2Proof.Machine.execDescriptorStart r s
  | .requestIssue q => Sys2Proof.Machine.execRequestIssue q s
  | .dataReadReturn id res => Sys2Proof.Machine.execDataReadReturn id res s
  | .dataWriteAck id res => Sys2Proof.Machine.execDataWriteAck id res s
  | .requestTimeout id => Sys2Proof.Machine.execRequestTimeout id s
  | .flagWriteIssue r => Sys2Proof.Machine.execFlagWriteIssue r s
  | .statusBlockWrite r => Sys2Proof.Machine.execStatusBlockWrite r s
  | .ownClearWrite r ack => Sys2Proof.Machine.execOwnClearWrite r ack s
  | .completionEntryWrite r ack => Sys2Proof.Machine.execCompletionEntryWrite r ack s
  | .completionEntryAck r ack => Sys2Proof.Machine.execCompletionEntryAck r ack s
  | .consumerWordPoll k => Sys2Proof.Machine.execConsumerWordPoll k s
  | .consumerWordReturn id res => Sys2Proof.Machine.execConsumerWordReturn id res s
  | .wcEntryIdleFlush k => Sys2Proof.Machine.execWcEntryIdleFlush k s
  | .tierCacheFillReturn fill res => Sys2Proof.Machine.execTierCacheFillReturn fill res s
  | .hostSnoop module pa invalidate => Sys2Proof.Machine.execHostSnoop module pa invalidate s
  | .parkDrainComplete r => Sys2Proof.Machine.execParkDrainComplete r s
  | .faultRecordAck slot gen ack => Sys2Proof.Machine.execFaultRecordAck slot gen ack s
  | .parkTimerExpiry slot => Sys2Proof.Machine.execParkTimerExpiry slot s
  | .walkStart p => Sys2Proof.Machine.execWalkStart p s
  | .walkReadReturn walk res => Sys2Proof.Machine.execWalkReadReturn walk res s
  | .walkReadTimeout walk => Sys2Proof.Machine.execWalkReadTimeout walk s
  | .adUpdateOwnedReadReturn walk res => Sys2Proof.Machine.execAdUpdateOwnedReadReturn walk res s
  | .invalidationEntryFetch p => Sys2Proof.Machine.execInvalidationEntryFetch p s
  | .invalidationEntryReturn p res => Sys2Proof.Machine.execInvalidationEntryReturn p res s
  | .invalidationRefetchBackoffExpiry p => Sys2Proof.Machine.execInvalidationRefetchBackoffExpiry p s
  | .invalidationCut p => Sys2Proof.Machine.execInvalidationCut p s
  | .invalidationAcknowledge inval => Sys2Proof.Machine.execInvalidationAcknowledge inval s
  | .invalidationDrainLimitExpiry inval => Sys2Proof.Machine.execInvalidationDrainLimitExpiry inval s
  | .chordHeaderFetch p => Sys2Proof.Machine.execChordHeaderFetch p s
  | .chordHeaderReturn p res => Sys2Proof.Machine.execChordHeaderReturn p res s
  | .chordBackoffExpiry p => Sys2Proof.Machine.execChordBackoffExpiry p s
  | .chordTake p lines => Sys2Proof.Machine.execChordTake p lines s
  | .chordCommit p => Sys2Proof.Machine.execChordCommit p s
  | .chordTimeout k => Sys2Proof.Machine.execChordTimeout k s
  | .chordStatusWrite k => Sys2Proof.Machine.execChordStatusWrite k s
  | .chordOwnClear k ack => Sys2Proof.Machine.execChordOwnClear k ack s
  | .chordNoteWrite k ack => Sys2Proof.Machine.execChordNoteWrite k ack s
  | .ringDrainComplete r => Sys2Proof.Machine.execRingDrainComplete r s
  | .updateDescriptorPass r => Sys2Proof.Machine.execUpdateDescriptorPass r s
  | .normTableRead e => Sys2Proof.Machine.execNormTableRead e s
  | .normTableReturn id res => Sys2Proof.Machine.execNormTableReturn id res s
  | .normWaitLimitExpiry e => Sys2Proof.Machine.execNormWaitLimitExpiry e s
  | .jobStart e => Sys2Proof.Machine.execJobStart e s
  | .tileReadsComplete e => Sys2Proof.Machine.execTileReadsComplete e s
  | .tileWritesAcked e => Sys2Proof.Machine.execTileWritesAcked e s
  | .fingerprintWrite e region => Sys2Proof.Machine.execFingerprintWrite e region s
  | .jobPark e => Sys2Proof.Machine.execJobPark e s
  | .jobReturn e => Sys2Proof.Machine.execJobReturn e s
  | .arrayChunkStart e q => Sys2Proof.Machine.execArrayChunkStart e q s
  | .arrayTileFinish => Sys2Proof.Machine.execArrayTileFinish s
  | .outputPathTile => Sys2Proof.Machine.execOutputPathTile s
  | .replicaReportSend p => Sys2Proof.Machine.execReplicaReportSend p s
  | .repairJobStart p => Sys2Proof.Machine.execRepairJobStart p s
  | .repairFingerprintCheck e => Sys2Proof.Machine.execRepairFingerprintCheck e s
  | .repairMemberWrite e => Sys2Proof.Machine.execRepairMemberWrite e s
  | .repairFingerprintWrite e => Sys2Proof.Machine.execRepairFingerprintWrite e s
  | .repairNoteWrite e => Sys2Proof.Machine.execRepairNoteWrite e s
  | .sharedRepairOpen => Sys2Proof.Machine.execSharedRepairOpen s
  | .sharedRepairOriginDone repair res => Sys2Proof.Machine.execSharedRepairOriginDone repair res s
  | .sharedRepairClose repair => Sys2Proof.Machine.execSharedRepairClose repair s
  | .sharedRepairTimeout repair => Sys2Proof.Machine.execSharedRepairTimeout repair s
  | .sidebandUp k => Sys2Proof.Machine.execSidebandUp k s
  | .mainbandTrained k lo hi => Sys2Proof.Machine.execMainbandTrained k lo hi s
  | .paramFlitReceive k b => Sys2Proof.Machine.execParamFlitReceive k b s
  | .trainingLimitExpiry k => Sys2Proof.Machine.execTrainingLimitExpiry k s
  | .retrainComplete k lo hi b => Sys2Proof.Machine.execRetrainComplete k lo hi b s
  | .payloadFlitReceive m b => Sys2Proof.Machine.execPayloadFlitReceive m b s
  | .flitCrcError k b => Sys2Proof.Machine.execFlitCrcError k b s
  | .nakRepeatExpiry m => Sys2Proof.Machine.execNakRepeatExpiry m s
  | .nakReceive k b => Sys2Proof.Machine.execNakReceive k b s
  | .replayTimeout m => Sys2Proof.Machine.execReplayTimeout m s
  | .respFlitReceive m b => Sys2Proof.Machine.execRespFlitReceive m b s
  | .inboundWriteAck id res => Sys2Proof.Machine.execInboundWriteAck id res s
  | .messageTimeout tag => Sys2Proof.Machine.execMessageTimeout tag s
  | .testFlitReceive k b => Sys2Proof.Machine.execTestFlitReceive k b s
  | .linkLowPowerEntry k => Sys2Proof.Machine.execLinkLowPowerEntry k s
  | .linkLowPowerExit k => Sys2Proof.Machine.execLinkLowPowerExit k s
  | .cxlIoPostedWrite pasid off data => Sys2Proof.Machine.execCxlIoPostedWrite pasid off data s
  | .cxlIoRead pasid txn off len memory => Sys2Proof.Machine.execCxlIoRead pasid txn off len memory s
  | .pcieMemoryRequest kind rid txn addr len poisoned data header => Sys2Proof.Machine.execPcieMemoryRequest kind rid txn addr len poisoned data header s
  | .pcieConfigRequest f txn reg write => Sys2Proof.Machine.execPcieConfigRequest f txn reg write s
  | .aerErrorDetected correctable b header => Sys2Proof.Machine.execAerErrorDetected correctable b header s
  | .dlDown => Sys2Proof.Machine.execDlDown s
  | .dlUpInsert width rate => Sys2Proof.Machine.execDlUpInsert width rate s
  | .capoRelease => Sys2Proof.Machine.execCapoRelease s
  | .capoSoftwareTrigger => Sys2Proof.Machine.execCapoSoftwareTrigger s
  | .capoInsertHoldWrite hold => Sys2Proof.Machine.execCapoInsertHoldWrite hold s
  | .barResize log2 => Sys2Proof.Machine.execBarResize log2 s
  | .msixPendingSend f v => Sys2Proof.Machine.execMsixPendingSend f v s
  | .l0pEntry => Sys2Proof.Machine.execL0pEntry s
  | .l0pRestore => Sys2Proof.Machine.execL0pRestore s
  | .aspmL1Entry => Sys2Proof.Machine.execAspmL1Entry s
  | .errMessageReceived rid kind => Sys2Proof.Machine.execErrMessageReceived rid kind s
  | .deviceInterruptWrite rid addr value => Sys2Proof.Machine.execDeviceInterruptWrite rid addr value s
  | .rpRequestCompletion res => Sys2Proof.Machine.execRpRequestCompletion res s
  | .spdmRequest doe session code body => Sys2Proof.Machine.execSpdmRequest doe session code body s
  | .claim session payload => Sys2Proof.Machine.execClaim session payload s
  | .keyLoad session payload => Sys2Proof.Machine.execKeyLoad session payload s
  | .setProvision session payload => Sys2Proof.Machine.execSetProvision session payload s
  | .setRevoke session payload => Sys2Proof.Machine.execSetRevoke session payload s
  | .release session payload => Sys2Proof.Machine.execRelease session payload s
  | .mailboxGo m => Sys2Proof.Machine.execMailboxGo m s
  | .mctpRequest body => Sys2Proof.Machine.execMctpRequest body s
  | .i3cAddressAssign addr => Sys2Proof.Machine.execI3cAddressAssign addr s
  | .partCreate m => Sys2Proof.Machine.execPartCreate m s
  | .partActivate m => Sys2Proof.Machine.execPartActivate m s
  | .partDestroy m => Sys2Proof.Machine.execPartDestroy m s
  | .regSet m => Sys2Proof.Machine.execRegSet m s
  | .hostRangeSet m => Sys2Proof.Machine.execHostRangeSet m s
  | .pasidBind m => Sys2Proof.Machine.execPasidBind m s
  | .pfWinBase m => Sys2Proof.Machine.execPfWinBase m s
  | .vfWinBase m => Sys2Proof.Machine.execVfWinBase m s
  | .sharedRegister m => Sys2Proof.Machine.execSharedRegister m s
  | .rpAssign m => Sys2Proof.Machine.execRpAssign m s
  | .asidBind m => Sys2Proof.Machine.execAsidBind m s
  | .invqPlace m => Sys2Proof.Machine.execInvqPlace m s
  | .drainLimit m => Sys2Proof.Machine.execDrainLimit m s
  | .invalidate m => Sys2Proof.Machine.execInvalidate m s
  | .fqPlace m => Sys2Proof.Machine.execFqPlace m s
  | .faultTimeout m => Sys2Proof.Machine.execFaultTimeout m s
  | .ringConfigure m => Sys2Proof.Machine.execRingConfigure m s
  | .ringEnable m => Sys2Proof.Machine.execRingEnable m s
  | .ringDisable m => Sys2Proof.Machine.execRingDisable m s
  | .cqPlace m => Sys2Proof.Machine.execCqPlace m s
  | .counterArea m => Sys2Proof.Machine.execCounterArea m s
  | .chordQueue m => Sys2Proof.Machine.execChordQueue m s
  | .windowSet m => Sys2Proof.Machine.execWindowSet m s
  | .keySwitch m => Sys2Proof.Machine.execKeySwitch m s
  | .rekey m => Sys2Proof.Machine.execRekey m s
  | .unwrap m header => Sys2Proof.Machine.execUnwrap m header s
  | .unwrapDone m data => Sys2Proof.Machine.execUnwrapDone m data s
  | .programLoad m image => Sys2Proof.Machine.execProgramLoad m image s
  | .schedLoad m => Sys2Proof.Machine.execSchedLoad m s
  | .replicaSet m => Sys2Proof.Machine.execReplicaSet m s
  | .tcFlush m => Sys2Proof.Machine.execTcFlush m s
  | .vectorSet m => Sys2Proof.Machine.execVectorSet m s
  | .tallyCommit m => Sys2Proof.Machine.execTallyCommit m s
  | .moduleRetrain m => Sys2Proof.Machine.execModuleRetrain m s
  | .rpConfig m => Sys2Proof.Machine.execRpConfig m s
  | .rpMemory m => Sys2Proof.Machine.execRpMemory m s
  | .testLoopback m => Sys2Proof.Machine.execTestLoopback m s
  | .eventRead m => Sys2Proof.Machine.execEventRead m s
  | .sensorRead m => Sys2Proof.Machine.execSensorRead m s
  | .fwStage m => Sys2Proof.Machine.execFwStage m s
  | .fwVerify m => Sys2Proof.Machine.execFwVerify m s
  | .fwActivate m => Sys2Proof.Machine.execFwActivate m s
  | .unitAdmit m => Sys2Proof.Machine.execUnitAdmit m s
  | .unitRead m => Sys2Proof.Machine.execUnitRead m s
  | .modeSet m => Sys2Proof.Machine.execModeSet m s
  | .getInfo m => Sys2Proof.Machine.execGetInfo m s
  | .scrubQuiesceEnd p => Sys2Proof.Machine.execScrubQuiesceEnd p s
  | .scrubZeroEnd p => Sys2Proof.Machine.execScrubZeroEnd p s
  | .scrubCloseEnd p => Sys2Proof.Machine.execScrubCloseEnd p s
  | .rekeyPageLock p leaf => Sys2Proof.Machine.execRekeyPageLock p leaf s
  | .rekeyPagePushesDone p old => Sys2Proof.Machine.execRekeyPagePushesDone p old s
  | .rekeyPageUnlock p => Sys2Proof.Machine.execRekeyPageUnlock p s
  | .hbmPassEnd p => Sys2Proof.Machine.execHbmPassEnd p s
  | .keySlotRetire p g => Sys2Proof.Machine.execKeySlotRetire p g s
  | .accumulatorAgeExpiry p k => Sys2Proof.Machine.execAccumulatorAgeExpiry p k s
  | .countPulseTake => Sys2Proof.Machine.execCountPulseTake s
  | .lifetimePulse => Sys2Proof.Machine.execLifetimePulse s
  | .markPulse => Sys2Proof.Machine.execMarkPulse s
  | .tallyRecordCommit => Sys2Proof.Machine.execTallyRecordCommit s
  | .tallyRecordStored => Sys2Proof.Machine.execTallyRecordStored s
  | .tyRecSelectWrite w => Sys2Proof.Machine.execTyRecSelectWrite w s
  | .tyCommitWrite => Sys2Proof.Machine.execTyCommitWrite s
  | .errorLatch e => Sys2Proof.Machine.execErrorLatch e s
  | .graceExpiry src => Sys2Proof.Machine.execGraceExpiry src s
  | .ecStatusClear w => Sys2Proof.Machine.execEcStatusClear w s
  | .quietExpiry src => Sys2Proof.Machine.execQuietExpiry src s
  | .ecInject w => Sys2Proof.Machine.execEcInject w s
  | .aliveToggle => Sys2Proof.Machine.execAliveToggle s
  | .reconcilePass => Sys2Proof.Machine.execReconcilePass s
  | .tgCtrlWrite k w => Sys2Proof.Machine.execTgCtrlWrite k w s
  | .testFlitGenerate k => Sys2Proof.Machine.execTestFlitGenerate k s
  | .registerWrite via off n value => Sys2Proof.Machine.execRegisterWrite via off n value s
  | .hbmChannelSizeReport log2 => Sys2Proof.Machine.execHbmChannelSizeReport log2 s
  | .idleFlitReceive k b => Sys2Proof.Machine.execIdleFlitReceive k b s
  | .outOfOrderFlit m b => Sys2Proof.Machine.execOutOfOrderFlit m b s
  | .pcieLinkUp width rate => Sys2Proof.Machine.execPcieLinkUp width rate s
  | .cxlIoConfigurationRequest txn reg write => Sys2Proof.Machine.execCxlIoConfigurationRequest txn reg write s

end Sys2Proof.Machine
end

