-- ==== Sys2Proof/Safety.lean ====
section
/-! DEFINITION. What counts as a safe run, in the terms the statements use. -/

namespace Sys2Proof

open Sys2Proof.Machine

/-- The command completes: it answers a next state, and `P` holds of it. -/
def Gives (i : Instr) (s : State) (P : State → Prop) : Prop := ∃ t, exec i s = .next t ∧ P t

/-- Every waiting command is well formed, so that no step of the queue is refused. -/
def QueueWf (s : State) : Prop := ∀ i ∈ s.pending, i.wf = true

/-- The commands that may change what a key slot holds: creation, the tenant's requests, the end of a slot's retirement, the CLOSE of a
scrub, and the resets that leave every partition FREE (R353, R366, R372, R380, R437, R441). -/
def Instr.mayChangeKeys : Instr → Bool
  | .partCreate _ => true
  | .spdmRequest _ _ _ _ => true
  | .claim _ _ => true
  | .keyLoad _ _ => true
  | .setProvision _ _ => true
  | .setRevoke _ _ => true
  | .release _ _ => true
  | .keySlotRetire _ _ => true
  | .scrubZeroEnd _ => true
  | .scrubCloseEnd _ => true
  | .computePartResetRestore => true
  | .coldReset _ => true
  | _ => false

/-- The commands that may change what Tally has counted: a count pulse, a LIFETIME pulse and Tally's reset (R387, R393). -/
def Instr.mayCount : Instr → Bool
  | .countPulseTake => true
  | .lifetimePulse => true
  | .coldReset _ => true
  | _ => false

/-- The MC takes mailbox m's command of an opcode: its firmware runs, the mailbox is next in turn, and no refusal for the whole block or
for the partition's state stands in the way (R405, R486). -/
abbrev Takes (s : State) (m op : Nat) : Prop :=
  s.mc.ready = true ∧ s.nextBox = some m ∧ (s.box m).opcode = op ∧ s.gate m op = none

/-- Mailbox m shows the answer: DONE set, BUSY clear, RESULT and DETAIL (R402 to R404). -/
def Answers (t : State) (m result detail : Nat) : Prop :=
  (t.box m).done = true ∧ (t.box m).busy = false ∧ (t.box m).result = result ∧ (t.box m).detail = detail

end Sys2Proof

namespace Sys2Proof.Machine

/-- A request for a purpose with this kind, address, length and plaintext is outstanding. -/
def Sent (t : State) (pu : Purpose) (k : ReqKind) (pa len : Nat) (data : Bytes) : Prop :=
  ∃ q ∈ t.reqs, q.purpose = pu ∧ q.kind = k ∧ q.pa = pa ∧ q.len = len ∧ q.data = data

/-- The event log holds a record with this code, partition, unit and data (R408, R410). -/
def Logged (t : State) (code : Nat) (unit part : Option Nat) (data : Nat) : Prop :=
  ∃ e ∈ t.mc.log, e.code = code ∧ e.unit = unit ∧ e.part = part ∧ e.data = data % 2 ^ 64

/-- The key material of a slot (R362, R372). -/
def KeySlot.key (k : KeySlot) : Bytes × Bytes × Bytes := (k.hostKey, k.peerKey, k.hbmKey)

/-- What a partition is and holds of the shared resources: its state, its resources (R351, R353) and its keys (R362). -/
structure Share where
  st : Nat
  groups : Nat
  tcWays : Nat
  tlbWays : Nat
  modules : Nat
  key0 : Bytes × Bytes × Bytes
  key1 : Bytes × Bytes × Bytes

/-- A partition's share. -/
def Part.share (x : Part) : Share := ⟨x.st, x.groups, x.tcWays, x.tlbWays, x.modules, x.slot0.key, x.slot1.key⟩

/-- The shares, by partition. -/
def sharesOf (t : Tab Part) (p : Nat) : Share := (Tab.at t p).share

/-- What Tally has counted: its counters, the lifetime counts and EPOCH (R384, R387, R393). -/
def Tally.sums (t : Tally) : Tab Nat × Tab Nat × Nat := (t.counters, t.lifetimes, t.epoch)

/-- May a partition go from state `a` to state `b` in one step (R351)? It stays, or FREE to CREATED to ACTIVE, either of the last two to
SCRUBBING, SCRUBBING to FREE. -/
def Arrow (a b : Nat) : Prop := b = a ∨ a = 0 ∧ b = 1 ∨ a = 1 ∧ b = 2 ∨ a = 1 ∧ b = 3 ∨ a = 2 ∧ b = 3 ∨ a = 3 ∧ b = 0

/-- No two partitions that are not FREE hold a queue-cell group, a tier-cache way, a TLB way or a peer module in common (R353, R356). -/
def Apart (sh : Nat → Share) : Prop :=
  ∀ p q, p < 16 → q < 16 → p ≠ q → (sh p).st ≠ 0 → (sh q).st ≠ 0 →
    (sh p).groups &&& (sh q).groups = 0 ∧ (sh p).tcWays &&& (sh q).tcWays = 0 ∧ (sh p).tlbWays &&& (sh q).tlbWays = 0 ∧
      (sh p).modules &&& (sh q).modules = 0

/-- The part of the state that no ordinary command touches. -/
structure Fixed where
  pending : List Instr
  clk : Clocks
  pos : Nat
  fuses : Fuses
  shares : Nat → Share
  svn : Nat
  sums : Tab Nat × Tab Nat × Nat

/-- The part of the state that no ordinary command touches: the queue, the clocks, the straps and fuses, the partitions' shares, the
fused minimum SVN, and what Tally has counted. -/
def State.fixed (s : State) : Fixed := ⟨s.pending, s.clk, s.pos, s.fuses, sharesOf s.pt.parts, s.mc.fw.svnMin, s.tally.sums⟩

/-- What one command may make of the fixed part: the queue, the clocks, the straps and the fuses stay; the minimum SVN never falls
(R413); partitions that were apart stay apart (R356); and every partition moves along an arrow of R351. -/
structure Fixed.Life (a b : Fixed) : Prop where
  pending : b.pending = a.pending
  clk : b.clk = a.clk
  pos : b.pos = a.pos
  fuses : b.fuses = a.fuses
  svn : a.svn ≤ b.svn
  apart : Apart a.shares → Apart b.shares
  arrow : ∀ p < 16, (a.shares p).st ≤ 3 → Arrow (a.shares p).st (b.shares p).st

/-- What every step keeps: partitions hold nothing in common, every partition is in one of the four states of R351, and the position
straps are a position of the grid (R2, R351, R356). -/
structure Sound (s : State) : Prop where
  apart : Apart (sharesOf s.pt.parts)
  legal : ∀ p < 16, (s.part p).st ≤ 3
  pos : s.pos < 16

/-- Is peer module m up and connected to another die than the manifest says (R449)? -/
def State.miswired (s : State) (m : Nat) : Bool :=
  (s.mod (4 + m)).carries && s.expected (m / 5) != 0x1F && (s.mod (4 + m)).partnerDie != s.expected (m / 5)

/-! ## Which units a command touches -/

/-- The parts of the state by unit. -/
inductive Comp where
  | pt | xl | qc | tier | rk | ch | ec | units | links | tally | mc | px | reqs | nextReq | free | outbox
deriving DecidableEq, Repr

/-- The state with the parts of `M` blanked. -/
def State.hide (M : List Comp) (s : State) : State :=
  { s with
    pt := if Comp.pt ∈ M then default else s.pt
    xl := if Comp.xl ∈ M then default else s.xl
    qc := if Comp.qc ∈ M then default else s.qc
    tier := if Comp.tier ∈ M then default else s.tier
    rk := if Comp.rk ∈ M then default else s.rk
    ch := if Comp.ch ∈ M then default else s.ch
    ec := if Comp.ec ∈ M then default else s.ec
    units := if Comp.units ∈ M then default else s.units
    links := if Comp.links ∈ M then default else s.links
    tally := if Comp.tally ∈ M then default else s.tally
    mc := if Comp.mc ∈ M then default else s.mc
    px := if Comp.px ∈ M then default else s.px
    reqs := if Comp.reqs ∈ M then default else s.reqs
    nextReq := if Comp.nextReq ∈ M then default else s.nextReq
    free := if Comp.free ∈ M then default else s.free
    outbox := if Comp.outbox ∈ M then default else s.outbox }

/-- Every part of the state outside `M` is the same in `t` as in `s`: no register, queue or buffer of another unit has changed, and
neither have the queue of commands, the clocks, the straps and the fuses. -/
def Same (M : List Comp) (s t : State) : Prop := t.hide M = s.hide M

/-! ## What background effects leave alone -/

/-- The management core but for its log, its mailboxes and the mark that a module has changed state. -/
def Mc.rest (m : Mc) : Mc := { m with log := [], seq := 0, boxes := [], decide := false }
/-- The port but for interrupts and the time of its last TLP. -/
def Px.rest (p : Px) : Px := { p with msix := [], irqDropped := 0, tlpAt := 0 }
/-- The error collector but for the errors reported and not yet latched. -/
def Ec.rest (e : Ec) : Ec := { e with lines := [] }
/-- Tally but for accumulators and pulses on their way. -/
def Tally.rest (t : Tally) : Tally := { t with acc := [], pulses := [], asks := [] }

/-- What background effects leave alone. -/
structure Quiet where
  mc : Mc
  px : Px
  ec : Ec
  tally : Tally

/-- What background effects leave of the management core, the port, the error collector and Tally: everything but the event log, the
mailboxes, interrupts on their way, errors reported and not yet latched, and counts on their way (R335, R386, R408, R418). -/
def State.quiet (s : State) : Quiet := ⟨s.mc.rest, s.px.rest, s.ec.rest, s.tally.rest⟩

end Sys2Proof.Machine
end

