-- ==== Sys2Proof/Certificates/Slice0/Obligations.lean ====
section
/-! DEFINITION. The statements for the provers, one `def Obligations.<Name> : Prop` each. `Gives i s P`: command `i` in state `s` answers
a next state, and `P` holds of it. Every command of the table but COLD_RESET has its frame in one of the eight statements at the end. -/

open Sys2Proof Sys2Proof.Machine

/-- A cold reset leaves the machine at its reset values and the boot ROM starts the firmware of the bank it chooses. -/
def Obligations.ColdResetState : Prop :=
  -- COLD_RESET: straps, fuses, die ID and mode are taken; every unit but the stored minimum security version starts at its reset value
  (∀ (x : Straps) (s : State), Gives (.coldReset x) s fun t =>
      t.pos = x.pos ∧ t.dieId = 4 + x.pos ∧ t.fuses = { groups := x.groups.toNat, modules := x.modules.toNat, halfArray := x.halfArray } ∧
      t.px.rootPort = x.rootPort ∧ t.ec.testMode = x.testMode ∧ t.pt = {} ∧ t.xl = {} ∧ t.qc = {} ∧ t.tier = {} ∧ t.ch = {} ∧
      t.links = {} ∧ t.reqs = [] ∧ t.mc.ready = false ∧ t.mc.mode = 1 ∧ t.mc.rd = {} ∧ t.tally.counters = [] ∧
      t.mc.fw.svnMin = s.mc.fw.svnMin ∧ t.pending = s.pending) ∧
  -- ROM_BOOT: the chosen bank's firmware runs, or recovery with no manifest when neither bank verifies
  (∀ (b0 b1 : Bank) (s : State), (Instr.romBoot b0 b1).wf = true → s.mc.ready = false → Gives (.romBoot b0 b1) s fun t =>
      t.mc.ready = true ∧ t.px.configReady = true ∧ t.xl.ready = true ∧ t.ch.ready = true ∧ t.rk.ready = true ∧ t.mc.rd.st = 1 ∧
      match s.bootChoice b0 b1 with
      | some k => t.mc.fw.authOk = true ∧ t.mc.fw.recovery = false ∧ t.mc.fw.bootBank = k ∧
          t.mc.fw.manifest = if k = 0 then b0.manifest else b1.manifest
      | none => t.mc.fw.authOk = false ∧ t.mc.fw.recovery = true ∧ t.mc.fw.manifest = [])

/-- The die ID is 4 plus the position straps of the last cold reset, and no other command changes it (R2). -/
def Obligations.DieIdentity : Prop :=
  -- COLD_RESET: the die ID is 4 plus the straps
  (∀ (x : Straps) (s : State), Gives (.coldReset x) s fun t => t.dieId = 4 + x.pos.val) ∧
  -- no other command changes the die ID
  (∀ (i : Instr) (s t : State), (∀ x, i ≠ .coldReset x) → exec i s = .next t → t.dieId = s.dieId)

/-- A partition numbers its rings from 0 over its queue-cell groups in rising order (R104). -/
def Obligations.LocalRingNumbers : Prop :=
  -- the groups of a mask in rising order
  (∀ (m : Nat), (maskBits 16 m).Pairwise (· < ·) ∧ ∀ g, g ∈ maskBits 16 m ↔ g < 16 ∧ bit m g = true) ∧
  -- ring 1024 k + r is ring r of group k
  (∀ (s : State) (p k r g : Nat), (maskBits 16 (s.part p).groups)[k]? = some g → r < 1024 → s.globalRing p (1024 * k + r) = some (1024 * g + r)) ∧
  -- numbers from 1024 m up name no ring
  (∀ (s : State) (p j : Nat), 1024 * (maskBits 16 (s.part p).groups).length ≤ j → s.globalRing p j = none) ∧
  -- the spec's own numbers for a partition with group 5
  (∀ (s : State), (s.part 6).groups = 32 → s.globalRing 6 280 = some 5400 ∧ cellOfRing 5400 = 21 ∧ 5400 % 256 = 24)

/-- PART_ACTIVATE makes a created, claimed partition ACTIVE only when the key slots its scopes name are LOADED (R354). -/
def Obligations.PartitionActivation : Prop :=
  ∀ (m : Fin 18) (s : State) (b : Bytes) (x : Part), Takes s m 0x0102 → (s.box m).payload = b → byteAt b 0 < 16 → x = s.part (byteAt b 0) →
      Gives (.partActivate m) s fun t =>
        if x.st ≠ 1 ∨ x.claimed = false then Answers t m 2 1 ∧ t.pt = s.pt
        else if (x.slot x.scope0).st ≠ .loaded ∨ (x.slot x.scope1).st ≠ .loaded then Answers t m 2 3 ∧ t.pt = s.pt
        else Answers t m 0 0 ∧ t.part (byteAt b 0) = { x with st := 2 } ∧ ∀ q, q ≠ byteAt b 0 → t.part q = s.part q

/-- EVENT_READ returns the records a mailbox may see, from a sequence number on, and says whether some are lost (R412). -/
def Obligations.EventReading : Prop :=
  ∀ (m : Fin 18) (s : State) (b : Bytes) (first most : Nat), Takes s m 0x0B01 → (s.box m).payload = b → first = fieldAt b 0 8 → most = byteAt b 8 → most ≠ 0 → most ≤ 64 →
      Gives (.eventRead m) s fun t => Answers t m 0 0 ∧ ∃ (l : List EventRec) (lost : Nat),
        l = (s.mc.log.filter fun e => decide (first ≤ e.seq) && (decide (16 ≤ m.val) || e.part == some m.val)).take most ∧
        lost = (match s.mc.log with | [] => 0 | e :: _ => if first < e.seq then 1 else 0) ∧
        (s.mc.log.Pairwise (fun x y => x.seq < y.seq) → l.Pairwise fun x y => x.seq < y.seq) ∧
        Tab.readBytes (t.box m).ram 0x5020 (8 + 32 * l.length) = leBytes 1 l.length ++ leBytes 1 lost ++ zeros 6 ++ l.flatMap fun e => e.bytes false

/-- RING_CONFIGURE sets a DISABLED ring up and refuses, as malformed, a ring in any other state (R102). -/
def Obligations.RingConfiguration : Prop :=
  -- RING_CONFIGURE of a DISABLED ring that passes every check sets its configuration
  (∀ (m : Fin 18) (s : State) (b : Bytes) (r : Nat), Takes s m 0x0401 → (s.box m).payload = b → s.globalRing m (fieldAt b 0 2) = some r → (s.ring r).st = 0 →
      6 ≤ byteAt b 2 → byteAt b 2 ≤ 16 → byteAt b 3 < 4 → fieldAt b 8 8 % 4096 = 0 → s.inQualifying m (fieldAt b 8 8) (128 * 2 ^ byteAt b 2) = true →
      (bit (byteAt b 4) 0 || localAsid m (fieldAt b 6 2)) = true → (s.cq (256 * m + byteAt b 5)).placed = true → (bit (byteAt b 4) 0 = true → s.mc.mode ≠ 0) →
      Gives (.ringConfigure m) s fun t => Answers t m 0 0 ∧ t.ring r = { rung := (s.ring r).rung, configured := true, base := fieldAt b 8 8, sizeLog2 := byteAt b 2, tc := byteAt b 3, asid := fieldAt b 6 2, phys := bit (byteAt b 4) 0, cq := byteAt b 5 }) ∧
  -- RING_CONFIGURE of a ring not DISABLED answers MALFORMED and changes no ring
  (∀ (m : Fin 18) (s : State) (b : Bytes) (r : Nat), Takes s m 0x0401 → (s.box m).payload = b → s.globalRing m (fieldAt b 0 2) = some r → (s.ring r).st ≠ 0 →
      Gives (.ringConfigure m) s fun t => Answers t m 1 0 ∧ t.qc = s.qc)

/-- An invalidation that reaches its drain limit reports and keeps waiting; DRAIN_LIMIT sets the limit within its range (R70). -/
def Obligations.DrainLimits : Prop :=
  -- INVALIDATION_DRAIN_LIMIT_EXPIRY: at the limit DRAIN_HIT and WALK_ERROR KIND 5 are set, an error is raised, and the limit is reported once
  (∀ (id : Nat) (s : State) (i : Inval), (s.xl.invals.find? fun i => i.id == id) = some i → i.limitHit = false →
      i.cut + (s.invq i.part).drainLimit ≤ s.clk.fab →
      Gives (.invalidationDrainLimitExpiry id) s fun t => (t.invq i.part).drainHit = true ∧ t.xl.errValid = true ∧ t.xl.errKind = 5 ∧
        t.xl.errPart = i.part ∧ t.ec.lines = s.ec.lines ++ [{ source := 1, cls := 1, part := some i.part, detail := 5 }] ∧
        (∀ x ∈ t.xl.invals, x.id = id → x.limitHit = true)) ∧
  -- DRAIN_LIMIT from 2^16 to 2^31 sets the limit
  (∀ (m : Fin 18) (s : State) (b : Bytes), Takes s m 0x0203 → (s.box m).payload = b → 65536 ≤ fieldAt b 0 4 → fieldAt b 0 4 ≤ 2147483648 →
      Gives (.drainLimit m) s fun t => Answers t m 0 0 ∧ (t.invq m).drainLimit = fieldAt b 0 4) ∧
  -- INVALIDATION_DRAIN_LIMIT_EXPIRY: at the limit the same invalidations wait as before
  (∀ (id : Nat) (s : State) (i : Inval), (s.xl.invals.find? fun i => i.id == id) = some i → i.limitHit = false → i.cut + (s.invq i.part).drainLimit ≤ s.clk.fab →
      Gives (.invalidationDrainLimitExpiry id) s fun t => t.xl.invals.map Inval.id = s.xl.invals.map Inval.id) ∧
  -- INVALIDATION_ACKNOWLEDGE: an invalidation that has something to wait for is not acknowledged
  (∀ (id : Nat) (s : State) (i : Inval), (s.xl.invals.find? fun i => i.id == id) = some i → i.waits ≠ [] → Gives (.invalidationAcknowledge id) s fun t => t = s) ∧
  -- DRAIN_LIMIT outside its range answers MALFORMED and changes nothing of translation
  (∀ (m : Fin 18) (s : State) (b : Bytes), Takes s m 0x0203 → (s.box m).payload = b → (fieldAt b 0 4 < 65536 ∨ 2147483648 < fieldAt b 0 4) →
      Gives (.drainLimit m) s fun t => Answers t m 1 0 ∧ t.xl = s.xl) ∧
  -- COLD_RESET: the limit after a cold reset is 2^24
  (∀ (x : Straps) (s : State), Gives (.coldReset x) s fun t => ∀ p < 16, (t.invq p).drainLimit = 16777216)

/-- A partition under scrub has every mailbox command but status reads refused with STATE and DETAIL 1 (R381). -/
def Obligations.ScrubRefusals : Prop :=
  -- each named command of a SCRUBBING partition's mailbox answers STATE with DETAIL 1
  (∀ (h : Option Bytes) (e : Nat × (Fin 18 → Instr)), e ∈ ([(0x0201, .asidBind), (0x0202, .invqPlace), (0x0203, .drainLimit), (0x0204, .invalidate), (0x0301, .fqPlace), (0x0302, .faultTimeout), (0x0401, .ringConfigure), (0x0402, .ringEnable), (0x0403, .ringDisable), (0x0404, .cqPlace), (0x0405, .counterArea), (0x0406, .chordQueue), (0x0501, .windowSet), (0x0601, .keySwitch), (0x0602, .rekey), (0x0603, fun m => .unwrap m h), (0x0604, fun m => .programLoad m h), (0x0701, .schedLoad), (0x0702, .replicaSet), (0x0703, .tcFlush), (0x0801, .vectorSet), (0x0901, .tallyCommit), (0x0A02, .rpConfig), (0x0A03, .rpMemory)] : List (Nat × (Fin 18 → Instr))) →
      ∀ (m : Fin 18) (s : State), m.val < 16 → (s.part m).st = 3 → s.mc.ready = true → s.nextBox = some m → (s.box m).opcode = e.1 → s.stopped = false → s.mc.fw.recovery = false → s.mc.rd.cp = 0 →
      Gives (e.2 m) s fun t => Answers t m 2 1 ∧ Same [.mc, .px, .outbox] s t) ∧
  -- GET_INFO, EVENT_READ and UNIT_READ are still taken
  (∀ (m : Fin 18) (s : State) (op : Nat), m.val < 16 → (op = 0x0B09 ∨ op = 0x0B01 ∨ op = 0x0B07) → s.mc.ready = true → s.nextBox = some m → (s.box m).opcode = op → s.mc.fw.recovery = false → Takes s m op) ∧
  -- PART_DESTROY of a SCRUBBING partition answers OK and starts nothing
  (∀ (m : Fin 18) (s : State) (b : Bytes), Takes s m 0x0103 → (s.box m).payload = b → byteAt b 0 < 16 → (s.part (byteAt b 0)).st = 3 →
      Gives (.partDestroy m) s fun t => Answers t m 0 0 ∧ Same [.mc, .px, .outbox] s t) ∧
  -- PART_DESTROY of a FREE partition answers STATE with DETAIL 1
  (∀ (m : Fin 18) (s : State) (b : Bytes), Takes s m 0x0103 → (s.box m).payload = b → byteAt b 0 < 16 → (s.part (byteAt b 0)).st = 0 →
      Gives (.partDestroy m) s fun t => Answers t m 2 1 ∧ Same [.mc, .px, .outbox] s t) ∧
  -- RELEASE of a SCRUBBING partition answers STATE
  (∀ (session : Nat) (b : Bytes) (s : State), s.spdmMay = true → s.mc.spdm.sessions.contains session = true → tenantShape b = true → byteAt b 0 = 5 →
      (s.part (byteAt b 1 % 16)).st = 3 → Gives (.release session b) s fun t => t = { s with outbox := s.outbox ++ [.spdm (some session) [0x85, 2, 0, 0]] })

/-- Every well-formed command answers a next state in every state; an ill-formed one is refused by name or answers one too. -/
def Obligations.WellFormedCommandsRun : Prop :=
  -- a well-formed command answers a next state
  (∀ (i : Instr) (s : State), i.wf = true → ∃ t, exec i s = .next t) ∧
  -- an ill-formed one is refused as such or answers a next state
  (∀ (i : Instr) (s : State), i.wf = false → ∃ n, exec i s = .refused (.illFormed n) ∨ ∃ t, exec i s = .next t)

/-- A step runs the command at the front of the queue with the queue's rest. -/
def Obligations.FrontCommandRuns : Prop :=
  ∀ (c : Instr) (rest : List Instr) (s : State), s.pending = c :: rest → step s = exec c { s with pending := rest }

/-- A step on an empty queue is one tick: the clocks advance and the buckets refill (the model's choice, log entries 2 and 3). -/
def Obligations.EmptyQueueTicks : Prop :=
  ∀ (s : State), s.pending = [] → ∃ t, step s = .next t ∧ t.clk.ticks = s.clk.ticks + 1 ∧ t.clk.fab = s.clk.fab + Config.cyclesPerTick 0 s.clk.ticks ∧
      t.clk.mgt = s.clk.mgt + Config.cyclesPerTick 2 s.clk.ticks ∧ Same [.pt, .tier, .rk, .px, .free, .outbox] { s with clk := t.clk } t ∧
      ∀ p b, Tab.at (t.part p).buckets b = (Tab.at (s.part p).buckets b).tick (Config.cyclesPerTick 0 s.clk.ticks)

/-- The reset state: nothing waiting, every partition FREE, every ring DISABLED, the limits at their reset values. -/
def Obligations.ResetState : Prop :=
  State.reset.pending = [] ∧ State.reset.mc.mode = 1 ∧ State.reset.mc.ready = false ∧ State.reset.reqs = [] ∧ State.reset.outbox = [] ∧
      (∀ p < 16, (State.reset.part p).st = 0 ∧ (State.reset.invq p).drainLimit = 2 ^ 24 ∧ (State.reset.fq p).timeout = 2 ^ 31) ∧
      (∀ r < 16384, (State.reset.ring r).st = 0) ∧ (∀ k < 24, (State.reset.mod k).st = 0) ∧ State.reset.tally.counters = [] ∧
      (∀ i < 16, (State.reset.source i).level = 0 ∧ (State.reset.source i).graceLog2 = 26)

/-- The reset state is sound: partitions share nothing and are in legal states. -/
def Obligations.SoundAtReset : Prop :=
  Sound State.reset

/-- Every step keeps partitions apart, in legal states, and the position strap in range. -/
def Obligations.SoundKept : Prop :=
  ∀ (s t : State), Sound s → step s = .next t → Sound t

/-- A partition's state changes only along the arrows FREE, CREATED, ACTIVE, SCRUBBING, FREE under every command but a cold reset. -/
def Obligations.PartitionLifecycle : Prop :=
  ∀ (i : Instr) (s t : State), (∀ x, i ≠ .coldReset x) → exec i s = .next t →
      (∀ p < 16, (s.part p).st ≤ 3 → Arrow (s.part p).st (t.part p).st) ∧ (Apart (sharesOf s.pt.parts) → Apart (sharesOf t.pt.parts)) ∧
        t.pending = s.pending ∧ t.clk = s.clk ∧ t.pos = s.pos ∧ t.fuses = s.fuses

/-- No step lowers the minimum security version. -/
def Obligations.SecurityVersionNeverFalls : Prop :=
  ∀ (s t : State), step s = .next t → s.mc.fw.svnMin ≤ t.mc.fw.svnMin

/-- Only creation, tenant requests, a slot's retirement, a scrub and the resets change what a key slot holds. -/
def Obligations.KeysChangeOnlyWhereNamed : Prop :=
  ∀ (i : Instr) (s t : State), i.mayChangeKeys = false → exec i s = .next t →
      ∀ p, (t.part p).slot0.key = (s.part p).slot0.key ∧ (t.part p).slot1.key = (s.part p).slot1.key

/-- Tally's counters, lifetime counts and EPOCH change only when a pulse is taken or at a cold reset. -/
def Obligations.CountsChangeOnlyAtPulses : Prop :=
  ∀ (i : Instr) (s t : State), i.mayCount = false → exec i s = .next t →
      t.tally.counters = s.tally.counters ∧ t.tally.lifetimes = s.tally.lifetimes ∧ t.tally.epoch = s.tally.epoch

/-- A doorbell that passes its checks moves its queue, a staged one only stages it, and a bad access is counted and dropped. -/
def Obligations.DoorbellMovesProducer : Prop :=
  -- RING_DOORBELL clears the staged value, moves P to the named position when it moves it forward, and is counted
  (∀ (p : Fin 16) (j : Fin 16384) (w : Word) (s : State) (r : Nat), (s.part p).st = 2 → bits w.toNat 56 8 = (s.part p).checkTag →
      s.globalRing p j = some r → (s.ring r).st ≠ 0 → (s.ring r).st ≠ 6 → bits w.toNat 0 16 < (s.ring r).size →
      (s.ring r).dist ((s.ring r).named w.toNat) ≤ (s.ring r).size → bit w.toNat 48 = false →
      Gives (.ringDoorbell p j w) s fun t =>
        (t.ring r).staged = none ∧ (t.ring r).p = (if (s.ring r).moves ((s.ring r).named w.toNat) then (s.ring r).named w.toNat else (s.ring r).p) ∧
        (t.cell (cellOfRing r)).dbAccepted = wrapAdd 64 (s.cell (cellOfRing r)).dbAccepted 1) ∧
  -- STAGED_DOORBELL stages the named position and leaves P
  (∀ (p : Fin 16) (j : Fin 16384) (w : Word) (s : State) (r : Nat), (s.part p).st = 2 → bits w.toNat 56 8 = (s.part p).checkTag →
      s.globalRing p j = some r → (s.ring r).st ≠ 0 → (s.ring r).st ≠ 6 → bits w.toNat 0 16 < (s.ring r).size →
      (s.ring r).dist ((s.ring r).named w.toNat) ≤ (s.ring r).size → bit w.toNat 48 = true →
      Gives (.stagedDoorbell p j w) s fun t => (t.ring r).staged = some ((s.ring r).named w.toNat) ∧ (t.ring r).p = (s.ring r).p) ∧
  -- INVALIDATION_DOORBELL moves P, leaves C and wakes a stopped fetch
  (∀ (p : Fin 16) (w : Word) (s : State), (s.part p).st = 2 → bits w.toNat 56 8 = (s.part p).checkTag → (s.invq p).placed = true →
      bits w.toNat 0 16 < (s.invq p).size →
      ((bits w.toNat 16 16 * (s.invq p).size + bits w.toNat 0 16) % (s.invq p).m + (s.invq p).m - (s.invq p).c) % (s.invq p).m ≤ (s.invq p).size →
      Gives (.invalidationDoorbell p w) s fun t =>
        (t.invq p).c = (s.invq p).c ∧ ((s.invq p).st = 2 ∨ (s.invq p).st = 3 → (t.invq p).st = 0 ∧ (t.invq p).refetch = 0) ∧
        (((bits w.toNat 16 16 * (s.invq p).size + bits w.toNat 0 16) % (s.invq p).m + (s.invq p).m - (s.invq p).p) % (s.invq p).m ≤ (s.invq p).size →
          (t.invq p).p = (bits w.toNat 16 16 * (s.invq p).size + bits w.toNat 0 16) % (s.invq p).m)) ∧
  -- DOORBELL_PAGE_BAD_WRITE: a write that is no aligned eight-byte doorbell only counts DB_BAD_ACCESS
  (∀ (p : Fin 16) (off : Fin 1048576) (n : Nat) (s : State), (Instr.doorbellPageBadWrite p off n).wf = true →
      exec (.doorbellPageBadWrite p off n) s =
        .next { s with pt := { s.pt with dbBadAccess := Tab.upd s.pt.dbBadAccess p fun n => satAdd 16 n 1 } }) ∧
  -- CHORD_DOORBELL moves P, leaves C and wakes a stopped fetch
  (∀ (p : Fin 16) (w : Word) (s : State), (s.part p).st = 2 → bits w.toNat 56 8 = (s.part p).checkTag → (s.chq p).placed = true →
      bits w.toNat 0 16 < (s.chq p).size →
      ((bits w.toNat 16 16 * (s.chq p).size + bits w.toNat 0 16) % (s.chq p).m + (s.chq p).m - (s.chq p).c) % (s.chq p).m ≤ (s.chq p).size →
      Gives (.chordDoorbell p w) s fun t =>
        (t.chq p).c = (s.chq p).c ∧ ((s.chq p).st = 2 ∨ (s.chq p).st = 3 → (t.chq p).st = 0 ∧ (t.chq p).refetch = 0) ∧
        (((bits w.toNat 16 16 * (s.chq p).size + bits w.toNat 0 16) % (s.chq p).m + (s.chq p).m - (s.chq p).p) % (s.chq p).m ≤ (s.chq p).size →
          (t.chq p).p = (bits w.toNat 16 16 * (s.chq p).size + bits w.toNat 0 16) % (s.chq p).m))

/-- Fault responses, parking of a faulted descriptor, its record, its timer, and the end of a drain. -/
def Obligations.FaultAndParking : Prop :=
  -- FAULT_RESPONSE_CONSUME: action 0 moves the consumer index only
  (∀ (p : Fin 16) (w : Word) (s : State), (s.part p).st = 2 → bits w.toNat 56 8 = (s.part p).checkTag → bits w.toNat 52 4 = 0 →
      (bits w.toNat 32 16 + 65536 - (s.fq p).cons) % 65536 ≤ ((s.fq p).prod + 65536 - (s.fq p).cons) % 65536 →
      Gives (.faultResponseConsume p w) s fun t => (t.fq p).cons = bits w.toNat 32 16) ∧
  -- FAULT_RESPONSE_RESUME: action 1 frees the slot its generation matches
  (∀ (p : Fin 16) (w : Word) (s : State) (k : Nat), (s.part p).st = 2 → bits w.toNat 56 8 = (s.part p).checkTag → bits w.toNat 52 4 = 1 →
      slotOfId p (bits w.toNat 0 32) = some k → (s.slot k).valid = true → (s.slot k).part = p → (s.slot k).issued = true →
      (s.slot k).gen = bits w.toNat 24 8 →
      (bits w.toNat 32 16 + 65536 - (s.fq p).cons) % 65536 ≤ ((s.fq p).prod + 65536 - (s.fq p).cons) % 65536 →
      Gives (.faultResponseResume p w) s fun t => (t.slot k).valid = false ∧ (t.fq p).cons = bits w.toNat 32 16) ∧
  -- FAULT_RESPONSE_ABORT: action 2 frees the slot its generation matches
  (∀ (p : Fin 16) (w : Word) (s : State) (k : Nat), (s.part p).st = 2 → bits w.toNat 56 8 = (s.part p).checkTag → bits w.toNat 52 4 = 2 →
      slotOfId p (bits w.toNat 0 32) = some k → (k < 16384 → s.ringOwner k = some p.val) → (s.slot k).valid = true → (s.slot k).part = p →
      (s.slot k).issued = true → (s.slot k).gen = bits w.toNat 24 8 →
      (bits w.toNat 32 16 + 65536 - (s.fq p).cons) % 65536 ≤ ((s.fq p).prod + 65536 - (s.fq p).cons) % 65536 →
      Gives (.faultResponseAbort p w) s fun t => (t.slot k).valid = false ∧ (t.fq p).cons = bits w.toNat 32 16) ∧
  -- PARK_DRAIN_COMPLETE: while the fault queue is full a drained, faulted descriptor takes its slot with a new generation and its ring is PARKED
  (∀ (r : Fin 16384) (s : State) (p : Nat) (w : Work), s.ringOwner r = some p →
      ((s.ring r).works.find? fun w => w.phase == .draining && w.fault.isSome && w.bad.isNone) = some w → s.dataOut r w.pos = false →
      (s.fq p).full = true →
      Gives (.parkDrainComplete r) s fun t => (t.slot r).valid = true ∧ (t.slot r).gen = ((s.slot r).gen + 1) % 256 ∧
        (t.slot r).linear = w.cursor ∧ (t.slot r).held = true ∧ (t.ring r).st = 5) ∧
  -- FAULT_RECORD_ACK: the record's acknowledgement starts the resume timer
  (∀ (k : Fin 16400) (g : Fin 256) (s : State) (q : Req), s.reqFor (.faultRecord k g) = some q → (s.slot k).valid = true → (s.slot k).gen = g →
      (s.slot k).issued = true →
      Gives (.faultRecordAck k g .ok) s fun t => (t.slot k).timer = some (s.clk.fab + (s.fq q.part).timeout) ∧ ∀ x ∈ t.reqs, x.id ≠ q.id) ∧
  -- PARK_TIMER_EXPIRY: at its end the slot is freed, remembered as expired, and counted
  (∀ (k : Fin 16400) (s : State) (n : Nat), (s.slot k).timer = some n → (s.slot k).valid = true → n ≤ s.clk.fab →
      (k.val < 16384 → s.ringOwner k = some (s.slot k).part) →
      Gives (.parkTimerExpiry k) s fun t => (t.slot k).valid = false ∧ (t.slot k).expired = some (s.slot k).gen ∧
        (t.fq (s.slot k).part).timeouts = satAdd 16 (s.fq (s.slot k).part).timeouts 1) ∧
  -- RING_DRAIN_COMPLETE: a drained ring is DISABLED and RING_DISABLE answered
  (∀ (r : Fin 16384) (s : State) (m : Nat), (s.ring r).st = 6 → (s.ring r).works = [] → s.ringOut r = false →
      ((s.ringOwner r).any fun p => (s.part p).st == 3) = false → (s.ring r).waiters = [m] →
      Gives (.ringDrainComplete r) s fun t => (t.ring r).st = 0 ∧ (t.ring r).waiters = [] ∧ Answers t m 0 0)

/-- A ring fetches the descriptors its producer index names, refetches stale ones after a back-off and starts them in order. -/
def Obligations.DescriptorFetching : Prop :=
  -- DESCRIPTOR_FETCH: one 128-byte read of the next descriptor
  (∀ (r : Fin 16384) (s : State) (p x pa : Nat) (reload : Bool), s.ringOwner r = some p → s.fetchGrant r = some reload → s.nextFetch r = some x →
      s.route p ((s.ring r).descPa x) 128 false false = .go .host pa →
      Gives (.descriptorFetch r) s fun t => Sent t (.descFetch r x) .read pa 128 []) ∧
  -- DESCRIPTOR_FETCH_RETURN: the line returned is held under its position
  (∀ (id : Nat) (b : Bytes) (s : State) (q : Req) (r x p : Nat), s.req id = some q → id < s.nextReq → q.purpose = .descFetch r x →
      s.ringOwner r = some p → (s.ring r).head = none → x ≠ (s.ring r).c →
      Gives (.descriptorFetchReturn id (.ok b)) s fun t =>
        t.req id = none ∧ (x, s.clk.fab, padTo 128 (s.unseal q.key q.pa b)) ∈ (t.ring r).fetched) ∧
  -- DESCRIPTOR_FETCH_RETURN: a descriptor of another lap starts the refetch back-off of 64 x 2^n cycles
  (∀ (id : Nat) (b : Bytes) (s : State) (q : Req) (r p : Nat), s.req id = some q → q.purpose = .descFetch r (s.ring r).c →
      s.ringOwner r = some p → (s.ring r).c ≠ (s.ring r).p → (s.ring r).fetchErr = none → (s.ring r).fetched = [] → (s.ring r).again = false →
      (s.ring r).refetch < 8 → (s.ring r).valid (s.ring r).c (padTo 128 (s.unseal q.key q.pa b)) = false →
      Gives (.descriptorFetchReturn id (.ok b)) s fun t =>
        (t.ring r).stale = true ∧ (t.ring r).c = (s.ring r).c ∧ (t.ring r).backoff = some (s.clk.fab + 64 * 2 ^ (s.ring r).refetch)) ∧
  -- DESCRIPTOR_REFETCH_BACKOFF_EXPIRY: at its end the same descriptor is read again and the refetch counted
  (∀ (r : Fin 16384) (s : State) (p n pa : Nat), s.ringOwner r = some p → (s.ring r).backoff = some n → (s.ring r).stale = true → n ≤ s.clk.fab →
      s.mayIssue p (cellOfRing r) = true → s.fetchOut r = [] → (s.ring r).st ≠ 0 → (s.ring r).st ≠ 5 → (s.ring r).st ≠ 6 →
      s.route p ((s.ring r).descPa (s.ring r).c) 128 false false = .go .host pa →
      Gives (.descriptorRefetchBackoffExpiry r) s fun t =>
        Sent t (.descFetch r (s.ring r).c) .read pa 128 [] ∧ (t.ring r).refetch = (s.ring r).refetch + 1 ∧ (t.ring r).backoff = none) ∧
  -- DESCRIPTOR_START: the oldest queued descriptor begins to issue
  (∀ (r : Fin 16384) (s : State) (p : Nat) (w : Work), s.ringOwner r = some p → s.mayBegin p r = true → (s.ring r).head = none →
      ((s.ring r).works.find? fun x => x.phase == .queued) = some w → s.work r w.pos = some w → s.descOk p (s.ring r) w.raw = true →
      dOpcode w.raw ≠ 0x01 →
      Gives (.descriptorStart r) s fun t =>
        ∃ x, t.work r w.pos = some x ∧ x.phase = .issuing ∧ x.raw = w.raw ∧ (w.refault = false → x.start = s.clk.fab))

/-- Data requests issue under the arbiter, and their returns, acknowledgements and timeouts are accounted. -/
def Obligations.RequestsAndReturns : Prop :=
  -- REQUEST_ISSUE: the arbiter's grant issues the read at that offset
  (∀ (r off : Nat) (s u : State) (p : Nat) (w : Work) (reload b : Bool), s.ringOwner r = some p →
      ((s.ring r).works.find? fun w => w.phase == .issuing) = some w → (s.readAt r off).map Prod.fst = some true → s.issueGrant r = some reload →
      (s.ring r).tc ≠ 0 → (s.modCell (cellOfRing r) fun c => c.takeIssue (s.ring r).tc reload).readAt r off = some (b, u) →
      exec (.requestIssue (.cellRead r off)) s = .next ((u.settleRing r).advanceOwner r) ∧
        u = (s.modCell (cellOfRing r) fun c => c.takeIssue (s.ring r).tc reload).issueSrc p r w.pos off) ∧
  -- DATA_READ_RETURN: a read's return ends its request, counts no transferred byte and moves no producer
  (∀ (id : Nat) (res : RdRes) (s : State) (q : Req) (r pos off len port : Nat), s.req id = some q → id < s.nextReq → q.kind = .read →
      q.purpose = .srcRead r pos off len → q.path = .fabric port → Gives (.dataReadReturn id res) s fun t =>
        t.req id = none ∧ (∀ c, (t.cell c).xferBytes = (s.cell c).xferBytes) ∧ ∀ x, (t.ring x).p = (s.ring x).p) ∧
  -- DATA_WRITE_ACK: a write's acknowledgement ends its request and counts its bytes
  (∀ (id : Nat) (s : State) (q : Req) (r pos off len port p : Nat) (g : Ring) (w : Work), s.req id = some q → id < s.nextReq → q.kind = .write →
      q.purpose = .dstWrite r pos off len → q.path = .fabric port → q.key = none → s.workOf r pos = some (p, g, w) →
      Gives (.dataWriteAck id .ok) s fun t =>
        t.req id = none ∧ (t.cell (cellOfRing r)).xferBytes = wrapAdd 64 (s.cell (cellOfRing r)).xferBytes len) ∧
  -- REQUEST_TIMEOUT: a request at its limit ends and is counted
  (∀ (id : Nat) (s : State) (q : Req) (r pos off len port : Nat), s.req id = some q → id < s.nextReq → q.purpose = .srcRead r pos off len →
      q.path = .fabric port → q.unit < 64 → q.start + 2 ^ 24 ≤ s.clk.fab →
      Gives (.requestTimeout id) s fun t => t.req id = none ∧ (t.cell q.unit).errTimeout = satAdd 16 (s.cell q.unit).errTimeout 1) ∧
  -- FLAG_WRITE_ISSUE: a flag descriptor's write of 8 bytes
  (∀ (r : Fin 16384) (s : State) (p ch pa : Nat) (w : Work), s.ringOwner r = some p →
      ((s.ring r).works.find? fun w => w.phase == .issuing) = some w → dOpcode w.raw = 0x02 → w.flagged = false → w.stopped = false →
      dFence w.raw = 0 → s.mayIssue p (cellOfRing r) = true → s.missing (.cellWrite r w.pos 0) = false → (s.ring r).phys = true →
      s.route p (dBase true w.raw 16 % 2 ^ 52) 8 true (s.peerUp p) = .go (.fabric ch) pa →
      s.tokensOk p 4 (popCount 64 (maskRange (dBase true w.raw 16 % 64) 8)) = true → maskRange (dBase true w.raw 16 % 64) 8 ≠ 0 →
      Gives (.flagWriteIssue r) s fun t => Sent t (.flagWrite r w.pos) .write pa 8 (slice w.raw 24 8))

/-- A finished descriptor writes its status block, clears OWN, writes its completion entry and signals. -/
def Obligations.DescriptorFinishing : Prop :=
  -- STATUS_BLOCK_WRITE: the status block is written at offset 96 of the descriptor
  (∀ (r : Fin 16384) (s : State) (p pa : Nat) (w : Work) (ro : Route), s.headOf r = some (p, w) → w.phase = .status →
      s.mayIssue p (cellOfRing r) = true →
      s.route p ((s.ring r).descPa w.pos + 96) (w.statusBlock (s.isUpdate r)).length true false = .go ro pa →
      Gives (.statusBlockWrite r) s fun t =>
        Sent t (.statusBlock r w.pos) .write pa (w.statusBlock (s.isUpdate r)).length (w.statusBlock (s.isUpdate r)) ∧
        t.work r w.pos = some { w with phase := .statusOut }) ∧
  -- OWN_CLEAR_WRITE: after its acknowledgement the OWN byte is cleared
  (∀ (r : Fin 16384) (s : State) (p pa : Nat) (w : Work) (ro : Route) (q : Req), s.headOf r = some (p, w) → w.phase = .statusOut →
      s.mayIssue p (cellOfRing r) = true → s.reqFor (.statusBlock r w.pos) = some q →
      s.route p ((s.ring r).descPa w.pos + 127) 1 true false = .go ro pa →
      Gives (.ownClearWrite r .ok) s fun t =>
        Sent t (.ownClear r w.pos) .write pa 1 [0] ∧ t.work r w.pos = some { w with phase := .ownOut }) ∧
  -- COMPLETION_ENTRY_WRITE: the entry is written and counted, or the ring waits while the queue is full
  (∀ (r : Fin 16384) (s : State) (p : Nat) (w : Work) (q : Req), s.headOf r = some (p, w) → w.phase = .ownOut → s.wantsEntry r w = true →
      s.mayIssue p (cellOfRing r) = true → s.reqFor (.ownClear r w.pos) = some q →
      Gives (.completionEntryWrite r .ok) s fun t =>
        if (s.cq (cqOf p (s.ring r))).full || !(s.cq (cqOf p (s.ring r))).waiters.isEmpty then
          t.work r w.pos = some { w with phase := .full } ∧ (t.cq (cqOf p (s.ring r))).waiters = (s.cq (cqOf p (s.ring r))).waiters ++ [r.val]
        else
          t.work r w.pos = some { w with phase := .entryOut } ∧
          (t.cq (cqOf p (s.ring r))).n = wrapAdd 32 (s.cq (cqOf p (s.ring r))).n 1) ∧
  -- COMPLETION_ENTRY_ACK: after its acknowledgement the interrupt of the queue's vector is sent when asked for
  (∀ (r : Fin 16384) (s : State) (p v : Nat) (w : Work) (q : Req), s.headOf r = some (p, w) → w.phase = .entryOut →
      s.reqFor (.completionEntry r w.pos) = some q → q.id < s.nextReq → (s.cq (cqOf p (s.ring r))).vector = some v →
      Tab.at s.px.routePcie p = false → (Tab.at s.px.hostVec (512 * p + v)).set = true →
      Gives (.completionEntryAck r .ok) s fun t => t.req q.id = none ∧
        t.outbox = if dIrq w.raw then s.outbox ++ [.cxlIoWrite s.links.ioModule (Tab.at s.px.hostVec (512 * p + v)).addr
          (leBytes 4 (Tab.at s.px.hostVec (512 * p + v)).data)] else s.outbox) ∧
  -- CONSUMER_WORD_POLL: a full queue's consumer word is read every 1024 cycles
  (∀ (k : Fin 4096) (s : State) (pa : Nat), (s.cq k).placed = true → (s.cq k).full = true → s.waitsFor (.consumerWord k) = false →
      (s.cq k).pollAt ≤ s.clk.fab → s.level (96 + k / 256) < 2 → (s.part (k / 256)).st = 2 →
      s.route (k / 256) (s.cq k).word 8 false false = .go .host pa →
      Gives (.consumerWordPoll k) s fun t => Sent t (.consumerWord k) .read pa 8 [] ∧ (t.cq k).pollAt = s.clk.fab + 1024) ∧
  -- CONSUMER_WORD_RETURN: a consumer index within the queue is kept
  (∀ (id k : Nat) (b : Bytes) (s : State) (q : Req), s.req id = some q → q.purpose = .consumerWord k →
      (fieldAt (s.unseal q.key q.pa b) 0 4 + 2 ^ 32 - (s.cq k).cached) % 2 ^ 32 ≤ ((s.cq k).n + 2 ^ 32 - (s.cq k).cached) % 2 ^ 32 →
      Gives (.consumerWordReturn id (.ok b)) s fun t => (t.cq k).cached = fieldAt (s.unseal q.key q.pa b) 0 4)

/-- The tier flushes an idle write-combining entry, answers a host snoop and gives a fill to its readers. -/
def Obligations.TierPaths : Prop :=
  -- WC_ENTRY_IDLE_FLUSH: after 256 idle cycles the entry's 64 bytes are pushed
  (∀ (k : Fin 64) (s : State), (Tab.at s.tier.wc k).valid = true → (Tab.at s.tier.wc k).last + 256 ≤ s.clk.fab →
      (Tab.at s.tier.wc k).key = none →
      Gives (.wcEntryIdleFlush k) s fun t => (Tab.at t.tier.wc k).valid = false ∧ Tab.at t.tier.pushes s.tier.next = Tab.at s.tier.wc k ∧
        Sent t (.wcPush s.tier.next) .write (Tab.at s.tier.wc k).pa 64 (Tab.at s.tier.wc k).data) ∧
  -- HOST_SNOOP: a snoop is answered, and an invalidating one leaves no copy of the line
  (∀ (m : Fin 4) (pa : BitVec 52) (inv : Bool) (s : State),
      Gives (.hostSnoop m pa inv) s fun t =>
        t.outbox = s.outbox ++ [.snoopResponse m (lineOf pa.toNat)
          (!inv && !(s.tier.lines.filter fun e => e.2.valid && e.2.pa == lineOf pa.toNat).isEmpty)] ∧
        (inv = true → ∀ k, (Tab.at t.tier.lines k).valid = true → (Tab.at t.tier.lines k).pa ≠ lineOf pa.toNat)) ∧
  -- TIER_CACHE_FILL_RETURN: the fill and its reader end
  (∀ (fill : Nat) (b : Bytes) (s : State) (f : Fill) (q r : Req) (rg pos off len : Nat), (s.tier.fills.find? fun x => x.id == fill) = some f →
      s.reqFor (.cacheFill fill) = some q → q.id < s.nextReq → (s.reqs.filter fun x => x.id != q.id && f.waiters.contains x.id) = [r] →
      r.id < s.nextReq → r.purpose = .srcRead rg pos off len → Gives (.tierCacheFillReturn fill (.ok b)) s fun t =>
        t.req q.id = none ∧ t.req r.id = none)

/-- A walk reads the page tables from the root, installs the leaf, sets A and D by an owned read, and times out. -/
def Obligations.PageWalks : Prop :=
  -- WALK_START: a walk begins at the root with the entry of the top level
  (∀ (p : Fin 16) (s : State) (m : Miss), (s.xl.misses.find? fun m : Miss => m.part == p.val && !s.xl.walks.any fun w => w.serves m) = some m →
      (s.xl.walks.filter fun w : Walk => w.part == p.val).length < 3 * popCount 16 (s.part p).groups → s.walkHit p m.asid m.va = none →
      (∀ w ∈ s.xl.walks, w.id ≠ s.xl.next) → dieOf (Tab.at s.xl.asids m.asid).root < 4 →
      Gives (.walkStart p) s fun t => Sent t (.walkRead s.xl.next) .read
        ((Tab.at s.xl.asids m.asid).root + 8 * levelIx (if (Tab.at s.xl.asids m.asid).wide then 5 else 4) m.va) 8 []) ∧
  -- WALK_READ_RETURN: a present leaf with A set ends the walk, and of its misses only those that need a dirty walk still wait
  (∀ (i : Nat) (b : Bytes) (s : State) (w : Walk) (q : Req), s.walk i = some w → s.reqFor (.walkRead i) = some q →
      pteP (fieldAt b 0 8) = true → pteU (fieldAt b 0 8) = true → pteLeaf w.level (fieldAt b 0 8) = true → pteA (fieldAt b 0 8) = true →
      w.dirty = false → (w.write = true → w.w = true ∧ pteW (fieldAt b 0 8) = true) →
      (leafOf w.asid w.va w.level (fieldAt b 0 8) true (w.w && pteW (fieldAt b 0 8)) true).judge w.part w.write ≠ .keyTag →
      Gives (.walkReadReturn i (.ok b)) s fun t => t.xl.walks = (s.xl.walks.filter fun x => x.id != w.id) ∧
        ∀ m ∈ t.xl.misses, w.serves m = true → m.dirty = true) ∧
  -- WALK_READ_TIMEOUT: a walk read at its limit latches WALK_ERROR KIND 2 and ends the walk
  (∀ (i : Nat) (s : State) (w : Walk) (q : Req), s.walk i = some w → s.readOfWalk w = some q → q.start + 2 ^ 20 ≤ s.clk.fab →
      (∀ m ∈ s.xl.misses, w.serves m = true → ∃ r off, m.who = .cellRead r off) →
      Gives (.walkReadTimeout i) s fun t => t.xl.errValid = true ∧ t.xl.errKind = 2 ∧ t.xl.errPart = w.part ∧ t.xl.errAsid = w.asid ∧
        t.xl.walks = s.xl.walks.filter fun x => x.id != w.id) ∧
  -- AD_UPDATE_OWNED_READ_RETURN: the entry with A set is written back under ownership
  (∀ (i : Nat) (b : Bytes) (s : State) (w : Walk) (q : Req) (e : Nat), s.walk i = some w → s.reqFor (.ownedRead i) = some q →
      e = fieldAt (padTo 64 b) (w.entry % 64) 8 → pteP e = true → pteU e = true → pteLeaf w.level e = true → w.setD = false →
      (w.write = true → w.w = true ∧ pteW e = true) →
      (leafOf w.asid w.va w.level e true (w.w && pteW e) true).judge w.part w.write ≠ .keyTag →
      Gives (.adUpdateOwnedReadReturn i (.ok b)) s fun t =>
        Sent t (.ownedPush i) .write q.pa 64 (overlay (padTo 64 b) (w.entry % 64) (leBytes 8 (e ||| 16))))

/-- An invalidation entry is fetched, cuts the translations it names off and is acknowledged after it drains. -/
def Obligations.Invalidations : Prop :=
  -- INVALIDATION_ENTRY_FETCH: one 32-byte entry is read
  (∀ (p : Fin 16) (s : State) (pa : Nat), (s.invq p).placed = true → (s.invq p).st = 0 → (s.invq p).c ≠ (s.invq p).p → s.xlMay p = true →
      s.route p ((s.invq p).base + 32 * ((s.invq p).c % (s.invq p).size)) 32 false false = .go .host pa →
      Gives (.invalidationEntryFetch p) s fun t => Sent t (.invFetch p (s.invq p).c) .read pa 32 [] ∧ (t.invq p).st = 1) ∧
  -- INVALIDATION_ENTRY_RETURN: an entry of this lap and a known kind is held
  (∀ (p : Fin 16) (b : Bytes) (s : State) (q : Req), s.reqFor (.invFetch p (s.invq p).c) = some q →
      fieldAt (padTo 32 b) 4 2 = (s.invq p).lap (s.invq p).c → (invKind p (padTo 32 b)).isSome = true →
      Gives (.invalidationEntryReturn p (.ok b)) s fun t => (t.invq p).st = 4 ∧ (t.invq p).entry = padTo 32 b ∧ (t.invq p).refetch = 0) ∧
  -- INVALIDATION_REFETCH_BACKOFF_EXPIRY: the entry is read again and the refetch counted
  (∀ (p : Fin 16) (s : State) (pa : Nat), (s.invq p).placed = true → (s.invq p).st = 2 → (s.invq p).backoff ≤ s.clk.fab → s.xlMay p = true →
      s.route p ((s.invq p).base + 32 * ((s.invq p).c % (s.invq p).size)) 32 false false = .go .host pa →
      Gives (.invalidationRefetchBackoffExpiry p) s fun t => Sent t (.invFetch p (s.invq p).c) .read pa 32 [] ∧
        (t.invq p).refetch = (s.invq p).refetch + 1 ∧ (t.invq p).st = 1) ∧
  -- INVALIDATION_CUT: the entry is consumed and no translation it names remains
  (∀ (p : Fin 16) (s : State) (k : InvKind), s.invPending p < 8 → (s.invq p).waiting = [] → (s.invq p).st = 4 →
      invKind p (s.invq p).entry = some k →
      Gives (.invalidationCut p) s fun t => (t.invq p).st = 0 ∧ (t.invq p).c = ((s.invq p).c + 1) % (s.invq p).m ∧
        (∃ i ∈ t.xl.invals, i.id = s.xl.next ∧ i.part = p ∧ i.cut = s.clk.fab ∧ i.queued = true) ∧
        ∀ j, ∀ l ∈ Tab.at t.xl.l1 j, k.hitsLeaf p l = false) ∧
  -- INVALIDATION_ACKNOWLEDGE: a drained invalidation ends, is counted, and its mailbox command is answered
  (∀ (id : Nat) (s : State) (i : Inval), (s.xl.invals.find? fun i => i.id == id) = some i → i.waits = [] → (i.queued = true → s.earlierQueued i = false) →
      (s.part i.part).flr = none →
      Gives (.invalidationAcknowledge id) s fun t => t.xl.invals = (s.xl.invals.filter fun x => x.id != id) ∧
        (t.invq i.part).acked = wrapAdd 16 (s.invq i.part).acked 1 ∧ ∀ m, i.mailbox = some m → Answers t m 0 0)

/-- A chord is fetched, taken, committed or failed as a whole, and reports its status. -/
def Obligations.ChordCommands : Prop :=
  -- CHORD_HEADER_FETCH: the header's 64 bytes are read
  (∀ (p : Fin 16) (s : State) (k pa : Nat), (s.chq p).placed = true → (s.chq p).stopped = false → (s.chq p).c ≠ (s.chq p).p → (s.chq p).st = 0 →
      s.chMay p = true → s.fetchingSlot p = none → ((chordSlots p).find? fun k => (s.chord k).st == 0) = some k →
      s.route p ((s.chq p).addr (s.chq p).c) 64 false false = .go .host pa →
      Gives (.chordHeaderFetch p) s fun t => Sent t (.chordHeader k) .read pa 64 [] ∧ (t.chq p).st = 1 ∧ (t.chord k).st = 1 ∧ (t.chord k).pos = (s.chq p).c) ∧
  -- CHORD_HEADER_RETURN: a good header has every further line of the chord read
  (∀ (p : Fin 16) (b : Bytes) (s : State) (k : Nat) (q : Req), s.fetchingSlot p = some k → s.reqFor (.chordHeader k) = some q → (s.chord k).st = 1 →
      fieldAt (padTo 64 b) 4 2 = (s.chq p).lap (s.chq p).c → bit (byteAt (padTo 64 b) 63) 7 = true →
      (∀ i, 1 ≤ i → i ≤ chordLines (padTo 64 b) → ∃ pa, s.route p ((s.chq p).addr (s.chq p).c + 64 * i) 64 false false = .go .host pa) →
      Gives (.chordHeaderReturn p (.ok b)) s fun t => (t.chord k).raw = padTo 64 b ∧ (t.chq p).refetch = 0 ∧
        ∀ i, 1 ≤ i → i ≤ chordLines (padTo 64 b) → ∃ pa, s.route p ((s.chq p).addr (s.chq p).c + 64 * i) 64 false false = .go .host pa ∧
          Sent t (.chordLine k i) .read pa 64 []) ∧
  -- CHORD_BACKOFF_EXPIRY: the header is read again and the refetch counted
  (∀ (p : Fin 16) (s : State) (k pa : Nat), s.fetchingSlot p = some k → (s.chq p).st = 2 → (s.chq p).backoff ≤ s.clk.fab → s.chMay p = true →
      s.route p ((s.chq p).addr (s.chq p).c) 64 false false = .go .host pa →
      Gives (.chordBackoffExpiry p) s fun t => Sent t (.chordHeader k) .read pa 64 [] ∧ (t.chq p).refetch = (s.chq p).refetch + 1 ∧ (t.chq p).st = 1) ∧
  -- CHORD_TAKE: a whole and well-formed chord is taken and C moves on
  (∀ (p : Fin 16) (lines : List RdRes) (s : State) (k : Nat) (d : Bytes), s.fetchingSlot p = some k → (s.chord k).raw ≠ [] →
      s.waitsFor (.chordHeader k) = false → (s.linesOf k).length = lines.length → readAll lines = some d →
      chordBad p ((s.chord k).raw ++ d) = none → s.chordForeign p ((s.chord k).raw ++ d) = none →
      Gives (.chordTake p lines) s fun t => t.chord k = { s.chord k with st := 2, raw := (s.chord k).raw ++ d, take := s.clk.fab } ∧
        (t.chq p).c = ((s.chq p).c + 1) % (s.chq p).m) ∧
  -- CHORD_COMMIT: a one-action doorbell chord moves its ring's producer and completes
  (∀ (p : Fin 16) (s : State) (k r x : Nat) (a : Action), s.chordTurn = some p.val → s.ch.evalAt ≠ some s.clk.fab → s.headChord p = some k →
      chordActions (s.chord k).raw = [a] → a.type = .doorbell → s.globalRing p a.target = some r → (s.ring r).ordinary = none →
      (s.ring r).st ≠ 0 → (s.ring r).st ≠ 6 → (s.ring r).tc ≠ 2 → fieldAt a.raw 8 2 < (s.ring r).size →
      x = (fieldAt a.raw 10 2 * (s.ring r).size + fieldAt a.raw 8 2) % (s.ring r).m → (s.ring r).dist x ≤ (s.ring r).size →
      Gives (.chordCommit p) s fun t => (t.ring r).p = (if (s.ring r).moves x then x else (s.ring r).p) ∧ (t.chord k).status = 0 ∧ (t.chord k).cycle = s.clk.fab ∧
        (t.chq p).committed = satAdd 16 (s.chq p).committed 1 ∧ t.ch.last = some (s.clk.fab, p.val)) ∧
  -- CHORD_TIMEOUT: a chord not committed after 2^24 cycles fails with status 5
  (∀ (k : Fin 64) (s : State), (s.chord k).st = 2 → (s.chord k).take + 2 ^ 24 ≤ s.clk.fab →
      Gives (.chordTimeout k) s fun t => (t.chord k).st = 4 ∧ (t.chord k).status = 5 ∧ (t.chord k).failed = 0xFF ∧ (t.chord k).cycle = s.clk.fab ∧
        (t.chq (k / 4)).others = satAdd 16 (s.chq (k / 4)).others 1) ∧
  -- CHORD_STATUS_WRITE: the status block is written
  (∀ (k : Fin 64) (s : State) (pa : Nat) (ro : Route), (s.chord k).st = 4 → (s.chord k).step = 0 → s.chordFirst k = true → s.chMay (k / 4) = true →
      dieOf ((s.chq (k / 4)).addr (s.chord k).pos + 48) < 4 →
      s.route (k / 4) ((s.chq (k / 4)).addr (s.chord k).pos + 48) (s.chord k).statusBytes.length true false = .go ro pa →
      Gives (.chordStatusWrite k) s fun t => Sent t (.chordStatus k) .write pa (s.chord k).statusBytes.length (s.chord k).statusBytes ∧
        (t.chord k).step = 1) ∧
  -- CHORD_OWN_CLEAR: then the OWN byte is cleared
  (∀ (k : Fin 64) (s : State) (q : Req) (pa : Nat) (ro : Route), (s.chord k).st = 4 → (s.chord k).step = 1 → s.chMay (k / 4) = true →
      s.reqFor (.chordStatus k) = some q → dieOf ((s.chq (k / 4)).addr (s.chord k).pos + 63) < 4 →
      s.route (k / 4) ((s.chq (k / 4)).addr (s.chord k).pos + 63) 1 true false = .go ro pa →
      Gives (.chordOwnClear k .ok) s fun t => Sent t (.chordOwn k) .write pa 1 [0] ∧ (t.chord k).step = 2) ∧
  -- CHORD_NOTE_WRITE: then the note is written when enabled and the slot is freed
  (∀ (k : Fin 64) (s : State) (q : Req) (pa : Nat) (ro : Route), (s.chord k).st = 4 → (s.chord k).step = 2 → s.chMay (k / 4) = true →
      s.reqFor (.chordOwn k) = some q → dieOf (noteAddr (s.chord k).raw) < 4 →
      s.route (k / 4) (noteAddr (s.chord k).raw) ((s.chord k).noteBytes ((s.chord k).pos % (s.chq (k / 4)).size)).length true false = .go ro pa →
      Gives (.chordNoteWrite k .ok) s fun t => t.chord k = {} ∧ (noteEn (s.chord k).raw = true →
        Sent t (.chordNote (k / 4)) .write pa ((s.chord k).noteBytes ((s.chord k).pos % (s.chq (k / 4)).size)).length
          ((s.chord k).noteBytes ((s.chord k).pos % (s.chq (k / 4)).size))))

/-- An update descriptor becomes a job, which waits for its norm, starts, and works tile by tile. -/
def Obligations.JobStages : Prop :=
  -- UPDATE_DESCRIPTOR_PASS: a ring of traffic class 2 hands a valid update descriptor to a free entry
  (∀ (r : Fin 16384) (s : State) (p e i k : Nat) (b : Bytes), s.ringOwner r = some p → ((s.ring r).fetched.find? fun x => x.1 == (s.ring r).c) = some (i, k, b) →
      (s.ring r).tc = 2 → (s.ring r).c ≠ (s.ring r).p → (s.ring r).valid (s.ring r).c b = true → (s.ring r).st = 2 →
      (s.ring r).fetchErr ≠ some (s.ring r).c → s.mayStart p (cellOfRing r) = true → (s.ring r).entryWaits = false →
      dTc b = 2 → updateOk (s.ring r).phys b = true → s.freeEntry p = some e →
      Gives (.updateDescriptorPass r) s fun t => (t.job e).live = true ∧ (t.job e).phase = .waiting ∧ (t.job e).raw = b ∧ (t.job e).ring = r ∧
        (t.job e).pos = (s.ring r).c ∧ (t.job e).pass = (passesOf b).headD 4 ∧ t.rk.next = s.rk.next + 1) ∧
  -- NORM_TABLE_READ: the norm table is read once for all members
  (∀ (e : Fin 64) (s : State) (ch pa : Nat), (s.job e).live = true → (s.job e).phase = .waiting → (s.job e).repair = none →
      isOptimizer (dOpcode (s.job e).raw) = true → uClip (s.job e).raw = 2 → (s.job e).normDone = false → (s.job e).normAt = none →
      s.turnOf e = true → s.rkMayIssue (partOfJob e) = true → s.waitsFor (.normTable e) = false →
      s.missing (.jobRead e 7 0 (8 * uMembers (s.job e).raw)) = false → (s.job e).phys = true →
      dieOf ((s.job e).addr 7 0 % 2 ^ 52) = s.dieId →
      s.route (partOfJob e) ((s.job e).addr 7 0 % 2 ^ 52) (8 * uMembers (s.job e).raw) false (s.peerUp (partOfJob e)) = .go (.fabric ch) pa →
      s.lineHeld 64 pa = false → s.tokensOk (partOfJob e) 3 (8 * uMembers (s.job e).raw) = true →
      Gives (.normTableRead e) s fun t => Sent t (.normTable e) .read pa (8 * uMembers (s.job e).raw) [] ∧ (t.job e).normAt = some s.clk.fab ∧
        (t.job e).normFrom = some ((s.job e).normFrom.getD s.clk.fab)) ∧
  -- NORM_TABLE_RETURN: the norms of this step are summed in member order
  (∀ (id : Nat) (b : Bytes) (s : State) (q : Req) (e : Nat), s.req id = some q → q.purpose = .normTable e → q.kind = .read → q.key = none →
      q.hit = false → q.onPeer = false → q.onFill = false → (s.job e).live = true → (s.job e).phase = .waiting →
      (∀ k < uMembers (s.job e).raw, fieldAt (padTo q.len b) (8 * k + 4) 4 = uStep (s.job e).raw) →
      Gives (.normTableReturn id (.ok b)) s fun t => (t.job e).normDone = true ∧
        (t.job e).sc.norm = (List.range (uMembers (s.job e).raw - 1)).foldl (fun a k => fadd a (fieldAt (padTo q.len b) (8 * (k + 1)) 4))
          (fieldAt (padTo q.len b) 0 4)) ∧
  -- NORM_WAIT_LIMIT_EXPIRY: at 2^26 cycles the limit is marked, an error raised, and the job keeps waiting
  (∀ (e : Fin 64) (s : State) (c : Nat), (s.job e).normFrom = some c → (s.job e).live = true → (s.job e).phase = .waiting → (s.job e).normDone = false →
      (s.job e).normLimit = false → c + 2 ^ 26 ≤ s.clk.fab →
      Gives (.normWaitLimitExpiry e) s fun t => Tab.at t.rk.limitHit (partOfJob e) = true ∧ (t.job e).normLimit = true ∧ (t.job e).live = true ∧
        t.ec.lines = s.ec.lines ++ [{ source := 4, cls := 1, unit := some 88, part := some (partOfJob e), detail := 1 }]) ∧
  -- JOB_START: the job in turn runs, with its reserve and its fence
  (∀ (e : Fin 64) (s : State), (s.job e).live = true → (s.job e).phase = .waiting → (s.job e).repair = none → s.turnOf e = true →
      s.rkMayStart (partOfJob e) = true → (isOptimizer (dOpcode (s.job e).raw) = true → uClip (s.job e).raw ≠ 2 ∧
        Tab.at s.rk.scheds (4 * partOfJob e + uSched (s.job e).raw) ≠ []) →
      s.reserved + (if dOpcode (s.job e).raw = 0x23 then 4 * (uRows (s.job e).raw + uCols (s.job e).raw) else 0) ≤ 18 * 2 ^ 20 →
      Gives (.jobStart e) s fun t => (t.job e).phase = .running ∧ (t.job e).start = s.clk.fab ∧
        (t.job e).reserve = (if dOpcode (s.job e).raw = 0x23 then 4 * (uRows (s.job e).raw + uCols (s.job e).raw) else 0) ∧
        (t.job e).fence = if dFence (s.job e).raw = 2 then s.globalFence (partOfJob e) else []) ∧
  -- TILE_READS_COMPLETE: a tile whose reads are back moves the job on
  (∀ (e : Fin 64) (s : State), s.jobMayIssue e = true → (s.job e).repair = none → (s.job e).pass ≠ 3 → (s.job e).tile + 1 < (s.job e).tileCount →
      (s.job e).tileRead ((s.job e).reads (s.job e).tile) = true → (s.job e).mayCompute = true → (s.job e).sc.skipped = false →
      Gives (.tileReadsComplete e) s fun t => (t.job e).live = true ∧ (t.job e).tile = (s.job e).tile + 1) ∧
  -- TILE_WRITES_ACKED: a tile whose writes are acknowledged counts its elements
  (∀ (e : Fin 64) (s : State) (x : JobTile) (rest : List JobTile), (s.job e).tiles = x :: rest → (s.job e).live = true → (s.job e).phase = .running →
      x.todo = [] → x.out = [] → (s.job e).repair = none → (s.job e).pass = 4 ∨ (s.job e).pass = 5 →
      Gives (.tileWritesAcked e) s fun t => (t.job e).tiles = rest ∧
        t.rk.elements = wrapAdd 64 s.rk.elements (((s.job e).elems x.k).2 - ((s.job e).elems x.k).1))

/-- A job writes its fingerprints, parks on a fault, and returns when all it issued is done. -/
def Obligations.JobOutcomes : Prop :=
  -- FINGERPRINT_WRITE: a region's fingerprint of 8 bytes is written after its writes
  (∀ (e : Fin 64) (k crc : Nat) (s : State) (ch pa : Nat), ((s.job e).fps.find? fun x => x.1 == k) = some (k, crc) → s.jobMayIssue e = true →
      (s.job e).repair = none → (s.job e).regionAcked k = true → s.missing (.jobWrite e) = false → (s.job e).phys = true →
      dieOf ((s.job e).addr 5 (8 * k) % 2 ^ 52) = s.dieId →
      s.route (partOfJob e) ((s.job e).addr 5 (8 * k) % 2 ^ 52) 8 true (s.peerUp (partOfJob e)) = .go (.fabric ch) pa →
      maskRange ((s.job e).addr 5 (8 * k) % 64) 8 ≠ 0 →
      s.tokensOk (partOfJob e) 4 (popCount 64 (maskRange ((s.job e).addr 5 (8 * k) % 64) 8)) = true →
      Gives (.fingerprintWrite e k) s fun t => Sent t (.fingerprint e k) .write pa 8 (leBytes 8 crc) ∧
        (t.job e).fps = (s.job e).fps.filter fun x => x.1 != k) ∧
  -- JOB_PARK: while the fault queue is full a drained, faulted job takes its partition's slot with a new generation
  (∀ (e : Fin 64) (s : State) (f : FaultEv), (s.job e).fault = some f → (s.job e).live = true → (s.job e).phase = .draining → (s.job e).bad = none →
      s.jobOut e = false → (s.fq (partOfJob e)).full = true →
      Gives (.jobPark e) s fun t => (t.job e).phase = .parked ∧ (t.job e).fault = none ∧ (t.slot (16384 + partOfJob e)).valid = true ∧
        (t.slot (16384 + partOfJob e)).gen = ((s.slot (16384 + partOfJob e)).gen + 1) % 256 ∧ (t.slot (16384 + partOfJob e)).fault = f ∧
        (t.slot (16384 + partOfJob e)).held = true) ∧
  -- JOB_RETURN: a complete job leaves its entry and is counted
  (∀ (e : Fin 64) (s : State), (s.job e).live = true → (s.job e).repair = none → (s.job e).phase = .running → (s.job e).complete = true →
      s.jobOut e = false → (∀ id ∈ (s.job e).fence, s.isOut id = false) → (s.job e).bad = none →
      Gives (.jobReturn e) s fun t => (t.job e).live = false ∧ Tab.at t.rk.finished (partOfJob e) = satAdd 16 (Tab.at s.rk.finished (partOfJob e)) 1)

/-- The array starts chunks, ends tiles, the output path drains them, and replica reports are sent. -/
def Obligations.ArraySteps : Prop :=
  -- ARRAY_CHUNK_START: the array takes a chunk for 2048 cycles and counts its products
  (∀ (e : Fin 64) (q : Nat) (s : State), s.rk.array = none → s.arrayReady e = true → s.arrayTurn e = true → q < (s.job e).chunkCount →
      (s.job e).tileRead ((s.job e).chunkNeeds s.rk.halfArray (s.job e).tile q) = true →
      Gives (.arrayChunkStart e q) s fun t => t.rk.arrMacs = wrapAdd 64 s.rk.arrMacs (if s.rk.halfArray then 64 else 128) ∧
        ∃ x, t.rk.array = some x ∧ x.job = e ∧ x.tile = (s.job e).tile ∧ x.chunks = [q] ∧ x.until_ = s.clk.arr + 2048) ∧
  -- ARRAY_TILE_FINISH: a finished tile goes to the output buffers
  (∀ (s : State) (x : ArrayTile), s.rk.array = some x → x.chunks.length = (s.job x.job).chunkCount → x.until_ ≤ s.clk.arr → s.rk.bufs.length < 16 →
      Gives .arrayTileFinish s fun t => t.rk.array = none ∧ (t.job x.job).tile = x.tile + 1 ∧ t.rk.lastJob = x.job ∧
        ∃ y, t.rk.bufs = s.rk.bufs ++ [y] ∧ y.job = x.job ∧ y.tile = x.tile ∧ y.acc = x.acc) ∧
  -- OUTPUT_PATH_TILE: the oldest buffer is drained
  (∀ (s : State) (x : ArrayTile) (rest : List ArrayTile), s.rk.bufs = x :: rest →
      Gives .outputPathTile s fun t => (t.job x.job).sub = x.tile + 1 ∧ ∀ b ∈ t.rk.bufs, b ∈ rest) ∧
  -- REPLICA_REPORT_SEND: the oldest report is sent to its owner
  (∀ (p : Fin 16) (s u : State) (x : Report), (s.rk.reports.find? fun r => r.part == p.val) = some x → s.work x.ring x.pos = none → s.rkMayIssue p = true →
      ({ s with rk := { s.rk with reports := s.rk.reports.erase x, sent := Tab.upd s.rk.sent p fun n => satAdd 16 n 1 } } : State).sendMessage p x.die (s.reportBytes x) = some u →
      Gives (.replicaReportSend p) s fun t => t = u ∧ t.rk.reports = s.rk.reports.erase x ∧ Tab.at t.rk.sent p = satAdd 16 (Tab.at s.rk.sent p) 1)

/-- A repair job regenerates, compares fingerprints, writes to members, and writes its note. -/
def Obligations.RepairJobs : Prop :=
  -- REPAIR_JOB_START: the oldest repair of the queue becomes a job
  (∀ (p : Fin 16) (s : State) (e k : Nat), s.rkMayStart p = true →
      ((s.jobsOf p).find? fun e => (s.job e).repair.isSome && (s.job e).phase == .waiting) = none → s.oldestRepair p = some k → s.freeEntry p = some e →
      Gives (.repairJobStart p) s fun t => (t.job e).live = true ∧ (t.job e).repair = (s.repairJob k).repair ∧ (t.job e).raw = (s.repairJob k).raw ∧
        (Tab.at t.rk.queue k).running = true) ∧
  -- REPAIR_FINGERPRINT_CHECK: a matching fingerprint goes on to step 2, another one to step 5
  (∀ (e : Fin 64) (s : State) (r : RepairJob), (s.job e).repair = some r → r.step = 1 → (s.job e).phase = .running →
      ivCovers (Tab.at (s.job e).got 5) 0 8 = true →
      Gives (.repairFingerprintCheck e) s fun t => (t.job e).repair =
        some { r with step := if leNat (runBytes (s.job e).buf 5 0 8) = r.expected then 2 else 5 }) ∧
  -- REPAIR_MEMBER_WRITE: the regenerated elements go to every member of the mask
  (∀ (e : Fin 64) (s : State) (r : RepairJob) (mask : Nat), (s.job e).repair = some r → r.step = 2 → (s.job e).settled = true → (s.job e).tile = (s.job e).tileCount →
      ivCovers (Tab.at (s.job e).got 7) 0 256 = true →
      mask = (if (Tab.at s.rk.sets (8 * partOfJob e + r.set)).sr then (Tab.at s.rk.sets (8 * partOfJob e + r.set)).mask
        else (Tab.at s.rk.queue (64 * partOfJob e + r.entry)).mask) →
      Gives (.repairMemberWrite e) s fun t => ∃ x, (t.job e).repair = some x ∧ x.step = 3 ∧ x.written = mask ∧
        x.newFp = crc64 0 (slice r.elements (r.start - r.lo) r.len) ∧ x.addrs.map Prod.fst = maskBits 16 mask) ∧
  -- REPAIR_FINGERPRINT_WRITE: the fingerprint's step is done
  (∀ (e : Fin 64) (s : State) (r : RepairJob), (s.job e).repair = some r → r.step = 3 → (s.job e).settled = true →
      Gives (.repairFingerprintWrite e) s fun t => (t.job e).repair = some { r with step := 4 }) ∧
  -- REPAIR_NOTE_WRITE: the note is written, the queue entry freed and the repair counted
  (∀ (e : Fin 64) (s : State) (r : RepairJob) (pa : Nat) (ro : Route), (s.job e).repair = some r → r.step = 4 → (s.job e).settled = true →
      s.jobOut e = false → (s.job e).mute = false →
      s.route (partOfJob e) (Tab.at s.rk.sets (8 * partOfJob e + r.set)).note (repairNote r 0 0 s.clk.fab).length true false = .go ro pa →
      Gives (.repairNoteWrite e) s fun t => (t.job e).live = false ∧ (Tab.at t.rk.queue (64 * partOfJob e + r.entry)).valid = false ∧
        Tab.at t.rk.repaired (partOfJob e) = satAdd 16 (Tab.at s.rk.repaired (partOfJob e)) 1 ∧
        Sent t (.repairNote (partOfJob e)) .write pa (repairNote r 0 0 s.clk.fab).length (repairNote r 0 0 s.clk.fab))

/-- A repair of a shared weight chunk opens, rewrites the chunk from its origin, closes, and times out. -/
def Obligations.SharedRepairs : Prop :=
  -- SHARED_REPAIR_OPEN: the oldest queued repair opens over its chunk when fewer than four are open
  (∀ (s : State) (e c : Nat) (rest : List (Nat × Nat)), s.pt.repairQueue = (e, c) :: rest → s.pt.repairs.length < 4 →
      Gives .sharedRepairOpen s fun t => t.pt.repairQueue = rest ∧ t.pt.nextRepair = s.pt.nextRepair + 1 ∧
        (∃ r, t.pt.repairs = s.pt.repairs ++ [r] ∧ r.id = s.pt.nextRepair ∧ r.entry = e ∧ r.chunk = c ∧ r.start = s.clk.fab) ∧
        ∀ pa, (Tab.at s.pt.shared e).base + c * 2 ^ 21 ≤ pa → pa < (Tab.at s.pt.shared e).base + (c + 1) * 2 ^ 21 → t.chunkOpen pa = true) ∧
  -- SHARED_REPAIR_ORIGIN_DONE: a chunk whose digest matches is re-encrypted and pushed, and no line of it stays cached
  (∀ (i : Nat) (data digest plain : Bytes) (s : State) (r : SharedRepair), s.repairOf i = some r → r.step = 0 → s.keysHeld r = true →
      plain = xtsRun Config.xtsDec r.originKey 131072 (((Tab.at s.pt.shared r.entry).origin + r.chunk * 2 ^ 21) / 16) (padTo (2 ^ 21) data) →
      Config.sha384 plain = digest →
      Gives (.sharedRepairOriginDone i (some (data, digest))) s fun t =>
        t.outbox = s.outbox ++ [.pushes ((Tab.at s.pt.shared r.entry).base + r.chunk * 2 ^ 21)
          (xtsRun Config.xtsEnc r.rangeKey 131072 (((Tab.at s.pt.shared r.entry).base + r.chunk * 2 ^ 21) / 16) plain)] ∧
        (∀ x ∈ t.pt.repairs, x.id = i → x.step = 1) ∧
        ∀ x ∈ t.tier.lines, ¬((Tab.at s.pt.shared r.entry).base + r.chunk * 2 ^ 21 ≤ x.2.pa ∧ x.2.pa < (Tab.at s.pt.shared r.entry).base + r.chunk * 2 ^ 21 + 2 ^ 21)) ∧
  -- SHARED_REPAIR_CLOSE: the repair ends and is counted
  (∀ (i : Nat) (s : State) (r : SharedRepair), s.repairOf i = some r → r.step = 1 → s.keysHeld r = true →
      Gives (.sharedRepairClose i) s fun t => t.pt.sharedDone = satAdd 16 s.pt.sharedDone 1 ∧ t.repairOf i = none) ∧
  -- SHARED_REPAIR_TIMEOUT: a repair at 2^26 cycles fails its chunk, is counted and raises an error
  (∀ (i : Nat) (s : State) (r : SharedRepair), s.repairOf i = some r → r.id = i → r.start + 2 ^ 26 ≤ s.clk.fab →
      Gives (.sharedRepairTimeout i) s fun t => t.repairOf i = none ∧ r.chunk ∈ (Tab.at t.pt.shared r.entry).failed ∧
        t.pt.sharedFailed = satAdd 16 s.pt.sharedFailed 1 ∧ t.ec.lines = s.ec.lines ++ [{ source := 6, cls := 1 }])

/-- A module trains through its states with its widths and spare lanes, and retries at its limit. -/
def Obligations.LinkTraining : Prop :=
  -- SIDEBAND_UP: SB_INIT goes to MB_TRAIN
  (∀ (k : Fin 24) (s : State), (s.mod k).st = 2 →
      Gives (.sidebandUp k) s fun t => (t.mod k).st = 3 ∧ (t.mod k).limitFrom = s.clk.mgt ∧ (t.mod k).attempts = (s.mod k).attempts) ∧
  -- MAINBAND_TRAINED: MB_TRAIN goes to PARAM with width and spare lanes
  (∀ (k : Fin 24) (lo hi : Fin 33) (s : State) (w n : Nat), (s.mod k).st = 3 → trainWidth lo hi = some (w, n) →
      Gives (.mainbandTrained k lo hi) s fun t => (t.mod k).st = 4 ∧ (t.mod k).width = w ∧ (t.mod k).spares = n ∧ (t.mod k).rxNext = 0) ∧
  -- PARAM_FLIT_RECEIVE: a good PARAM flit brings the link up and names the partner
  (∀ (k : Fin 24) (b : Bytes) (s : State), (Instr.paramFlitReceive k b).wf = true → (s.mod k).st = 4 →
      (4 ≤ k.val → flitGood b = true ∧ ctlType b = 2 ∧ byteAt (slotOf b 0) 1 = 1 ∧ byteAt (slotOf b 0) 3 = facing (k - 4)) →
      Gives (.paramFlitReceive k b) s fun t => (t.mod k).st = 5 ∧ (t.mod k).attempts = 0 ∧
        (4 ≤ k.val → (t.mod k).partnerDie = byteAt (slotOf b 0) 2 % 32 ∧ (t.mod k).partnerMod = byteAt (slotOf b 0) 3)) ∧
  -- TRAINING_LIMIT_EXPIRY: a training at its limit is tried again
  (∀ (k : Fin 24) (s : State), (s.mod k).st = 3 ∨ (s.mod k).st = 4 → (s.mod k).attempts < 2 → (s.mod k).limitFrom + 2 ^ 22 ≤ s.clk.mgt →
      Gives (.trainingLimitExpiry k) s fun t => (t.mod k).st = 3 ∧ (t.mod k).attempts = (s.mod k).attempts + 1 ∧ (t.mod k).limitFrom = s.clk.mgt) ∧
  -- RETRAIN_COMPLETE: a retrain returns to LINK_UP with its new width
  (∀ (k : Fin 24) (lo hi : Fin 33) (b : Bytes) (s : State) (w n : Nat), (Instr.retrainComplete k lo hi b).wf = true → (s.mod k).st = 6 →
      trainWidth lo hi = some (w, n) → (4 ≤ k.val → flitGood b = true ∧ ctlType b = 2) →
      Gives (.retrainComplete k lo hi b) s fun t => (t.mod k).st = 5 ∧ (t.mod k).width = w ∧ (t.mod k).spares = n ∧ (t.mod k).attempts = 0)

/-- A flit in order is taken once, a flit in error is counted and asked for again, credits and tests are counted. -/
def Obligations.LinkReception : Prop :=
  -- PAYLOAD_FLIT_RECEIVE: the expected sequence number, the counts and the receive IV move on
  (∀ (m : Fin 20) (b : Bytes) (s : State), (Instr.payloadFlitReceive m b).wf = true → s.inOrder m b = true → fType b = 1 →
      Gives (.payloadFlitReceive m b) s fun t => (t.mod (4 + m)).rxNext = ((s.mod (4 + m)).rxNext + 1) % 1024 ∧
        (t.mod (4 + m)).flitsRx = wrapAdd 64 (s.mod (4 + m)).flitsRx 1 ∧
        Tab.at (t.mod (4 + m)).ivRx (2 * fPart b + fKgen b) = wrapAdd 80 (Tab.at (s.mod (4 + m)).ivRx (2 * fPart b + fKgen b)) 1 ∧
        (t.mod (4 + m)).nakFor = none) ∧
  -- RESP_FLIT_RECEIVE: the expected sequence number moves on
  (∀ (m : Fin 20) (b : Bytes) (s : State), (Instr.respFlitReceive m b).wf = true → s.inOrder m b = true → ctlType b = 3 →
      Gives (.respFlitReceive m b) s fun t => (t.mod (4 + m)).rxNext = ((s.mod (4 + m)).rxNext + 1) % 1024 ∧ (t.mod (4 + m)).nakFor = none ∧
        (t.mod (4 + m)).rxAny = true) ∧
  -- FLIT_CRC_ERROR: the error is counted, the sequence number stays and a NAK is owed
  (∀ (k : Fin 24) (b : Bytes) (s : State), (Instr.flitCrcError k b).wf = true → (s.mod k).st = 5 → (4 ≤ k.val → flitGood b = false) →
      Gives (.flitCrcError k b) s fun t => (t.mod k).crcErrors = satAdd 16 (s.mod k).crcErrors 1 ∧ (t.mod k).rxNext = (s.mod k).rxNext ∧
        (4 ≤ k.val → sequenced b = true → (t.mod k).nakFor = some (s.mod k).rxNext)) ∧
  -- TEST_FLIT_RECEIVE: a locked checker counts the flit and its bit errors
  (∀ (k : Fin 24) (b : Bytes) (s : State), (Instr.testFlitReceive k b).wf = true → (s.mod k).st = 5 → flitGood b = true → ctlType b = 4 →
      (s.mod k).tgCheck = true → s.tgMay k = true → (s.mod k).tgLocked = true →
      Gives (.testFlitReceive k b) s fun t => (t.mod k).tgChecked = satAdd 32 (s.mod k).tgChecked 1 ∧ (t.mod k).tgRx = (patternBytes (s.mod k).tgPattern 224 (s.mod k).tgRx).1 ∧
        (t.mod k).tgErrors = satAdd 31 (s.mod k).tgErrors (bitDiffs (slice b 24 224) (patternBytes (s.mod k).tgPattern 224 (s.mod k).tgRx).2)) ∧
  -- IDLE_FLIT_RECEIVE: credits are returned and the sequence number stays
  (∀ (k : Fin 24) (b : Bytes) (s : State), (Instr.idleFlitReceive k b).wf = true → (s.mod k).st = 5 → (4 ≤ k.val → flitGood b = true ∧ fType b = 0) →
      (s.mod k).q0 = [] → (s.mod k).q1 = [] → (s.mod k).q2 = [] → (s.mod k).q3 = [] →
      Gives (.idleFlitReceive k b) s fun t => (k.val < 4 → (t.mod k).replaysHere = 0) ∧
        (4 ≤ k.val → (t.mod k).credit (bits (hdr b) 33 2) = (s.mod k).credit (bits (hdr b) 33 2) + bits (hdr b) 20 13 ∧ (t.mod k).rxNext = (s.mod k).rxNext))

/-- NAKs are repeated and obeyed, a silent partner causes a replay, an out-of-order flit causes a NAK. -/
def Obligations.LinkReplays : Prop :=
  -- NAK_REPEAT_EXPIRY: the NAK is sent again
  (∀ (m : Fin 20) (s : State), (s.mod (4 + m)).st = 5 → (s.mod (4 + m)).nakFor.isSome = true →
      (s.mod (4 + m)).nakAt + 256 * (s.mod (4 + m)).flitTime ≤ Tab.at s.clk.pl m →
      Gives (.nakRepeatExpiry m) s fun t => (t.mod (4 + m)).nakFor = some (s.mod (4 + m)).rxNext ∧ (t.mod (4 + m)).nakAt = Tab.at s.clk.pl m ∧
        ∃ h, t.outbox = s.outbox ++ [.flit m (flitBytes h (leBytes 1 1 ++ zeros 1 ++ leBytes 2 (s.mod (4 + m)).rxNext))]) ∧
  -- NAK_RECEIVE: the flits are sent again and the replay counted
  (∀ (k : Fin 24) (b : Bytes) (s : State), (Instr.nakReceive k b).wf = true → (s.mod k).st = 5 → (4 ≤ k.val → flitGood b = true ∧ ctlType b = 1) →
      (s.mod k).replaysHere < 4 →
      Gives (.nakReceive k b) s fun t => (t.mod k).replays = satAdd 16 (s.mod k).replays 1 ∧ (t.mod k).st = 5 ∧ 0 < (t.mod k).replaysHere) ∧
  -- REPLAY_TIMEOUT: without an acknowledgement for 4096 cycles the flits are sent again
  (∀ (m : Fin 20) (s : State), (s.mod (4 + m)).st = 5 → (s.mod (4 + m)).retry ≠ [] → (s.mod (4 + m)).ackAt + 4096 ≤ Tab.at s.clk.pl m →
      (s.mod (4 + m)).replaysHere < 4 →
      Gives (.replayTimeout m) s fun t => (t.mod (4 + m)).replays = satAdd 16 (s.mod (4 + m)).replays 1 ∧
        (t.mod (4 + m)).replaysHere = (s.mod (4 + m)).replaysHere + 1 ∧ (t.mod (4 + m)).st = 5) ∧
  -- OUT_OF_ORDER_FLIT: the flit is not taken and a NAK is owed
  (∀ (m : Fin 20) (b : Bytes) (s : State), (Instr.outOfOrderFlit m b).wf = true → (s.mod (4 + m)).st = 5 → flitGood b = true → sequenced b = true →
      fSeq b ≠ (s.mod (4 + m)).rxNext → (s.mod (4 + m)).nakFor = none →
      Gives (.outOfOrderFlit m b) s fun t => (t.mod (4 + m)).nakFor = some (s.mod (4 + m)).rxNext ∧ (t.mod (4 + m)).rxNext = (s.mod (4 + m)).rxNext ∧
        (t.mod (4 + m)).nakAt = Tab.at (s.takeAck m b).clk.pl m)

/-- Inbound writes end, messages time out, modules enter and leave low power, and the test generator runs. -/
def Obligations.LinkServices : Prop :=
  -- INBOUND_WRITE_ACK: the served write ends
  (∀ (id i : Nat) (s : State) (q : Req), s.req id = some q → q.purpose = .kppServe i → q.kind = .write →
      (s.links.kpp.find? fun x => x.id == i).isSome = true →
      Gives (.inboundWriteAck id .ok) s fun t => (∀ x ∈ t.links.kpp, x.id ≠ i) ∧ ∀ x ∈ t.reqs, x.id ≠ id) ∧
  -- MESSAGE_TIMEOUT: a message without its answer for 2^24 cycles ends
  (∀ (x : Fin 65536) (s : State), (s.tag x).live = true → (s.tag x).req = none → (s.tag x).start + 2 ^ 24 ≤ s.clk.fab →
      Gives (.messageTimeout x) s fun t => (t.tag x).live = false) ∧
  -- LINK_LOW_POWER_ENTRY: an idle module enters low power at its width
  (∀ (k : Fin 24) (s : State), (s.mod k).st = 5 → s.mc.pwr.lpEn = true → (s.mod k).retry = [] → (s.mod k).q0 = [] → (s.mod k).q1 = [] → (s.mod k).q2 = [] →
      (s.mod k).q3 = [] → (s.mod k).idleFrom + 2 ^ 14 ≤ s.clk.mgt → (4 ≤ k.val → s.ownerIdle (k - 4) = false) →
      Gives (.linkLowPowerEntry k) s fun t => (t.mod k).st = 7 ∧ (t.mod k).width = (s.mod k).width) ∧
  -- LINK_LOW_POWER_EXIT: and leaves it at the same width
  (∀ (k : Fin 24) (s : State), (s.mod k).st = 7 → Gives (.linkLowPowerExit k) s fun t => (t.mod k).st = 5 ∧ (t.mod k).width = (s.mod k).width) ∧
  -- TG_CTRL_WRITE: TG_CTRL's fields are taken
  (∀ (k : Fin 24) (w : Word) (s : State), s.tgMay k = true → Gives (.tgCtrlWrite k w) s fun t => (t.mod k).tgGen = bit w.toNat 0 ∧
        (t.mod k).tgPattern = bits w.toNat 1 2 ∧ (t.mod k).tgCheck = bit w.toNat 3 ∧ (t.mod k).tgCount = bits w.toNat 32 32 ∧
        (bit w.toNat 0 = true → (s.mod k).tgGen = false → (t.mod k).tgSent = 0)) ∧
  -- TEST_FLIT_GENERATE: one test flit with the next pattern bytes
  (∀ (k : Fin 24) (s : State), (s.mod k).st = 5 → (s.mod k).tgGen = true → s.tgMay k = true → ((s.mod k).tgCount = 0 ∨ (s.mod k).tgSent < (s.mod k).tgCount) →
      (s.mod k).q0 = [] → (s.mod k).q1 = [] → (s.mod k).q2 = [] → (s.mod k).q3 = [] → (4 ≤ k.val → s.idleOnly (k - 4) = false) →
      Gives (.testFlitGenerate k) s fun t => (t.mod k).tgSent = (s.mod k).tgSent + 1 ∧ (t.mod k).tgTx = (patternBytes (s.mod k).tgPattern 224 (s.mod k).tgTx).1 ∧
        (4 ≤ k.val → ∃ h, t.outbox = s.outbox ++ [.flit (k - 4) (flitBytes h (leBytes 1 4 ++ zeros 15 ++ (patternBytes (s.mod k).tgPattern 224 (s.mod k).tgTx).2))]))

/-- Requests from the CXL.io and PCIe ports that pass their checks become accesses, completions or interrupts. -/
def Obligations.PortRequests : Prop :=
  -- CXL_IO_POSTED_WRITE: a posted write that maps to memory becomes one write
  (∀ (pasid : Option (BitVec 20)) (off : BitVec 47) (data : Bytes) (s : State) (part : Option Nat) (pa : Nat),
      (Instr.cxlIoPostedWrite pasid off data).wf = true → s.ioUp = true →
      s.cxlDest (pasid.map fun (x : BitVec 20) => x.toNat) off.toNat data.length true = .memory part pa →
      Gives (.cxlIoPostedWrite pasid off data) s fun t => Sent t (.inboundWrite 0 s.nextReq) .write pa data.length data ∧
        t.links.io = s.links.io ++ [.posted s.nextReq]) ∧
  -- CXL_IO_READ: a read that maps to memory becomes one read
  (∀ (pasid : Option (BitVec 20)) (txn : Nat) (off : BitVec 47) (len : Nat) (s : State) (part : Option Nat) (pa : Nat),
      (Instr.cxlIoRead pasid txn off len true).wf = true → s.ioUp = true → s.links.io = [] →
      s.cxlDest (pasid.map fun (x : BitVec 20) => x.toNat) off.toNat len false = .memory part pa →
      Gives (.cxlIoRead pasid txn off len true) s fun t => Sent t (.inboundWrite 0 s.nextReq) .read pa len []) ∧
  -- PCIE_MEMORY_REQUEST: a PCIe write that maps to memory becomes one write
  (∀ (rid : BitVec 16) (txn : Nat) (addr : Word) (len : Nat) (data header : Bytes) (s : State) (part : Option Nat) (pa : Nat),
      (Instr.pcieMemoryRequest .write rid txn addr len false data header).wf = true → s.px.linkUp = true → s.px.frozen = false →
      len ≤ 512 → addr.toNat % 4096 + len ≤ 4096 → (s.px.rootPort = true → addr.toNat < 0xFFFFFFFFFFF00000) →
      (if s.px.rootPort then some (s.deviceDest rid.toNat addr.toNat len true) else s.endpointDest addr.toNat len true) = some (.memory part pa) →
      Gives (.pcieMemoryRequest .write rid txn addr len false data header) s fun t =>
        Sent t (.inboundWrite 1 s.nextReq) .write pa len data ∧ t.px.inbound = s.px.inbound ++ [.posted s.nextReq]) ∧
  -- PCIE_CONFIG_REQUEST: a configuration read is completed with its register
  (∀ (f : Fin 256) (txn : Nat) (reg : BitVec 10) (s : State), s.px.linkUp = true → s.px.configReady = true → s.px.inbound = [] →
      (f.val < 16 → (s.part f).flr = none) → (f.val = 16 ∨ s.fnExists f = true) →
      Gives (.pcieConfigRequest f txn reg none) s fun t =>
        t.outbox = s.outbox ++ [.completion false txn 0 false (leBytes 4 (s.cfgRead f (4 * reg.toNat)))]) ∧
  -- CXL_IO_CONFIGURATION_REQUEST: the same on CXL.io
  (∀ (txn : Nat) (reg : BitVec 10) (s : State), s.ioUp = true → s.links.io = [] →
      Gives (.cxlIoConfigurationRequest txn reg none) s fun t =>
        t.outbox = s.outbox ++ [.completion true txn 0 false (leBytes 4 (s.cxlCfgRead (4 * reg.toNat)))]) ∧
  -- DEVICE_INTERRUPT_WRITE: a device's interrupt write is logged to its partition
  (∀ (rid : BitVec 16) (addr : Word) (value : BitVec 32) (s : State) (p : Nat), s.px.linkUp = true → s.px.rootPort = true →
      s.px.frozen = false → addr.toNat % 4 = 0 → 0xFFFFFFFFFFF00000 ≤ addr.toNat → s.assignedTo rid.toNat = some p →
      Gives (.deviceInterruptWrite rid addr value) s fun t =>
        Logged t 0x40 none (some p) (fld value.toNat 32 32 + fld addr.toNat 0 32))

/-- Errors at the port are logged and contained by Capo, and a release waits for the condition to clear. -/
def Obligations.Containment : Prop :=
  -- AER_ERROR_DETECTED: the error's status bit is set
  (∀ (correctable : Bool) (b : Fin 32) (header : Bytes) (s : State), (if correctable then b.val ∈ corBits else b.val ∈ uncBits) →
      Gives (.aerErrorDetected correctable b header) s fun t =>
        if correctable then t.px.corStatus = s.px.corStatus ||| 2 ^ b.val else t.px.uncStatus = s.px.uncStatus ||| 2 ^ b.val) ∧
  -- DL_DOWN: a link that falls is contained with cause 2
  (∀ (s : State), s.px.linkUp = true → s.px.linkDisable = false → s.px.frozen = false →
      Gives .dlDown s fun t => t.px.linkUp = false ∧ t.px.frozen = true ∧ t.px.cause = 2) ∧
  -- DL_UP_INSERT: a link that returns while insertion is held is contained with cause 5
  (∀ (width rate : Nat) (s : State), (Instr.dlUpInsert width rate).wf = true → s.px.linkUp = false → s.px.rootPort = true →
      s.px.wasDown = true → s.px.insertHold = true → s.px.frozen = false →
      Gives (.dlUpInsert width rate) s fun t => t.px.linkUp = true ∧ t.px.frozen = true ∧ t.px.cause = 5) ∧
  -- PCIE_LINK_UP: any other link up sets width and rate
  (∀ (width rate : Nat) (s : State), (Instr.pcieLinkUp width rate).wf = true → s.px.linkUp = false →
      (s.px.rootPort = true → s.px.frozen = false ∧ (s.px.wasDown = false ∨ s.px.insertHold = false)) →
      Gives (.pcieLinkUp width rate) s fun t =>
        t.px.linkUp = true ∧ t.px.linkWidth = width ∧ t.px.linkRate = rate ∧ t.px.frozen = s.px.frozen) ∧
  -- CAPO_SOFTWARE_TRIGGER: the port is frozen with cause 4, counted and logged
  (∀ (s : State), s.px.frozen = false → Gives .capoSoftwareTrigger s fun t => t.px.frozen = true ∧ t.px.cause = 4 ∧
      t.px.triggers = satAdd 16 s.px.triggers 1 ∧ t.px.linkUp = (s.px.linkUp && !s.px.rootPort) ∧ ∃ st, Logged t 0x42 none none st) ∧
  -- CAPO_RELEASE: a blocked release is refused and counted, another one is taken
  (∀ (s : State), s.px.frozen = true → s.px.releaseAt = none → s.px.refusedAt ≠ some s.clk.px → s.px.trigAt ≠ some s.clk.px →
      Gives .capoRelease s fun t => if s.px.blocked = true then
        t.px.releaseAt = none ∧ t.px.refusedReleases = satAdd 16 s.px.refusedReleases 1 ∧ t.px.frozen = true
      else t.px.releaseAt = some s.clk.px) ∧
  -- CAPO_INSERT_HOLD_WRITE: the hold bit only
  (∀ (hold : Bool) (s : State), Gives (.capoInsertHoldWrite hold) s fun t => t = { s with px := { s.px with insertHold := hold } }) ∧
  -- ERR_MESSAGE_RECEIVED: the message is logged and its root error bit set, and a fatal one freezes
  (∀ (rid : BitVec 16) (kind : Fin 3) (s : State), s.px.rootPort = true → s.px.frozen = false →
      Gives (.errMessageReceived rid kind) s fun t => (∃ p, Logged t 0x41 none p (fld kind.val 16 2 + fld rid.toNat 0 16)) ∧
        bit t.px.rootErr (if kind = 0 then 0 else if kind = 1 then 5 else 6) = true ∧
        (kind = 2 → t.px.frozen = true ∧ t.px.cause = 6))

/-- The port resizes its window, sends pending MSI-X messages, changes its power state and ends downstream requests. -/
def Obligations.PortService : Prop :=
  -- BAR_RESIZE: a window from 2^30 to 2^40 is set and the base realigned
  (∀ (log2 : Fin 64) (s : State), s.px.rootPort = false → 30 ≤ log2.val → log2.val ≤ 40 →
      Gives (.barResize log2) s fun t => t.px.bar2Log2 = log2.val ∧ t.px.winMisaligned = (s.pt.pfWinBase % 2 ^ log2.val != 0) ∧
        (t.fn 16).bar2 = (s.fn 16).bar2 / 2 ^ log2.val * 2 ^ log2.val) ∧
  -- MSIX_PENDING_SEND: a pending unmasked vector's message is sent
  (∀ (f : Fin 17) (v : Fin 512) (s : State), (Tab.at s.px.msix (512 * f + v)).pending = true → (Tab.at s.px.msix (512 * f + v)).masked = false →
      (s.fn f).msixMask = false → (s.fn f).msixEnable = true → (s.fn f).busMaster = true → s.fnExists f = true → s.px.frozen = false →
      Gives (.msixPendingSend f v) s fun t => (Tab.at t.px.msix (512 * f + v)).pending = false ∧
        t.outbox = s.outbox ++ [.msix (Tab.at s.px.msix (512 * f + v)).addr (Tab.at s.px.msix (512 * f + v)).data]) ∧
  -- L0P_ENTRY: after 8192 idle cycles the link narrows
  (∀ (s : State), s.px.linkUp = true → s.px.l0p ≠ 2 → s.px.tlpAt + 8192 ≤ s.clk.px → s.px.linkWidth = 16 →
      Gives .l0pEntry s fun t => t.px.l0p = 2 ∧ t.outbox = s.outbox ++ [.portPower 0]) ∧
  -- L0P_RESTORE: and widens again
  (∀ (s : State), s.px.linkUp = true → s.px.l0p ≠ 0 → Gives .l0pRestore s fun t => t.px.l0p = 0 ∧ t.outbox = s.outbox ++ [.portPower 1]) ∧
  -- ASPM_L1_ENTRY: after 16384 idle cycles with nothing pending the link enters L1
  (∀ (s : State), s.px.linkUp = true → s.px.l1Enable = true → s.px.l1 = false → s.px.tlpAt + 16384 ≤ s.clk.px →
      (∀ e ∈ s.px.msix, e.2.pending = false) → s.px.inbound = [] → s.px.rpNow = none →
      Gives .aspmL1Entry s fun t => t.px.l1 = true ∧ t.outbox = s.outbox ++ [.portPower 2]) ∧
  -- RP_REQUEST_COMPLETION: the answer of a downstream request ends it and its mailbox command
  (∀ (v : Nat) (s : State) (r : RpReq), s.px.rpNow = some r → s.rpFrozen r.config = false → s.px.rpWait = [] →
      Gives (.rpRequestCompletion (.data v)) s fun t => Answers t r.mailbox 0 0 ∧ t.px.rpNow = none)

/-- Accumulators become pulses, pulses are counted exactly once, and records are committed, stored and read. -/
def Obligations.TallyCommands : Prop :=
  -- ACCUMULATOR_AGE_EXPIRY: an accumulator 2^16 cycles old becomes a pulse
  (∀ (p : Fin 16) (k : Fin 7) (s : State), (Tab.at s.tally.acc (8 * p + k)).amount ≠ 0 →
      (Tab.at s.tally.acc (8 * p + k)).since + 2 ^ 16 ≤ s.countClock k →
      Gives (.accumulatorAgeExpiry p k) s fun t => (Tab.at t.tally.acc (8 * p + k)).amount = 0 ∧
        t.tally.pulses = s.tally.pulses ++ [{ part := p, code := k, amount := (Tab.at s.tally.acc (8 * p + k)).amount }]) ∧
  -- COUNT_PULSE_TAKE: a pulse adds its amount to its counter and to no other
  (∀ (s : State) (x : Pulse) (l : List Pulse), s.tally.pulses = x :: l → x.code ≠ 7 →
      Gives .countPulseTake s fun t => t.tally.pulses = l ∧ t.tally.total = wrapAdd 64 s.tally.total 1 ∧
        ∀ j, Tab.at t.tally.counters j = if j = 8 * x.part + x.code then wrapAdd 64 (Tab.at s.tally.counters j) x.amount else Tab.at s.tally.counters j) ∧
  -- LIFETIME_PULSE: a lifetime pulse adds one and changes no counter
  (∀ (s : State) (x : Pulse) (l : List Pulse), s.tally.pulses = x :: l → x.code = 7 → x.amount = 1 →
      Gives .lifetimePulse s fun t => t.tally.pulses = l ∧ t.tally.counters = s.tally.counters ∧
        ∀ p, Tab.at t.tally.lifetimes p = if p = x.part then wrapAdd 32 (Tab.at s.tally.lifetimes p) 1 else Tab.at s.tally.lifetimes p) ∧
  -- MARK_PULSE: a mark passes and changes no count
  (∀ (s : State) (x : Pulse) (l : List Pulse), s.tally.pulses = x :: l → x.code = 7 → x.amount = 2 →
      Gives .markPulse s fun t => t.tally.pulses = l ∧ t.tally.counters = s.tally.counters ∧ t.tally.lifetimes = s.tally.lifetimes ∧
        t.tally.asks = s.tally.asks.map fun a => (a.1 - 1, a.2)) ∧
  -- TALLY_RECORD_COMMIT: a record takes the counters, the cause and the next sequence number
  (∀ (s : State), s.tally.pendingCause ≠ 0 → s.tally.signing = none → s.tally.selfFail = false →
      Gives .tallyRecordCommit s fun t => t.tally.next = s.tally.next + 1 ∧ t.tally.cause = 0 ∧ t.tally.since = 0 ∧
        ∃ r, t.tally.signing = some r ∧ r.cause = s.tally.pendingCause ∧ r.seq = s.tally.next ∧ r.counters = s.tally.counters ∧
          r.lifetimes = s.tally.lifetimes) ∧
  -- TALLY_RECORD_STORED: a signed record is stored and logged
  (∀ (s : State) (r : TallyRec), s.tally.signing = some r → s.tally.waiters = [] →
      Gives .tallyRecordStored s fun t => t.tally.signing = none ∧ Tab.at t.tally.records (r.seq % 8) = r ∧ Logged t 0x31 none none r.seq) ∧
  -- TY_REC_SELECT_WRITE: the record selected is held when its sequence number matches
  (∀ (w : Word) (s : State), Gives (.tyRecSelectWrite w) s fun t => t.tally.select = bits w.toNat 0 62 ∧ t.tally.held =
      if (Tab.at s.tally.records (bits w.toNat 0 62 % 8)).live && (Tab.at s.tally.records (bits w.toNat 0 62 % 8)).seq == bits w.toNat 0 62 then
        some (Tab.at s.tally.records (bits w.toNat 0 62 % 8)) else none) ∧
  -- TY_COMMIT_WRITE: a commit is asked for behind the pulses waiting
  (∀ (s : State), Gives .tyCommitWrite s fun t => t.tally.counters = s.tally.counters ∧
      t.tally.asks = s.tally.asks ++ [(t.tally.pulses.length, none)])

/-- Power warnings, clock loss, sensors and the steps of the array clock. -/
def Obligations.PowerCommands : Prop :=
  -- POWER_WARN: the warning's wait starts and no counter changes
  (∀ (s : State), Gives .powerWarn s fun t => t.tally.warnLow = true ∧ t.tally.warnAt = some s.clk.tly ∧ t.tally.counters = s.tally.counters) ∧
  -- POWER_WARN_WAIT_EXPIRY: after 256 cycles the cause is recorded
  (∀ (low : Bool) (s : State) (c : Nat), s.tally.warnAt = some c → c + 256 ≤ s.clk.tly →
      Gives (.powerWarnWaitExpiry low) s fun t => t.tally.warnAt = none ∧ t.tally.warnLow = low ∧ t.tally.cause = s.tally.cause ||| 4) ∧
  -- CLOCK_MONITOR_LOSS: a lost clock raises an error with its detail
  (∀ (px : Bool) (s : State), Gives (.clockMonitorLoss px) s fun t => ∃ e, t.ec.lines = s.ec.lines ++ [e] ∧ e.source = 14 ∧ e.cls = 2 ∧
      e.detail = if px then 4 else 0) ∧
  -- SENSOR_SAMPLE: the eight sensors are taken
  (∀ (v : List (BitVec 16)) (s : State), (Instr.sensorSample v).wf = true → s.mc.pwr.sampled + 2 ^ 16 ≤ s.clk.mgt →
      Gives (.sensorSample v) s fun t => t.mc.pwr.sampled = s.clk.mgt ∧ ∀ k < 8, (Tab.at t.mc.pwr.sensors k).1 = ((v.map fun (x : BitVec 16) => x.toNat).getD k 0) % 2 ^ 16) ∧
  -- CK_ARR_STEP_DONE: the frequency moves by one step within 12 to 21
  (∀ (s : State) (a : Nat) (up : Bool), s.mc.pwr.step = some (a, up) → 12 ≤ s.mc.pwr.freq → s.mc.pwr.freq ≤ 21 →
      Gives .ckArrStepDone s fun t => t.mc.pwr.step = none ∧ 12 ≤ t.mc.pwr.freq ∧ t.mc.pwr.freq ≤ 21 ∧
        (up = true → s.mc.pwr.freq < 21 → t.mc.pwr.freq = s.mc.pwr.freq + 1) ∧ (up = false → 12 < s.mc.pwr.freq → t.mc.pwr.freq + 1 = s.mc.pwr.freq)) ∧
  -- CK_ARR_STEP_TIMEOUT: a late step raises an error
  (∀ (s : State) (a : Nat) (up : Bool), s.mc.pwr.step = some (a, up) → s.mc.pwr.late = false → a + 2 ^ 16 ≤ s.clk.mgt →
      Gives .ckArrStepTimeout s fun t => t.mc.pwr.late = true ∧ ∃ e, t.ec.lines = s.ec.lines ++ [e] ∧ e.source = 14 ∧ e.cls = 1 ∧ e.detail = 1) ∧
  -- MC_PWR_CTRL_WRITE: MC_PWR_CTRL's fields are taken and a cap below the frequency starts a step
  (∀ (w : Word) (s : State), Gives (.mcPwrCtrlWrite w) s fun t => t.mc.pwr.limit = bits w.toNat 40 8 ∧ t.mc.pwr.fmax = bits w.toNat 24 8 ∧
      t.mc.pwr.fmin = bits w.toNat 16 8 ∧ t.mc.pwr.capEn = bit w.toNat 1 ∧ t.mc.pwr.lpEn = bit w.toNat 0 ∧
      (bit w.toNat 1 = true → t.mc.pwr.top < s.mc.pwr.freq → t.mc.pwr.step.isSome = true)) ∧
  -- ARR_FREQ_MAX_STEP_DOWN: while above the cap a further step down starts
  (∀ (s : State) (a : Nat), s.mc.pwr.maxAt = some a → s.mc.pwr.top < s.mc.pwr.freq → s.mc.pwr.capEn = true → a + 2 ^ 16 ≤ s.clk.mgt →
      s.mc.pwr.step = none →
      Gives .arrFreqMaxStepDown s fun t => t.mc.pwr.step = some (s.clk.mgt, false) ∧ t.mc.pwr.maxAt = some s.clk.mgt)

/-- Errors latch, escalate at the end of their grace, recover when quiet, and the registers of the error path act. -/
def Obligations.ErrorCommands : Prop :=
  -- ERROR_LATCH: status and count are set, and an unmasked error raises the level at least to its severity
  (∀ (e : ErrorEv) (s : State), (Instr.errorLatch e).wf = true →
      Gives (.errorLatch e) s fun t => (t.source e.source).status e.cls = true ∧
        (e.cls = 0 → (t.source e.source).corrected = satAdd 16 (s.source e.source).corrected 1) ∧
        (e.cls ≠ 0 → (t.source e.source).uncorrected = satAdd 16 (s.source e.source).uncorrected 1) ∧
        (e.cls ≠ 0 → (s.source e.source).masked e.cls = false → (s.source e.source).level ≤ 4 →
          (s.source e.source).severity e.source e.cls ≤ (t.source e.source).level ∧ (s.source e.source).level ≤ (t.source e.source).level)) ∧
  -- GRACE_EXPIRY: an unacknowledged source goes up one level
  (∀ (src : Fin 16) (s : State) (a : Nat), (s.source src).grace = some a → (s.source src).unacked = true → a + (s.source src).graceLen ≤ s.clk.mgt →
      (s.source src).level < 4 → (s.source src).stepAt ≠ some s.clk.mgt → (s.recordOf src).source = src →
      Gives (.graceExpiry src) s fun t => (t.source src).level = (s.source src).level + 1 ∧ t.ec.steps = satAdd 32 s.ec.steps 1) ∧
  -- EC_STATUS_CLEAR: the bits written 1 are cleared and no other
  (∀ (w : Word) (s : State), Gives (.ecStatusClear w) s fun t => ∀ j < 16,
      (t.source j).s0 = ((s.source j).s0 && !bit w.toNat (3 * j)) ∧ (t.source j).s1 = ((s.source j).s1 && !bit w.toNat (3 * j + 1)) ∧
        (t.source j).s2 = ((s.source j).s2 && !bit w.toNat (3 * j + 2))) ∧
  -- QUIET_EXPIRY: an acknowledged and quiet source returns to level 0
  (∀ (src : Fin 16) (s : State) (a : Nat), (s.source src).quiet = some a → (s.source src).unacked = false → a + s.ec.quietLen ≤ s.clk.mgt →
      (s.source src).level ≠ 0 → (s.source src).level ≠ 4 →
      Gives (.quietExpiry src) s fun t => (t.source src).level = 0 ∧ (t.source src).recoveries = satAdd 16 (s.source src).recoveries 1 ∧
        t.ec.recoveries = satAdd 32 s.ec.recoveries 1) ∧
  -- EC_INJECT: in test mode an injected error is latched
  (∀ (w : Word) (s : State), s.ec.testMode = true → bit w.toNat 0 = true → bits w.toNat 8 2 ≠ 3 →
      Gives (.ecInject w) s fun t => (t.source (bits w.toNat 12 4)).status (bits w.toNat 8 2) = true ∧ t.ec.lines = s.ec.lines) ∧
  -- ALIVE_TOGGLE: the alive signal toggles and nothing else changes
  (∀ (s : State), s.stopped = false → s.ec.aliveAt + 2 ^ 19 ≤ s.clk.mgt →
      Gives .aliveToggle s fun t => t = { s with ec := { s.ec with alive := !s.ec.alive, aliveAt := s.clk.mgt } }) ∧
  -- RECONCILE_PASS: each unit's intended admission is what the management core holds
  (∀ (s : State), s.mc.ready = true → s.mc.reconcileAt + 2 ^ 20 ≤ s.clk.mgt →
      Gives .reconcilePass s fun t => t.mc.reconcileAt = s.clk.mgt ∧ ∀ u, (t.unit u).intended = (t.unit u).mcAdmit) ∧
  -- REGISTER_WRITE: a write of XL_PERF_CTRL takes its fields and nothing else of translation
  (∀ (value : Word) (s : State), s.px.rootPort = false → s.px.frozen = false → s.px.linkUp = true →
      Gives (.registerWrite none 0x01000008 8 value) s fun t =>
        t.xl = { s.xl with perfPart := bits value.toNat 4 4, perfAll := bit value.toNat 1, perfEnable := bit value.toNat 0 })

/-- A scrub goes through its phases to FREE, and a re-key locks, rewrites and unlocks pages and retires the slot. -/
def Obligations.ScrubAndRekey : Prop :=
  -- SCRUB_QUIESCE_END: QUIESCE ends with every ring of the partition DISABLED and no request of it but inbound ones
  (∀ (p : Fin 16) (s : State), (s.part p).st = 3 → (s.part p).scrubPhase = 1 → (s.part p).scrubT0 + 2 ^ 24 ≤ s.clk.fab →
      Gives (.scrubQuiesceEnd p) s fun t => (t.part p).st = 3 ∧ (t.part p).scrubPhase = 2 ∧
        (∀ q ∈ t.reqs, q.part = p.val → q.inbound = true) ∧ ∀ r ∈ s.ringsOf p, (t.ring r).st = 0) ∧
  -- SCRUB_ZERO_END: ZERO ends with keys, sets and tenant key gone
  (∀ (p : Fin 16) (s : State), (s.part p).st = 3 → (s.part p).scrubPhase = 2 → (s.part p).scrubT0 + 2 ^ 24 + s.zeroLen ≤ s.clk.fab →
      Gives (.scrubZeroEnd p) s fun t => (t.part p).st = 3 ∧ (t.part p).scrubPhase = 3 ∧ (t.part p).slot0 = {} ∧ (t.part p).slot1 = {} ∧
        (t.part p).tenantKey = [] ∧ (t.part p).sets = [] ∧ (t.part p).counter = 0) ∧
  -- SCRUB_CLOSE_END: CLOSE ends with the partition FREE and its resources returned
  (∀ (p : Fin 16) (s : State), (s.part p).st = 3 → (s.part p).scrubPhase = 3 → (s.part p).scrubT0 + s.scrubLen ≤ s.clk.fab →
      Gives (.scrubCloseEnd p) s fun t => (t.part p).st = 0 ∧ (t.part p).groups = 0 ∧ (t.part p).tcWays = 0 ∧ (t.part p).tlbWays = 0 ∧
        (t.part p).modules = 0) ∧
  -- REKEY_PAGE_LOCK: a found page is locked and its translations invalidated
  (∀ (p : Fin 16) (l : FoundLeaf) (s : State), (s.part p).rekey.hostPass = true → (s.part p).rekey.lock = none → s.xlMay p = true →
      (s.part p).rekey.treats p l = true →
      Gives (.rekeyPageLock p (some l)) s fun t => ∃ k, (t.part p).rekey.lock = some k ∧ k.pa = leafPa l ∧ k.size = 2 ^ l.sizeLog2 ∧
        k.leaf = l.at_ ∧ k.entry = l.entry ∧ k.step = 1 ∧ ∃ i ∈ t.xl.invals, i.id = k.inval ∧ i.part = p ∧ i.va = l.va) ∧
  -- REKEY_PAGE_PUSHES_DONE: the leaf is written with the new generation
  (∀ (p : Fin 16) (old : Bytes) (s : State) (l : LockedPage), (s.part p).rekey.lock = some l → l.step = 1 →
      (∀ i ∈ s.xl.invals, i.id ≠ l.inval) → s.xlMay p = true →
      Gives (.rekeyPagePushesDone p old) s fun t => (∃ k, (t.part p).rekey.lock = some k ∧ k.step = 4 ∧
          k.entry = setBits l.entry 62 1 (1 - (s.part p).rekey.gen)) ∧
        Sent t (.rekeyLeaf p) .write l.leaf 8 (leBytes 8 (setBits l.entry 62 1 (1 - (s.part p).rekey.gen)))) ∧
  -- REKEY_PAGE_UNLOCK: its acknowledgement unlocks the page
  (∀ (p : Fin 16) (s : State) (q : Req), s.reqFor (.rekeyLeaf p) = some q →
      Gives (.rekeyPageUnlock p) s fun t => (t.part p).rekey.lock = none ∧ ∀ r ∈ t.reqs, r.id ≠ q.id) ∧
  -- HBM_PASS_END: the HBM pass ends
  (∀ (p : Fin 16) (s : State), (s.part p).rekey.hbmPass = true → (s.part p).rekey.start + s.chSize / 64 ≤ s.clk.fab →
      Gives (.hbmPassEnd p) s fun t => (t.part p).rekey.hbmPass = false) ∧
  -- KEY_SLOT_RETIRE: the slot is empty, or holds the load that waited for it
  (∀ (p : Fin 16) (g : Fin 2) (s : State), ((s.part p).slot g).st = .retiring → (s.part p).rekey.hostPass = false →
      (s.part p).rekey.hbmPass = false → ((s.part p).slot g).inflight = 0 →
      Gives (.keySlotRetire p g) s fun t => (t.part p).slot g = match (s.part p).heldLoad with
        | some (_, h, b) => if h = g.val then { st := .loaded, hostKey := slice b 0 64, peerKey := slice b 64 32, hbmKey := slice b 96 64 } else {}
        | none => {}) ∧
  -- HBM_CHANNEL_SIZE_REPORT: the size is kept and the map is valid
  (∀ (log2 : Fin 46) (s : State), Gives (.hbmChannelSizeReport log2) s fun t =>
      t = { s with pt := { s.pt with chSizeLog2 := log2, mapValid := true } })

/-- A tenant's request is judged by its key and counter, and takes effect only when its signature verifies. -/
def Obligations.TenantRequests : Prop :=
  -- SPDM_REQUEST: GET_VERSION is answered
  (∀ (doe : Bool) (body : Bytes) (s : State), s.spdmMay = true → (doe = true → s.px.rootPort = false ∧ s.px.configReady = true) →
      Gives (.spdmRequest doe none .version body) s fun t => t.mc.spdm.step = 1 ∧ ∃ b, t.outbox = s.outbox ++ [.spdm none b]) ∧
  -- SPDM_REQUEST: a measurement that exists is answered
  (∀ (doe : Bool) (body : Bytes) (s : State), s.spdmMay = true → (doe = true → s.px.rootPort = false ∧ s.px.configReady = true) →
      3 ≤ s.mc.spdm.step → byteAt body 1 ≠ 0xFF → byteAt body 1 ∈ measIxs →
      Gives (.spdmRequest doe none .measurements body) s fun t =>
        ∃ sign, t.outbox = s.outbox ++ [.measurements none (s.measBlock (byteAt body 1)) sign] ∧ (bit (byteAt body 0) 0 = false → sign = none)) ∧
  -- CLAIM: a matching claim secret claims the partition, another one is counted
  (∀ (session : Nat) (b : Bytes) (s : State) (p : Nat), s.spdmMay = true → s.mc.spdm.sessions.contains session = true → tenantShape b = true →
      byteAt b 0 = 1 → byteAt b 1 % 16 = p → (s.part p).st = 1 ∨ (s.part p).st = 2 → (s.part p).claimed = false → (s.part p).claimFails < 16 →
      Gives (.claim session b) s fun t =>
        if Config.sha384 (slice (reqBody b) 0 32) = (s.part p).claimDigest then
          (t.part p).claimed = true ∧ (t.part p).tenantKey = slice (reqBody b) 32 96 ∧ (t.part p).counter = 0 ∧
            t.outbox = s.outbox ++ [.spdm (some session) [0x81, 0, 0, 0]]
        else (t.part p).claimed = false ∧ (t.part p).claimFails = (s.part p).claimFails + 1 ∧
          t.outbox = s.outbox ++ [.spdm (some session) [0x81, 6, 0, 0]]) ∧
  -- KEY_LOAD: a verified load fills the slot
  (∀ (session : Nat) (b : Bytes) (s : State) (p : Nat), s.spdmMay = true → s.mc.spdm.sessions.contains session = true → tenantShape b = true →
      byteAt b 0 = 2 → byteAt b 1 % 16 = p → (s.part p).st = 1 ∨ (s.part p).st = 2 → (s.part p).claimed = true →
      (s.part p).counter < fieldAt b 8 8 → ((s.part p).slot (byteAt b 2)).st = .empty →
      Gives (.keyLoad session b) s fun t =>
        if Config.ecdsaVerify (s.part p).tenantKey (slice b 0 (16 + fieldAt b 4 4)) (slice b (16 + fieldAt b 4 4) 96) = true then
          (t.part p).slot (byteAt b 2) = { st := .loaded, hostKey := slice (reqBody b) 0 64, peerKey := slice (reqBody b) 64 32, hbmKey := slice (reqBody b) 96 64 } ∧ (t.part p).counter = fieldAt b 8 8 ∧
            t.outbox = s.outbox ++ [.spdm (some session) [0x82, 0, 0, 0]]
        else t = { s with outbox := s.outbox ++ [.spdm (some session) [0x82, 3, 0, 0]] }) ∧
  -- SET_PROVISION: a verified set that names this device is kept
  (∀ (session : Nat) (b : Bytes) (s : State) (p : Nat), s.spdmMay = true → s.mc.spdm.sessions.contains session = true → tenantShape b = true →
      byteAt b 0 = 3 → byteAt b 1 % 16 = p → (s.part p).st = 1 ∨ (s.part p).st = 2 → (s.part p).claimed = true →
      (s.part p).counter < fieldAt b 8 8 →
      Gives (.setProvision session b) s fun t =>
        if Config.ecdsaVerify (s.part p).tenantKey (slice b 0 (16 + fieldAt b 4 4)) (slice b (16 + fieldAt b 4 4) 96) = true then
          (t.part p).counter = fieldAt b 8 8 ∧
          if (digestsOf (byteAt (reqBody b) 16) (slice (reqBody b) 80 (48 * byteAt (reqBody b) 16))).contains (Config.sha384 Config.identityKey) = true then
            Tab.at (t.part p).sets (byteAt b 2) = { setId := slice (reqBody b) 0 16, setKey := slice (reqBody b) 48 32, digest := Config.sha384 (slice (reqBody b) 80 (48 * byteAt (reqBody b) 16)), valid := true }
          else (t.part p).sets = (s.part p).sets ∧ t.outbox = s.outbox ++ [.spdm (some session) [0x83, 5, 0, 0]]
        else t = { s with outbox := s.outbox ++ [.spdm (some session) [0x83, 3, 0, 0]] }) ∧
  -- SET_REVOKE: a verified revocation removes the set
  (∀ (session : Nat) (b : Bytes) (s : State) (p : Nat), s.spdmMay = true → s.mc.spdm.sessions.contains session = true → tenantShape b = true →
      byteAt b 0 = 4 → byteAt b 1 % 16 = p → (s.part p).st = 1 ∨ (s.part p).st = 2 → (s.part p).claimed = true →
      (s.part p).counter < fieldAt b 8 8 →
      Gives (.setRevoke session b) s fun t =>
        if Config.ecdsaVerify (s.part p).tenantKey (slice b 0 (16 + fieldAt b 4 4)) (slice b (16 + fieldAt b 4 4) 96) = true then
          (t.part p).counter = fieldAt b 8 8 ∧ Tab.at (t.part p).sets (byteAt b 2) = {} ∧
            t.outbox = s.outbox ++ [.spdm (some session) [0x84, 0, 0, 0]]
        else t = { s with outbox := s.outbox ++ [.spdm (some session) [0x84, 3, 0, 0]] }) ∧
  -- RELEASE: a verified release starts the scrub
  (∀ (session : Nat) (b : Bytes) (s : State) (p : Nat), s.spdmMay = true → s.mc.spdm.sessions.contains session = true → tenantShape b = true →
      byteAt b 0 = 5 → byteAt b 1 % 16 = p → (s.part p).st = 1 ∨ (s.part p).st = 2 → (s.part p).claimed = true →
      (s.part p).counter < fieldAt b 8 8 →
      Gives (.release session b) s fun t =>
        if Config.ecdsaVerify (s.part p).tenantKey (slice b 0 (16 + fieldAt b 4 4)) (slice b (16 + fieldAt b 4 4) 96) = true then
          (t.part p).st = 3 ∧ (t.part p).groups = (s.part p).groups ∧ .spdm (some session) [0x85, 0, 0, 0] ∈ t.outbox
        else t = { s with outbox := s.outbox ++ [.spdm (some session) [0x85, 3, 0, 0]] })

/-- Cells take their firmware, digests are compared, the topology is checked and readiness is decided. -/
def Obligations.BringUp : Prop :=
  -- COMPUTE_CELL_FIRMWARE_BROADCAST: an image that matches its digest is sent to the cells
  (∀ (image : Bytes) (s : State), s.mc.ready = true → s.mc.fw.recovery = false → s.mc.fw.ccStep = 0 → s.mc.rd.cp ≠ 1 →
      Gives (.computeCellFirmwareBroadcast image) s fun t =>
        if Config.sha384 image = mCcDigest s.mc.fw.manifest then
          t.mc.fw.ccStep = 1 ∧ t.mc.fw.ccAt = s.clk.mgt ∧ t.outbox = s.outbox ++ [.dieNetwork 0 image]
        else t.mc.fw.ccStep = 2 ∧ t.mc.fw.ccFailed = 255 ∧ t.outbox = s.outbox) ∧
  -- CELL_DIGEST_RETURN: a cell whose digest differs is counted
  (∀ (cell : Nat) (digest : Bytes) (s : State), s.mc.fw.ccStep = 1 → s.mc.fw.ccSeen.contains cell = false →
      Gives (.cellDigestReturn cell digest) s fun t => t.mc.fw.ccSeen = s.mc.fw.ccSeen ++ [cell] ∧
        t.mc.fw.ccFailed = min 254 (s.mc.fw.ccFailed + b2n (digest != mCcDigest s.mc.fw.manifest))) ∧
  -- CELL_DIGEST_TIMEOUT: a silent cell is counted
  (∀ (cell : Nat) (s : State), s.mc.fw.ccStep = 1 → s.mc.fw.ccSeen.contains cell = false → s.mc.fw.ccAt + 2 ^ 22 ≤ s.clk.mgt →
      Gives (.cellDigestTimeout cell) s fun t => t.mc.fw.ccSeen = s.mc.fw.ccSeen ++ [cell] ∧
        t.mc.fw.ccFailed = min 254 (s.mc.fw.ccFailed + 1)) ∧
  -- TOPOLOGY_CHECK: a miswired module goes DOWN with cause 3 and no other changes
  (∀ (s : State), s.mc.ready = true → s.settled = true →
      Gives .topologyCheck s fun t => ∀ m < 20, if s.miswired m = true then (t.mod (4 + m)).st = 8 ∧ (t.mod (4 + m)).downCause = 3
        else (t.mod (4 + m)).st = (s.mod (4 + m)).st) ∧
  -- READINESS_DECISION: READY or NOT_READY, and MISSION on the first READY
  (∀ (s : State), s.mayDecide = true →
      Gives .readinessDecision s fun t => t.mc.rd.st = (if s.readyNow then 2 else 3) ∧ t.mc.rd.cp = 0 ∧
        t.mc.mode = if s.readyNow && !s.mc.rd.declared then 0 else s.mc.mode)

/-- What each reset below a cold reset clears and what it leaves. -/
def Obligations.ResetCommands : Prop :=
  -- COMPUTE_PART_RESET: partitions are scrubbed and the die is not ready
  (∀ (s : State), s.mc.rd.cp = 0 →
      Gives .computePartReset s fun t => t.mc.rd.st = 3 ∧ t.mc.rd.cp = 1 ∧ t.mc.rd.cpResets = satAdd 16 s.mc.rd.cpResets 1 ∧ t.mc.mode = 1 ∧
        ∀ p < 16, (t.part p).st = if (s.part p).st = 1 ∨ (s.part p).st = 2 then 3 else (s.part p).st) ∧
  -- COMPUTE_PART_RESET_RESTORE: the compute units are at reset and the cells reset
  (∀ (s : State), s.mc.rd.cp = 1 → (∀ p < 16, (s.part p).st = 0 ∧ (s.part p).flr = none) → s.links.lossReset = false →
      Gives .computePartResetRestore s fun t => t.qc = {} ∧ t.tier = {} ∧ t.xl = { ready := true } ∧ t.ch = { ready := true } ∧
        t.rk = { ready := true, halfArray := s.fuses.halfArray } ∧ t.pt.mapValid = false ∧ t.mc.rd.cp = 2 ∧ t.mc.fw.ccStep = 0 ∧
        t.outbox = s.outbox ++ [.dieNetwork 1 []]) ∧
  -- PARTITION_FUNCTION_LEVEL_RESET: the reset starts, its function is cleared and it is counted
  (∀ (p : Fin 16) (s : State), s.fnExists p = true → (s.part p).st ≠ 3 → (s.part p).flr = none →
      Gives (.partitionFunctionLevelReset p) s fun t => (t.part p).flr = some s.clk.fab ∧ t.fn p = {} ∧ t.mc.rd.last = 2 ∧
        t.mc.rd.lastPart = p.val ∧ t.mc.rd.flrs = satAdd 16 s.mc.rd.flrs 1) ∧
  -- PF_FUNCTION_LEVEL_RESET: the physical function is cleared and the virtual ones are not
  (∀ (s : State), s.px.rootPort = false →
      Gives .pfFunctionLevelReset s fun t => t.fn 16 = {} ∧ (∀ f < 16, t.fn f = s.fn f) ∧ t.px.uncStatus = 0 ∧ t.px.corStatus = 0 ∧
        t.px.vfEnable = s.px.vfEnable ∧ t.px.frozen = s.px.frozen ∧ t.px.cause = s.px.cause) ∧
  -- PARTITION_RESET_END: a reset with nothing outstanding ends
  (∀ (p : Fin 16) (s : State) (a : Nat), (s.part p).flr = some a → (∀ q ∈ s.reqs, q.ofReset p = false) →
      Gives (.partitionResetEnd p) s fun t => (t.part p).flr = none) ∧
  -- HOST_LINK_LOSS_RESET: loss is declared with its cause and the modules retrain
  (∀ (sideband : Bool) (s : State), s.links.lossReset = false →
      Gives (.hostLinkLossReset sideband) s fun t => t.links.lossReset = true ∧ t.links.lossCount = satAdd 16 s.links.lossCount 1 ∧
        t.links.lastCause = (if sideband then 3 else 2) ∧ t.links.io = [] ∧ t.links.everUp = false ∧
        ∀ k < 4, (t.mod k).st = if (s.mod k).st = 1 then 1 else 2) ∧
  -- HOST_LINK_OUT_TIMER_EXPIRY: loss after 2^20 cycles without a host link
  (∀ (s : State) (a : Nat), s.links.outFrom = some a → s.links.everUp = true → a + 2 ^ 20 ≤ s.clk.mgt → s.links.lossReset = false →
      Gives .hostLinkOutTimerExpiry s fun t => t.links.lossReset = true ∧ t.links.lossCount = satAdd 16 s.links.lossCount 1 ∧
        t.links.lastCause = 1 ∧ t.links.io = [] ∧ t.links.everUp = false ∧ ∀ k < 4, (t.mod k).st = if (s.mod k).st = 1 then 1 else 2) ∧
  -- HOST_LINK_LOSS_RESET_END: the reset ends when the modules are settled
  (∀ (s : State), s.links.lossReset = true → (∀ k < 4, (s.mod k).st = 1 ∨ (s.mod k).st = 8 ∨ (s.mod k).carries = true) →
      Gives .hostLinkLossResetEnd s fun t => t = { s with links := { s.links with lossReset := false, everUp := s.firstHl.isSome, outFrom := none } }) ∧
  -- PORT_RESET: configuration is cleared and Capo's state is kept
  (∀ (disable : Bool) (s : State), s.px.rootPort = false →
      Gives (.portReset disable) s fun t => t.px.linkDisable = disable ∧ t.px.vfEnable = false ∧ t.px.numVfs = 0 ∧ t.px.fns = [] ∧
        t.px.msix = [] ∧ t.px.uncStatus = 0 ∧ t.px.uncMask = 0x00400000 ∧ t.px.uncSev = 0x00462030 ∧ t.px.bar2Log2 = 36 ∧
        t.px.frozen = s.px.frozen ∧ t.px.cause = s.px.cause ∧ t.px.capoMask = s.px.capoMask ∧ t.px.insertHold = s.px.insertHold)

/-- A mailbox takes one command at a time, and reports sensors, units and the identity of the die. -/
def Obligations.MailboxReports : Prop :=
  -- MAILBOX_GO: a free mailbox takes the command
  (∀ (m : Fin 17) (s : State) (head cmd : Bytes), (s.box m).busy = false → head = Tab.readBytes (s.box m).ram 0x1000 32 →
      cmd = head ++ Tab.readBytes (s.box m).ram 0x1020 (min (fieldAt head 4 4) 16352) → payloadSize cmd = some (fieldAt cmd 4 4) →
      allowedOn (fieldAt cmd 0 2) (boxClass m) = true → fieldAt cmd 4 4 ≤ 16352 →
      Gives (.mailboxGo m) s fun t => (t.box m).cmd = cmd ∧ (t.box m).busy = true ∧ (t.box m).done = false ∧ (t.box m).taken = false) ∧
  -- MAILBOX_GO: a busy one counts a drop
  (∀ (m : Fin 17) (s : State), (s.box m).busy = true →
      Gives (.mailboxGo m) s fun t => (t.box m) = { s.box m with busyDrops := satAdd 16 (s.box m).busyDrops 1 }) ∧
  -- MCTP_REQUEST: the same for the board's mailbox
  (∀ (body : Bytes) (s : State) (head cmd : Bytes), (Instr.mctpRequest body).wf = true → (s.box 17).busy = false →
      head = Tab.readBytes (Tab.writeBytes (s.box 17).ram 0x1000 (body.take 16384)) 0x1000 32 →
      cmd = head ++ Tab.readBytes (Tab.writeBytes (s.box 17).ram 0x1000 (body.take 16384)) 0x1020 (min (fieldAt head 4 4) 16352) →
      payloadSize cmd = some (fieldAt cmd 4 4) → allowedOn (fieldAt cmd 0 2) 2 = true → fieldAt cmd 4 4 ≤ 16352 →
      Gives (.mctpRequest body) s fun t => (t.box 17).cmd = cmd ∧ (t.box 17).busy = true ∧ (t.box 17).done = false ∧ (t.box 17).taken = false) ∧
  -- I3C_ADDRESS_ASSIGN: the address only
  (∀ (addr : BitVec 7) (s : State), Gives (.i3cAddressAssign addr) s fun t => t = { s with mc := { s.mc with i3c := some addr.toNat } }) ∧
  -- SENSOR_READ: eight sensor words
  (∀ (m : Fin 18) (s : State), Takes s m 0x0B02 →
      Gives (.sensorRead m) s fun t => Answers t m 0 0 ∧
        Tab.readBytes (t.box m).ram 0x5020 64 = (List.range 8).flatMap fun k => leBytes 8 (s.sensorWord k)) ∧
  -- UNIT_READ: unit words for the operator's mailboxes, 0 where there is no unit
  (∀ (m : Fin 18) (s : State) (b : Bytes), Takes s m 0x0B07 → (s.box m).payload = b → byteAt b 2 ≠ 0 → fieldAt b 0 2 + byteAt b 2 ≤ 112 → 16 ≤ m.val →
      Gives (.unitRead m) s fun t => Answers t m 0 0 ∧ Tab.readBytes (t.box m).ram 0x5020 (8 * byteAt b 2) =
        ((List.range (byteAt b 2)).map fun i => fieldAt b 0 2 + i).flatMap fun u => leBytes 8 (if realUnit u then s.unitWord u else 0)) ∧
  -- GET_INFO: versions, revision, die ID and fuses
  (∀ (m : Fin 18) (s : State), Takes s m 0x0B09 →
      Gives (.getInfo m) s fun t => Answers t m 0 0 ∧ Tab.readBytes (t.box m).ram 0x5020 20 =
        leBytes 4 (mVersion s.mc.fw.manifest) ++ leBytes 4 (mSvn s.mc.fw.manifest) ++ leBytes 1 0xB0 ++ leBytes 1 s.dieId ++ zeros 2 ++
          leBytes 2 s.fuses.groups ++ leBytes 1 (b2n s.fuses.halfArray) ++ zeros 1 ++ leBytes 4 s.fuses.modules)

/-- Operator commands create, destroy, regulate and place partitions, ranges, PASIDs, windows and assignments. -/
def Obligations.PartitionCommands : Prop :=
  -- PART_CREATE: a valid creation gives the partition its resources
  (∀ (m : Fin 18) (s : State) (b : Bytes) (c : Create), Takes s m 0x0101 → (s.box m).payload = b →
      c = { part := byteAt b 0, tag := byteAt b 1, groups := fieldAt b 8 2, tcWays := fieldAt b 10 2, tlbWays := fieldAt b 12 2, channels := fieldAt b 16 4, modules := fieldAt b 20 4, digest := slice b 24 48, regs := (List.range 5).map fun k => (fieldAt b (72 + 4 * k) 2, byteAt b (74 + 4 * k)) } →
      s.createOk c = true → s.mc.mode ≠ 1 → s.mc.rd.st = 2 →
      Gives (.partCreate m) s fun t => Answers t m 0 0 ∧ (t.part c.part).share = ⟨1, c.groups, c.tcWays, c.tlbWays, c.modules, ([], [], []), ([], [], [])⟩ ∧
        (t.part c.part).checkTag = c.tag ∧ (t.part c.part).claimed = false ∧ (t.part c.part).claimDigest = c.digest ∧
        ∀ k < 32, bit c.channels k = true → t.chanOwner k = some c.part) ∧
  -- PART_DESTROY: the partition is scrubbed
  (∀ (m : Fin 18) (s : State) (b : Bytes), Takes s m 0x0103 → (s.box m).payload = b → byteAt b 0 < 16 → (s.part (byteAt b 0)).st = 1 ∨ (s.part (byteAt b 0)).st = 2 →
      Gives (.partDestroy m) s fun t => Answers t m 0 0 ∧ (t.part (byteAt b 0)).st = 3) ∧
  -- REG_SET: a bucket's rate and burst, its tokens cut to the burst
  (∀ (m : Fin 18) (s : State) (b : Bytes), Takes s m 0x0104 → (s.box m).payload = b → byteAt b 0 < 16 → byteAt b 1 < 5 → 8 ≤ byteAt b 4 → byteAt b 4 ≤ 24 →
      (s.part (byteAt b 0)).st = 1 ∨ (s.part (byteAt b 0)).st = 2 →
      Gives (.regSet m) s fun t => Answers t m 0 0 ∧ (Tab.at (t.part (byteAt b 0)).buckets (byteAt b 1)).rate = fieldAt b 2 2 ∧
        (Tab.at (t.part (byteAt b 0)).buckets (byteAt b 1)).burstLog2 = byteAt b 4 ∧
        (Tab.at (t.part (byteAt b 0)).buckets (byteAt b 1)).tokens = min (Tab.at (s.part (byteAt b 0)).buckets (byteAt b 1)).tokens (16 * 2 ^ byteAt b 4)) ∧
  -- HOST_RANGE_SET: one host range
  (∀ (m : Fin 18) (s : State) (b : Bytes), Takes s m 0x0105 → (s.box m).payload = b → fieldAt b 8 8 % 2 ^ 21 = 0 → fieldAt b 16 8 % 2 ^ 21 = 0 →
      Gives (.hostRangeSet m) s fun t => Answers t m 0 0 ∧ Tab.at t.pt.ranges (byteAt b 0) = { base := fieldAt b 8 8, limit := fieldAt b 16 8, mask := fieldAt b 2 2, we := bit (byteAt b 1) 1, valid := bit (byteAt b 1) 0 }) ∧
  -- PASID_BIND: a PASID bound to a partition
  (∀ (m : Fin 18) (s : State) (b : Bytes) (x : Nat), Takes s m 0x0106 → (s.box m).payload = b → x = fieldAt b 0 4 % 2 ^ 20 → bit (byteAt b 5) 0 = true → bit (byteAt b 5) 1 = false →
      byteAt b 4 < 16 → (Tab.at s.pt.pasids x ≠ 0 ∨ s.pt.pasids.length < 256) →
      Gives (.pasidBind m) s fun t => Answers t m 0 0 ∧ Tab.at t.pt.pasids x = byteAt b 4 + 1 ∧ t.pt.operatorPasid ≠ some x) ∧
  -- PASID_BIND: the operator's PASID
  (∀ (m : Fin 18) (s : State) (b : Bytes) (x : Nat), Takes s m 0x0106 → (s.box m).payload = b → x = fieldAt b 0 4 % 2 ^ 20 → bit (byteAt b 5) 0 = true → bit (byteAt b 5) 1 = true →
      (s.pt.operatorPasid = none ∨ s.pt.operatorPasid = some x) →
      Gives (.pasidBind m) s fun t => Answers t m 0 0 ∧ t.pt.operatorPasid = some x ∧ Tab.at t.pt.pasids x = 0) ∧
  -- PASID_BIND: a PASID unbound
  (∀ (m : Fin 18) (s : State) (b : Bytes) (x : Nat), Takes s m 0x0106 → (s.box m).payload = b → x = fieldAt b 0 4 % 2 ^ 20 → bit (byteAt b 5) 0 = false →
      Gives (.pasidBind m) s fun t => Answers t m 0 0 ∧ Tab.at t.pt.pasids x = 0 ∧ t.pt.operatorPasid ≠ some x) ∧
  -- PF_WIN_BASE: the physical function's window
  (∀ (m : Fin 18) (s : State) (b : Bytes), Takes s m 0x0107 → (s.box m).payload = b → fieldAt b 0 8 % 2 ^ s.px.bar2Log2 = 0 →
      Gives (.pfWinBase m) s fun t => Answers t m 0 0 ∧ t.pt.pfWinBase = fieldAt b 0 8) ∧
  -- VF_WIN_BASE: a virtual function's window
  (∀ (m : Fin 18) (s : State) (b : Bytes), Takes s m 0x0108 → (s.box m).payload = b → byteAt b 0 < 16 → fieldAt b 8 8 % 2 ^ 32 = 0 → fieldAt b 8 8 < 2 ^ 41 →
      Gives (.vfWinBase m) s fun t => Answers t m 0 0 ∧ Tab.at t.pt.vfWinBase (byteAt b 0) = fieldAt b 8 8) ∧
  -- SHARED_REGISTER: a shared range registered
  (∀ (m : Fin 18) (s : State) (b : Bytes) (n base org dig : Nat), Takes s m 0x0109 → (s.box m).payload = b → byteAt b 0 < 64 → n = fieldAt b 4 4 → base = fieldAt b 8 8 → org = fieldAt b 16 8 → dig = fieldAt b 24 8 →
      0 < n → n ≤ 2 ^ 20 → base % 2 ^ 21 = 0 → org % 2 ^ 21 = 0 → base + n * 2 ^ 21 ≤ 2 ^ 49 → org + n * 2 ^ 21 ≤ 2 ^ 49 → s.rangesCover base (base + n * 2 ^ 21) = true →
      s.ownedOverlap org (org + n * 2 ^ 21) = false → s.ownedOverlap dig (dig + 48 * n) = false → s.sharedOverlap (byteAt b 0) org (org + n * 2 ^ 21) = false →
      (org + n * 2 ^ 21 ≤ base ∨ base + n * 2 ^ 21 ≤ org) →
      Gives (.sharedRegister m) s fun t => Answers t m 0 0 ∧ Tab.at t.pt.shared (byteAt b 0) = { valid := true, base := base, chunks := n, origin := org, digestAddr := dig, rangeTag := (bits (byteAt b 32) 0 4, bits (byteAt b 32) 4 1), originTag := (bits (byteAt b 33) 0 4, bits (byteAt b 33) 4 1), failed := [] }) ∧
  -- SHARED_REGISTER: and removed
  (∀ (m : Fin 18) (s : State) (b : Bytes), Takes s m 0x0109 → (s.box m).payload = b → byteAt b 0 < 64 → fieldAt b 4 4 = 0 →
      Gives (.sharedRegister m) s fun t => Answers t m 0 0 ∧ (Tab.at t.pt.shared (byteAt b 0)).valid = false) ∧
  -- RP_ASSIGN: requester IDs assigned
  (∀ (m : Fin 18) (s : State) (b : Bytes) (rid : Nat), Takes s m 0x010A → (s.box m).payload = b → fieldAt b 0 2 ≤ rid → rid ≤ fieldAt b 2 2 → bit (byteAt b 5) 0 = true → byteAt b 4 < 16 →
      Gives (.rpAssign m) s fun t => Answers t m 0 0 ∧ t.assignedTo rid = some (byteAt b 4)) ∧
  -- RP_ASSIGN: and unassigned
  (∀ (m : Fin 18) (s : State) (b : Bytes) (rid : Nat), Takes s m 0x010A → (s.box m).payload = b → fieldAt b 0 2 ≤ rid → rid ≤ fieldAt b 2 2 → bit (byteAt b 5) 0 = false →
      Gives (.rpAssign m) s fun t => Answers t m 0 0 ∧ t.assignedTo rid = none)

/-- Mailbox commands bind ASIDs, place the invalidation and fault queues, and invalidate. -/
def Obligations.QueuePlacement : Prop :=
  -- ASID_BIND: an unbound ASID bound
  (∀ (m : Fin 18) (s : State) (b : Bytes), Takes s m 0x0201 → (s.box m).payload = b → localAsid m (fieldAt b 0 2) = true → bit (byteAt b 3) 0 = true →
      (byteAt b 2 = 48 ∨ byteAt b 2 = 57) → fieldAt b 8 8 % 4096 = 0 → fieldAt b 8 8 < 2 ^ 49 → (Tab.at s.xl.asids (fieldAt b 0 2)).bound = false →
      Gives (.asidBind m) s fun t => Answers t m 0 0 ∧ Tab.at t.xl.asids (fieldAt b 0 2) = { bound := true, root := fieldAt b 8 8, wide := byteAt b 2 == 57 }) ∧
  -- ASID_BIND: a bound ASID changed, with an invalidation
  (∀ (m : Fin 18) (s : State) (b : Bytes), Takes s m 0x0201 → (s.box m).payload = b → localAsid m (fieldAt b 0 2) = true →
      (bit (byteAt b 3) 0 = true → (byteAt b 2 = 48 ∨ byteAt b 2 = 57) ∧ fieldAt b 8 8 % 4096 = 0 ∧ fieldAt b 8 8 < 2 ^ 49) → (Tab.at s.xl.asids (fieldAt b 0 2)).bound = true →
      s.invPending m < 8 → (s.invq m).waiting = [] → (s.invq m).st ≠ 4 →
      Gives (.asidBind m) s fun t =>
        Tab.at t.xl.asids (fieldAt b 0 2) = (if bit (byteAt b 3) 0 then { bound := true, root := fieldAt b 8 8, wide := byteAt b 2 == 57 } else {}) ∧
        ∃ i ∈ t.xl.invals, i.part = m ∧ i.mailbox = some m.val ∧ i.cut = s.clk.fab) ∧
  -- INVQ_PLACE: the invalidation queue placed
  (∀ (m : Fin 18) (s : State) (b : Bytes), Takes s m 0x0202 → (s.box m).payload = b → 8 ≤ byteAt b 0 → byteAt b 0 ≤ 12 → fieldAt b 8 8 % 4096 = 0 →
      s.inReadable m (fieldAt b 8 8) (32 * 2 ^ byteAt b 0) = true → s.invPending m = 0 →
      Gives (.invqPlace m) s fun t => Answers t m 0 0 ∧ (t.invq m).placed = true ∧ (t.invq m).base = fieldAt b 8 8 ∧ (t.invq m).size = 2 ^ byteAt b 0 ∧ (t.invq m).c = 0) ∧
  -- INVALIDATE: an invalidation cut at once
  (∀ (m : Fin 18) (s : State) (b : Bytes) (p : Nat), Takes s m 0x0204 → (s.box m).payload = b → p = (if m.val = 16 then byteAt b 0 else m) → p < 16 →
      (invKind p (slice b 8 32)).isSome = true → (s.part p).st ≠ 3 → Tab.at s.xl.binds m = none → s.invPending p < 8 → (s.invq p).waiting = [] → (s.invq p).st ≠ 4 →
      Gives (.invalidate m) s fun t => ∃ i ∈ t.xl.invals, i.part = p ∧ i.mailbox = some m.val ∧ i.cut = s.clk.fab) ∧
  -- INVALIDATE: or waiting while eight are pending
  (∀ (m : Fin 18) (s : State) (b : Bytes) (p : Nat), Takes s m 0x0204 → (s.box m).payload = b → p = (if m.val = 16 then byteAt b 0 else m) → p < 16 →
      (invKind p (slice b 8 32)).isSome = true → (s.part p).st ≠ 3 → 8 ≤ s.invPending p →
      Gives (.invalidate m) s fun t => ∃ w ∈ (t.invq p).waiting, w.2.1 = m) ∧
  -- FQ_PLACE: the fault queue placed
  (∀ (m : Fin 18) (s : State) (b : Bytes), Takes s m 0x0301 → (s.box m).payload = b → fieldAt b 0 8 % 4096 = 0 → s.inQualifying m (fieldAt b 0 8) 131072 = true →
      (∀ e ∈ s.qc.park, e.2.valid = false ∨ e.2.part ≠ m) →
      Gives (.fqPlace m) s fun t => Answers t m 0 0 ∧ (t.fq m).placed = true ∧ (t.fq m).base = fieldAt b 0 8 ∧ (t.fq m).prod = 0 ∧ (t.fq m).cons = 0) ∧
  -- FAULT_TIMEOUT: the resume limit from 2^20 to 2^36
  (∀ (m : Fin 18) (s : State) (b : Bytes), Takes s m 0x0302 → (s.box m).payload = b → 1048576 ≤ fieldAt b 0 8 → fieldAt b 0 8 ≤ 68719476736 →
      Gives (.faultTimeout m) s fun t => Answers t m 0 0 ∧ (t.fq m).timeout = fieldAt b 0 8)

/-- Mailbox commands enable and disable rings and place completion queues, counter areas and chord queues. -/
def Obligations.RingCommands : Prop :=
  -- RING_ENABLE: an enabled ring with its positions
  (∀ (m : Fin 18) (s : State) (b : Bytes) (r : Nat), Takes s m 0x0402 → (s.box m).payload = b → s.globalRing m (fieldAt b 0 2) = some r → (s.ring r).configured = true →
      fieldAt b 2 2 < (s.ring r).size → (s.ring r).st = 0 →
      Gives (.ringEnable m) s fun t => Answers t m 0 0 ∧ (t.ring r).st = 1 ∧ (t.ring r).c = (fieldAt b 4 2 * (s.ring r).size + fieldAt b 2 2) % (s.ring r).m ∧
        (t.ring r).p = (t.ring r).c) ∧
  -- RING_DISABLE: a ring that waits for its drain
  (∀ (m : Fin 18) (s : State) (b : Bytes) (r : Nat), Takes s m 0x0403 → (s.box m).payload = b → s.globalRing m (fieldAt b 0 2) = some r → (s.ring r).st ≠ 0 → (s.ring r).st ≠ 6 → (s.ring r).tc ≠ 2 →
      Gives (.ringDisable m) s fun t => (t.ring r).waiters = (s.ring r).waiters ++ [m.val] ∧ (t.ring r).staged = none ∧ (t.slot r).valid = false) ∧
  -- RING_DISABLE: an already disabled ring
  (∀ (m : Fin 18) (s : State) (b : Bytes) (r : Nat), Takes s m 0x0403 → (s.box m).payload = b → s.globalRing m (fieldAt b 0 2) = some r → (s.ring r).st = 0 →
      Gives (.ringDisable m) s fun t => Answers t m 0 0 ∧ t.ring r = s.ring r) ∧
  -- CQ_PLACE: a completion queue
  (∀ (m : Fin 18) (s : State) (b : Bytes), Takes s m 0x0404 → (s.box m).payload = b → 6 ≤ byteAt b 1 → byteAt b 1 ≤ 16 → (fieldAt b 2 2 < 512 ∨ fieldAt b 2 2 = 65535) →
      fieldAt b 8 8 % 4096 = 0 → fieldAt b 16 8 % 8 = 0 → s.inQualifying m (fieldAt b 8 8) (32 * 2 ^ byteAt b 1) = true → s.inQualifying m (fieldAt b 16 8) 8 = true →
      (∀ r ∈ s.ringsOf m, (s.ring r).st = 0 ∨ (s.ring r).cq ≠ byteAt b 0) →
      Gives (.cqPlace m) s fun t => Answers t m 0 0 ∧ t.cq (256 * m + byteAt b 0) = { placed := true, base := fieldAt b 8 8, sizeLog2 := byteAt b 1, word := fieldAt b 16 8, vector := if fieldAt b 2 2 = 65535 then none else some (fieldAt b 2 2), fullEvents := (s.cq (256 * m + byteAt b 0)).fullEvents }) ∧
  -- COUNTER_AREA: a counter area in host memory
  (∀ (m : Fin 18) (s : State) (b : Bytes), Takes s m 0x0405 → (s.box m).payload = b → 6 ≤ byteAt b 0 → byteAt b 0 ≤ 16 → fieldAt b 8 8 % 4096 = 0 →
      s.inQualifying m (fieldAt b 8 8) (8 * 2 ^ byteAt b 0) = true → (∀ r ∈ s.ringsOf m, ∀ w ∈ (s.ring r).works, dCounterEn w.raw = false) →
      Gives (.counterArea m) s fun t => Answers t m 0 0 ∧ Tab.at t.qc.areas m = { placed := true, base := fieldAt b 8 8, log2 := byteAt b 0 }) ∧
  -- COUNTER_AREA: a counter area in HBM
  (∀ (m : Fin 18) (s : State) (b : Bytes) (base last : Nat), Takes s m 0x0405 → (s.box m).payload = b → 6 ≤ byteAt b 0 → byteAt b 0 ≤ 16 → base = fieldAt b 8 8 → base % 4096 = 0 →
      last = base + 8 * 2 ^ byteAt b 0 - 1 → dieOf base = s.dieId → dieOf last = s.dieId → bits (offOf base) 45 2 = 0 → s.populated (offOf last) = true →
      (∀ c < 32, s.chanOf (offOf base) ≤ c → c ≤ s.chanOf (offOf last) → s.chanOwner c = some m.val) → (∀ r ∈ s.ringsOf m, ∀ w ∈ (s.ring r).works, dCounterEn w.raw = false) →
      Gives (.counterArea m) s fun t => Answers t m 0 0 ∧ Tab.at t.qc.areas m = { placed := true, base := base, log2 := byteAt b 0 }) ∧
  -- CHORD_QUEUE: a chord queue
  (∀ (m : Fin 18) (s : State) (b : Bytes), Takes s m 0x0406 → (s.box m).payload = b → 4 ≤ byteAt b 0 → byteAt b 0 ≤ 10 → fieldAt b 8 8 % 4096 = 0 →
      s.inQualifying m (fieldAt b 8 8) (2048 * 2 ^ byteAt b 0) = true → (∀ i ∈ chordSlots m, (s.chord i).st = 0) →
      Gives (.chordQueue m) s fun t => Answers t m 0 0 ∧ (t.chq m).placed = true ∧ (t.chq m).base = fieldAt b 8 8 ∧ (t.chq m).sizeLog2 = byteAt b 0 ∧ (t.chq m).p = 0 ∧
        (t.chq m).c = 0 ∧ (t.chq m).stopped = false)

/-- Mailbox commands set windows, keys, packages, programs, schedules, vectors and replica sets. -/
def Obligations.KeysAndPrograms : Prop :=
  -- WINDOW_SET: a window set or cleared
  (∀ (m : Fin 18) (s : State) (b : Bytes) (w : Window), Takes s m 0x0501 → (s.box m).payload = b → byteAt b 0 < 64 →
      w = (if bit (byteAt b 1) 2 = true then { part := m, apOff := fieldAt b 8 8, sizeLog2 := byteAt b 2, target := fieldAt b 16 8, re := bit (byteAt b 1) 0, we := bit (byteAt b 1) 1, valid := true } else {}) →
      (bit (byteAt b 1) 2 = true → 21 ≤ byteAt b 2 ∧ byteAt b 2 ≤ 41 ∧ fieldAt b 8 8 + 2 ^ byteAt b 2 ≤ 2199023255552 ∧ s.windowsOk (Tab.put s.pt.windows (64 * m + byteAt b 0) w) = true) →
      Gives (.windowSet m) s fun t => Answers t m 0 0 ∧ Tab.at t.pt.windows (64 * m + byteAt b 0) = w) ∧
  -- KEY_SWITCH: the slot a scope uses
  (∀ (m : Fin 18) (s : State) (b : Bytes), Takes s m 0x0601 → (s.box m).payload = b → byteAt b 0 < 2 → byteAt b 1 < 2 → ((s.part m).slot (byteAt b 1)).st = .loaded →
      Gives (.keySwitch m) s fun t => Answers t m 0 0 ∧ t.part m = if byteAt b 0 = 0 then { s.part m with scope0 := byteAt b 1 } else { s.part m with scope1 := byteAt b 1 }) ∧
  -- REKEY: a re-key starts
  (∀ (m : Fin 18) (s : State) (b : Bytes) (items : List RekeyItem), Takes s m 0x0602 → (s.box m).payload = b →
      items = ((List.range (byteAt b 1)).map fun i => { asid := fieldAt (slice b (8 + 24 * i) 24) 0 2, va := fieldAt (slice b (8 + 24 * i) 24) 8 8, len := fieldAt (slice b (8 + 24 * i) 24) 16 8 }) →
      s.rekeyOk m (byteAt b 0) items = true →
      Gives (.rekey m) s fun t => Answers t m 0 0 ∧ ((t.part m).slot (byteAt b 0)).st = .retiring ∧
        (t.part m).rekey = { gen := byteAt b 0, items := items, hostPass := true, hbmPass := true, start := s.clk.fab }) ∧
  -- UNWRAP: a package whose key unwraps is being opened
  (∀ (m : Fin 18) (s : State) (b h : Bytes) (e : Nat × DeviceSet), Takes s m 0x0603 → (s.box m).payload = b → localAsid m (fieldAt b 0 2) = true → fieldAt h 0 4 = 0x4B50574B → fieldAt h 4 2 = 1 →
      0 < fieldAt h 128 8 → fieldAt h 128 8 ≤ 1099511627776 → ((s.part m).sets.find? fun e => e.2.valid && e.2.setId == slice h 8 16 && e.2.digest == slice h 24 48) = some e →
      Gives (.unwrap m (some h)) s fun t => match Config.aesUnwrap e.2.setKey (slice h 72 40) with
        | none => Answers t m 6 1
        | some key => Tab.at t.mc.unwraps m = { live := true, part := m, asid := fieldAt b 0 2, dest := fieldAt b 16 8, header := padTo 256 h, key := key }) ∧
  -- UNWRAP_DONE: its bytes are written when tag and digest match and zeroed otherwise
  (∀ (m : Fin 16) (s : State) (u : Unwrap) (data : Bytes), Tab.at s.mc.unwraps m = u → u.live = true → ((s.part m).st = 1 ∨ (s.part m).st = 2) →
      Gives (.unwrapDone m data) s fun t => match Config.gcmOpen u.key (slice u.header 112 12) (slice u.header 0 184) (data ++ slice u.header 184 16) with
        | none => Answers t m 6 1 ∧ Emission.mcZero m u.asid u.dest (fieldAt u.header 128 8) ∈ t.outbox
        | some plain =>
          if data.length = fieldAt u.header 128 8 ∧ Config.sha384 plain = slice u.header 136 48 then
            Answers t m 0 0 ∧ Emission.mcWrite m u.asid u.dest plain ∈ t.outbox ∧ (t.part m).measPkg = Config.sha384 ((s.part m).measPkg ++ slice u.header 136 48)
          else Answers t m 6 1 ∧ Emission.mcZero m u.asid u.dest (fieldAt u.header 128 8) ∈ t.outbox) ∧
  -- PROGRAM_LOAD: a program is sent and measured
  (∀ (m : Fin 18) (s : State) (b d : Bytes), Takes s m 0x0604 → (s.box m).payload = b → localAsid m (fieldAt b 0 2) = true →
      Gives (.programLoad m (some d)) s fun t => Answers t m 0 0 ∧ Emission.program m d ∈ t.outbox ∧ (t.part m).measProg = Config.sha384 ((s.part m).measProg ++ Config.sha384 d)) ∧
  -- SCHED_LOAD: a schedule
  (∀ (m : Fin 18) (s : State) (b : Bytes) (l : List (Nat × Nat)), Takes s m 0x0701 → (s.box m).payload = b → byteAt b 0 < 4 → 1 ≤ byteAt b 1 → byteAt b 1 ≤ 64 →
      l = ((List.range (byteAt b 1)).map fun i => (fieldAt b (8 + 8 * i + 4) 4, fieldAt b (8 + 8 * i) 4)) → strictlyRising l = true →
      Gives (.schedLoad m) s fun t => Answers t m 0 0 ∧ Tab.at t.rk.scheds (4 * m + byteAt b 0) = l) ∧
  -- TC_FLUSH: no line of the partition keeps its KEEP mark
  (∀ (m : Fin 18) (s : State), Takes s m 0x0703 →
      Gives (.tcFlush m) s fun t => Answers t m 0 0 ∧ ∀ j, (Tab.at t.tier.lines j).part = m → (Tab.at t.tier.lines j).keep = false) ∧
  -- VECTOR_SET: a vector's address, data and route
  (∀ (m : Fin 18) (s : State) (b : Bytes), Takes s m 0x0801 → (s.box m).payload = b → fieldAt b 0 2 < 512 → byteAt b 2 < 2 → fieldAt b 8 8 % 4 = 0 → fieldAt b 8 8 < 562949953421312 →
      (s.px.rootPort = true → byteAt b 2 ≠ 0) →
      Gives (.vectorSet m) s fun t => Answers t m 0 0 ∧ Tab.at t.px.hostVec (512 * m + fieldAt b 0 2) = { set := true, addr := fieldAt b 8 8, data := fieldAt b 4 4 } ∧
        Tab.at t.px.routePcie m = (byteAt b 2 == 0)) ∧
  -- TALLY_COMMIT: a commit asked for by a mailbox
  (∀ (m : Fin 18) (s : State), Takes s m 0x0901 →
      Gives (.tallyCommit m) s fun t => t.tally.asks = s.tally.asks ++ [(t.tally.pulses.length, some m.val)] ∧ ∀ k, (Tab.at t.tally.acc k).amount = 0) ∧
  -- REPLICA_SET: an owner's replica set
  (∀ (m : Fin 18) (s : State) (b : Bytes) (x : ReplicaSet), Takes s m 0x0702 → (s.box m).payload = b → byteAt b 0 < 8 → byteAt b 1 = 0 →
      x = { valid := true, member := false, asid := fieldAt b 2 2, fmt := byteAt b 4, mx := byteAt b 5 == 1, sr := byteAt b 6 == 1, ownerDie := byteAt b 7, wcopy := fieldAt b 8 8 % 2 ^ 57, fprint := fieldAt b 16 8 % 2 ^ 57, n := fieldAt b 24 8, master := fieldAt b 32 8 % 2 ^ 57, masterFmt := byteAt b 40, mask := fieldAt b 41 2, seed := fieldAt b 48 8, table := fieldAt b 56 8, note := fieldAt b 64 8 } →
      localAsid m x.asid = true → 1 ≤ x.n → x.n ≤ 2 ^ 36 → byteAt b 5 < 2 → byteAt b 6 < 2 → wcFmtOk x.fmt x.mx = true →
      (∀ e ∈ s.rk.sets, e.1 / 8 = m.val → e.1 ≠ 8 * m + byteAt b 0 → e.2.valid = true → e.2.wcopy ≠ x.wcopy) →
      bit x.mask (s.dieId - 4) = false → (∀ i ∈ maskBits 16 x.mask, s.reported (4 + i) = true) → (x.masterFmt = 0 ∨ x.masterFmt = 10) →
      x.table % 16 = 0 → s.inReadable m x.table 256 = true → x.note % 32 = 0 → s.inQualifying m x.note 32 = true →
      (∀ e ∈ s.rk.queue, e.1 / 64 = m.val → e.2.valid = true → e.2.set ≠ byteAt b 0) →
      Gives (.replicaSet m) s fun t => Answers t m 0 0 ∧ Tab.at t.rk.sets (8 * m + byteAt b 0) = x) ∧
  -- REPLICA_SET: a member's replica set
  (∀ (m : Fin 18) (s : State) (b : Bytes) (x : ReplicaSet), Takes s m 0x0702 → (s.box m).payload = b → byteAt b 0 < 8 → byteAt b 1 = 1 →
      x = { valid := true, member := true, asid := fieldAt b 2 2, fmt := byteAt b 4, mx := byteAt b 5 == 1, sr := byteAt b 6 == 1, ownerDie := byteAt b 7, wcopy := fieldAt b 8 8 % 2 ^ 57, fprint := fieldAt b 16 8 % 2 ^ 57, n := fieldAt b 24 8, master := fieldAt b 32 8 % 2 ^ 57, masterFmt := byteAt b 40, mask := fieldAt b 41 2, seed := fieldAt b 48 8, table := fieldAt b 56 8, note := fieldAt b 64 8 } →
      localAsid m x.asid = true → 1 ≤ x.n → x.n ≤ 2 ^ 36 → byteAt b 5 < 2 → byteAt b 6 < 2 → wcFmtOk x.fmt x.mx = true →
      (∀ e ∈ s.rk.sets, e.1 / 8 = m.val → e.1 ≠ 8 * m + byteAt b 0 → e.2.valid = true → e.2.wcopy ≠ x.wcopy) → 4 ≤ x.ownerDie → x.ownerDie < 20 →
      (∀ e ∈ s.rk.queue, e.1 / 64 = m.val → e.2.valid = true → e.2.set ≠ byteAt b 0) →
      Gives (.replicaSet m) s fun t => Answers t m 0 0 ∧ Tab.at t.rk.sets (8 * m + byteAt b 0) = x) ∧
  -- REPLICA_SET: a set removed
  (∀ (m : Fin 18) (s : State) (b : Bytes), Takes s m 0x0702 → (s.box m).payload = b → byteAt b 0 < 8 → byteAt b 1 = 2 →
      (∀ e ∈ s.rk.queue, e.1 / 64 = m.val → e.2.valid = true → e.2.set ≠ byteAt b 0) →
      Gives (.replicaSet m) s fun t => Answers t m 0 0 ∧ (Tab.at t.rk.sets (8 * m + byteAt b 0)).valid = false)

/-- Mailbox commands retrain modules, reach devices, stage and activate firmware, and set units and modes. -/
def Obligations.ModulesAndFirmware : Prop :=
  -- MODULE_RETRAIN: a module back to SB_INIT
  (∀ (m : Fin 18) (s : State) (b : Bytes), Takes s m 0x0A01 → (s.box m).payload = b → byteAt b 0 < 24 → (s.mod (byteAt b 0)).st ≠ 0 → (s.mod (byteAt b 0)).st ≠ 1 →
      Gives (.moduleRetrain m) s fun t => Answers t m 0 0 ∧ (t.mod (byteAt b 0)).st = 2) ∧
  -- RP_CONFIG: a downstream configuration request
  (∀ (m : Fin 18) (s : State) (b : Bytes), Takes s m 0x0A02 → (s.box m).payload = b → fieldAt b 2 2 % 4 = 0 → fieldAt b 2 2 < 4096 → byteAt b 4 < 2 →
      (byteAt b 5 = 1 ∨ byteAt b 5 = 2 ∨ byteAt b 5 = 4) → s.px.rootPort = true → (m.val < 16 → s.assignedTo (fieldAt b 0 2) = some m.val) → s.px.frozen = false → s.px.rpNow = none → s.px.rpWait = [] →
      Gives (.rpConfig m) s fun t => Emission.downstream true (byteAt b 4 == 1) (fieldAt b 0 2) (fieldAt b 2 2) (byteAt b 5) (fieldAt b 8 4) ∈ t.outbox ∧
        t.px.rpNow = some { mailbox := m, config := true, write := byteAt b 4 == 1, target := fieldAt b 0 2, reg := fieldAt b 2 2, size := byteAt b 5, value := fieldAt b 8 4, start := s.clk.px }) ∧
  -- RP_MEMORY: a downstream memory request
  (∀ (m : Fin 18) (s : State) (b : Bytes), Takes s m 0x0A03 → (s.box m).payload = b → byteAt b 2 < 2 → 1 ≤ byteAt b 3 → byteAt b 3 ≤ 8 →
      s.px.rootPort = true → (m.val < 16 → s.assignedTo (fieldAt b 0 2) = some m.val) → s.px.frozen = false → s.px.rpNow = none → s.px.rpWait = [] →
      Gives (.rpMemory m) s fun t => Emission.downstream false (byteAt b 2 == 1) (fieldAt b 8 8) (fieldAt b 0 2) (byteAt b 3) (fieldAt b 16 8) ∈ t.outbox ∧
        t.px.rpNow = some { mailbox := m, config := false, write := byteAt b 2 == 1, target := fieldAt b 8 8, reg := fieldAt b 0 2, size := byteAt b 3, value := fieldAt b 16 8, start := s.clk.px }) ∧
  -- TEST_LOOPBACK: a host module's loopback outside MISSION
  (∀ (m : Fin 18) (s : State) (b : Bytes), Takes s m 0x0A04 → (s.box m).payload = b → byteAt b 0 < 4 → byteAt b 1 < 2 → s.mc.mode ≠ 0 →
      Gives (.testLoopback m) s fun t => Answers t m 0 0 ∧ t.mod (byteAt b 0) = { s.mod (byteAt b 0) with loopback := byteAt b 1 == 1 }) ∧
  -- FW_STAGE: the first staged piece
  (∀ (m : Fin 18) (s : State) (b : Bytes) (n : Nat), Takes s m 0x0B03 → (s.box m).payload = b → n = fieldAt b 4 4 → 1 ≤ n → n ≤ 8192 → fieldAt b 0 4 = 0 →
      Gives (.fwStage m) s fun t => Answers t m 0 0 ∧ t.mc.fw.owner = some m.val ∧ t.mc.fw.verified = false ∧ t.mc.fw.stagedLen = n ∧
        t.mc.fw.staged = Tab.writeBytes [] 0 (slice b 8 n) ∧ Emission.flash s.spareBank 0 (slice b 8 n) ∈ t.outbox) ∧
  -- FW_STAGE: a further piece
  (∀ (m : Fin 18) (s : State) (b : Bytes) (o n : Nat), Takes s m 0x0B03 → (s.box m).payload = b → n = fieldAt b 4 4 → o = fieldAt b 0 4 → 1 ≤ n → n ≤ 8192 → o ≠ 0 → o + n ≤ 4194304 →
      s.mc.fw.owner = some m.val →
      Gives (.fwStage m) s fun t => Answers t m 0 0 ∧ t.mc.fw.owner = some m.val ∧ t.mc.fw.stagedLen = max s.mc.fw.stagedLen (o + n) ∧
        t.mc.fw.staged = Tab.writeBytes s.mc.fw.staged o (slice b 8 n) ∧ Emission.flash s.spareBank o (slice b 8 n) ∈ t.outbox) ∧
  -- FW_VERIFY: the manifest's checks
  (∀ (m : Fin 18) (s : State), Takes s m 0x0B04 → s.mc.fw.owner = some m.val →
      Gives (.fwVerify m) s fun t =>
        match manifestFault (Tab.readBytes s.mc.fw.staged 0 352) (Config.sha384 (Tab.readBytes s.mc.fw.staged 352 (s.mc.fw.stagedLen - 352))) s.mc.fw.svnMin with
        | 0 => Answers t m 0 0 ∧ t.mc.fw = { s.mc.fw with verified := true }
        | d => Answers t m 6 d ∧ t.mc.fw = s.mc.fw) ∧
  -- FW_ACTIVATE: the staged bank and the security version
  (∀ (m : Fin 18) (s : State) (b : Bytes) (up : Bool), Takes s m 0x0B05 → (s.box m).payload = b → s.mc.fw.owner = some m.val → s.mc.fw.verified = true →
      up = (bit (byteAt b 0) 0 && decide (s.mc.fw.svnMin < mSvn (Tab.readBytes s.mc.fw.staged 0 352))) → (up = true → s.mc.fw.raises < 32) →
      Gives (.fwActivate m) s fun t => Answers t m 0 0 ∧ t.mc.fw.active = s.spareBank ∧ t.mc.fw.raises = s.mc.fw.raises + b2n up ∧
        t.mc.fw.svnMin = if up then mSvn (Tab.readBytes s.mc.fw.staged 0 352) else s.mc.fw.svnMin) ∧
  -- UNIT_ADMIT: a unit restricted further
  (∀ (m : Fin 18) (s : State) (b : Bytes) (u : Nat), Takes s m 0x0B06 → (s.box m).payload = b → u = fieldAt b 0 2 → realUnit u = true → byteAt b 2 < 4 →
      (byteAt b 2 = 3 ∨ (s.unit u).mcAdmit < byteAt b 2) →
      Gives (.unitAdmit m) s fun t => Answers t m 0 0 ∧ (t.unit u).mcAdmit = byteAt b 2 ∧ (t.unit u).intended = byteAt b 2 ∧ (t.unit u).qMc = (byteAt b 2 == 3 || (s.unit u).qMc)) ∧
  -- UNIT_ADMIT: a unit not relaxed with a stale epoch
  (∀ (m : Fin 18) (s : State) (b : Bytes) (u : Nat), Takes s m 0x0B06 → (s.box m).payload = b → u = fieldAt b 0 2 → realUnit u = true → byteAt b 2 < 3 →
      byteAt b 2 ≤ (s.unit u).mcAdmit → fieldAt b 4 2 ≠ (s.unit u).epoch →
      Gives (.unitAdmit m) s fun t => Answers t m 2 4 ∧ t.unit u = s.unit u) ∧
  -- MODE_SET: the mode
  (∀ (m : Fin 18) (s : State) (b : Bytes), Takes s m 0x0B08 → (s.box m).payload = b → byteAt b 0 < 4 → (∀ p < 16, (s.part p).st = 0) →
      (byteAt b 0 = 2 → s.ec.testMode = true) → (byteAt b 0 = 0 → s.mc.rd.st = 2) →
      Gives (.modeSet m) s fun t => Answers t m 0 0 ∧ t.mc.mode = byteAt b 0)

/-- What the translation, invalidation and chord commands leave unchanged. -/
def Obligations.TranslationFrames : Prop :=
  -- CHORD_HEADER_FETCH
  (∀ (p : Fin 16) (s t : State), exec (.chordHeaderFetch p) s = .next t → Same [.pt, .ch, .ec, .tally, .reqs, .nextReq] s t ∧ t.quiet = s.quiet) ∧
  -- CHORD_HEADER_RETURN
  (∀ (p : Fin 16) (res : RdRes) (s t : State), exec (.chordHeaderReturn p res) s = .next t → Same [.pt, .xl, .ch, .ec, .tally, .mc, .px, .reqs, .nextReq, .outbox] s t ∧ t.quiet = s.quiet) ∧
  -- CHORD_BACKOFF_EXPIRY
  (∀ (p : Fin 16) (s t : State), exec (.chordBackoffExpiry p) s = .next t → Same [.pt, .ch, .ec, .tally, .reqs, .nextReq] s t ∧ t.quiet = s.quiet) ∧
  -- CHORD_TAKE
  (∀ (p : Fin 16) (lines : List RdRes) (s t : State), exec (.chordTake p lines) s = .next t → Same [.pt, .xl, .ch, .ec, .reqs] s t ∧ t.quiet = s.quiet) ∧
  -- CHORD_COMMIT
  (∀ (p : Fin 16) (s t : State), exec (.chordCommit p) s = .next t → Same [.pt, .xl, .qc, .tier, .rk, .ch, .ec, .tally, .mc, .px, .reqs, .nextReq, .outbox] s t ∧ t.quiet = s.quiet) ∧
  -- CHORD_TIMEOUT
  (∀ (k : Fin 64) (s t : State), exec (.chordTimeout k) s = .next t → Same [.ch] s t) ∧
  -- CHORD_STATUS_WRITE
  (∀ (k : Fin 64) (s t : State), exec (.chordStatusWrite k) s = .next t → Same [.pt, .tier, .ch, .ec, .tally, .reqs, .nextReq] s t ∧ t.quiet = s.quiet) ∧
  -- CHORD_OWN_CLEAR
  (∀ (k : Fin 64) (ack : WrRes) (s t : State), exec (.chordOwnClear k ack) s = .next t → Same [.pt, .xl, .tier, .ch, .ec, .tally, .reqs, .nextReq] s t ∧ t.quiet = s.quiet) ∧
  -- CHORD_NOTE_WRITE
  (∀ (k : Fin 64) (ack : WrRes) (s t : State), exec (.chordNoteWrite k ack) s = .next t → Same [.pt, .xl, .tier, .ch, .ec, .tally, .reqs, .nextReq] s t ∧ t.quiet = s.quiet) ∧
  -- WALK_START
  (∀ (p : Fin 16) (s t : State), exec (.walkStart p) s = .next t → Same [.pt, .xl, .qc, .tier, .rk, .ec, .links, .tally, .reqs, .nextReq, .free, .outbox] s t ∧ t.quiet = s.quiet) ∧
  -- WALK_READ_RETURN
  (∀ (walk : Nat) (res : RdRes) (s t : State), exec (.walkReadReturn walk res) s = .next t → Same [.pt, .xl, .qc, .tier, .rk, .ec, .links, .tally, .reqs, .nextReq, .free, .outbox] s t ∧ t.quiet = s.quiet) ∧
  -- WALK_READ_TIMEOUT
  (∀ (walk : Nat) (s t : State), exec (.walkReadTimeout walk) s = .next t → Same [.pt, .xl, .qc, .tier, .rk, .ec, .links, .tally, .reqs, .nextReq, .free, .outbox] s t ∧ t.quiet = s.quiet) ∧
  -- AD_UPDATE_OWNED_READ_RETURN
  (∀ (walk : Nat) (res : RdRes) (s t : State), exec (.adUpdateOwnedReadReturn walk res) s = .next t → Same [.pt, .xl, .qc, .tier, .rk, .ec, .links, .tally, .reqs, .nextReq, .free, .outbox] s t ∧ t.quiet = s.quiet) ∧
  -- INVALIDATION_ENTRY_FETCH
  (∀ (p : Fin 16) (s t : State), exec (.invalidationEntryFetch p) s = .next t → Same [.pt, .xl, .ec, .tally, .reqs, .nextReq] s t ∧ t.quiet = s.quiet) ∧
  -- INVALIDATION_ENTRY_RETURN
  (∀ (p : Fin 16) (res : RdRes) (s t : State), exec (.invalidationEntryReturn p res) s = .next t → Same [.pt, .xl, .ec, .reqs] s t ∧ t.quiet = s.quiet) ∧
  -- INVALIDATION_REFETCH_BACKOFF_EXPIRY
  (∀ (p : Fin 16) (s t : State), exec (.invalidationRefetchBackoffExpiry p) s = .next t → Same [.pt, .xl, .ec, .tally, .reqs, .nextReq] s t ∧ t.quiet = s.quiet) ∧
  -- INVALIDATION_CUT
  (∀ (p : Fin 16) (s t : State), exec (.invalidationCut p) s = .next t → Same [.xl, .reqs] s t) ∧
  -- INVALIDATION_ACKNOWLEDGE
  (∀ (inval : Nat) (s t : State), exec (.invalidationAcknowledge inval) s = .next t → Same [.pt, .xl, .tier, .ch, .ec, .tally, .mc, .px, .reqs, .nextReq, .outbox] s t ∧ t.quiet = s.quiet) ∧
  -- INVALIDATION_DRAIN_LIMIT_EXPIRY
  (∀ (inval : Nat) (s t : State), exec (.invalidationDrainLimitExpiry inval) s = .next t → Same [.xl, .ec] s t ∧ t.quiet = s.quiet)

/-- What the error, scrub, re-key and tenant commands leave unchanged. -/
def Obligations.KeyFrames : Prop :=
  -- ERROR_LATCH
  (∀ (e : ErrorEv) (s t : State), exec (.errorLatch e) s = .next t → Same [.pt, .ec, .units, .mc, .px, .reqs, .outbox] s t) ∧
  -- GRACE_EXPIRY
  (∀ (src : Fin 16) (s t : State), exec (.graceExpiry src) s = .next t → Same [.pt, .ec, .units, .mc, .px, .reqs, .outbox] s t) ∧
  -- EC_STATUS_CLEAR
  (∀ (w : Word) (s t : State), exec (.ecStatusClear w) s = .next t → Same [.pt, .ec, .units, .mc, .px, .outbox] s t) ∧
  -- QUIET_EXPIRY
  (∀ (src : Fin 16) (s t : State), exec (.quietExpiry src) s = .next t → Same [.pt, .ec, .units, .mc, .px, .outbox] s t) ∧
  -- EC_INJECT
  (∀ (w : Word) (s t : State), exec (.ecInject w) s = .next t → Same [.pt, .ec, .units, .mc, .px, .reqs, .outbox] s t) ∧
  -- ALIVE_TOGGLE
  (∀ (s t : State), exec .aliveToggle s = .next t → Same [.ec] s t) ∧
  -- RECONCILE_PASS
  (∀ (s t : State), exec .reconcilePass s = .next t → Same [.pt, .units, .mc, .px, .outbox] s t) ∧
  -- REGISTER_WRITE
  (∀ (via : Option (Option (BitVec 20))) (off : BitVec 26) (n : Nat) (value : Word) (s t : State), exec (.registerWrite via off n value) s = .next t → Same [.pt, .xl, .qc, .tier, .rk, .ec, .units, .links, .tally, .mc, .px, .reqs, .outbox] s t) ∧
  -- SCRUB_QUIESCE_END
  (∀ (p : Fin 16) (s t : State), exec (.scrubQuiesceEnd p) s = .next t → Same [.pt, .xl, .qc, .tier, .links, .mc, .px, .reqs, .outbox] s t ∧ t.quiet = s.quiet) ∧
  -- SCRUB_ZERO_END
  (∀ (p : Fin 16) (s t : State), exec (.scrubZeroEnd p) s = .next t → Same [.pt, .xl, .qc, .tier, .rk, .ch, .reqs, .outbox] s t) ∧
  -- SCRUB_CLOSE_END
  (∀ (p : Fin 16) (s t : State), exec (.scrubCloseEnd p) s = .next t → Same [.pt, .units, .links, .tally, .mc, .px, .outbox] s t ∧ t.quiet = s.quiet) ∧
  -- REKEY_PAGE_LOCK
  (∀ (p : Fin 16) (leaf : Option FoundLeaf) (s t : State), exec (.rekeyPageLock p leaf) s = .next t → Same [.pt, .xl, .reqs] s t) ∧
  -- REKEY_PAGE_PUSHES_DONE
  (∀ (p : Fin 16) (old : Bytes) (s t : State), exec (.rekeyPagePushesDone p old) s = .next t → Same [.pt, .tier, .tally, .reqs, .nextReq, .outbox] s t ∧ t.quiet = s.quiet) ∧
  -- REKEY_PAGE_UNLOCK
  (∀ (p : Fin 16) (s t : State), exec (.rekeyPageUnlock p) s = .next t → Same [.pt, .xl, .reqs] s t) ∧
  -- HBM_PASS_END
  (∀ (p : Fin 16) (s t : State), exec (.hbmPassEnd p) s = .next t → Same [.pt] s t) ∧
  -- KEY_SLOT_RETIRE
  (∀ (p : Fin 16) (g : Fin 2) (s t : State), exec (.keySlotRetire p g) s = .next t → Same [.pt, .mc, .px, .outbox] s t ∧ t.quiet = s.quiet) ∧
  -- HBM_CHANNEL_SIZE_REPORT
  (∀ (log2 : Fin 46) (s t : State), exec (.hbmChannelSizeReport log2) s = .next t → Same [.pt] s t) ∧
  -- SPDM_REQUEST
  (∀ (doe : Bool) (session : Option Nat) (code : SpdmCode) (body : Bytes) (s t : State), exec (.spdmRequest doe session code body) s = .next t → Same [.pt, .xl, .qc, .tier, .rk, .ch, .units, .links, .tally, .mc, .px, .reqs, .nextReq, .free, .outbox] s t) ∧
  -- CLAIM
  (∀ (session : Nat) (payload : Bytes) (s t : State), exec (.claim session payload) s = .next t → Same [.pt, .xl, .qc, .tier, .rk, .ch, .units, .links, .tally, .mc, .px, .reqs, .nextReq, .outbox] s t ∧ t.quiet = s.quiet) ∧
  -- KEY_LOAD
  (∀ (session : Nat) (payload : Bytes) (s t : State), exec (.keyLoad session payload) s = .next t → Same [.pt, .xl, .qc, .tier, .rk, .ch, .units, .links, .tally, .mc, .px, .reqs, .nextReq, .outbox] s t ∧ t.quiet = s.quiet) ∧
  -- SET_PROVISION
  (∀ (session : Nat) (payload : Bytes) (s t : State), exec (.setProvision session payload) s = .next t → Same [.pt, .xl, .qc, .tier, .rk, .ch, .units, .links, .tally, .mc, .px, .reqs, .nextReq, .outbox] s t ∧ t.quiet = s.quiet) ∧
  -- SET_REVOKE
  (∀ (session : Nat) (payload : Bytes) (s t : State), exec (.setRevoke session payload) s = .next t → Same [.pt, .xl, .qc, .tier, .rk, .ch, .units, .links, .tally, .mc, .px, .reqs, .nextReq, .outbox] s t ∧ t.quiet = s.quiet) ∧
  -- RELEASE
  (∀ (session : Nat) (payload : Bytes) (s t : State), exec (.release session payload) s = .next t → Same [.pt, .xl, .qc, .tier, .rk, .ch, .units, .links, .tally, .mc, .px, .reqs, .nextReq, .outbox] s t ∧ t.quiet = s.quiet)

/-- What the link commands leave unchanged. -/
def Obligations.LinkFrames : Prop :=
  -- SIDEBAND_UP
  (∀ (k : Fin 24) (s t : State), exec (.sidebandUp k) s = .next t → Same [.units, .links, .mc, .px, .outbox] s t ∧ t.quiet = s.quiet) ∧
  -- MAINBAND_TRAINED
  (∀ (k : Fin 24) (lo : Fin 33) (hi : Fin 33) (s t : State), exec (.mainbandTrained k lo hi) s = .next t → Same [.pt, .xl, .qc, .tier, .rk, .ec, .units, .links, .tally, .mc, .px, .reqs, .nextReq, .free, .outbox] s t ∧ t.quiet = s.quiet) ∧
  -- PARAM_FLIT_RECEIVE
  (∀ (k : Fin 24) (b : Bytes) (s t : State), exec (.paramFlitReceive k b) s = .next t → Same [.pt, .xl, .qc, .tier, .rk, .ec, .units, .links, .tally, .mc, .px, .reqs, .nextReq, .free, .outbox] s t ∧ t.quiet = s.quiet) ∧
  -- TRAINING_LIMIT_EXPIRY
  (∀ (k : Fin 24) (s t : State), exec (.trainingLimitExpiry k) s = .next t → Same [.pt, .xl, .qc, .tier, .rk, .ec, .units, .links, .tally, .mc, .px, .reqs, .nextReq, .free, .outbox] s t ∧ t.quiet = s.quiet) ∧
  -- RETRAIN_COMPLETE
  (∀ (k : Fin 24) (lo : Fin 33) (hi : Fin 33) (b : Bytes) (s t : State), exec (.retrainComplete k lo hi b) s = .next t → Same [.pt, .xl, .qc, .tier, .rk, .ec, .units, .links, .tally, .mc, .px, .reqs, .nextReq, .free, .outbox] s t ∧ t.quiet = s.quiet) ∧
  -- PAYLOAD_FLIT_RECEIVE
  (∀ (m : Fin 20) (b : Bytes) (s t : State), exec (.payloadFlitReceive m b) s = .next t → Same [.pt, .xl, .qc, .tier, .rk, .ec, .links, .tally, .mc, .px, .reqs, .nextReq, .free, .outbox] s t ∧ t.quiet = s.quiet) ∧
  -- FLIT_CRC_ERROR
  (∀ (k : Fin 24) (b : Bytes) (s t : State), exec (.flitCrcError k b) s = .next t → Same [.links, .outbox] s t) ∧
  -- NAK_REPEAT_EXPIRY
  (∀ (m : Fin 20) (s t : State), exec (.nakRepeatExpiry m) s = .next t → Same [.links, .outbox] s t) ∧
  -- NAK_RECEIVE
  (∀ (k : Fin 24) (b : Bytes) (s t : State), exec (.nakReceive k b) s = .next t → Same [.pt, .units, .links, .tally, .mc, .px, .outbox] s t ∧ t.quiet = s.quiet) ∧
  -- REPLAY_TIMEOUT
  (∀ (m : Fin 20) (s t : State), exec (.replayTimeout m) s = .next t → Same [.units, .links, .mc, .px, .outbox] s t ∧ t.quiet = s.quiet) ∧
  -- RESP_FLIT_RECEIVE
  (∀ (m : Fin 20) (b : Bytes) (s t : State), exec (.respFlitReceive m b) s = .next t → Same [.pt, .xl, .qc, .tier, .rk, .ec, .links, .tally, .mc, .px, .reqs, .nextReq, .free, .outbox] s t ∧ t.quiet = s.quiet) ∧
  -- INBOUND_WRITE_ACK
  (∀ (id : Nat) (res : WrRes) (s t : State), exec (.inboundWriteAck id res) s = .next t → Same [.pt, .xl, .links, .tally, .reqs, .outbox] s t ∧ t.quiet = s.quiet) ∧
  -- MESSAGE_TIMEOUT
  (∀ (tag : Fin 65536) (s t : State), exec (.messageTimeout tag) s = .next t → Same [.links, .mc, .px, .outbox] s t ∧ t.quiet = s.quiet) ∧
  -- TEST_FLIT_RECEIVE
  (∀ (k : Fin 24) (b : Bytes) (s t : State), exec (.testFlitReceive k b) s = .next t → Same [.pt, .links, .tally, .outbox] s t ∧ t.quiet = s.quiet) ∧
  -- LINK_LOW_POWER_ENTRY
  (∀ (k : Fin 24) (s t : State), exec (.linkLowPowerEntry k) s = .next t → Same [.units, .links, .mc, .px, .outbox] s t ∧ t.quiet = s.quiet) ∧
  -- LINK_LOW_POWER_EXIT
  (∀ (k : Fin 24) (s t : State), exec (.linkLowPowerExit k) s = .next t → Same [.pt, .units, .links, .tally, .mc, .px, .outbox] s t ∧ t.quiet = s.quiet) ∧
  -- TG_CTRL_WRITE
  (∀ (k : Fin 24) (w : Word) (s t : State), exec (.tgCtrlWrite k w) s = .next t → Same [.links] s t) ∧
  -- TEST_FLIT_GENERATE
  (∀ (k : Fin 24) (s t : State), exec (.testFlitGenerate k) s = .next t → Same [.links, .outbox] s t) ∧
  -- IDLE_FLIT_RECEIVE
  (∀ (k : Fin 24) (b : Bytes) (s t : State), exec (.idleFlitReceive k b) s = .next t → Same [.pt, .links, .tally, .outbox] s t ∧ t.quiet = s.quiet) ∧
  -- OUT_OF_ORDER_FLIT
  (∀ (m : Fin 20) (b : Bytes) (s t : State), exec (.outOfOrderFlit m b) s = .next t → Same [.pt, .links, .tally, .outbox] s t ∧ t.quiet = s.quiet)

/-- What the mailbox commands leave unchanged. -/
def Obligations.MailboxFrames : Prop :=
  -- MAILBOX_GO
  (∀ (m : Fin 17) (s t : State), exec (.mailboxGo m) s = .next t → Same [.mc, .px, .outbox] s t ∧ t.quiet = s.quiet) ∧
  -- MCTP_REQUEST
  (∀ (body : Bytes) (s t : State), exec (.mctpRequest body) s = .next t → Same [.mc, .px, .outbox] s t ∧ t.quiet = s.quiet) ∧
  -- I3C_ADDRESS_ASSIGN
  (∀ (addr : BitVec 7) (s t : State), exec (.i3cAddressAssign addr) s = .next t → Same [.mc] s t) ∧
  -- PART_CREATE
  (∀ (m : Fin 18) (s t : State), exec (.partCreate m) s = .next t → Same [.pt, .xl, .units, .tally, .mc, .px, .reqs, .outbox] s t) ∧
  -- PART_ACTIVATE
  (∀ (m : Fin 18) (s t : State), exec (.partActivate m) s = .next t → Same [.pt, .mc, .px, .outbox] s t) ∧
  -- PART_DESTROY
  (∀ (m : Fin 18) (s t : State), exec (.partDestroy m) s = .next t → Same [.pt, .xl, .qc, .tier, .rk, .ch, .units, .links, .tally, .mc, .px, .reqs, .nextReq, .outbox] s t) ∧
  -- REG_SET
  (∀ (m : Fin 18) (s t : State), exec (.regSet m) s = .next t → Same [.pt, .mc, .px, .outbox] s t) ∧
  -- HOST_RANGE_SET
  (∀ (m : Fin 18) (s t : State), exec (.hostRangeSet m) s = .next t → Same [.pt, .mc, .px, .outbox] s t) ∧
  -- PASID_BIND
  (∀ (m : Fin 18) (s t : State), exec (.pasidBind m) s = .next t → Same [.pt, .mc, .px, .outbox] s t) ∧
  -- PF_WIN_BASE
  (∀ (m : Fin 18) (s t : State), exec (.pfWinBase m) s = .next t → Same [.pt, .mc, .px, .outbox] s t) ∧
  -- VF_WIN_BASE
  (∀ (m : Fin 18) (s t : State), exec (.vfWinBase m) s = .next t → Same [.pt, .mc, .px, .outbox] s t) ∧
  -- SHARED_REGISTER
  (∀ (m : Fin 18) (s t : State), exec (.sharedRegister m) s = .next t → Same [.pt, .mc, .px, .outbox] s t) ∧
  -- RP_ASSIGN
  (∀ (m : Fin 18) (s t : State), exec (.rpAssign m) s = .next t → Same [.mc, .px, .outbox] s t) ∧
  -- ASID_BIND
  (∀ (m : Fin 18) (s t : State), exec (.asidBind m) s = .next t → Same [.xl, .mc, .px, .reqs, .outbox] s t) ∧
  -- INVQ_PLACE
  (∀ (m : Fin 18) (s t : State), exec (.invqPlace m) s = .next t → Same [.xl, .mc, .px, .reqs, .outbox] s t) ∧
  -- DRAIN_LIMIT
  (∀ (m : Fin 18) (s t : State), exec (.drainLimit m) s = .next t → Same [.xl, .mc, .px, .outbox] s t) ∧
  -- INVALIDATE
  (∀ (m : Fin 18) (s t : State), exec (.invalidate m) s = .next t → Same [.xl, .mc, .px, .reqs, .outbox] s t) ∧
  -- FQ_PLACE
  (∀ (m : Fin 18) (s t : State), exec (.fqPlace m) s = .next t → Same [.qc, .mc, .px, .outbox] s t) ∧
  -- FAULT_TIMEOUT
  (∀ (m : Fin 18) (s t : State), exec (.faultTimeout m) s = .next t → Same [.qc, .mc, .px, .outbox] s t) ∧
  -- RING_CONFIGURE
  (∀ (m : Fin 18) (s t : State), exec (.ringConfigure m) s = .next t → Same [.qc, .mc, .px, .outbox] s t) ∧
  -- RING_ENABLE
  (∀ (m : Fin 18) (s t : State), exec (.ringEnable m) s = .next t → Same [.qc, .mc, .px, .outbox] s t) ∧
  -- RING_DISABLE
  (∀ (m : Fin 18) (s t : State), exec (.ringDisable m) s = .next t → Same [.pt, .xl, .qc, .tier, .rk, .ec, .tally, .mc, .px, .reqs, .nextReq, .outbox] s t) ∧
  -- CQ_PLACE
  (∀ (m : Fin 18) (s t : State), exec (.cqPlace m) s = .next t → Same [.qc, .mc, .px, .outbox] s t) ∧
  -- COUNTER_AREA
  (∀ (m : Fin 18) (s t : State), exec (.counterArea m) s = .next t → Same [.qc, .mc, .px, .outbox] s t) ∧
  -- CHORD_QUEUE
  (∀ (m : Fin 18) (s t : State), exec (.chordQueue m) s = .next t → Same [.ch, .mc, .px, .outbox] s t) ∧
  -- WINDOW_SET
  (∀ (m : Fin 18) (s t : State), exec (.windowSet m) s = .next t → Same [.pt, .mc, .px, .outbox] s t) ∧
  -- KEY_SWITCH
  (∀ (m : Fin 18) (s t : State), exec (.keySwitch m) s = .next t → Same [.pt, .mc, .px, .outbox] s t) ∧
  -- REKEY
  (∀ (m : Fin 18) (s t : State), exec (.rekey m) s = .next t → Same [.pt, .mc, .px, .outbox] s t) ∧
  -- UNWRAP
  (∀ (m : Fin 18) (header : Option Bytes) (s t : State), exec (.unwrap m header) s = .next t → Same [.mc, .px, .outbox] s t) ∧
  -- UNWRAP_DONE
  (∀ (m : Fin 16) (data : Bytes) (s t : State), exec (.unwrapDone m data) s = .next t → Same [.pt, .mc, .px, .outbox] s t) ∧
  -- PROGRAM_LOAD
  (∀ (m : Fin 18) (image : Option Bytes) (s t : State), exec (.programLoad m image) s = .next t → Same [.pt, .mc, .px, .outbox] s t) ∧
  -- SCHED_LOAD
  (∀ (m : Fin 18) (s t : State), exec (.schedLoad m) s = .next t → Same [.rk, .mc, .px, .outbox] s t) ∧
  -- REPLICA_SET
  (∀ (m : Fin 18) (s t : State), exec (.replicaSet m) s = .next t → Same [.rk, .mc, .px, .outbox] s t) ∧
  -- TC_FLUSH
  (∀ (m : Fin 18) (s t : State), exec (.tcFlush m) s = .next t → Same [.tier, .mc, .px, .outbox] s t) ∧
  -- VECTOR_SET
  (∀ (m : Fin 18) (s t : State), exec (.vectorSet m) s = .next t → Same [.mc, .px, .outbox] s t) ∧
  -- TALLY_COMMIT
  (∀ (m : Fin 18) (s t : State), exec (.tallyCommit m) s = .next t → Same [.tally, .mc, .px, .outbox] s t) ∧
  -- MODULE_RETRAIN
  (∀ (m : Fin 18) (s t : State), exec (.moduleRetrain m) s = .next t → Same [.pt, .xl, .qc, .tier, .rk, .ec, .units, .links, .tally, .mc, .px, .reqs, .nextReq, .free, .outbox] s t) ∧
  -- RP_CONFIG
  (∀ (m : Fin 18) (s t : State), exec (.rpConfig m) s = .next t → Same [.mc, .px, .outbox] s t) ∧
  -- RP_MEMORY
  (∀ (m : Fin 18) (s t : State), exec (.rpMemory m) s = .next t → Same [.mc, .px, .outbox] s t) ∧
  -- TEST_LOOPBACK
  (∀ (m : Fin 18) (s t : State), exec (.testLoopback m) s = .next t → Same [.links, .mc, .px, .outbox] s t) ∧
  -- EVENT_READ
  (∀ (m : Fin 18) (s t : State), exec (.eventRead m) s = .next t → Same [.mc, .px, .outbox] s t) ∧
  -- SENSOR_READ
  (∀ (m : Fin 18) (s t : State), exec (.sensorRead m) s = .next t → Same [.mc, .px, .outbox] s t) ∧
  -- FW_STAGE
  (∀ (m : Fin 18) (s t : State), exec (.fwStage m) s = .next t → Same [.mc, .px, .outbox] s t) ∧
  -- FW_VERIFY
  (∀ (m : Fin 18) (s t : State), exec (.fwVerify m) s = .next t → Same [.mc, .px, .outbox] s t) ∧
  -- FW_ACTIVATE
  (∀ (m : Fin 18) (s t : State), exec (.fwActivate m) s = .next t → Same [.mc, .px, .free, .outbox] s t) ∧
  -- UNIT_ADMIT
  (∀ (m : Fin 18) (s t : State), exec (.unitAdmit m) s = .next t → Same [.pt, .units, .mc, .px, .outbox] s t) ∧
  -- UNIT_READ
  (∀ (m : Fin 18) (s t : State), exec (.unitRead m) s = .next t → Same [.mc, .px, .outbox] s t) ∧
  -- MODE_SET
  (∀ (m : Fin 18) (s t : State), exec (.modeSet m) s = .next t → Same [.mc, .px, .outbox] s t) ∧
  -- GET_INFO
  (∀ (m : Fin 18) (s t : State), exec (.getInfo m) s = .next t → Same [.mc, .px, .outbox] s t)

/-- What the port commands leave unchanged. -/
def Obligations.PortFrames : Prop :=
  -- CXL_IO_POSTED_WRITE
  (∀ (pasid : Option (BitVec 20)) (off : BitVec 47) (data : Bytes) (s t : State), exec (.cxlIoPostedWrite pasid off data) s = .next t → Same [.pt, .xl, .qc, .tier, .rk, .ch, .ec, .units, .links, .tally, .mc, .px, .reqs, .nextReq, .free, .outbox] s t) ∧
  -- CXL_IO_READ
  (∀ (pasid : Option (BitVec 20)) (txn : Nat) (off : BitVec 47) (len : Nat) (memory : Bool) (s t : State), exec (.cxlIoRead pasid txn off len memory) s = .next t → Same [.pt, .xl, .qc, .tier, .rk, .ch, .ec, .links, .tally, .mc, .px, .reqs, .nextReq, .free, .outbox] s t) ∧
  -- PCIE_MEMORY_REQUEST
  (∀ (kind : TlpKind) (rid : BitVec 16) (txn : Nat) (addr : Word) (len : Nat) (poisoned : Bool) (data : Bytes)
        (header : Bytes) (s t : State), exec (.pcieMemoryRequest kind rid txn addr len poisoned data header) s = .next t → Same [.pt, .xl, .qc, .tier, .rk, .ch, .ec, .units, .links, .tally, .mc, .px, .reqs, .nextReq, .free, .outbox] s t) ∧
  -- PCIE_CONFIG_REQUEST
  (∀ (f : Fin 256) (txn : Nat) (reg : BitVec 10) (write : Option (BitVec 4 × BitVec 32)) (s t : State), exec (.pcieConfigRequest f txn reg write) s = .next t → Same [.pt, .xl, .qc, .tier, .rk, .ch, .ec, .units, .links, .tally, .mc, .px, .reqs, .nextReq, .free, .outbox] s t) ∧
  -- AER_ERROR_DETECTED
  (∀ (correctable : Bool) (b : Fin 32) (header : Bytes) (s t : State), exec (.aerErrorDetected correctable b header) s = .next t → Same [.ec, .mc, .px, .reqs, .outbox] s t) ∧
  -- DL_DOWN
  (∀ (s t : State), exec .dlDown s = .next t → Same [.ec, .mc, .px, .reqs, .outbox] s t) ∧
  -- DL_UP_INSERT
  (∀ (width : Nat) (rate : Nat) (s t : State), exec (.dlUpInsert width rate) s = .next t → Same [.mc, .px, .reqs, .outbox] s t) ∧
  -- CAPO_RELEASE
  (∀ (s t : State), exec .capoRelease s = .next t → Same [.px] s t) ∧
  -- CAPO_SOFTWARE_TRIGGER
  (∀ (s t : State), exec .capoSoftwareTrigger s = .next t → Same [.mc, .px, .reqs, .outbox] s t) ∧
  -- CAPO_INSERT_HOLD_WRITE
  (∀ (hold : Bool) (s t : State), exec (.capoInsertHoldWrite hold) s = .next t → Same [.px] s t) ∧
  -- BAR_RESIZE
  (∀ (log2 : Fin 64) (s t : State), exec (.barResize log2) s = .next t → Same [.px] s t) ∧
  -- MSIX_PENDING_SEND
  (∀ (f : Fin 17) (v : Fin 512) (s t : State), exec (.msixPendingSend f v) s = .next t → Same [.px, .outbox] s t) ∧
  -- L0P_ENTRY
  (∀ (s t : State), exec .l0pEntry s = .next t → Same [.px, .outbox] s t) ∧
  -- L0P_RESTORE
  (∀ (s t : State), exec .l0pRestore s = .next t → Same [.px, .outbox] s t) ∧
  -- ASPM_L1_ENTRY
  (∀ (s t : State), exec .aspmL1Entry s = .next t → Same [.px, .outbox] s t) ∧
  -- ERR_MESSAGE_RECEIVED
  (∀ (rid : BitVec 16) (kind : Fin 3) (s t : State), exec (.errMessageReceived rid kind) s = .next t → Same [.mc, .px, .reqs, .outbox] s t) ∧
  -- DEVICE_INTERRUPT_WRITE
  (∀ (rid : BitVec 16) (addr : Word) (value : BitVec 32) (s t : State), exec (.deviceInterruptWrite rid addr value) s = .next t → Same [.pt, .xl, .qc, .tier, .rk, .ch, .ec, .units, .links, .tally, .mc, .px, .reqs, .nextReq, .free, .outbox] s t) ∧
  -- RP_REQUEST_COMPLETION
  (∀ (res : RpRes) (s t : State), exec (.rpRequestCompletion res) s = .next t → Same [.ec, .mc, .px, .reqs, .outbox] s t) ∧
  -- PCIE_LINK_UP
  (∀ (width : Nat) (rate : Nat) (s t : State), exec (.pcieLinkUp width rate) s = .next t → Same [.mc, .px, .reqs, .outbox] s t) ∧
  -- CXL_IO_CONFIGURATION_REQUEST
  (∀ (txn : Nat) (reg : BitVec 10) (write : Option (BitVec 4 × BitVec 32)) (s t : State), exec (.cxlIoConfigurationRequest txn reg write) s = .next t → Same [.pt, .xl, .qc, .tier, .rk, .ch, .ec, .links, .tally, .mc, .px, .reqs, .nextReq, .free, .outbox] s t)

/-- What the Tally, power, bring-up and reset commands leave unchanged. -/
def Obligations.CountFrames : Prop :=
  -- POWER_WARN
  (∀ (s t : State), exec .powerWarn s = .next t → Same [.tally] s t) ∧
  -- POWER_WARN_WAIT_EXPIRY
  (∀ (low : Bool) (s t : State), exec (.powerWarnWaitExpiry low) s = .next t → Same [.tally] s t) ∧
  -- CLOCK_MONITOR_LOSS
  (∀ (px : Bool) (s t : State), exec (.clockMonitorLoss px) s = .next t → Same [.ec] s t ∧ t.quiet = s.quiet) ∧
  -- SENSOR_SAMPLE
  (∀ (v : List (BitVec 16)) (s t : State), exec (.sensorSample v) s = .next t → Same [.ec, .mc] s t) ∧
  -- CK_ARR_STEP_DONE
  (∀ (s t : State), exec .ckArrStepDone s = .next t → Same [.mc] s t) ∧
  -- CK_ARR_STEP_TIMEOUT
  (∀ (s t : State), exec .ckArrStepTimeout s = .next t → Same [.ec, .mc] s t) ∧
  -- MC_PWR_CTRL_WRITE
  (∀ (w : Word) (s t : State), exec (.mcPwrCtrlWrite w) s = .next t → Same [.mc] s t) ∧
  -- ARR_FREQ_MAX_STEP_DOWN
  (∀ (s t : State), exec .arrFreqMaxStepDown s = .next t → Same [.mc] s t) ∧
  -- ROM_BOOT
  (∀ (b0 : Bank) (b1 : Bank) (s t : State), exec (.romBoot b0 b1) s = .next t → Same [.xl, .rk, .ch, .units, .links, .mc, .px, .outbox] s t) ∧
  -- COMPUTE_CELL_FIRMWARE_BROADCAST
  (∀ (image : Bytes) (s t : State), exec (.computeCellFirmwareBroadcast image) s = .next t → Same [.mc, .outbox] s t) ∧
  -- CELL_DIGEST_RETURN
  (∀ (cell : Nat) (digest : Bytes) (s t : State), exec (.cellDigestReturn cell digest) s = .next t → Same [.mc] s t) ∧
  -- CELL_DIGEST_TIMEOUT
  (∀ (cell : Nat) (s t : State), exec (.cellDigestTimeout cell) s = .next t → Same [.mc] s t) ∧
  -- TOPOLOGY_CHECK
  (∀ (s t : State), exec .topologyCheck s = .next t → Same [.pt, .xl, .qc, .tier, .rk, .ec, .units, .links, .tally, .mc, .px, .reqs, .nextReq, .free, .outbox] s t ∧ t.quiet = s.quiet) ∧
  -- READINESS_DECISION
  (∀ (s t : State), exec .readinessDecision s = .next t → Same [.pt, .links, .tally, .mc, .px, .outbox] s t) ∧
  -- COMPUTE_PART_RESET
  (∀ (s t : State), exec .computePartReset s = .next t → Same [.pt, .xl, .qc, .tier, .rk, .ch, .units, .links, .tally, .mc, .px, .reqs, .nextReq, .outbox] s t) ∧
  -- COMPUTE_PART_RESET_RESTORE
  (∀ (s t : State), exec .computePartResetRestore s = .next t → Same [.pt, .xl, .qc, .tier, .rk, .ch, .mc, .px, .outbox] s t) ∧
  -- PARTITION_FUNCTION_LEVEL_RESET
  (∀ (p : Fin 16) (s t : State), exec (.partitionFunctionLevelReset p) s = .next t → Same [.pt, .xl, .qc, .tier, .rk, .ch, .units, .tally, .mc, .px, .reqs, .nextReq, .outbox] s t) ∧
  -- PF_FUNCTION_LEVEL_RESET
  (∀ (s t : State), exec .pfFunctionLevelReset s = .next t → Same [.px] s t) ∧
  -- PARTITION_RESET_END
  (∀ (p : Fin 16) (s t : State), exec (.partitionResetEnd p) s = .next t → Same [.pt, .xl, .units, .mc, .px, .reqs, .outbox] s t ∧ t.quiet = s.quiet) ∧
  -- HOST_LINK_LOSS_RESET
  (∀ (sideband : Bool) (s t : State), exec (.hostLinkLossReset sideband) s = .next t → Same [.pt, .xl, .qc, .tier, .rk, .ch, .units, .links, .tally, .mc, .px, .reqs, .nextReq, .outbox] s t) ∧
  -- HOST_LINK_OUT_TIMER_EXPIRY
  (∀ (s t : State), exec .hostLinkOutTimerExpiry s = .next t → Same [.pt, .xl, .qc, .tier, .rk, .ch, .units, .links, .tally, .mc, .px, .reqs, .nextReq, .outbox] s t) ∧
  -- HOST_LINK_LOSS_RESET_END
  (∀ (s t : State), exec .hostLinkLossResetEnd s = .next t → Same [.links] s t) ∧
  -- PORT_RESET
  (∀ (disable : Bool) (s t : State), exec (.portReset disable) s = .next t → Same [.px] s t) ∧
  -- ACCUMULATOR_AGE_EXPIRY
  (∀ (p : Fin 16) (k : Fin 7) (s t : State), exec (.accumulatorAgeExpiry p k) s = .next t → Same [.tally] s t ∧ t.quiet = s.quiet) ∧
  -- COUNT_PULSE_TAKE
  (∀ (s t : State), exec .countPulseTake s = .next t → Same [.tally] s t) ∧
  -- LIFETIME_PULSE
  (∀ (s t : State), exec .lifetimePulse s = .next t → Same [.tally] s t) ∧
  -- MARK_PULSE
  (∀ (s t : State), exec .markPulse s = .next t → Same [.tally] s t) ∧
  -- TALLY_RECORD_COMMIT
  (∀ (s t : State), exec .tallyRecordCommit s = .next t → Same [.tally] s t) ∧
  -- TALLY_RECORD_STORED
  (∀ (s t : State), exec .tallyRecordStored s = .next t → Same [.tally, .mc, .px, .outbox] s t) ∧
  -- TY_REC_SELECT_WRITE
  (∀ (w : Word) (s t : State), exec (.tyRecSelectWrite w) s = .next t → Same [.tally] s t) ∧
  -- TY_COMMIT_WRITE
  (∀ (s t : State), exec .tyCommitWrite s = .next t → Same [.tally] s t ∧ t.quiet = s.quiet)

/-- What the Reckoner and repair commands leave unchanged. -/
def Obligations.ReckonerFrames : Prop :=
  -- UPDATE_DESCRIPTOR_PASS
  (∀ (r : Fin 16384) (s t : State), exec (.updateDescriptorPass r) s = .next t → Same [.pt, .qc, .tier, .rk, .ec, .tally, .mc, .px, .reqs, .nextReq, .outbox] s t ∧ t.quiet = s.quiet) ∧
  -- NORM_TABLE_READ
  (∀ (e : Fin 64) (s t : State), exec (.normTableRead e) s = .next t → Same [.pt, .xl, .tier, .rk, .ec, .links, .tally, .reqs, .nextReq, .free, .outbox] s t ∧ t.quiet = s.quiet) ∧
  -- NORM_TABLE_RETURN
  (∀ (id : Nat) (res : RdRes) (s t : State), exec (.normTableReturn id res) s = .next t → Same [.pt, .xl, .qc, .tier, .rk, .ec, .links, .tally, .mc, .px, .reqs, .nextReq, .free, .outbox] s t ∧ t.quiet = s.quiet) ∧
  -- NORM_WAIT_LIMIT_EXPIRY
  (∀ (e : Fin 64) (s t : State), exec (.normWaitLimitExpiry e) s = .next t → Same [.rk, .ec] s t ∧ t.quiet = s.quiet) ∧
  -- JOB_START
  (∀ (e : Fin 64) (s t : State), exec (.jobStart e) s = .next t → Same [.pt, .qc, .tier, .rk, .ec, .tally, .reqs, .nextReq] s t ∧ t.quiet = s.quiet) ∧
  -- TILE_READS_COMPLETE
  (∀ (e : Fin 64) (s t : State), exec (.tileReadsComplete e) s = .next t → Same [.pt, .xl, .tier, .rk, .ec, .links, .tally, .reqs, .nextReq, .free, .outbox] s t ∧ t.quiet = s.quiet) ∧
  -- TILE_WRITES_ACKED
  (∀ (e : Fin 64) (s t : State), exec (.tileWritesAcked e) s = .next t → Same [.rk, .tally] s t ∧ t.quiet = s.quiet) ∧
  -- FINGERPRINT_WRITE
  (∀ (e : Fin 64) (region : Nat) (s t : State), exec (.fingerprintWrite e region) s = .next t → Same [.pt, .xl, .tier, .rk, .ec, .links, .tally, .reqs, .nextReq, .free, .outbox] s t ∧ t.quiet = s.quiet) ∧
  -- JOB_PARK
  (∀ (e : Fin 64) (s t : State), exec (.jobPark e) s = .next t → Same [.pt, .xl, .qc, .tier, .rk, .ec, .tally, .reqs, .nextReq] s t ∧ t.quiet = s.quiet) ∧
  -- JOB_RETURN
  (∀ (e : Fin 64) (s t : State), exec (.jobReturn e) s = .next t → Same [.pt, .qc, .tier, .rk, .ec, .tally, .reqs, .nextReq] s t ∧ t.quiet = s.quiet) ∧
  -- ARRAY_CHUNK_START
  (∀ (e : Fin 64) (q : Nat) (s t : State), exec (.arrayChunkStart e q) s = .next t → Same [.rk, .tally] s t ∧ t.quiet = s.quiet) ∧
  -- ARRAY_TILE_FINISH
  (∀ (s t : State), exec .arrayTileFinish s = .next t → Same [.rk] s t) ∧
  -- OUTPUT_PATH_TILE
  (∀ (s t : State), exec .outputPathTile s = .next t → Same [.pt, .xl, .tier, .rk, .ec, .links, .tally, .reqs, .nextReq, .free, .outbox] s t ∧ t.quiet = s.quiet) ∧
  -- REPLICA_REPORT_SEND
  (∀ (p : Fin 16) (s t : State), exec (.replicaReportSend p) s = .next t → Same [.pt, .rk, .links, .tally, .mc, .px, .free, .outbox] s t ∧ t.quiet = s.quiet) ∧
  -- REPAIR_JOB_START
  (∀ (p : Fin 16) (s t : State), exec (.repairJobStart p) s = .next t → Same [.pt, .xl, .tier, .rk, .ec, .links, .tally, .reqs, .nextReq, .free, .outbox] s t ∧ t.quiet = s.quiet) ∧
  -- REPAIR_FINGERPRINT_CHECK
  (∀ (e : Fin 64) (s t : State), exec (.repairFingerprintCheck e) s = .next t → Same [.rk] s t) ∧
  -- REPAIR_MEMBER_WRITE
  (∀ (e : Fin 64) (s t : State), exec (.repairMemberWrite e) s = .next t → Same [.pt, .xl, .tier, .rk, .ec, .links, .tally, .reqs, .nextReq, .free, .outbox] s t ∧ t.quiet = s.quiet) ∧
  -- REPAIR_FINGERPRINT_WRITE
  (∀ (e : Fin 64) (s t : State), exec (.repairFingerprintWrite e) s = .next t → Same [.pt, .xl, .tier, .rk, .ec, .links, .tally, .reqs, .nextReq, .free, .outbox] s t ∧ t.quiet = s.quiet) ∧
  -- REPAIR_NOTE_WRITE
  (∀ (e : Fin 64) (s t : State), exec (.repairNoteWrite e) s = .next t → Same [.pt, .tier, .rk, .ec, .tally, .reqs, .nextReq] s t ∧ t.quiet = s.quiet) ∧
  -- SHARED_REPAIR_OPEN
  (∀ (s t : State), exec .sharedRepairOpen s = .next t → Same [.pt] s t) ∧
  -- SHARED_REPAIR_ORIGIN_DONE
  (∀ (repair : Nat) (res : Option (Bytes × Bytes)) (s t : State), exec (.sharedRepairOriginDone repair res) s = .next t → Same [.pt, .tier, .ec, .outbox] s t ∧ t.quiet = s.quiet) ∧
  -- SHARED_REPAIR_CLOSE
  (∀ (repair : Nat) (s t : State), exec (.sharedRepairClose repair) s = .next t → Same [.pt, .ec] s t ∧ t.quiet = s.quiet) ∧
  -- SHARED_REPAIR_TIMEOUT
  (∀ (repair : Nat) (s t : State), exec (.sharedRepairTimeout repair) s = .next t → Same [.pt, .ec] s t ∧ t.quiet = s.quiet)

/-- What the doorbell, ring, transfer, completion and fault commands leave unchanged. -/
def Obligations.RingFrames : Prop :=
  -- RING_DOORBELL
  (∀ (p : Fin 16) (j : Fin 16384) (w : Word) (s t : State), exec (.ringDoorbell p j w) s = .next t → Same [.pt, .qc, .tally, .mc, .px, .reqs, .outbox] s t ∧ t.quiet = s.quiet) ∧
  -- STAGED_DOORBELL
  (∀ (p : Fin 16) (j : Fin 16384) (w : Word) (s t : State), exec (.stagedDoorbell p j w) s = .next t → Same [.pt, .qc, .tally, .mc, .px, .reqs, .outbox] s t ∧ t.quiet = s.quiet) ∧
  -- INVALIDATION_DOORBELL
  (∀ (p : Fin 16) (w : Word) (s t : State), exec (.invalidationDoorbell p w) s = .next t → Same [.pt, .xl, .tally] s t ∧ t.quiet = s.quiet) ∧
  -- CHORD_DOORBELL
  (∀ (p : Fin 16) (w : Word) (s t : State), exec (.chordDoorbell p w) s = .next t → Same [.pt, .ch, .tally] s t ∧ t.quiet = s.quiet) ∧
  -- DOORBELL_PAGE_BAD_WRITE
  (∀ (p : Fin 16) (off : Fin 1048576) (n : Nat) (s t : State), exec (.doorbellPageBadWrite p off n) s = .next t → Same [.pt] s t) ∧
  -- FAULT_RESPONSE_CONSUME
  (∀ (p : Fin 16) (w : Word) (s t : State), exec (.faultResponseConsume p w) s = .next t → Same [.pt, .xl, .qc, .tier, .rk, .ec, .links, .tally, .reqs, .nextReq, .free, .outbox] s t ∧ t.quiet = s.quiet) ∧
  -- FAULT_RESPONSE_RESUME
  (∀ (p : Fin 16) (w : Word) (s t : State), exec (.faultResponseResume p w) s = .next t → Same [.pt, .xl, .qc, .tier, .rk, .ec, .links, .tally, .reqs, .nextReq, .free, .outbox] s t ∧ t.quiet = s.quiet) ∧
  -- FAULT_RESPONSE_ABORT
  (∀ (p : Fin 16) (w : Word) (s t : State), exec (.faultResponseAbort p w) s = .next t → Same [.pt, .xl, .qc, .tier, .rk, .ec, .links, .tally, .reqs, .nextReq, .free, .outbox] s t ∧ t.quiet = s.quiet) ∧
  -- DESCRIPTOR_FETCH
  (∀ (r : Fin 16384) (s t : State), exec (.descriptorFetch r) s = .next t → Same [.pt, .qc, .ec, .tally, .reqs, .nextReq] s t ∧ t.quiet = s.quiet) ∧
  -- DESCRIPTOR_FETCH_RETURN
  (∀ (id : Nat) (res : RdRes) (s t : State), exec (.descriptorFetchReturn id res) s = .next t → Same [.pt, .xl, .qc, .ec, .mc, .px, .reqs, .outbox] s t ∧ t.quiet = s.quiet) ∧
  -- DESCRIPTOR_REFETCH_BACKOFF_EXPIRY
  (∀ (r : Fin 16384) (s t : State), exec (.descriptorRefetchBackoffExpiry r) s = .next t → Same [.pt, .qc, .ec, .tally, .reqs, .nextReq] s t ∧ t.quiet = s.quiet) ∧
  -- DESCRIPTOR_START
  (∀ (r : Fin 16384) (s t : State), exec (.descriptorStart r) s = .next t → Same [.pt, .qc, .tier, .ec, .tally, .mc, .px, .reqs, .nextReq, .outbox] s t ∧ t.quiet = s.quiet) ∧
  -- REQUEST_ISSUE
  (∀ (q : Requester) (s t : State), exec (.requestIssue q) s = .next t → Same [.pt, .xl, .qc, .tier, .rk, .ec, .links, .tally, .reqs, .nextReq, .free, .outbox] s t ∧ t.quiet = s.quiet) ∧
  -- DATA_READ_RETURN
  (∀ (id : Nat) (res : RdRes) (s t : State), exec (.dataReadReturn id res) s = .next t → Same [.pt, .xl, .qc, .tier, .rk, .ch, .ec, .links, .tally, .mc, .px, .reqs, .nextReq, .free, .outbox] s t) ∧
  -- DATA_WRITE_ACK
  (∀ (id : Nat) (res : WrRes) (s t : State), exec (.dataWriteAck id res) s = .next t → Same [.pt, .xl, .qc, .tier, .rk, .ch, .ec, .links, .tally, .mc, .px, .reqs, .nextReq, .free, .outbox] s t) ∧
  -- REQUEST_TIMEOUT
  (∀ (id : Nat) (s t : State), exec (.requestTimeout id) s = .next t → Same [.pt, .xl, .qc, .tier, .rk, .ch, .ec, .links, .tally, .mc, .px, .reqs, .nextReq, .free, .outbox] s t) ∧
  -- FLAG_WRITE_ISSUE
  (∀ (r : Fin 16384) (s t : State), exec (.flagWriteIssue r) s = .next t → Same [.pt, .xl, .qc, .tier, .ec, .links, .tally, .reqs, .nextReq, .free, .outbox] s t ∧ t.quiet = s.quiet) ∧
  -- STATUS_BLOCK_WRITE
  (∀ (r : Fin 16384) (s t : State), exec (.statusBlockWrite r) s = .next t → Same [.pt, .qc, .tier, .ec, .tally, .reqs, .nextReq] s t ∧ t.quiet = s.quiet) ∧
  -- OWN_CLEAR_WRITE
  (∀ (r : Fin 16384) (ack : WrRes) (s t : State), exec (.ownClearWrite r ack) s = .next t → Same [.pt, .xl, .qc, .tier, .ec, .tally, .reqs, .nextReq] s t ∧ t.quiet = s.quiet) ∧
  -- COMPLETION_ENTRY_WRITE
  (∀ (r : Fin 16384) (ack : WrRes) (s t : State), exec (.completionEntryWrite r ack) s = .next t → Same [.pt, .xl, .qc, .tier, .ec, .tally, .reqs, .nextReq] s t ∧ t.quiet = s.quiet) ∧
  -- COMPLETION_ENTRY_ACK
  (∀ (r : Fin 16384) (ack : WrRes) (s t : State), exec (.completionEntryAck r ack) s = .next t → Same [.pt, .xl, .qc, .tier, .ec, .tally, .px, .reqs, .nextReq, .outbox] s t ∧ t.quiet = s.quiet) ∧
  -- CONSUMER_WORD_POLL
  (∀ (k : Fin 4096) (s t : State), exec (.consumerWordPoll k) s = .next t → Same [.pt, .qc, .ec, .tally, .reqs, .nextReq] s t ∧ t.quiet = s.quiet) ∧
  -- CONSUMER_WORD_RETURN
  (∀ (id : Nat) (res : RdRes) (s t : State), exec (.consumerWordReturn id res) s = .next t → Same [.pt, .xl, .qc, .tier, .ec, .tally, .reqs, .nextReq] s t ∧ t.quiet = s.quiet) ∧
  -- WC_ENTRY_IDLE_FLUSH
  (∀ (k : Fin 64) (s t : State), exec (.wcEntryIdleFlush k) s = .next t → Same [.pt, .tier, .tally, .reqs, .nextReq] s t ∧ t.quiet = s.quiet) ∧
  -- TIER_CACHE_FILL_RETURN
  (∀ (fill : Nat) (res : RdRes) (s t : State), exec (.tierCacheFillReturn fill res) s = .next t → Same [.pt, .xl, .qc, .tier, .rk, .ec, .links, .tally, .mc, .px, .reqs, .nextReq, .free, .outbox] s t ∧ t.quiet = s.quiet) ∧
  -- HOST_SNOOP
  (∀ (module : Fin 4) (pa : BitVec 52) (invalidate : Bool) (s t : State), exec (.hostSnoop module pa invalidate) s = .next t → Same [.tier, .outbox] s t) ∧
  -- PARK_DRAIN_COMPLETE
  (∀ (r : Fin 16384) (s t : State), exec (.parkDrainComplete r) s = .next t → Same [.pt, .xl, .qc, .tier, .ec, .tally, .reqs, .nextReq] s t ∧ t.quiet = s.quiet) ∧
  -- FAULT_RECORD_ACK
  (∀ (slot : Fin 16400) (gen : Fin 256) (ack : WrRes) (s t : State), exec (.faultRecordAck slot gen ack) s = .next t → Same [.pt, .xl, .qc, .tier, .rk, .ec, .tally, .reqs, .nextReq] s t ∧ t.quiet = s.quiet) ∧
  -- PARK_TIMER_EXPIRY
  (∀ (slot : Fin 16400) (s t : State), exec (.parkTimerExpiry slot) s = .next t → Same [.pt, .xl, .qc, .tier, .rk, .ec, .tally, .reqs, .nextReq] s t ∧ t.quiet = s.quiet) ∧
  -- RING_DRAIN_COMPLETE
  (∀ (r : Fin 16384) (s t : State), exec (.ringDrainComplete r) s = .next t → Same [.qc, .mc, .px, .outbox] s t ∧ t.quiet = s.quiet)
end

