-- ==== Sys2Proof/Laws/Tab.lean ====
section
/-! SUPPORT. The laws of the sparse tables: a write is read back, leaves every other entry alone, and keeps the canonical form. -/

namespace Sys2Proof.Machine

theorem Tab.at_drop {α : Type} [Inhabited α] (t : Tab α) (i j : Nat) :
    Tab.at (Tab.drop t i) j = if j = i then default else Tab.at t j := by
  induction t with
  | nil => simp [Tab.drop, Tab.at]
  | cons e t ih =>
    obtain ⟨k, v⟩ := e
    by_cases h : k = i <;> by_cases h' : k = j <;> simp_all [Tab.drop, Tab.at]

theorem Tab.at_ins {α : Type} [Inhabited α] (t : Tab α) (i j : Nat) (v : α) (h : ∀ e ∈ t, e.1 ≠ i) :
    Tab.at (Tab.ins t i v) j = if j = i then v else Tab.at t j := by
  induction t with
  | nil => simp [Tab.ins, Tab.at, eq_comm]
  | cons e t ih =>
    obtain ⟨k, w⟩ := e
    have hk : k ≠ i := h (k, w) (by simp)
    have ht := ih fun e he => h e (by simp [he])
    unfold Tab.ins
    split
    · simp [Tab.at, eq_comm]
    · simp only [Tab.at, ht]
      by_cases h1 : k = j
      · subst h1; simp [hk]
      · simp [h1]

theorem Tab.drop_ne {α : Type} (t : Tab α) (i : Nat) : ∀ e ∈ Tab.drop t i, e.1 ≠ i := by
  induction t with
  | nil => simp [Tab.drop]
  | cons e t ih =>
    obtain ⟨k, v⟩ := e
    unfold Tab.drop
    split
    · exact ih
    · intro e he
      rcases List.mem_cons.1 he with rfl | he
      · assumption
      · exact ih e he

/-- Reading after a write: the value written at its index, what stood there elsewhere. -/
@[simp] theorem Tab.at_put {α : Type} [Inhabited α] [DecidableEq α] (t : Tab α) (i j : Nat) (v : α) :
    Tab.at (Tab.put t i v) j = if j = i then v else Tab.at t j := by
  unfold Tab.put
  split
  · rename_i h; subst h; exact Tab.at_drop t i j
  · rw [Tab.at_ins _ _ _ _ (Tab.drop_ne t i), Tab.at_drop]
    split <;> rfl

/-- Reading after a change of one entry. -/
@[simp] theorem Tab.at_upd {α : Type} [Inhabited α] [DecidableEq α] (t : Tab α) (i j : Nat) (f : α → α) :
    Tab.at (Tab.upd t i f) j = if j = i then f (Tab.at t i) else Tab.at t j := by
  simp [Tab.upd]

theorem Tab.at_of_not_mem {α : Type} [Inhabited α] (t : Tab α) (j : Nat) (h : ∀ e ∈ t, e.1 ≠ j) : Tab.at t j = default := by
  induction t with
  | nil => rfl
  | cons e t ih =>
    obtain ⟨k, v⟩ := e
    have hk : k ≠ j := h (k, v) (by simp)
    simp [Tab.at, hk, ih fun e he => h e (by simp [he])]

/-- A table kept by a test reads as before where the test holds, and as unlisted elsewhere. -/
@[simp] theorem Tab.at_keep {α : Type} [Inhabited α] (t : Tab α) (f : Nat → Bool) (j : Nat) :
    Tab.at (Tab.keep t f) j = if f j then Tab.at t j else default := by
  induction t with
  | nil => simp [Tab.keep, Tab.at]
  | cons e t ih =>
    obtain ⟨k, v⟩ := e
    unfold Tab.keep at ih ⊢
    by_cases hk : f k <;> by_cases h' : k = j <;> simp_all [Tab.at]

theorem Tab.ofList_append {α : Type} [Inhabited α] [DecidableEq α] (l : List (Nat × α)) (e : Nat × α) :
    Tab.ofList (l ++ [e]) = Tab.put (Tab.ofList l) e.1 e.2 := by
  simp [Tab.ofList]

/-- Reading a mapped table: the function of the entry where one is listed. -/
theorem Tab.at_mapV {α : Type} [Inhabited α] [DecidableEq α] (t : Tab α) (f : Nat → α → α) (j : Nat) :
    Tab.at (Tab.mapV t f) j = if j ∈ Tab.ixs t then f j (Tab.at t j) else default := by
  unfold Tab.mapV
  induction t with
  | nil => rfl
  | cons e t ih =>
    rw [List.reverse_cons, List.map_append, List.map_cons, List.map_nil, Tab.ofList_append, Tab.at_put, ih]
    obtain ⟨k, v⟩ := e
    by_cases h : j = k
    · subst h; simp [Tab.ixs, Tab.at]
    · have h' : ¬k = j := fun e => h e.symm
      have hm : j ∈ Tab.ixs ((k, v) :: t) ↔ j ∈ Tab.ixs t := by
        rw [Tab.ixs, List.map_cons, List.mem_cons]
        exact or_iff_right h
      simp only [hm, Tab.at, h, h', if_false]

/-! ## The canonical form -/

theorem Tab.rising_cons {α : Type} (e : Nat × α) (t : Tab α) :
    Tab.rising (e :: t) = true ↔ (∀ x ∈ t, e.1 < x.1) ∧ Tab.rising t = true := by
  induction t generalizing e with
  | nil => simp [Tab.rising]
  | cons a t ih =>
    simp only [Tab.rising, Bool.and_eq_true, decide_eq_true_eq]
    constructor
    · rintro ⟨h1, h2⟩
      refine ⟨?_, h2⟩
      intro x hx
      rcases List.mem_cons.1 hx with rfl | hx
      · exact h1
      · exact Nat.lt_trans h1 (((ih a).1 h2).1 x hx)
    · rintro ⟨h1, h2⟩
      exact ⟨h1 a (by simp), h2⟩

theorem Tab.drop_sub {α : Type} (t : Tab α) (i : Nat) : ∀ e ∈ Tab.drop t i, e ∈ t := by
  induction t with
  | nil => simp [Tab.drop]
  | cons e t ih =>
    obtain ⟨k, v⟩ := e
    unfold Tab.drop
    split
    · intro e he; exact List.mem_cons_of_mem _ (ih e he)
    · intro e he
      rcases List.mem_cons.1 he with rfl | he
      · simp
      · exact List.mem_cons_of_mem _ (ih e he)

theorem Tab.drop_rising {α : Type} (t : Tab α) (i : Nat) (h : Tab.rising t = true) : Tab.rising (Tab.drop t i) = true := by
  induction t with
  | nil => simp [Tab.drop, Tab.rising]
  | cons e t ih =>
    obtain ⟨k, v⟩ := e
    have h' := (Tab.rising_cons _ _).1 h
    unfold Tab.drop
    split
    · exact ih h'.2
    · exact (Tab.rising_cons _ _).2 ⟨fun x hx => h'.1 x (Tab.drop_sub t i x hx), ih h'.2⟩

theorem Tab.ins_mem {α : Type} (t : Tab α) (i : Nat) (v : α) : ∀ e ∈ Tab.ins t i v, e = (i, v) ∨ e ∈ t := by
  induction t with
  | nil => simp [Tab.ins]
  | cons a t ih =>
    obtain ⟨k, w⟩ := a
    unfold Tab.ins
    split
    · intro e he; simpa using he
    · intro e he
      rcases List.mem_cons.1 he with rfl | he
      · simp
      · rcases ih e he with h | h
        · exact .inl h
        · exact .inr (List.mem_cons_of_mem _ h)

theorem Tab.ins_rising {α : Type} (t : Tab α) (i : Nat) (v : α) (h : Tab.rising t = true) (hi : ∀ e ∈ t, e.1 ≠ i) :
    Tab.rising (Tab.ins t i v) = true := by
  induction t with
  | nil => simp [Tab.ins, Tab.rising]
  | cons a t ih =>
    obtain ⟨k, w⟩ := a
    have h' := (Tab.rising_cons _ _).1 h
    have hk : k ≠ i := hi (k, w) (by simp)
    unfold Tab.ins
    split
    · rename_i hlt
      refine (Tab.rising_cons _ _).2 ⟨?_, h⟩
      intro x hx
      rcases List.mem_cons.1 hx with rfl | hx
      · exact hlt
      · exact Nat.lt_trans hlt (h'.1 x hx)
    · refine (Tab.rising_cons _ _).2 ⟨?_, ih h'.2 fun e he => hi e (List.mem_cons_of_mem _ he)⟩
      intro x hx
      rcases Tab.ins_mem t i v x hx with rfl | hx
      · show k < i; omega
      · exact h'.1 x hx

/-- A write keeps the canonical form. -/
theorem Tab.put_wf {α : Type} [Inhabited α] [DecidableEq α] (t : Tab α) (i : Nat) (v : α) (h : Tab.wf t = true) :
    Tab.wf (Tab.put t i v) = true := by
  simp only [Tab.wf, Bool.and_eq_true, List.all_eq_true, decide_eq_true_eq] at *
  unfold Tab.put
  split
  · exact ⟨Tab.drop_rising t i h.1, fun e he => h.2 e (Tab.drop_sub t i e he)⟩
  · rename_i hv
    refine ⟨Tab.ins_rising _ _ _ (Tab.drop_rising t i h.1) (Tab.drop_ne t i), ?_⟩
    intro e he
    rcases Tab.ins_mem _ _ _ e he with rfl | he
    · exact hv
    · exact h.2 e (Tab.drop_sub t i e he)

/-- A change of one entry keeps the canonical form. -/
theorem Tab.upd_wf {α : Type} [Inhabited α] [DecidableEq α] (t : Tab α) (i : Nat) (f : α → α) (h : Tab.wf t = true) :
    Tab.wf (Tab.upd t i f) = true := Tab.put_wf t i _ h

theorem Tab.keep_wf {α : Type} [Inhabited α] [DecidableEq α] (t : Tab α) (f : Nat → Bool) (h : Tab.wf t = true) :
    Tab.wf (Tab.keep t f) = true := by
  simp only [Tab.wf, Bool.and_eq_true, List.all_eq_true, decide_eq_true_eq] at *
  refine ⟨?_, fun e he => h.2 e (List.mem_of_mem_filter he)⟩
  have h1 := h.1
  clear h
  induction t with
  | nil => simp [Tab.keep, Tab.rising]
  | cons a t ih =>
    have h' := (Tab.rising_cons _ _).1 h1
    have iht := ih h'.2
    unfold Tab.keep at iht ⊢
    by_cases hf : f a.1
    · rw [List.filter_cons_of_pos (by simpa using hf)]
      exact (Tab.rising_cons _ _).2 ⟨fun x hx => h'.1 x (List.mem_of_mem_filter hx), iht⟩
    · rw [List.filter_cons_of_neg (by simpa using hf)]
      exact iht

/-- A table rebuilt from a list is canonical. -/
theorem Tab.ofList_wf {α : Type} [Inhabited α] [DecidableEq α] (l : List (Nat × α)) : Tab.wf (Tab.ofList l) = true := by
  suffices h : ∀ t : Tab α, Tab.wf t = true → Tab.wf (l.foldl (fun t e => Tab.put t e.1 e.2) t) = true from h [] rfl
  induction l with
  | nil => exact fun t h => h
  | cons a l ih => exact fun t h => ih _ (Tab.put_wf t a.1 a.2 h)

/-- A mapped table is canonical. -/
theorem Tab.mapV_wf {α : Type} [Inhabited α] [DecidableEq α] (t : Tab α) (f : Nat → α → α) : Tab.wf (Tab.mapV t f) = true :=
  Tab.ofList_wf _

/-- A run of bytes written keeps the canonical form. -/
theorem Tab.writeBytes_wf (t : Tab Byte) (a : Nat) (b : Bytes) (h : Tab.wf t = true) : Tab.wf (Tab.writeBytes t a b) = true := by
  induction b generalizing t a with
  | nil => exact h
  | cons x b ih => exact ih _ _ (Tab.put_wf t a x h)

/-- What a run of bytes written leaves at each address. -/
theorem Tab.at_writeBytes (t : Tab Byte) (a : Nat) (b : Bytes) (j : Nat) :
    Tab.at (Tab.writeBytes t a b) j = if a ≤ j ∧ j < a + b.length then b.getD (j - a) 0 else Tab.at t j := by
  induction b generalizing t a with
  | nil =>
    rw [if_neg (by simp)]
    rfl
  | cons x b ih =>
    rw [Tab.writeBytes, ih, Tab.at_put]
    by_cases h1 : j = a
    · subst h1; simp
    · by_cases h2 : a + 1 ≤ j ∧ j < a + 1 + b.length
      · have : j - a = (j - (a + 1)) + 1 := by omega
        have h3 : a ≤ j ∧ j < a + (b.length + 1) := by omega
        simp [h2, h3, this]
      · have h3 : ¬(a ≤ j ∧ j < a + (b.length + 1)) := by omega
        rw [if_neg h2, if_neg h1, if_neg (by simpa using h3)]

end Sys2Proof.Machine
end

