-- ==== Sys2Proof/Laws/Frame.lean ====
section
/-! SUPPORT. What nearly every operation leaves alone (`State.fixed` of Safety.lean): the laws that carry it through the shared operations. -/

namespace Sys2Proof.Machine

@[simp] theorem fixed_mk (a1 a2 a3 a4) (a5 : Pt) (a6 a7 a8 a9 a10 a11 a12 a13 a14 a15 a16 a17 a18 a19 a20) :
    (State.mk a1 a2 a3 a4 a5 a6 a7 a8 a9 a10 a11 a12 a13 a14 a15 a16 a17 a18 a19 a20).fixed =
      ⟨a1, a2, a3, a4, sharesOf a5.parts, a15.fw.svnMin, a14.sums⟩ := by
  rw [State.fixed]

@[simp] theorem sums_mk (a1 a2 a3 a4 a5 a6 a7 a8 a9 a10 a11 a12 a13 a14 a15 a16 a17 a18) :
    (Tally.mk a1 a2 a3 a4 a5 a6 a7 a8 a9 a10 a11 a12 a13 a14 a15 a16 a17 a18).sums = (a3, a4, a5) := by
  rw [Tally.sums]

@[simp] theorem sums_fold (t : Tally) : (t.counters, t.lifetimes, t.epoch) = t.sums := by
  rw [Tally.sums]

@[simp] theorem key_mk (a1 a2 a3 a4 a5) : (KeySlot.mk a1 a2 a3 a4 a5).key = (a2, a3, a4) := by
  rw [KeySlot.key]

@[simp] theorem key_fold (k : KeySlot) : (k.hostKey, k.peerKey, k.hbmKey) = k.key := by
  rw [KeySlot.key]

@[simp] theorem fixed_fold (s : State) :
    Fixed.mk s.pending s.clk s.pos s.fuses (sharesOf s.pt.parts) s.mc.fw.svnMin s.tally.sums = s.fixed := by
  rw [State.fixed]

@[simp] theorem fixed_ite (c : Prop) [Decidable c] (a b : State) : (if c then a else b).fixed = if c then a.fixed else b.fixed := by
  split <;> rfl

@[simp] theorem snd_ite {α : Type} (c : Prop) [Decidable c] (a b : α × State) :
    (if c then a else b).2.fixed = if c then a.2.fixed else b.2.fixed := by
  split <;> rfl

theorem pair_eq {α : Type} (x : α × State) (a : α) (t : State) : x = (a, t) ↔ x.1 = a ∧ x.2 = t := Prod.ext_iff


@[simp] theorem modSlot_st (x : Part) (g : Nat) (f : KeySlot → KeySlot) : (x.modSlot g f).st = x.st := by
  unfold Part.modSlot
  split <;> rfl

@[simp] theorem modSlot_groups (x : Part) (g : Nat) (f : KeySlot → KeySlot) : (x.modSlot g f).groups = x.groups := by
  unfold Part.modSlot
  split <;> rfl

@[simp] theorem modSlot_tcWays (x : Part) (g : Nat) (f : KeySlot → KeySlot) : (x.modSlot g f).tcWays = x.tcWays := by
  unfold Part.modSlot
  split <;> rfl

@[simp] theorem modSlot_tlbWays (x : Part) (g : Nat) (f : KeySlot → KeySlot) : (x.modSlot g f).tlbWays = x.tlbWays := by
  unfold Part.modSlot
  split <;> rfl

@[simp] theorem modSlot_modules (x : Part) (g : Nat) (f : KeySlot → KeySlot) : (x.modSlot g f).modules = x.modules := by
  unfold Part.modSlot
  split <;> rfl

@[simp] theorem modSlot_key0 (x : Part) (g : Nat) (f : KeySlot → KeySlot) (h : ∀ k, (f k).key = k.key) :
    (x.modSlot g f).slot0.key = x.slot0.key := by
  unfold Part.modSlot
  split <;> simp [h]

@[simp] theorem modSlot_key1 (x : Part) (g : Nat) (f : KeySlot → KeySlot) (h : ∀ k, (f k).key = k.key) :
    (x.modSlot g f).slot1.key = x.slot1.key := by
  unfold Part.modSlot
  split <;> simp [h]

/-- A change of a partition's entry that leaves its share alone. -/
@[simp] theorem modPart_fixed (s : State) (p : Nat) (f : Part → Part)
    (h : ∀ x, (f x).st = x.st ∧ (f x).groups = x.groups ∧ (f x).tcWays = x.tcWays ∧ (f x).tlbWays = x.tlbWays ∧ (f x).modules = x.modules ∧
      (f x).slot0.key = x.slot0.key ∧ (f x).slot1.key = x.slot1.key) :
    (s.modPart p f).fixed = s.fixed := by
  have hs : sharesOf (Tab.upd s.pt.parts p f) = sharesOf s.pt.parts := by
    funext q
    by_cases hq : q = p <;> simp [sharesOf, hq, Part.share, h]
  simp [State.modPart, hs]

/-- A change of Tally that leaves its sums alone. -/
@[simp] theorem modTally_fixed (s : State) (f : Tally → Tally) (h : ∀ t, (f t).sums = t.sums) : (s.modTally f).fixed = s.fixed := by
  simp [State.modTally, h]

/-- A change of the firmware's state that leaves the minimum SVN alone. -/
@[simp] theorem modFw_fixed (s : State) (f : Firmware → Firmware) (h : ∀ x, (f x).svnMin = x.svnMin) : (s.modFw f).fixed = s.fixed := by
  simp [State.modFw, h]

@[simp] theorem pop_sums (t : Tally) : t.pop.sums = t.sums := by
  unfold Tally.pop
  simp

/-- A change over a list, each step of which leaves the fixed part alone. -/
@[simp] theorem each_fixed {α : Type} (s : State) (l : List α) (f : State → α → State) (h : ∀ t x, (f t x).fixed = t.fixed) :
    (s.each l f).fixed = s.fixed := by
  unfold State.each
  induction l generalizing s with
  | nil => rfl
  | cons a l ih => rw [List.foldl_cons, ih, h]

@[simp] theorem foldl_fixed {α : Type} (f : State → α → State) (l : List α) (s : State) (h : ∀ t x, (f t x).fixed = t.fixed) :
    (l.foldl f s).fixed = s.fixed := each_fixed s l f h

end Sys2Proof.Machine
end

