-- ==== Sys2Proof/Laws/FrameOps.lean ====
section
/-! SUPPORT. Frame lemmas of the operations of the block: the named operations, events, peer sending, the tier paths, translation, access checks and the transfer engine. Each leaves the part of the state that `State.fixed` names alone. -/

set_option linter.unusedTactic false
set_option linter.unreachableTactic false
set_option linter.unusedSimpArgs false

namespace Sys2Proof.Machine

@[simp] theorem State.modRing_fixed (s : State) (r : Nat) (f : Ring → Ring) : (State.modRing s r f).fixed = s.fixed := by
  unfold State.modRing
  simp

@[simp] theorem State.modCell_fixed (s : State) (c : Nat) (f : Cell → Cell) : (State.modCell s c f).fixed = s.fixed := by
  unfold State.modCell
  simp

@[simp] theorem State.modSlot_fixed (s : State) (k : Nat) (f : ParkSlot → ParkSlot) : (State.modSlot s k f).fixed = s.fixed := by
  unfold State.modSlot
  simp

@[simp] theorem State.modFq_fixed (s : State) (p : Nat) (f : FaultQueue → FaultQueue) : (State.modFq s p f).fixed = s.fixed := by
  unfold State.modFq
  simp

@[simp] theorem State.modCq_fixed (s : State) (k : Nat) (f : CompRing → CompRing) : (State.modCq s k f).fixed = s.fixed := by
  unfold State.modCq
  simp

@[simp] theorem State.modInvq_fixed (s : State) (p : Nat) (f : InvQueue → InvQueue) : (State.modInvq s p f).fixed = s.fixed := by
  unfold State.modInvq
  simp

@[simp] theorem State.modChq_fixed (s : State) (p : Nat) (f : ChordQueue → ChordQueue) : (State.modChq s p f).fixed = s.fixed := by
  unfold State.modChq
  simp

@[simp] theorem State.modChord_fixed (s : State) (k : Nat) (f : ChordSlot → ChordSlot) :
    (State.modChord s k f).fixed = s.fixed := by
  unfold State.modChord
  simp

@[simp] theorem State.modUnit_fixed (s : State) (u : Nat) (f : UnitWord → UnitWord) : (State.modUnit s u f).fixed = s.fixed := by
  unfold State.modUnit
  simp

@[simp] theorem State.modSource_fixed (s : State) (i : Nat) (f : Source → Source) : (State.modSource s i f).fixed = s.fixed := by
  unfold State.modSource
  simp

@[simp] theorem State.modWork_fixed (s : State) (r pos : Nat) (f : Work → Work) : (State.modWork s r pos f).fixed = s.fixed := by
  unfold State.modWork
  simp

@[simp] theorem State.draw_fixed (s : State) : (State.draw s).2.fixed = s.fixed := by
  unfold State.draw
  simp

@[simp] theorem State.choose_fixed (s : State) (n : Nat) : (State.choose s n).2.fixed = s.fixed := by
  unfold State.choose
  simp

@[simp] theorem State.report_fixed (s : State) (e : ErrorEv) : (State.report s e).fixed = s.fixed := by
  unfold State.report
  simp

@[simp] theorem State.dropReq_fixed (s : State) (id : Nat) : (State.dropReq s id).fixed = s.fixed := by
  unfold State.dropReq
  simp

@[simp] theorem State.modReq_fixed (s : State) (id : Nat) (f : Req → Req) : (State.modReq s id f).fixed = s.fixed := by
  unfold State.modReq
  simp

@[simp] theorem State.send_fixed (s : State) (r : Req) : (State.send s r).fixed = s.fixed := by
  unfold State.send
  simp

@[simp] theorem State.keyTake_fixed (s : State) (x0 : Option (Nat × Nat)) : (State.keyTake s x0).fixed = s.fixed := by
  rcases x0 with _ | ⟨p, g⟩
  · rfl
  · simp [State.keyTake]

@[simp] theorem State.keyGive_fixed (s : State) (x0 : Option (Nat × Nat)) : (State.keyGive s x0).fixed = s.fixed := by
  rcases x0 with _ | ⟨p, g⟩
  · rfl
  · simp [State.keyGive]

@[simp] theorem State.drainSpan_fixed (s : State) (sp : Nat × Nat × Nat) : (State.drainSpan s sp).fixed = s.fixed := by
  unfold State.drainSpan
  simp

@[simp] theorem State.finishReq_fixed (s : State) (r : Req) : (State.finishReq s r).fixed = s.fixed := by
  unfold State.finishReq
  split <;> simp

@[simp] theorem State.orphan_fixed (s : State) (mine : Purpose → Bool) : (State.orphan s mine).fixed = s.fixed := by
  unfold State.orphan
  simp

@[simp] theorem State.modBox_fixed (s : State) (m : Nat) (f : Mailbox → Mailbox) : (State.modBox s m f).fixed = s.fixed := by
  unfold State.modBox
  simp

@[simp] theorem State.emit_fixed (s : State) (e : Emission) : (State.emit s e).fixed = s.fixed := by
  unfold State.emit
  simp

@[simp] theorem State.dropIrq_fixed (s : State) : (State.dropIrq s).fixed = s.fixed := by
  unfold State.dropIrq
  simp

@[simp] theorem State.signalVector_fixed (s : State) (owner v : Nat) : (State.signalVector s owner v).fixed = s.fixed := by
  unfold State.signalVector
  simp

@[simp] theorem State.signalBox_fixed (s : State) (m : Nat) : (State.signalBox s m).fixed = s.fixed := by
  unfold State.signalBox
  simp

@[simp] theorem State.notify_fixed (s : State) (m : Nat) (e : EventRec) : (State.notify s m e).fixed = s.fixed := by
  unfold State.notify
  simp

@[simp] theorem State.event_fixed (s : State) (code domain cycle : Nat) (unit part : Option Nat) (data : Nat) :
    (State.event s code domain cycle unit part data).fixed = s.fixed := by
  unfold State.event
  dsimp only
  rw [each_fixed _ _ _ (fun _ _ => State.notify_fixed _ _ _), fixed_mk, fixed_fold]

@[simp] theorem State.fabEvent_fixed (s : State) (code : Nat) (unit part : Option Nat) (data : Nat) :
    (State.fabEvent s code unit part data).fixed = s.fixed := by
  unfold State.fabEvent
  simp

@[simp] theorem State.mgtEvent_fixed (s : State) (code : Nat) (unit part : Option Nat) (data : Nat) :
    (State.mgtEvent s code unit part data).fixed = s.fixed := by
  unfold State.mgtEvent
  simp

@[simp] theorem State.sendPulse_fixed (s : State) (p k : Nat) : (State.sendPulse s p k).fixed = s.fixed := by
  unfold State.sendPulse
  simp

@[simp] theorem State.count_fixed (s : State) (p k n : Nat) : (State.count s p k n).fixed = s.fixed := by
  unfold State.count
  simp

@[simp] theorem State.controlPulse_fixed (s : State) (p n : Nat) : (State.controlPulse s p n).fixed = s.fixed := by
  unfold State.controlPulse
  simp

@[simp] theorem State.countHost_fixed (s : State) (r : Req) : (State.countHost s r).fixed = s.fixed := by
  unfold State.countHost
  split <;> simp

@[simp] theorem State.sendHost_fixed (s : State) (r : Req) : (State.sendHost s r).fixed = s.fixed := by
  unfold State.sendHost
  simp

@[simp] theorem State.countAddress_fixed (s : State) : (State.countAddress s).fixed = s.fixed := by
  unfold State.countAddress
  simp

@[simp] theorem State.violate_fixed (s : State) (requester part check pa : Nat) (write : Bool) (errPart : Option Nat) :
    (State.violate s requester part check pa write errPart).fixed = s.fixed := by
  unfold State.violate
  simp

@[simp] theorem State.clearWindowsOn_fixed (s : State) (p c : Nat) : (State.clearWindowsOn s p c).fixed = s.fixed := by
  unfold State.clearWindowsOn
  simp

@[simp] theorem State.modMod_fixed (s : State) (k : Nat) (f : Module → Module) : (State.modMod s k f).fixed = s.fixed := by
  unfold State.modMod
  simp

@[simp] theorem State.sendFlit_fixed (s : State) (m header : Nat) (body : Bytes) :
    (State.sendFlit s m header body).fixed = s.fixed := by
  unfold State.sendFlit
  simp

@[simp] theorem State.sendIdle_fixed (s : State) (m : Nat) (x0 : Nat) : (State.sendIdle s m x0).fixed = s.fixed := by
  induction x0 generalizing s with
  | zero => rfl
  | succ n ih =>
    unfold State.sendIdle
    split <;> simp [ih]

@[simp] theorem State.sendPackets_fixed (s : State) (m : Nat) (l : List Packet) : (State.sendPackets s m l).fixed = s.fixed := by
  unfold State.sendPackets
  split <;> simp

theorem State.pumpOne_fixed (s : State) (m : Nat) : ∀ t, State.pumpOne s m = some t → t.fixed = s.fixed := by
  intro t h
  unfold State.pumpOne at h
  dsimp only at h
  split at h
  · simp at h
  · split at h
    · simp at h
    · rw [← Option.some.inj h]
      simp

@[simp] theorem State.pumpN_fixed (s : State) (m : Nat) (x0 : Nat) : (State.pumpN s m x0).fixed = s.fixed := by
  induction x0 generalizing s with
  | zero => rfl
  | succ n ih =>
    unfold State.pumpN
    split
    · rename_i h
      rw [ih, State.pumpOne_fixed _ _ _ h]
    · rfl

@[simp] theorem State.pump_fixed (s : State) (m : Nat) : (State.pump s m).fixed = s.fixed := by
  unfold State.pump
  simp

@[simp] theorem State.queuePacket_fixed (s : State) (m : Nat) (p : Packet) : (State.queuePacket s m p).fixed = s.fixed := by
  unfold State.queuePacket
  simp

theorem State.freeTag_fixed (s : State) : ∀ a t, State.freeTag s = some (a, t) → t.fixed = s.fixed := by
  unfold State.freeTag
  simp

theorem State.sendPeer_fixed (s : State) (r : Req) (vc : Nat) :
    ∀ t, State.sendPeer s r vc = some (some t) → t.fixed = s.fixed := by
  intro t h
  unfold State.sendPeer at h
  split at h
  · simp at h
  · split at h
    · simp at h
    · split at h
      · simp at h
      · rename_i h1
        rw [← Option.some.inj (Option.some.inj h)]
        simp [State.freeTag_fixed _ _ _ h1]

@[simp] theorem State.freeTagOf_fixed (s : State) (t : Nat) : (State.freeTagOf s t).fixed = s.fixed := by
  unfold State.freeTagOf
  simp

@[simp] theorem State.sendResponse_fixed (s : State) (p dst tag : Nat) (slots : Bytes) (resp : Bool) :
    (State.sendResponse s p dst tag slots resp).fixed = s.fixed := by
  unfold State.sendResponse
  split <;> simp

@[simp] theorem State.tierPerf_fixed (s : State) (p : Nat) (f : Tier → Tier) : (State.tierPerf s p f).fixed = s.fixed := by
  unfold State.tierPerf
  simp

@[simp] theorem State.onHit_fixed (s : State) (p pa hint k : Nat) : (State.onHit s p pa hint k).fixed = s.fixed := by
  unfold State.onHit
  simp

@[simp] theorem State.removeLine_fixed (s : State) (pa : Nat) : (State.removeLine s pa).fixed = s.fixed := by
  unfold State.removeLine
  simp

@[simp] theorem State.bulkRead_fixed (s : State) (r : Req) (hint : Nat) : (State.bulkRead s r hint).fixed = s.fixed := by
  unfold State.bulkRead
  split <;> simp

@[simp] theorem State.installLine_fixed (s : State) (f : Fill) (data : Bytes) : (State.installLine s f data).fixed = s.fixed := by
  unfold State.installLine
  dsimp only
  repeat' (first | (simp; done) | split)

@[simp] theorem State.pushEntry_fixed (s : State) (n : Nat) (e : WcEntry) : (State.pushEntry s n e).fixed = s.fixed := by
  unfold State.pushEntry
  simp

@[simp] theorem State.flushEntry_fixed (s : State) (k : Nat) : (State.flushEntry s k).fixed = s.fixed := by
  unfold State.flushEntry
  simp

@[simp] theorem State.mergePush_fixed (s : State) (n : Nat) (old : Bytes) : (State.mergePush s n old).fixed = s.fixed := by
  unfold State.mergePush
  simp

@[simp] theorem State.flushAll_fixed (s : State) (l : List Nat) : (State.flushAll s l).fixed = s.fixed := by
  unfold State.flushAll
  simp

@[simp] theorem State.flushLine_fixed (s : State) (p pa : Nat) : (State.flushLine s p pa).fixed = s.fixed := by
  unfold State.flushLine
  simp

@[simp] theorem State.flushOf_fixed (s : State) (p : Nat) (mine : Purpose → Bool) : (State.flushOf s p mine).fixed = s.fixed := by
  unfold State.flushOf
  simp

@[simp] theorem State.mergeWc_fixed (s : State) (k id : Nat) (r : Req) : (State.mergeWc s k id r).fixed = s.fixed := by
  unfold State.mergeWc
  simp

@[simp] theorem State.combine_fixed (s : State) (r : Req) : (State.combine s r).fixed = s.fixed := by
  unfold State.combine
  dsimp only
  repeat' (first | (simp; done) | split)

@[simp] theorem State.bulkWrite_fixed (s : State) (r : Req) : (State.bulkWrite s r).fixed = s.fixed := by
  unfold State.bulkWrite
  simp

@[simp] theorem State.narrowWrite_fixed (s : State) (r : Req) : (State.narrowWrite s r).fixed = s.fixed := by
  unfold State.narrowWrite
  simp

@[simp] theorem State.mergeNarrow_fixed (s : State) (id : Nat) (old : Bytes) : (State.mergeNarrow s id old).fixed = s.fixed := by
  unfold State.mergeNarrow
  simp

@[simp] theorem State.narrowRead_fixed (s : State) (r : Req) : (State.narrowRead s r).fixed = s.fixed := by
  unfold State.narrowRead
  simp

@[simp] theorem State.dropWc_fixed (s : State) (p : Nat) : (State.dropWc s p).fixed = s.fixed := by
  unfold State.dropWc
  simp

@[simp] theorem State.dropLines_fixed (s : State) (p : Nat) : (State.dropLines s p).fixed = s.fixed := by
  unfold State.dropLines
  simp

@[simp] theorem State.l1Install_fixed (s : State) (t : Nat) (l : Leaf) : (State.l1Install s t l).fixed = s.fixed := by
  unfold State.l1Install
  simp

@[simp] theorem State.l2Install_fixed (s : State) (p : Nat) (l : Leaf) : (State.l2Install s p l).fixed = s.fixed := by
  unfold State.l2Install
  dsimp only
  repeat' (first | (simp; done) | split)

@[simp] theorem State.xlPerf_fixed (s : State) (p : Nat) (f : Xl → Xl) : (State.xlPerf s p f).fixed = s.fixed := by
  unfold State.xlPerf
  simp

@[simp] theorem State.xlError_fixed (s : State) (kind p asid va : Nat) : (State.xlError s kind p asid va).fixed = s.fixed := by
  unfold State.xlError
  simp

@[simp] theorem State.translate_fixed (s : State) (p t asid va : Nat) : (State.translate s p t asid va).2.fixed = s.fixed := by
  unfold State.translate
  repeat' (first | (simp; done) | split)

@[simp] theorem State.fileMiss_fixed (s : State) (m : Miss) : (State.fileMiss s m).fixed = s.fixed := by
  unfold State.fileMiss
  simp

@[simp] theorem State.removeEntries_fixed (s : State) (p : Nat) (k : InvKind) : (State.removeEntries s p k).fixed = s.fixed := by
  unfold State.removeEntries
  simp

@[simp] theorem State.discardWalks_fixed (s : State) (p : Nat) : (State.discardWalks s p).fixed = s.fixed := by
  unfold State.discardWalks
  simp

@[simp] theorem State.cutInval_fixed (s : State) (p : Nat) (k : InvKind) (i : Inval) :
    (State.cutInval s p k i).fixed = s.fixed := by
  unfold State.cutInval
  simp

@[simp] theorem State.emptyTlbs_fixed (s : State) (p : Nat) : (State.emptyTlbs s p).fixed = s.fixed := by
  unfold State.emptyTlbs
  simp

@[simp] theorem State.takeTokens_fixed (s : State) (p b n : Nat) : (State.takeTokens s p b n).fixed = s.fixed := by
  unfold State.takeTokens
  simp

@[simp] theorem State.waitTokens_fixed (s : State) (p b : Nat) : (State.waitTokens s p b).fixed = s.fixed := by
  unfold State.waitTokens
  simp

@[simp] theorem State.fabricPort_fixed (s : State) (a : Access) : (State.fabricPort s a).2.fixed = s.fixed := by
  unfold State.fabricPort
  simp

@[simp] theorem State.accessHost_fixed (s : State) (a : Access) (pa : Nat) (key : Option (Nat × Nat)) :
    (State.accessHost s a pa key).2.fixed = s.fixed := by
  unfold State.accessHost
  simp

@[simp] theorem State.accessFabric_fixed (s : State) (a : Access) (pa : Nat) : (State.accessFabric s a pa).2.fixed = s.fixed := by
  unfold State.accessFabric
  simp

@[simp] theorem State.accessPeer_fixed (s : State) (a : Access) (pa : Nat) : (State.accessPeer s a pa).2.fixed = s.fixed := by
  have ht : ∀ q vc t, s.sendPeer q vc = some (some t) → t.fixed = s.fixed := fun q vc t h => State.sendPeer_fixed s q vc t h
  unfold State.accessPeer
  dsimp only
  repeat' (first | rfl | (simp; done) | (rename_i h; simp [ht _ _ _ h]; done) | split)

@[simp] theorem State.accessPhys_fixed (s : State) (a : Access) (pa : Nat) (key : Option (Nat × Nat)) :
    (State.accessPhys s a pa key).2.fixed = s.fixed := by
  unfold State.accessPhys
  repeat' (first | (simp; done) | split)

@[simp] theorem State.access_fixed (s : State) (a : Access) : (State.access s a).2.fixed = s.fixed := by
  have ht : ∀ x t, s.translate a.part a.l1 a.asid a.va = (x, t) → t.fixed = s.fixed := by
    intro x t h
    rw [← State.translate_fixed s a.part a.l1 a.asid a.va, h]
  unfold State.access
  dsimp only
  split
  · simp
  · split
    · rfl
    · split <;> rename_i h <;> first
        | (simp [ht _ _ h]; done)
        | (split <;> first | (simp [ht _ _ h]; done) | (split <;> simp [ht _ _ h]))

@[simp] theorem State.flushWork_fixed (s : State) (p r pos : Nat) : (State.flushWork s p r pos).fixed = s.fixed := by
  unfold State.flushWork
  simp

@[simp] theorem State.dropReadMisses_fixed (s : State) (r : Nat) : (State.dropReadMisses s r).fixed = s.fixed := by
  unfold State.dropReadMisses
  simp

@[simp] theorem State.markBad_fixed (s : State) (p r pos : Nat) (e : BadEv) : (State.markBad s p r pos e).fixed = s.fixed := by
  unfold State.markBad
  simp

@[simp] theorem State.markFault_fixed (s : State) (p r pos : Nat) (e : FaultEv) :
    (State.markFault s p r pos e).fixed = s.fixed := by
  unfold State.markFault
  simp

@[simp] theorem State.onVerdict_fixed (s : State) (p r pos off : Nat) (dst : Bool) (a : Access) (x0 : Verdict) :
    (State.onVerdict s p r pos off dst a x0).fixed = s.fixed := by
  unfold State.onVerdict
  split <;> simp

@[simp] theorem State.issueDst_fixed (s : State) (p r pos : Nat) (o n : Nat) : (State.issueDst s p r pos o n).fixed = s.fixed := by
  unfold State.issueDst
  dsimp only
  repeat' (first | (simp; done) | split)

@[simp] theorem State.gaveUp_fixed (s : State) (r pos o : Nat) : (State.gaveUp s r pos o).fixed = s.fixed := by
  unfold State.gaveUp
  repeat' (first | (simp; done) | split)

@[simp] theorem State.feedDst_fixed (s : State) (p r pos a b : Nat) : (State.feedDst s p r pos a b).fixed = s.fixed := by
  unfold State.feedDst
  split
  · rfl
  · split
    · rfl
    · refine each_fixed _ _ _ fun t x => ?_
      repeat' (first | (simp; done) | (simp_all [pair_eq]; done) | split)

@[simp] theorem State.feedRest_fixed (s : State) (p r pos : Nat) : (State.feedRest s p r pos).fixed = s.fixed := by
  unfold State.feedRest
  split <;> simp

@[simp] theorem State.settleWork_fixed (s : State) (p r pos : Nat) : (State.settleWork s p r pos).fixed = s.fixed := by
  unfold State.settleWork
  split <;> simp

@[simp] theorem State.issueSrc_fixed (s : State) (p r pos off : Nat) : (State.issueSrc s p r pos off).fixed = s.fixed := by
  unfold State.issueSrc
  dsimp only
  repeat' (first | (simp; done) | split)

@[simp] theorem State.srcDone_fixed (s : State) (q : Req) (r pos off len status : Nat) (timeout : Bool) (data : Bytes) :
    (State.srcDone s q r pos off len status timeout data).fixed = s.fixed := by
  unfold State.srcDone
  split <;> simp

@[simp] theorem State.physWrite_fixed (s : State) (p unit pa : Nat) (data : Bytes) (purpose : Purpose) (fenced : Bool) :
    (State.physWrite s p unit pa data purpose fenced).2.fixed = s.fixed := by
  unfold State.physWrite
  repeat' (first | (simp; done) | split)

@[simp] theorem State.physNote_fixed (s : State) (p unit pa : Nat) (data : Bytes) (purpose : Purpose) :
    (State.physNote s p unit pa data purpose).2.fixed = s.fixed := by
  unfold State.physNote
  simp

@[simp] theorem State.physRead_fixed (s : State) (p unit pa len : Nat) (purpose : Purpose) :
    (State.physRead s p unit pa len purpose).2.fixed = s.fixed := by
  unfold State.physRead
  split <;> simp

@[simp] theorem State.dropFinish_fixed (s : State) (p r : Nat) : (State.dropFinish s p r).fixed = s.fixed := by
  unfold State.dropFinish
  simp

@[simp] theorem State.writeCounter_fixed (s : State) (p r pos gr : Nat) : (State.writeCounter s p r pos gr).2.fixed = s.fixed := by
  unfold State.writeCounter
  split <;> simp

@[simp] theorem State.growCounter_fixed (s : State) (p r pos : Nat) : (State.growCounter s p r pos).fixed = s.fixed := by
  unfold State.growCounter
  split <;> simp

@[simp] theorem State.dstDone_fixed (s : State) (q : Req) (r pos off len status : Nat) (timeout : Bool) :
    (State.dstDone s q r pos off len status timeout).fixed = s.fixed := by
  unfold State.dstDone
  split <;> simp

end Sys2Proof.Machine
end

