-- ==== Sys2Proof/Laws/FrameWork.lean ====
section
/-! SUPPORT. Frame lemmas of the operations of the block: rings, finishing, parking, jobs, repairs, faults, walks, invalidations and read data. Each leaves the part of the state that `State.fixed` names alone. -/

set_option linter.unusedTactic false
set_option linter.unreachableTactic false
set_option linter.unusedSimpArgs false

namespace Sys2Proof.Machine

@[simp] theorem State.settleRing_fixed (s : State) (r : Nat) : (State.settleRing s r).fixed = s.fixed := by
  unfold State.settleRing
  simp

@[simp] theorem State.discardFetches_fixed (s : State) (r : Nat) (at_ : Nat → Bool) :
    (State.discardFetches s r at_).fixed = s.fixed := by
  unfold State.discardFetches
  simp

@[simp] theorem State.fetchFailed_fixed (s : State) (p r x : Nat) : (State.fetchFailed s p r x).fixed = s.fixed := by
  unfold State.fetchFailed
  simp

@[simp] theorem State.issueFetch_fixed (s : State) (p r x : Nat) : (State.issueFetch s p r x).fixed = s.fixed := by
  unfold State.issueFetch
  simp

@[simp] theorem State.staleHead_fixed (s : State) (p r t : Nat) : (State.staleHead s p r t).fixed = s.fixed := by
  unfold State.staleHead
  simp

@[simp] theorem State.consumeHead_fixed (s : State) (r : Nat) (b : Bytes) : (State.consumeHead s r b).fixed = s.fixed := by
  unfold State.consumeHead
  simp

@[simp] theorem State.judgeHead_fixed (s : State) (p r : Nat) (x0 : Nat) : (State.judgeHead s p r x0).fixed = s.fixed := by
  induction x0 generalizing s with
  | zero => rfl
  | succ n ih =>
    unfold State.judgeHead
    dsimp only
    split
    · rfl
    · split
      · simp
      · split <;> simp [ih]

@[simp] theorem State.judgeRing_fixed (s : State) (p r : Nat) : (State.judgeRing s p r).fixed = s.fixed := by
  unfold State.judgeRing
  simp

@[simp] theorem State.grantFetch_fixed (s : State) (r : Nat) : (State.grantFetch s r).fixed = s.fixed := by
  unfold State.grantFetch
  split <;> simp

@[simp] theorem State.fetchReturned_fixed (s : State) (q : Req) (r x : Nat) (res : RdRes) :
    (State.fetchReturned s q r x res).fixed = s.fixed := by
  unfold State.fetchReturned
  repeat' (first | (simp; done) | split)

@[simp] theorem State.refetch_fixed (s : State) (r : Nat) : (State.refetch s r).fixed = s.fixed := by
  unfold State.refetch
  dsimp only
  repeat' (first | (simp; done) | split)

@[simp] theorem State.moveProducer_fixed (s : State) (r x : Nat) : (State.moveProducer s r x).fixed = s.fixed := by
  unfold State.moveProducer
  simp

@[simp] theorem State.afterDoorbell_fixed (s : State) (p r : Nat) : (State.afterDoorbell s p r).fixed = s.fixed := by
  unfold State.afterDoorbell
  simp

@[simp] theorem State.acceptDoorbell_fixed (s : State) (p r w : Nat) : (State.acceptDoorbell s p r w).fixed = s.fixed := by
  unfold State.acceptDoorbell
  simp

@[simp] theorem State.dropBadAccess_fixed (s : State) (p : Nat) : (State.dropBadAccess s p).fixed = s.fixed := by
  unfold State.dropBadAccess
  simp

@[simp] theorem State.dropNotActive_fixed (s : State) (p : Nat) : (State.dropNotActive s p).fixed = s.fixed := by
  unfold State.dropNotActive
  simp

@[simp] theorem State.dropBadCheck_fixed (s : State) (p : Nat) : (State.dropBadCheck s p).fixed = s.fixed := by
  unfold State.dropBadCheck
  simp

@[simp] theorem State.dropUnbacked_fixed (s : State) (p : Nat) : (State.dropUnbacked s p).fixed = s.fixed := by
  unfold State.dropUnbacked
  simp

theorem State.checkDoorbell_fixed (s : State) (p w : Nat) (k : State → State) (h : (k s).fixed = s.fixed) :
    (s.checkDoorbell p w k).fixed = s.fixed := by
  unfold State.checkDoorbell
  simp [h]

@[simp] theorem State.ringDoorbell_fixed (s : State) (p j w : Nat) : (State.ringDoorbell s p j w).fixed = s.fixed := by
  refine State.checkDoorbell_fixed _ _ _ _ ?_
  repeat' (first | (simp; done) | (simp_all [pair_eq]; done) | split)

@[simp] theorem State.beginWork_fixed (s : State) (p r : Nat) (w : Work) : (State.beginWork s p r w).fixed = s.fixed := by
  unfold State.beginWork
  simp

@[simp] theorem State.startWork_fixed (s : State) (r : Nat) : (State.startWork s r).fixed = s.fixed := by
  unfold State.startWork
  dsimp only
  repeat' (first | (simp; done) | split)

theorem State.readAt_fixed (s : State) (r off : Nat) : ∀ a t, State.readAt s r off = some (a, t) → t.fixed = s.fixed := by
  unfold State.readAt
  repeat' (first | (simp; done) | split)

@[simp] theorem State.grantRead_fixed (s : State) (r off : Nat) : (State.grantRead s r off).fixed = s.fixed := by
  unfold State.grantRead
  split
  · rfl
  · rename_i h
    exact State.readAt_fixed _ _ _ _ _ h
  · split
    · rfl
    · dsimp only
      split
      · rename_i h
        simp [State.readAt_fixed _ _ _ _ _ h]
      · rfl

@[simp] theorem State.grantWrite_fixed (s : State) (r pos off : Nat) : (State.grantWrite s r pos off).fixed = s.fixed := by
  unfold State.grantWrite
  split <;> simp

@[simp] theorem State.countOutcome_fixed (s : State) (p r : Nat) (w : Work) : (State.countOutcome s p r w).fixed = s.fixed := by
  unfold State.countOutcome
  simp

@[simp] theorem State.advanceHead_fixed (s : State) (p r : Nat) (w : Work) : (State.advanceHead s p r w).fixed = s.fixed := by
  unfold State.advanceHead
  simp

@[simp] theorem State.popWork_fixed (s : State) (r pos : Nat) : (State.popWork s r pos).fixed = s.fixed := by
  unfold State.popWork
  simp

@[simp] theorem State.advance_fixed (s : State) (p r : Nat) (x0 : Nat) : (State.advance s p r x0).fixed = s.fixed := by
  induction x0 generalizing s with
  | zero => rfl
  | succ n ih =>
    unfold State.advance
    dsimp only
    repeat' (first | (simp [ih]; done) | split)

@[simp] theorem State.advanceAll_fixed (s : State) (p : Nat) : (State.advanceAll s p).fixed = s.fixed := by
  unfold State.advanceAll
  simp

@[simp] theorem State.advanceOwner_fixed (s : State) (r : Nat) : (State.advanceOwner s r).fixed = s.fixed := by
  unfold State.advanceOwner
  split <;> simp

@[simp] theorem State.issueFlag_fixed (s : State) (r : Nat) : (State.issueFlag s r).fixed = s.fixed := by
  unfold State.issueFlag
  dsimp only
  repeat' (first | (simp; done) | split)

@[simp] theorem State.endFinish_fixed (s : State) (p r : Nat) (pu : Purpose) (ack : WrRes) :
    (State.endFinish s p r pu ack).fixed = s.fixed := by
  unfold State.endFinish
  split <;> simp

@[simp] theorem State.finishWrite_fixed (s : State) (p r pos off : Nat) (data : Bytes) (pu : Purpose) :
    (State.finishWrite s p r pos off data pu).fixed = s.fixed := by
  unfold State.finishWrite
  simp

@[simp] theorem State.writeStatus_fixed (s : State) (r : Nat) : (State.writeStatus s r).fixed = s.fixed := by
  unfold State.writeStatus
  split <;> simp

@[simp] theorem State.writeOwn_fixed (s : State) (r : Nat) (ack : WrRes) : (State.writeOwn s r ack).fixed = s.fixed := by
  unfold State.writeOwn
  split <;> simp

@[simp] theorem State.putEntry_fixed (s : State) (p r : Nat) (w : Work) : (State.putEntry s p r w).fixed = s.fixed := by
  unfold State.putEntry
  simp

@[simp] theorem State.writeEntry_fixed (s : State) (r : Nat) (ack : WrRes) : (State.writeEntry s r ack).fixed = s.fixed := by
  unfold State.writeEntry
  split <;> simp

@[simp] theorem State.endWork_fixed (s : State) (r : Nat) (ack : WrRes) : (State.endWork s r ack).fixed = s.fixed := by
  unfold State.endWork
  dsimp only
  repeat' (first | (simp; done) | split)

@[simp] theorem State.pollConsumer_fixed (s : State) (k : Nat) : (State.pollConsumer s k).fixed = s.fixed := by
  unfold State.pollConsumer
  simp

@[simp] theorem State.releaseEntries_fixed (s : State) (k : Nat) (x0 : Nat) : (State.releaseEntries s k x0).fixed = s.fixed := by
  induction x0 generalizing s with
  | zero => rfl
  | succ n ih =>
    unfold State.releaseEntries
    dsimp only
    repeat' (first | (simp [ih]; done) | split)

@[simp] theorem State.consumerReturned_fixed (s : State) (q : Req) (k : Nat) (res : RdRes) :
    (State.consumerReturned s q k res).fixed = s.fixed := by
  unfold State.consumerReturned
  split <;> simp

@[simp] theorem State.freeSlot_fixed (s : State) (k : Nat) : (State.freeSlot s k).fixed = s.fixed := by
  unfold State.freeSlot
  simp

@[simp] theorem State.endParkedRing_fixed (s : State) (r status : Nat) : (State.endParkedRing s r status).fixed = s.fixed := by
  unfold State.endParkedRing
  split <;> simp

@[simp] theorem State.resumeRing_fixed (s : State) (r : Nat) : (State.resumeRing s r).fixed = s.fixed := by
  unfold State.resumeRing
  simp

@[simp] theorem State.issueRecord_fixed (s : State) (p k : Nat) : (State.issueRecord s p k).2.fixed = s.fixed := by
  unfold State.issueRecord
  simp

@[simp] theorem State.reportRecord_fixed (s : State) (p : Nat) : (State.reportRecord s p).fixed = s.fixed := by
  unfold State.reportRecord
  simp

@[simp] theorem State.fillSlot_fixed (s : State) (k : Nat) (x : ParkSlot) : (State.fillSlot s k x).fixed = s.fixed := by
  unfold State.fillSlot
  simp

@[simp] theorem State.holdRecord_fixed (s : State) (p k : Nat) : (State.holdRecord s p k).fixed = s.fixed := by
  unfold State.holdRecord
  simp

@[simp] theorem State.parkRing_fixed (s : State) (r : Nat) : (State.parkRing s r).fixed = s.fixed := by
  unfold State.parkRing
  split <;> simp

@[simp] theorem State.modJob_fixed (s : State) (e : Nat) (f : Job → Job) : (State.modJob s e f).fixed = s.fixed := by
  unfold State.modJob
  simp

@[simp] theorem State.giveBack_fixed (s : State) (p r pos : Nat) (res : JobResult) (mute : Bool) :
    (State.giveBack s p r pos res mute).fixed = s.fixed := by
  unfold State.giveBack
  simp

@[simp] theorem State.malformedUpdate_fixed (s : State) (p r pos : Nat) : (State.malformedUpdate s p r pos).fixed = s.fixed := by
  unfold State.malformedUpdate
  simp

@[simp] theorem State.consumeUpdate_fixed (s : State) (r : Nat) (b : Bytes) : (State.consumeUpdate s r b).fixed = s.fixed := by
  unfold State.consumeUpdate
  simp

@[simp] theorem State.passUpdate_fixed (s : State) (r : Nat) : (State.passUpdate s r).fixed = s.fixed := by
  unfold State.passUpdate
  dsimp only
  repeat' (first | (simp; done) | split)

@[simp] theorem State.dropJobMisses_fixed (s : State) (e : Nat) : (State.dropJobMisses s e).fixed = s.fixed := by
  unfold State.dropJobMisses
  simp

@[simp] theorem State.flushJob_fixed (s : State) (e : Nat) : (State.flushJob s e).fixed = s.fixed := by
  unfold State.flushJob
  simp

@[simp] theorem State.jobBad_fixed (s : State) (e : Nat) (ev : BadEv) : (State.jobBad s e ev).fixed = s.fixed := by
  unfold State.jobBad
  simp

@[simp] theorem State.jobFault_fixed (s : State) (e : Nat) (ev : FaultEv) : (State.jobFault s e ev).fixed = s.fixed := by
  unfold State.jobFault
  simp

@[simp] theorem State.onJobVerdict_fixed (s : State) (e elem : Nat) (dst : Bool) (a : Access) (x0 : Verdict) :
    (State.onJobVerdict s e elem dst a x0).fixed = s.fixed := by
  unfold State.onJobVerdict
  split <;> simp

@[simp] theorem State.jobReadIn_fixed (s : State) (e stream o n : Nat) (needs : Needs) :
    (State.jobReadIn s e stream o n needs).fixed = s.fixed := by
  unfold State.jobReadIn
  dsimp only
  repeat' (first | (simp; done) | split)

@[simp] theorem State.jobReadDone_fixed (s : State) (q : Req) (e stream o n status : Nat) (timeout : Bool) (data : Bytes) :
    (State.jobReadDone s q e stream o n status timeout data).fixed = s.fixed := by
  unfold State.jobReadDone
  simp

@[simp] theorem State.jobWriteOne_fixed (s : State) (e : Nat) : (State.jobWriteOne s e).2.fixed = s.fixed := by
  unfold State.jobWriteOne
  dsimp only
  repeat' (first | (simp; done) | split)

@[simp] theorem State.jobWrites_fixed (s : State) (e : Nat) (x0 : Nat) : (State.jobWrites s e x0).fixed = s.fixed := by
  induction x0 generalizing s with
  | zero => rfl
  | succ n ih =>
    unfold State.jobWrites
    split <;> rename_i h <;> simp_all [pair_eq] <;> simp [← h.2]

@[simp] theorem State.jobDrain_fixed (s : State) (e : Nat) : (State.jobDrain s e).fixed = s.fixed := by
  unfold State.jobDrain
  simp

@[simp] theorem State.jobWriteDone_fixed (s : State) (q : Req) (e stream o status : Nat) (timeout : Bool) :
    (State.jobWriteDone s q e stream o status timeout).fixed = s.fixed := by
  unfold State.jobWriteDone
  simp

@[simp] theorem State.startJob_fixed (s : State) (e : Nat) : (State.startJob s e).fixed = s.fixed := by
  unfold State.startJob
  simp

@[simp] theorem State.normPartial_fixed (s : State) (e : Nat) (j : Job) : (State.normPartial s e j).1.fixed = s.fixed := by
  unfold State.normPartial
  simp

@[simp] theorem State.computeTile_fixed (s : State) (e : Nat) : (State.computeTile s e).fixed = s.fixed := by
  unfold State.computeTile
  dsimp only
  repeat' (first | (simp; done) | split)

@[simp] theorem State.countElements_fixed (s : State) (e k : Nat) : (State.countElements s e k).fixed = s.fixed := by
  unfold State.countElements
  simp

@[simp] theorem State.ackTile_fixed (s : State) (e : Nat) : (State.ackTile s e).fixed = s.fixed := by
  unfold State.ackTile
  dsimp only
  repeat' (first | (simp; done) | split)

@[simp] theorem State.readNorm_fixed (s : State) (e : Nat) : (State.readNorm s e).fixed = s.fixed := by
  unfold State.readNorm
  dsimp only
  repeat' (first | (simp; done) | split)

@[simp] theorem State.normReturned_fixed (s : State) (q : Req) (e status : Nat) (timeout : Bool) (data : Bytes) :
    (State.normReturned s q e status timeout data).fixed = s.fixed := by
  unfold State.normReturned
  simp

@[simp] theorem State.normLimit_fixed (s : State) (e : Nat) : (State.normLimit s e).fixed = s.fixed := by
  unfold State.normLimit
  dsimp only
  repeat' (first | (simp; done) | split)

@[simp] theorem State.writeFingerprint_fixed (s : State) (e k : Nat) : (State.writeFingerprint s e k).fixed = s.fixed := by
  unfold State.writeFingerprint
  dsimp only
  repeat' (first | (simp; done) | split)

@[simp] theorem State.parkJob_fixed (s : State) (e : Nat) : (State.parkJob s e).fixed = s.fixed := by
  unfold State.parkJob
  dsimp only
  repeat' (first | (simp; done) | split)

@[simp] theorem State.resumeJob_fixed (s : State) (p : Nat) : (State.resumeJob s p).fixed = s.fixed := by
  unfold State.resumeJob
  split <;> simp

@[simp] theorem State.endParkedJob_fixed (s : State) (p status : Nat) : (State.endParkedJob s p status).fixed = s.fixed := by
  unfold State.endParkedJob
  split <;> simp

@[simp] theorem State.abortJobs_fixed (s : State) (r : Nat) : (State.abortJobs s r).fixed = s.fixed := by
  unfold State.abortJobs
  simp

@[simp] theorem State.placeRepair_fixed (s : State) (p set region mask expected : Nat) :
    (State.placeRepair s p set region mask expected).2.fixed = s.fixed := by
  unfold State.placeRepair
  dsimp only
  repeat' (first | (simp; done) | split)

@[simp] theorem State.afterCheck_fixed (s : State) (p : Nat) (j : Job) : (State.afterCheck s p j).fixed = s.fixed := by
  unfold State.afterCheck
  repeat' (first | (simp; done) | split)

@[simp] theorem State.countJob_fixed (s : State) (p : Nat) (j : Job) : (State.countJob s p j).fixed = s.fixed := by
  unfold State.countJob
  simp

@[simp] theorem State.reportJob_fixed (s : State) (p : Nat) (j : Job) : (State.reportJob s p j).fixed = s.fixed := by
  unfold State.reportJob
  simp

@[simp] theorem State.returnJob_fixed (s : State) (e : Nat) : (State.returnJob s e).fixed = s.fixed := by
  unfold State.returnJob
  simp

@[simp] theorem State.startChunk_fixed (s : State) (e q : Nat) : (State.startChunk s e q).fixed = s.fixed := by
  unfold State.startChunk
  repeat' (first | (simp; done) | split)

@[simp] theorem State.finishTile_fixed (s : State) : (State.finishTile s).fixed = s.fixed := by
  unfold State.finishTile
  split <;> simp

@[simp] theorem State.outputTile_fixed (s : State) : (State.outputTile s).fixed = s.fixed := by
  unfold State.outputTile
  split <;> simp

@[simp] theorem State.respond_fixed (s : State) (m result detail : Nat) (payload : Bytes) :
    (State.respond s m result detail payload).fixed = s.fixed := by
  unfold State.respond
  simp

@[simp] theorem State.ok_fixed (s : State) (m : Nat) : (State.ok s m).fixed = s.fixed := by
  unfold State.ok
  simp

@[simp] theorem State.grantJobRead_fixed (s : State) (e stream o n : Nat) :
    (State.grantJobRead s e stream o n).fixed = s.fixed := by
  unfold State.grantJobRead
  split <;> simp

@[simp] theorem State.startRepair_fixed (s : State) (p : Nat) : (State.startRepair s p).fixed = s.fixed := by
  unfold State.startRepair
  repeat' (first | (simp; done) | split)

@[simp] theorem State.modRepair_fixed (s : State) (e : Nat) (f : RepairJob → RepairJob) :
    (State.modRepair s e f).fixed = s.fixed := by
  unfold State.modRepair
  simp

@[simp] theorem State.checkRepair_fixed (s : State) (e : Nat) : (State.checkRepair s e).fixed = s.fixed := by
  unfold State.checkRepair
  dsimp only
  repeat' (first | (simp; done) | split)

@[simp] theorem State.repairTile_fixed (s : State) (e : Nat) : (State.repairTile s e).fixed = s.fixed := by
  unfold State.repairTile
  dsimp only
  repeat' (first | (simp; done) | split)

@[simp] theorem State.repairAck_fixed (s : State) (e : Nat) : (State.repairAck s e).fixed = s.fixed := by
  unfold State.repairAck
  dsimp only
  repeat' (first | (simp; done) | split)

@[simp] theorem State.queueStep_fixed (s : State) (e : Nat) (runs : List Run) (f : RepairJob → RepairJob) :
    (State.queueStep s e runs f).fixed = s.fixed := by
  unfold State.queueStep
  simp

@[simp] theorem State.writeMembers_fixed (s : State) (e : Nat) : (State.writeMembers s e).fixed = s.fixed := by
  unfold State.writeMembers
  dsimp only
  repeat' (first | (simp; done) | split)

@[simp] theorem State.writeRegionPrints_fixed (s : State) (e : Nat) : (State.writeRegionPrints s e).fixed = s.fixed := by
  unfold State.writeRegionPrints
  dsimp only
  repeat' (first | (simp; done) | split)

@[simp] theorem State.writeRepairNote_fixed (s : State) (e : Nat) : (State.writeRepairNote s e).fixed = s.fixed := by
  unfold State.writeRepairNote
  dsimp only
  repeat' (first | (simp; done) | split)

@[simp] theorem State.tileReads_fixed (s : State) (e : Nat) : (State.tileReads s e).fixed = s.fixed := by
  unfold State.tileReads
  simp

@[simp] theorem State.tileAcks_fixed (s : State) (e : Nat) : (State.tileAcks s e).fixed = s.fixed := by
  unfold State.tileAcks
  simp

@[simp] theorem State.endParked_fixed (s : State) (k status : Nat) : (State.endParked s k status).fixed = s.fixed := by
  unfold State.endParked
  simp

@[simp] theorem State.resumeParked_fixed (s : State) (k : Nat) : (State.resumeParked s k).fixed = s.fixed := by
  unfold State.resumeParked
  simp

@[simp] theorem State.writeHeld_fixed (s : State) (p : Nat) (x0 : Nat) : (State.writeHeld s p x0).fixed = s.fixed := by
  induction x0 generalizing s with
  | zero => rfl
  | succ n ih =>
    unfold State.writeHeld
    dsimp only
    repeat' (first | (simp [ih]; done) | split)

@[simp] theorem State.countStale_fixed (s : State) (p : Nat) : (State.countStale s p).fixed = s.fixed := by
  unfold State.countStale
  simp

@[simp] theorem State.takeConsumer_fixed (s : State) (p c : Nat) : (State.takeConsumer s p c).fixed = s.fixed := by
  unfold State.takeConsumer
  simp

@[simp] theorem State.faultResponse_fixed (s : State) (p w : Nat) : (State.faultResponse s p w).fixed = s.fixed := by
  unfold State.faultResponse
  split <;> simp

@[simp] theorem State.faultDoorbell_fixed (s : State) (p w : Nat) : (State.faultDoorbell s p w).fixed = s.fixed := by
  refine State.checkDoorbell_fixed _ _ _ _ ?_
  repeat' (first | (simp; done) | (simp_all [pair_eq]; done) | split)

@[simp] theorem State.recordAcked_fixed (s : State) (k gen : Nat) (ack : WrRes) :
    (State.recordAcked s k gen ack).fixed = s.fixed := by
  unfold State.recordAcked
  split <;> simp

@[simp] theorem State.timerExpired_fixed (s : State) (k : Nat) : (State.timerExpired s k).fixed = s.fixed := by
  unfold State.timerExpired
  dsimp only
  repeat' (first | (simp; done) | split)

@[simp] theorem State.endMiss_fixed (s : State) (m : Miss) (x : WalkEnd) : (State.endMiss s m x).fixed = s.fixed := by
  unfold State.endMiss
  repeat' (first | (simp; done) | split)

@[simp] theorem State.modWalk_fixed (s : State) (i : Nat) (f : Walk → Walk) : (State.modWalk s i f).fixed = s.fixed := by
  unfold State.modWalk
  simp

@[simp] theorem State.dropWalk_fixed (s : State) (i : Nat) : (State.dropWalk s i).fixed = s.fixed := by
  unfold State.dropWalk
  simp

@[simp] theorem State.endMisses_fixed (s : State) (pick : Miss → Bool) (x : WalkEnd) :
    (State.endMisses s pick x).fixed = s.fixed := by
  unfold State.endMisses
  simp

@[simp] theorem State.failWalk_fixed (s : State) (w : Walk) (writesOnly : Bool) (x : WalkEnd) :
    (State.failWalk s w writesOnly x).fixed = s.fixed := by
  unfold State.failWalk
  simp

@[simp] theorem State.walkError_fixed (s : State) (w : Walk) (kind : Nat) : (State.walkError s w kind).fixed = s.fixed := by
  unfold State.walkError
  simp

@[simp] theorem State.walkRead_fixed (s : State) (i table : Nat) : (State.walkRead s i table).fixed = s.fixed := by
  unfold State.walkRead
  split <;> simp

@[simp] theorem State.installWalk_fixed (s : State) (p : Nat) (e : WalkEntry) : (State.installWalk s p e).fixed = s.fixed := by
  unfold State.installWalk
  simp

@[simp] theorem State.startWalk_fixed (s : State) (p : Nat) : (State.startWalk s p).fixed = s.fixed := by
  unfold State.startWalk
  split <;> simp

@[simp] theorem State.installLeaf_fixed (s : State) (w : Walk) (l : Leaf) : (State.installLeaf s w l).fixed = s.fixed := by
  unfold State.installLeaf
  simp

@[simp] theorem State.walkOn_fixed (s : State) (w : Walk) (e : Nat) : (State.walkOn s w e).fixed = s.fixed := by
  unfold State.walkOn
  simp

theorem State.walkCheck_fixed (s : State) (w : Walk) (e : Nat) (k : State → State) (h : (k s).fixed = s.fixed) :
    (s.walkCheck w e k).fixed = s.fixed := by
  unfold State.walkCheck
  simp [h]

@[simp] theorem State.walkReturned_fixed (s : State) (i : Nat) (res : RdRes) : (State.walkReturned s i res).fixed = s.fixed := by
  unfold State.walkReturned
  dsimp only
  repeat' (first | (simp; done) | split | (rw [State.walkCheck_fixed]))

@[simp] theorem State.ownedReturned_fixed (s : State) (i : Nat) (res : RdRes) : (State.ownedReturned s i res).fixed = s.fixed := by
  unfold State.ownedReturned
  dsimp only
  repeat' (first | (simp; done) | split | (rw [State.walkCheck_fixed]))

@[simp] theorem State.walkTimeout_fixed (s : State) (i : Nat) : (State.walkTimeout s i).fixed = s.fixed := by
  unfold State.walkTimeout
  split <;> simp

@[simp] theorem State.invDoorbell_fixed (s : State) (p w : Nat) : (State.invDoorbell s p w).fixed = s.fixed := by
  refine State.checkDoorbell_fixed _ _ _ _ ?_
  repeat' (first | (simp; done) | (simp_all [pair_eq]; done) | split)

@[simp] theorem State.stopInv_fixed (s : State) (p : Nat) : (State.stopInv s p).fixed = s.fixed := by
  unfold State.stopInv
  simp

@[simp] theorem State.readInv_fixed (s : State) (p : Nat) : (State.readInv s p).fixed = s.fixed := by
  unfold State.readInv
  simp

@[simp] theorem State.fetchInv_fixed (s : State) (p : Nat) : (State.fetchInv s p).fixed = s.fixed := by
  unfold State.fetchInv
  simp

@[simp] theorem State.refetchInv_fixed (s : State) (p : Nat) : (State.refetchInv s p).fixed = s.fixed := by
  unfold State.refetchInv
  simp

@[simp] theorem State.invReturned_fixed (s0 : State) (p : Nat) (res : RdRes) : (State.invReturned s0 p res).fixed = s0.fixed := by
  unfold State.invReturned
  repeat' (first | (simp; done) | split)

@[simp] theorem State.cutEntry_fixed (s : State) (p : Nat) : (State.cutEntry s p).fixed = s.fixed := by
  unfold State.cutEntry
  dsimp only
  repeat' (first | (simp; done) | split)

@[simp] theorem State.applyBind_fixed (s : State) (m : Nat) : (State.applyBind s m).fixed = s.fixed := by
  unfold State.applyBind
  split <;> simp

@[simp] theorem State.cutWaiting_fixed (s : State) (p : Nat) : (State.cutWaiting s p).fixed = s.fixed := by
  unfold State.cutWaiting
  split <;> simp

@[simp] theorem State.takeInval_fixed (s : State) (p : Nat) : (State.takeInval s p).fixed = s.fixed := by
  unfold State.takeInval
  dsimp only
  repeat' (first | (simp; done) | split)

@[simp] theorem State.writeNote_fixed (s : State) (i : Inval) : (State.writeNote s i).fixed = s.fixed := by
  unfold State.writeNote
  split <;> simp

@[simp] theorem State.ackInval_fixed (s : State) (id : Nat) : (State.ackInval s id).fixed = s.fixed := by
  unfold State.ackInval
  repeat' (first | (simp; done) | split)

@[simp] theorem State.drainLimit_fixed (s : State) (id : Nat) : (State.drainLimit s id).fixed = s.fixed := by
  unfold State.drainLimit
  split <;> simp

@[simp] theorem State.askRepair_fixed (s : State) (e c : Nat) : (State.askRepair s e c).fixed = s.fixed := by
  unfold State.askRepair
  simp

@[simp] theorem State.readStatus_fixed (s : State) (q : Req) (res : RdRes) : (State.readStatus s q res).2.fixed = s.fixed := by
  unfold State.readStatus
  repeat' (first | (simp; done) | split)

@[simp] theorem State.afterReq_fixed (s : State) (q : Req) : (State.afterReq s q).fixed = s.fixed := by
  unfold State.afterReq
  split <;> simp

@[simp] theorem State.endRead_fixed (s : State) (q : Req) (status : Nat) (timeout : Bool) (data : Bytes) :
    (State.endRead s q status timeout data).fixed = s.fixed := by
  unfold State.endRead
  split <;> simp

@[simp] theorem State.flagDone_fixed (s : State) (q : Req) (r pos status : Nat) (timeout : Bool) :
    (State.flagDone s q r pos status timeout).fixed = s.fixed := by
  unfold State.flagDone
  split <;> simp

@[simp] theorem State.endWrite_fixed (s : State) (q : Req) (status : Nat) (timeout : Bool) :
    (State.endWrite s q status timeout).fixed = s.fixed := by
  unfold State.endWrite
  split <;> simp

@[simp] theorem State.endWrites_fixed (s : State) (ids : List Nat) (status : Nat) :
    (State.endWrites s ids status).fixed = s.fixed := by
  refine each_fixed _ _ _ fun t x => ?_
  repeat' (first | (simp; done) | (simp_all [pair_eq]; done) | split)

@[simp] theorem State.endPush_fixed (s : State) (n status : Nat) : (State.endPush s n status).fixed = s.fixed := by
  unfold State.endPush
  simp

@[simp] theorem State.dataReturned_fixed (s : State) (q : Req) (res : RdRes) : (State.dataReturned s q res).fixed = s.fixed := by
  have he : (State.dataReturned.ended s q res).fixed = s.fixed := by
    unfold State.dataReturned.ended
    repeat' (first | (simp; done) | split)
  unfold State.dataReturned
  repeat' (first | (simp [he]; done) | split)

@[simp] theorem State.performAdds_fixed (s : State) (q : Req) (res : WrRes) : (State.performAdds s q res).fixed = s.fixed := by
  unfold State.performAdds
  split <;> simp

@[simp] theorem State.dataAcked_fixed (s0 : State) (q : Req) (res : WrRes) : (State.dataAcked s0 q res).fixed = s0.fixed := by
  unfold State.dataAcked
  repeat' (first | (simp; done) | split)

@[simp] theorem State.fillReturned_fixed (s : State) (id : Nat) (res : RdRes) : (State.fillReturned s id res).fixed = s.fixed := by
  unfold State.fillReturned
  repeat' (first | (simp; done) | split)

@[simp] theorem State.snoop_fixed (s : State) (module pa : Nat) (invalidate : Bool) :
    (State.snoop s module pa invalidate).fixed = s.fixed := by
  unfold State.snoop
  dsimp only
  split
  · rw [State.emit_fixed, State.removeLine_fixed, foldl_fixed]
    simp
  · simp

@[simp] theorem State.idleFlush_fixed (s : State) (k : Nat) : (State.idleFlush s k).fixed = s.fixed := by
  unfold State.idleFlush
  simp

end Sys2Proof.Machine
end

