-- ==== Sys2Proof/Laws/FrameLinks.lean ====
section
/-! SUPPORT. Frame lemmas of the operations of the block: ring disable, unit words, link modules, Capo, the error collector, the count path, chords and inbound peer packets. Each leaves the part of the state that `State.fixed` names alone. -/

set_option linter.unusedTactic false
set_option linter.unreachableTactic false
set_option linter.unusedSimpArgs false

namespace Sys2Proof.Machine

@[simp] theorem State.dropRingMisses_fixed (s : State) (r : Nat) : (State.dropRingMisses s r).fixed = s.fixed := by
  unfold State.dropRingMisses
  simp

@[simp] theorem State.enableRing_fixed (s : State) (r start : Nat) : (State.enableRing s r start).fixed = s.fixed := by
  unfold State.enableRing
  simp

@[simp] theorem State.stopFetching_fixed (s : State) (r : Nat) : (State.stopFetching s r).fixed = s.fixed := by
  unfold State.stopFetching
  simp

@[simp] theorem State.disableRing_fixed (s : State) (p r : Nat) : (State.disableRing s p r).fixed = s.fixed := by
  unfold State.disableRing
  simp

@[simp] theorem State.drainRing_fixed (s : State) (r : Nat) : (State.drainRing s r).fixed = s.fixed := by
  unfold State.drainRing
  simp

@[simp] theorem State.admissionEvent_fixed (s : State) (u : Nat) : (State.admissionEvent s u).fixed = s.fixed := by
  unfold State.admissionEvent
  simp

@[simp] theorem State.settleUnit_fixed (s : State) (u : Nat) : (State.settleUnit s u).fixed = s.fixed := by
  unfold State.settleUnit
  simp

@[simp] theorem State.endQuarantine_fixed (s : State) (u : Nat) : (State.endQuarantine s u).fixed = s.fixed := by
  unfold State.endQuarantine
  simp

@[simp] theorem State.quarantine_fixed (s : State) (u cause : Nat) : (State.quarantine s u cause).fixed = s.fixed := by
  unfold State.quarantine
  simp

@[simp] theorem State.clearQuarantine_fixed (s : State) (u : Nat) : (State.clearQuarantine s u).fixed = s.fixed := by
  unfold State.clearQuarantine
  simp

theorem State.mcWrite_fixed (s : State) (u level epoch : Nat) :
    ∀ t, State.mcWrite s u level epoch = some t → t.fixed = s.fixed := by
  unfold State.mcWrite
  dsimp only
  repeat' (first | (simp; done) | split)

@[simp] theorem State.setModState_fixed (s : State) (k st : Nat) : (State.setModState s k st).fixed = s.fixed := by
  unfold State.setModState
  simp

@[simp] theorem State.startTraining_fixed (s : State) (k : Nat) : (State.startTraining s k).fixed = s.fixed := by
  unfold State.startTraining
  simp

@[simp] theorem State.sidebandUp_fixed (s : State) (k : Nat) : (State.sidebandUp s k).fixed = s.fixed := by
  unfold State.sidebandUp
  simp

@[simp] theorem State.sendCtl_fixed (s : State) (m : Nat) (body : Bytes) : (State.sendCtl s m body).fixed = s.fixed := by
  unfold State.sendCtl
  simp

@[simp] theorem State.endPeer_fixed (s : State) (t status : Nat) (timeout : Bool) (data : Bytes) :
    (State.endPeer s t status timeout data).fixed = s.fixed := by
  unfold State.endPeer
  dsimp only
  repeat' (first | (simp; done) | split)

@[simp] theorem State.endOn_fixed (s : State) (m : Nat) : (State.endOn s m).fixed = s.fixed := by
  unfold State.endOn
  simp

@[simp] theorem State.moveIo_fixed (s : State) : (State.moveIo s).fixed = s.fixed := by
  unfold State.moveIo
  simp only [State.report_fixed, fixed_mk]
  simp only [fixed_fold, State.orphan_fixed]
  refine each_fixed _ _ _ fun t x => ?_
  repeat' (first | (simp; done) | (simp_all [pair_eq]; done) | split)

@[simp] theorem State.downMod_fixed (s : State) (k cause : Nat) : (State.downMod s k cause).fixed = s.fixed := by
  unfold State.downMod
  simp

@[simp] theorem State.mainbandTrained_fixed (s : State) (k lo hi : Nat) : (State.mainbandTrained s k lo hi).fixed = s.fixed := by
  unfold State.mainbandTrained
  repeat' (first | (simp; done) | split)

@[simp] theorem State.linkUp_fixed (s : State) (k : Nat) : (State.linkUp s k).fixed = s.fixed := by
  unfold State.linkUp
  simp

@[simp] theorem State.paramReceived_fixed (s : State) (k : Nat) (b : Bytes) : (State.paramReceived s k b).fixed = s.fixed := by
  unfold State.paramReceived
  simp

@[simp] theorem State.trainingLimit_fixed (s : State) (k : Nat) : (State.trainingLimit s k).fixed = s.fixed := by
  unfold State.trainingLimit
  simp

@[simp] theorem State.freeRetry_fixed (s : State) (m seq : Nat) : (State.freeRetry s m seq).fixed = s.fixed := by
  unfold State.freeRetry
  dsimp only
  split
  · rfl
  · rw [State.modMod_fixed, foldl_fixed]
    simp

@[simp] theorem State.takeAck_fixed (s : State) (m : Nat) (b : Bytes) : (State.takeAck s m b).fixed = s.fixed := by
  unfold State.takeAck
  simp

@[simp] theorem State.resend_fixed (s : State) (m : Nat) : (State.resend s m).fixed = s.fixed := by
  unfold State.resend
  simp

@[simp] theorem State.enterRetrain_fixed (s : State) (k : Nat) : (State.enterRetrain s k).fixed = s.fixed := by
  unfold State.enterRetrain
  simp

@[simp] theorem State.replay_fixed (s : State) (k : Nat) : (State.replay s k).fixed = s.fixed := by
  unfold State.replay
  simp

@[simp] theorem State.sendNak_fixed (s : State) (m : Nat) : (State.sendNak s m).fixed = s.fixed := by
  unfold State.sendNak
  simp

@[simp] theorem State.crcError_fixed (s : State) (k : Nat) (b : Bytes) : (State.crcError s k b).fixed = s.fixed := by
  unfold State.crcError
  simp

@[simp] theorem State.outOfOrder_fixed (s : State) (m : Nat) (b : Bytes) : (State.outOfOrder s m b).fixed = s.fixed := by
  unfold State.outOfOrder
  simp

@[simp] theorem State.nakRepeat_fixed (s : State) (m : Nat) : (State.nakRepeat s m).fixed = s.fixed := by
  unfold State.nakRepeat
  simp

@[simp] theorem State.nakReceived_fixed (s : State) (k : Nat) (b : Bytes) : (State.nakReceived s k b).fixed = s.fixed := by
  unfold State.nakReceived
  simp

@[simp] theorem State.replayTimeout_fixed (s : State) (m : Nat) : (State.replayTimeout s m).fixed = s.fixed := by
  unfold State.replayTimeout
  simp

@[simp] theorem State.idleReceived_fixed (s : State) (k : Nat) (b : Bytes) : (State.idleReceived s k b).fixed = s.fixed := by
  unfold State.idleReceived
  simp

@[simp] theorem State.retrainDone_fixed (s : State) (k lo hi : Nat) (param : Bytes) :
    (State.retrainDone s k lo hi param).fixed = s.fixed := by
  unfold State.retrainDone
  split <;> simp

@[simp] theorem State.enterLp_fixed (s : State) (k : Nat) : (State.enterLp s k).fixed = s.fixed := by
  unfold State.enterLp
  simp

@[simp] theorem State.exitLp_fixed (s : State) (k : Nat) : (State.exitLp s k).fixed = s.fixed := by
  unfold State.exitLp
  simp

@[simp] theorem State.writeTg_fixed (s : State) (k w : Nat) : (State.writeTg s k w).fixed = s.fixed := by
  unfold State.writeTg
  simp

@[simp] theorem State.sendTest_fixed (s : State) (k : Nat) : (State.sendTest s k).fixed = s.fixed := by
  unfold State.sendTest
  simp

@[simp] theorem State.testReceived_fixed (s : State) (k : Nat) (b : Bytes) : (State.testReceived s k b).fixed = s.fixed := by
  unfold State.testReceived
  simp

@[simp] theorem State.modPx_fixed (s : State) (f : Px → Px) : (State.modPx s f).fixed = s.fixed := by
  unfold State.modPx
  simp

@[simp] theorem State.modFn_fixed (s : State) (f : Nat) (g : PxFn → PxFn) : (State.modFn s f g).fixed = s.fixed := by
  unfold State.modFn
  simp

@[simp] theorem State.tlp_fixed (s : State) : (State.tlp s).fixed = s.fixed := by
  unfold State.tlp
  simp

@[simp] theorem State.abortReads_fixed (s : State) : (State.abortReads s).fixed = s.fixed := by
  unfold State.abortReads
  dsimp only
  rw [State.modPx_fixed, each_fixed]
  · rfl
  · intro t x
    repeat' (first | (simp; done) | (simp_all [pair_eq]; done) | split)

@[simp] theorem State.holdLink_fixed (s : State) : (State.holdLink s).fixed = s.fixed := by
  unfold State.holdLink
  simp

@[simp] theorem State.capoTrigger_fixed (s : State) (cause err : Nat) : (State.capoTrigger s cause err).fixed = s.fixed := by
  unfold State.capoTrigger
  simp

@[simp] theorem State.capoRelease_fixed (s : State) : (State.capoRelease s).fixed = s.fixed := by
  unfold State.capoRelease
  simp

@[simp] theorem State.sendPending_fixed (s : State) (k : Nat) : (State.sendPending s k).fixed = s.fixed := by
  unfold State.sendPending
  simp

@[simp] theorem State.sendAllPending_fixed (s : State) : (State.sendAllPending s).fixed = s.fixed := by
  unfold State.sendAllPending
  simp

@[simp] theorem State.releaseDue_fixed (s : State) : (State.releaseDue s).fixed = s.fixed := by
  unfold State.releaseDue
  split <;> simp

@[simp] theorem State.aerCorrectable_fixed (s : State) (b : Nat) : (State.aerCorrectable s b).fixed = s.fixed := by
  unfold State.aerCorrectable
  simp

@[simp] theorem State.aerUncorrectable_fixed (s : State) (b : Nat) (header : Bytes) :
    (State.aerUncorrectable s b header).fixed = s.fixed := by
  unfold State.aerUncorrectable
  repeat' (first | (simp; done) | split)

@[simp] theorem State.aerCapo_fixed (s : State) (b : Nat) : (State.aerCapo s b).fixed = s.fixed := by
  unfold State.aerCapo
  simp

@[simp] theorem State.aerError_fixed (s : State) (b : Nat) (header : Bytes) : (State.aerError s b header).fixed = s.fixed := by
  unfold State.aerError
  simp

@[simp] theorem State.aerDetected_fixed (s : State) (correctable : Bool) (b : Nat) (header : Bytes) :
    (State.aerDetected s correctable b header).fixed = s.fixed := by
  unfold State.aerDetected
  simp

@[simp] theorem State.unsupported_fixed (s : State) (header : Bytes) : (State.unsupported s header).fixed = s.fixed := by
  unfold State.unsupported
  simp

@[simp] theorem State.resetPort_fixed (s : State) : (State.resetPort s).fixed = s.fixed := by
  unfold State.resetPort
  simp

@[simp] theorem State.resetVf_fixed (s : State) (p : Nat) : (State.resetVf s p).fixed = s.fixed := by
  unfold State.resetVf
  simp

@[simp] theorem State.dlDown_fixed (s : State) : (State.dlDown s).fixed = s.fixed := by
  unfold State.dlDown
  simp

@[simp] theorem State.dlUp_fixed (s : State) (width rate : Nat) (insert : Bool) :
    (State.dlUp s width rate insert).fixed = s.fixed := by
  unfold State.dlUp
  simp

@[simp] theorem State.l0pEnter_fixed (s : State) : (State.l0pEnter s).fixed = s.fixed := by
  unfold State.l0pEnter
  simp

@[simp] theorem State.l0pLeave_fixed (s : State) : (State.l0pLeave s).fixed = s.fixed := by
  unfold State.l0pLeave
  simp

@[simp] theorem State.l1Enter_fixed (s : State) : (State.l1Enter s).fixed = s.fixed := by
  unfold State.l1Enter
  simp

@[simp] theorem State.errMessage_fixed (s : State) (rid kind : Nat) : (State.errMessage s rid kind).fixed = s.fixed := by
  unfold State.errMessage
  simp

@[simp] theorem State.errorEvent_fixed (s : State) (e : ErrorEv) (kind level : Nat) (second : Bool) :
    (State.errorEvent s e kind level second).fixed = s.fixed := by
  unfold State.errorEvent
  simp

@[simp] theorem State.ecQuarantine_fixed (s : State) (src u cause : Nat) : (State.ecQuarantine s src u cause).fixed = s.fixed := by
  unfold State.ecQuarantine
  simp

@[simp] theorem State.isolate_fixed (s : State) (src : Nat) (l : List Nat) : (State.isolate s src l).fixed = s.fixed := by
  unfold State.isolate
  simp

@[simp] theorem State.freeze_fixed (s : State) (src : Nat) (l : List Nat) : (State.freeze s src l).fixed = s.fixed := by
  unfold State.freeze
  simp

@[simp] theorem State.levelAction_fixed (s : State) (src : Nat) (l : List Nat) (level : Nat) :
    (State.levelAction s src l level).fixed = s.fixed := by
  unfold State.levelAction
  split <;> simp

@[simp] theorem State.raiseTo_fixed (s : State) (e : ErrorEv) (level : Nat) (step : Bool) :
    (State.raiseTo s e level step).fixed = s.fixed := by
  unfold State.raiseTo
  simp

@[simp] theorem State.latchUnmasked_fixed (s : State) (e : ErrorEv) : (State.latchUnmasked s e).fixed = s.fixed := by
  unfold State.latchUnmasked
  simp

@[simp] theorem State.latch_fixed (s : State) (e : ErrorEv) : (State.latch s e).fixed = s.fixed := by
  unfold State.latch
  simp

@[simp] theorem State.latchLine_fixed (s : State) (e : ErrorEv) : (State.latchLine s e).fixed = s.fixed := by
  unfold State.latchLine
  simp

@[simp] theorem State.graceExpiry_fixed (s : State) (src : Nat) : (State.graceExpiry s src).fixed = s.fixed := by
  unfold State.graceExpiry
  dsimp only
  repeat' (first | (simp; done) | split)

@[simp] theorem State.acknowledge_fixed (s : State) (src : Nat) : (State.acknowledge s src).fixed = s.fixed := by
  unfold State.acknowledge
  simp

@[simp] theorem State.changeSource_fixed (s : State) (src : Nat) (f : Source → Source) :
    (State.changeSource s src f).fixed = s.fixed := by
  unfold State.changeSource
  simp

@[simp] theorem State.clearStatus_fixed (s : State) (w : Nat) : (State.clearStatus s w).fixed = s.fixed := by
  unfold State.clearStatus
  simp

@[simp] theorem State.releaseUnits_fixed (s : State) (src : Nat) : (State.releaseUnits s src).fixed = s.fixed := by
  refine each_fixed _ _ _ fun t x => ?_
  dsimp only
  split
  · simp
  · rw [State.modUnit_fixed]
    cases h : (t.modUnit x fun w => { w with sources := setBits w.sources src 1 0 }).mcWrite x 0
        ((t.modUnit x fun w => { w with sources := setBits w.sources src 1 0 }).unit x).epoch with
    | none => simp
    | some t' => simp [State.mcWrite_fixed _ _ _ _ _ h]

@[simp] theorem State.quietExpiry_fixed (s : State) (src : Nat) : (State.quietExpiry s src).fixed = s.fixed := by
  unfold State.quietExpiry
  dsimp only
  repeat' (first | (simp; done) | split)

@[simp] theorem State.inject_fixed (s : State) (w : Nat) : (State.inject s w).fixed = s.fixed := by
  unfold State.inject
  simp

@[simp] theorem State.aliveToggle_fixed (s : State) : (State.aliveToggle s).fixed = s.fixed := by
  unfold State.aliveToggle
  simp

@[simp] theorem State.reconcileUnit_fixed (s : State) (u : Nat) : (State.reconcileUnit s u).fixed = s.fixed := by
  unfold State.reconcileUnit
  dsimp only
  split
  · rfl
  · rw [State.mgtEvent_fixed, fixed_mk, fixed_fold]
    split
    · generalize hm : State.mcWrite _ _ _ _ = o
      cases o with
      | none => simp
      | some t => simp [State.mcWrite_fixed _ _ _ _ _ hm]
    · simp

@[simp] theorem State.reconcile_fixed (s : State) : (State.reconcile s).fixed = s.fixed := by
  unfold State.reconcile
  simp

@[simp] theorem State.flushUnits_fixed (s : State) : (State.flushUnits s).fixed = s.fixed := by
  unfold State.flushUnits
  simp

@[simp] theorem State.requestCommit_fixed (s : State) (box : Option Nat) : (State.requestCommit s box).fixed = s.fixed := by
  unfold State.requestCommit
  simp

@[simp] theorem State.accumAge_fixed (s : State) (p k : Nat) : (State.accumAge s p k).fixed = s.fixed := by
  unfold State.accumAge
  simp

@[simp] theorem State.takeMark_fixed (s : State) : (State.takeMark s).fixed = s.fixed := by
  unfold State.takeMark
  split <;> simp

@[simp] theorem State.tallyCommit_fixed (s : State) : (State.tallyCommit s).fixed = s.fixed := by
  unfold State.tallyCommit
  simp

@[simp] theorem State.tallyStored_fixed (s : State) : (State.tallyStored s).fixed = s.fixed := by
  unfold State.tallyStored
  split <;> simp

@[simp] theorem State.powerWarn_fixed (s : State) : (State.powerWarn s).fixed = s.fixed := by
  unfold State.powerWarn
  simp

@[simp] theorem State.powerWarnDue_fixed (s : State) (low : Bool) : (State.powerWarnDue s low).fixed = s.fixed := by
  unfold State.powerWarnDue
  split <;> simp

@[simp] theorem State.selectRecord_fixed (s : State) (w : Nat) : (State.selectRecord s w).fixed = s.fixed := by
  unfold State.selectRecord
  simp

@[simp] theorem State.chordDoorbell_fixed (s : State) (p w : Nat) : (State.chordDoorbell s p w).fixed = s.fixed := by
  refine State.checkDoorbell_fixed _ _ _ _ ?_
  repeat' (first | (simp; done) | (simp_all [pair_eq]; done) | split)

@[simp] theorem State.chError_fixed (s : State) (p detail : Nat) : (State.chError s p detail).fixed = s.fixed := by
  unfold State.chError
  simp

@[simp] theorem State.chordFailed_fixed (s : State) (p k : Nat) : (State.chordFailed s p k).fixed = s.fixed := by
  unfold State.chordFailed
  simp

@[simp] theorem State.readHeader_fixed (s : State) (p k : Nat) : (State.readHeader s p k).fixed = s.fixed := by
  unfold State.readHeader
  simp

@[simp] theorem State.fetchChord_fixed (s : State) (p : Nat) : (State.fetchChord s p).fixed = s.fixed := by
  unfold State.fetchChord
  repeat' (first | (simp; done) | split)

@[simp] theorem State.refetchChord_fixed (s : State) (p : Nat) : (State.refetchChord s p).fixed = s.fixed := by
  unfold State.refetchChord
  split <;> simp

@[simp] theorem State.decideChord_fixed (s : State) (p k status failed detail : Nat) :
    (State.decideChord s p k status failed detail).fixed = s.fixed := by
  unfold State.decideChord
  simp

@[simp] theorem State.headerReturned_fixed (s : State) (p : Nat) (res : RdRes) :
    (State.headerReturned s p res).fixed = s.fixed := by
  unfold State.headerReturned
  split
  · rfl
  · split
    · dsimp only
      repeat' (first | (simp; done) | split)
    · simp
    · rfl

@[simp] theorem State.takeChord_fixed (s : State) (p : Nat) (lines : List RdRes) :
    (State.takeChord s p lines).fixed = s.fixed := by
  unfold State.takeChord
  dsimp only
  repeat' (first | (simp; done) | split)

theorem State.applyRing_fixed (s : State) (p r : Nat) (launch : Bool) (pi lap : Nat) :
    ∀ t, State.applyRing s p r launch pi lap = .ok t → t.fixed = s.fixed := by
  unfold State.applyRing
  dsimp only
  repeat' (first | (simp; done) | split)

theorem State.applyAction_fixed (s : State) (p k : Nat) (acts : List Action) (a : Action) :
    ∀ t, State.applyAction s p k acts a = .ok t → t.fixed = s.fixed := by
  have hr : ∀ f : Nat → Except (Nat × Nat) State, (∀ r t, f r = .ok t → t.fixed = s.fixed) → ∀ t, State.applyAction.onRing s p a f = .ok t → t.fixed = s.fixed := by
    intro f h t ht
    unfold State.applyAction.onRing at ht
    split at ht
    · exact h _ t ht
    · simp at ht
  have ha : ∀ r l x y t, (State.applyRing s p r l x y).mapError (fun d => (a.ix, d)) = .ok t → t.fixed = s.fixed := by
    intro r l x y t h
    cases hx : State.applyRing s p r l x y with
    | error e => simp [hx, Except.mapError] at h
    | ok u =>
      simp only [hx, Except.mapError, Except.ok.injEq] at h
      exact h ▸ State.applyRing_fixed _ _ _ _ _ _ _ hx
  intro t h
  unfold State.applyAction at h
  dsimp only at h
  split at h
  · exact hr _ (fun r t h => ha _ _ _ _ t h) t h
  · exact hr _ (fun r t h => ha _ _ _ _ t h) t h
  · refine hr _ (fun r t h => ?_) t h
    split at h
    · simp at h
    · split at h
      · simp at h
      · rw [← Except.ok.inj h]
        simp
  · refine hr _ (fun r t h => ?_) t h
    split at h
    · simp at h
    · rw [← Except.ok.inj h]
      simp
  · repeat' (first | contradiction | split at h | (rw [← Except.ok.inj h]; simp; done))
  · split at h
    · rw [← Except.ok.inj h]
      simp
    · rw [← Except.ok.inj h]
  · split at h
    · contradiction
    · rw [← Except.ok.inj h]
      refine modPart_fixed _ _ _ fun x => ?_
      split <;> simp

theorem State.applyActions_fixed (s : State) (p k : Nat) (acts : List Action) (x0 : List Action) :
    ∀ t, State.applyActions s p k acts x0 = .ok t → t.fixed = s.fixed := by
  induction x0 generalizing s with
  | nil =>
    intro t h
    rw [← Except.ok.inj h]
  | cons a l ih =>
    intro t h
    unfold State.applyActions at h
    split at h
    · rename_i h1
      rw [ih _ t h, State.applyAction_fixed _ _ _ _ _ _ h1]
    · contradiction

@[simp] theorem State.commitChord_fixed (s : State) (p : Nat) : (State.commitChord s p).fixed = s.fixed := by
  unfold State.commitChord
  dsimp only
  split
  · rfl
  · split
    · rfl
    · split
      · simp
      · split
        · simp
        · rename_i h
          simp [State.applyActions_fixed _ _ _ _ _ _ h]

@[simp] theorem State.chordTimeout_fixed (s : State) (k : Nat) : (State.chordTimeout s k).fixed = s.fixed := by
  unfold State.chordTimeout
  simp

@[simp] theorem State.chordWrite_fixed (s : State) (p pa : Nat) (data : Bytes) (pu : Purpose) :
    (State.chordWrite s p pa data pu).fixed = s.fixed := by
  unfold State.chordWrite
  simp

@[simp] theorem State.chordAck_fixed (s : State) (p : Nat) (pu : Purpose) (ack : WrRes) :
    (State.chordAck s p pu ack).fixed = s.fixed := by
  unfold State.chordAck
  split <;> simp

@[simp] theorem State.chordStatus_fixed (s : State) (k : Nat) : (State.chordStatus s k).fixed = s.fixed := by
  unfold State.chordStatus
  simp

@[simp] theorem State.chordOwn_fixed (s : State) (k : Nat) (ack : WrRes) : (State.chordOwn s k ack).fixed = s.fixed := by
  unfold State.chordOwn
  simp

@[simp] theorem State.chordNote_fixed (s : State) (k : Nat) (ack : WrRes) : (State.chordNote s k ack).fixed = s.fixed := by
  unfold State.chordNote
  simp

@[simp] theorem State.dropChords_fixed (s : State) (p : Nat) : (State.dropChords s p).fixed = s.fixed := by
  unfold State.dropChords
  simp

@[simp] theorem State.freeSlots_fixed (s : State) (m : Nat) (x : Rx) : (State.freeSlots s m x).fixed = s.fixed := by
  unfold State.freeSlots
  simp

@[simp] theorem State.refuseKpp_fixed (s : State) (p : Nat) (x : Rx) (status : Nat) :
    (State.refuseKpp s p x status).fixed = s.fixed := by
  unfold State.refuseKpp
  simp

@[simp] theorem State.replyKpp_fixed (s : State) (p : Nat) (x : Rx) (status : Nat) :
    (State.replyKpp s p x status).fixed = s.fixed := by
  unfold State.replyKpp
  simp

@[simp] theorem State.serveKpp_fixed (s : State) (m p : Nat) (x : Rx) : (State.serveKpp s m p x).fixed = s.fixed := by
  unfold State.serveKpp
  dsimp only
  repeat' (first | (simp; done) | split)

@[simp] theorem State.kppDone_fixed (s : State) (id status : Nat) (data : Bytes) :
    (State.kppDone s id status data).fixed = s.fixed := by
  unfold State.kppDone
  split <;> simp

@[simp] theorem State.inboundAcked_fixed (s : State) (q : Req) (res : WrRes) : (State.inboundAcked s q res).fixed = s.fixed := by
  unfold State.inboundAcked
  split <;> simp

@[simp] theorem State.kppRead_fixed (s : State) (q : Req) (id : Nat) (res : RdRes) :
    (State.kppRead s q id res).fixed = s.fixed := by
  unfold State.kppRead
  split <;> simp

@[simp] theorem State.takeReport_fixed (s : State) (p : Nat) (b : Bytes) : (State.takeReport s p b).fixed = s.fixed := by
  unfold State.takeReport
  simp

@[simp] theorem State.lostMessage_fixed (s : State) (p dst tag : Nat) : (State.lostMessage s p dst tag).fixed = s.fixed := by
  unfold State.lostMessage
  simp

theorem State.sendMessage_fixed (s : State) (p dst : Nat) (payload : Bytes) :
    ∀ t, State.sendMessage s p dst payload = some t → t.fixed = s.fixed := by
  intro t h
  unfold State.sendMessage at h
  split at h
  · simp at h
  · rename_i h1
    have hf := State.freeTag_fixed _ _ _ h1
    split at h
    · rw [← Option.some.inj h]
      simp [hf]
    · split at h
      · simp at h
      · rw [← Option.some.inj h]
        simp [hf]

@[simp] theorem State.sendReport_fixed (s : State) (p : Nat) : (State.sendReport s p).fixed = s.fixed := by
  unfold State.sendReport
  split
  · rfl
  · dsimp only
    split
    · rfl
    · split
      · rename_i h
        rw [State.sendMessage_fixed _ _ _ _ _ h, fixed_mk, fixed_fold]
      · rfl

@[simp] theorem State.messageTimeout_fixed (s : State) (t : Nat) : (State.messageTimeout s t).fixed = s.fixed := by
  unfold State.messageTimeout
  simp

@[simp] theorem State.takeResponse_fixed (s : State) (x : Rx) (exact : Bool) : (State.takeResponse s x exact).fixed = s.fixed := by
  unfold State.takeResponse
  dsimp only
  repeat' (first | (simp; done) | split)

@[simp] theorem State.forward_fixed (s : State) (m p : Nat) (x : Rx) (resp : Bool) :
    (State.forward s m p x resp).fixed = s.fixed := by
  unfold State.forward
  dsimp only
  repeat' (first | (simp; done) | split)

@[simp] theorem State.deliver_fixed (s0 : State) (m p : Nat) (x : Rx) : (State.deliver s0 m p x).fixed = s0.fixed := by
  unfold State.deliver
  simp

@[simp] theorem State.acceptSeq_fixed (s : State) (m : Nat) (b : Bytes) : (State.acceptSeq s m b).fixed = s.fixed := by
  unfold State.acceptSeq
  simp

@[simp] theorem State.payloadReceived_fixed (s : State) (m : Nat) (b : Bytes) : (State.payloadReceived s m b).fixed = s.fixed := by
  unfold State.payloadReceived
  dsimp only
  repeat' (first | (simp; done) | split)

@[simp] theorem State.respReceived_fixed (s : State) (m : Nat) (b : Bytes) : (State.respReceived s m b).fixed = s.fixed := by
  unfold State.respReceived
  simp

end Sys2Proof.Machine
end

