-- ==== Sys2Proof/Laws/FrameMc.lean ====
section
/-! SUPPORT. Frame lemmas of the operations of the block: partitions, mailboxes and their commands, firmware, resets, registers, tenants, the port, acknowledgements and the tick. Each leaves the part of the state that `State.fixed` names alone. -/

set_option linter.unusedTactic false
set_option linter.unreachableTactic false
set_option linter.unusedSimpArgs false

namespace Sys2Proof.Machine

@[simp] theorem State.forget_fixed (s : State) (pick : Req → Bool) : (State.forget s pick).fixed = s.fixed := by
  unfold State.forget
  simp

@[simp] theorem State.orphanPart_fixed (s : State) (p : Nat) (discard : Bool) :
    (State.orphanPart s p discard).fixed = s.fixed := by
  unfold State.orphanPart
  simp

@[simp] theorem State.dropPackets_fixed (s : State) (p : Nat) : (State.dropPackets s p).fixed = s.fixed := by
  unfold State.dropPackets
  simp

@[simp] theorem State.dropJobs_fixed (s : State) (p : Nat) : (State.dropJobs s p).fixed = s.fixed := by
  unfold State.dropJobs
  simp

@[simp] theorem State.dropWorks_fixed (s : State) (p : Nat) (f : Ring → Ring) : (State.dropWorks s p f).fixed = s.fixed := by
  unfold State.dropWorks
  simp

@[simp] theorem State.dropWalks_fixed (s : State) (p : Nat) : (State.dropWalks s p).fixed = s.fixed := by
  unfold State.dropWalks
  simp

@[simp] theorem State.dropInvals_fixed (s : State) (p : Nat) : (State.dropInvals s p).fixed = s.fixed := by
  unfold State.dropInvals
  simp

@[simp] theorem State.stopWork_fixed (s : State) (p : Nat) (discard : Bool) (f : Ring → Ring) :
    (State.stopWork s p discard f).fixed = s.fixed := by
  unfold State.stopWork
  simp

@[simp] theorem State.quiesceEnd_fixed (s : State) (p : Nat) : (State.quiesceEnd s p).fixed = s.fixed := by
  unfold State.quiesceEnd
  simp

@[simp] theorem State.startRekey_fixed (s : State) (p g : Nat) (items : List RekeyItem) :
    (State.startRekey s p g items).fixed = s.fixed := by
  unfold State.startRekey
  simp

@[simp] theorem State.lockPage_fixed (s : State) (p : Nat) (leaf : Option FoundLeaf) :
    (State.lockPage s p leaf).fixed = s.fixed := by
  unfold State.lockPage
  split <;> simp

@[simp] theorem State.pagePushed_fixed (s : State) (p : Nat) (old : Bytes) : (State.pagePushed s p old).fixed = s.fixed := by
  unfold State.pagePushed
  dsimp only
  repeat' (first | (simp; done) | split)

@[simp] theorem State.unlockPage_fixed (s : State) (p : Nat) : (State.unlockPage s p).fixed = s.fixed := by
  unfold State.unlockPage
  split <;> simp

@[simp] theorem State.hbmPassEnd_fixed (s : State) (p : Nat) : (State.hbmPassEnd s p).fixed = s.fixed := by
  unfold State.hbmPassEnd
  simp

@[simp] theorem State.openRepair_fixed (s : State) : (State.openRepair s).fixed = s.fixed := by
  unfold State.openRepair
  split <;> simp

@[simp] theorem State.closeRepair_fixed (s : State) (id : Nat) : (State.closeRepair s id).fixed = s.fixed := by
  unfold State.closeRepair
  simp

@[simp] theorem State.failShared_fixed (s : State) (r : SharedRepair) : (State.failShared s r).fixed = s.fixed := by
  unfold State.failShared
  simp

@[simp] theorem State.originRead_fixed (s : State) (id : Nat) (res : Option (Bytes × Bytes)) :
    (State.originRead s id res).fixed = s.fixed := by
  unfold State.originRead
  repeat' (first | (simp; done) | split)

@[simp] theorem State.repairClosed_fixed (s : State) (id : Nat) : (State.repairClosed s id).fixed = s.fixed := by
  unfold State.repairClosed
  split <;> simp

@[simp] theorem State.repairTimeout_fixed (s : State) (id : Nat) : (State.repairTimeout s id).fixed = s.fixed := by
  unfold State.repairTimeout
  split <;> simp

@[simp] theorem State.judgeCmd_fixed (s : State) (m : Nat) : (State.judgeCmd s m).fixed = s.fixed := by
  unfold State.judgeCmd
  dsimp only
  repeat' (first | (simp; done) | split)

@[simp] theorem State.submit_fixed (s : State) (m : Nat) (mctp : Bool) : (State.submit s m mctp).fixed = s.fixed := by
  unfold State.submit
  simp

@[simp] theorem State.mailboxGo_fixed (s : State) (m : Nat) : (State.mailboxGo s m).fixed = s.fixed := by
  unfold State.mailboxGo
  simp

@[simp] theorem State.mctpRequest_fixed (s : State) (body : Bytes) : (State.mctpRequest s body).fixed = s.fixed := by
  unfold State.mctpRequest
  simp

theorem State.command_fixed (s : State) (m op : Nat) (body : State → Bytes → State) (h : ∀ t b, (body t b).fixed = t.fixed) :
    (s.command m op body).fixed = s.fixed := by
  unfold State.command
  dsimp only
  split
  · rfl
  · split <;> simp [h]

@[simp] theorem State.malformed_fixed (s : State) (m : Nat) : (State.malformed s m).fixed = s.fixed := by
  unfold State.malformed
  simp

@[simp] theorem State.state_fixed (s : State) (m d : Nat) : (State.state s m d).fixed = s.fixed := by
  unfold State.state
  simp

@[simp] theorem State.failed_fixed (s : State) (m d : Nat) : (State.failed s m d).fixed = s.fixed := by
  unfold State.failed
  simp

@[simp] theorem State.okIf_fixed (s : State) (m : Nat) (good : Bool) (s' : State) (h : s'.fixed = s.fixed) :
    (s.okIf m good s').fixed = s.fixed := by
  unfold State.okIf
  split <;> simp [h]

@[simp] theorem State.cmdReg_fixed (s : State) (m : Nat) : (State.cmdReg s m).fixed = s.fixed := by
  refine State.command_fixed _ _ _ _ fun t b => ?_
  repeat' (first | (simp; done) | (simp_all [pair_eq]; done) | split)

@[simp] theorem State.cmdRange_fixed (s : State) (m : Nat) : (State.cmdRange s m).fixed = s.fixed := by
  refine State.command_fixed _ _ _ _ fun t b => ?_
  repeat' (first | (simp; done) | (simp_all [pair_eq]; done) | split)

@[simp] theorem State.cmdPasid_fixed (s : State) (m : Nat) : (State.cmdPasid s m).fixed = s.fixed := by
  refine State.command_fixed _ _ _ _ fun t b => ?_
  repeat' (first | (simp; done) | (simp_all [pair_eq]; done) | split)

@[simp] theorem State.cmdPfWin_fixed (s : State) (m : Nat) : (State.cmdPfWin s m).fixed = s.fixed := by
  refine State.command_fixed _ _ _ _ fun t b => ?_
  repeat' (first | (simp; done) | (simp_all [pair_eq]; done) | split)

@[simp] theorem State.cmdVfWin_fixed (s : State) (m : Nat) : (State.cmdVfWin s m).fixed = s.fixed := by
  refine State.command_fixed _ _ _ _ fun t b => ?_
  repeat' (first | (simp; done) | (simp_all [pair_eq]; done) | split)

@[simp] theorem State.cmdShared_fixed (s : State) (m : Nat) : (State.cmdShared s m).fixed = s.fixed := by
  refine State.command_fixed _ _ _ _ fun t b => ?_
  repeat' (first | (simp; done) | (simp_all [pair_eq]; done) | split)

@[simp] theorem State.cmdAssign_fixed (s : State) (m : Nat) : (State.cmdAssign s m).fixed = s.fixed := by
  refine State.command_fixed _ _ _ _ fun t b => ?_
  repeat' (first | (simp; done) | (simp_all [pair_eq]; done) | split)

@[simp] theorem State.boxInval_fixed (s : State) (p m kind asid va pages : Nat) :
    (State.boxInval s p m kind asid va pages).fixed = s.fixed := by
  unfold State.boxInval
  simp

@[simp] theorem State.cmdAsid_fixed (s : State) (m : Nat) : (State.cmdAsid s m).fixed = s.fixed := by
  refine State.command_fixed _ _ _ _ fun t b => ?_
  repeat' (first | (simp; done) | (simp_all [pair_eq]; done) | split)

@[simp] theorem State.cmdInvq_fixed (s : State) (m : Nat) : (State.cmdInvq s m).fixed = s.fixed := by
  refine State.command_fixed _ _ _ _ fun t b => ?_
  repeat' (first | (simp; done) | (simp_all [pair_eq]; done) | split)

@[simp] theorem State.cmdDrainLimit_fixed (s : State) (m : Nat) : (State.cmdDrainLimit s m).fixed = s.fixed := by
  refine State.command_fixed _ _ _ _ fun t b => ?_
  repeat' (first | (simp; done) | (simp_all [pair_eq]; done) | split)

@[simp] theorem State.cmdInvalidate_fixed (s : State) (m : Nat) : (State.cmdInvalidate s m).fixed = s.fixed := by
  refine State.command_fixed _ _ _ _ fun t b => ?_
  repeat' (first | (simp; done) | (simp_all [pair_eq]; done) | split)

@[simp] theorem State.cmdFq_fixed (s : State) (m : Nat) : (State.cmdFq s m).fixed = s.fixed := by
  refine State.command_fixed _ _ _ _ fun t b => ?_
  repeat' (first | (simp; done) | (simp_all [pair_eq]; done) | split)

@[simp] theorem State.cmdFaultTimeout_fixed (s : State) (m : Nat) : (State.cmdFaultTimeout s m).fixed = s.fixed := by
  refine State.command_fixed _ _ _ _ fun t b => ?_
  repeat' (first | (simp; done) | (simp_all [pair_eq]; done) | split)

@[simp] theorem State.cmdRing_fixed (s : State) (m : Nat) : (State.cmdRing s m).fixed = s.fixed := by
  refine State.command_fixed _ _ _ _ fun t b => ?_
  repeat' (first | (simp; done) | (simp_all [pair_eq]; done) | split)

@[simp] theorem State.cmdEnable_fixed (s : State) (m : Nat) : (State.cmdEnable s m).fixed = s.fixed := by
  refine State.command_fixed _ _ _ _ fun t b => ?_
  repeat' (first | (simp; done) | (simp_all [pair_eq]; done) | split)

@[simp] theorem State.cmdDisable_fixed (s : State) (m : Nat) : (State.cmdDisable s m).fixed = s.fixed := by
  refine State.command_fixed _ _ _ _ fun t b => ?_
  repeat' (first | (simp; done) | (simp_all [pair_eq]; done) | split)

@[simp] theorem State.cmdCq_fixed (s : State) (m : Nat) : (State.cmdCq s m).fixed = s.fixed := by
  refine State.command_fixed _ _ _ _ fun t b => ?_
  repeat' (first | (simp; done) | (simp_all [pair_eq]; done) | split)

@[simp] theorem State.cmdArea_fixed (s : State) (m : Nat) : (State.cmdArea s m).fixed = s.fixed := by
  refine State.command_fixed _ _ _ _ fun t b => ?_
  repeat' (first | (simp; done) | (simp_all [pair_eq]; done) | split)

@[simp] theorem State.cmdChordQueue_fixed (s : State) (m : Nat) : (State.cmdChordQueue s m).fixed = s.fixed := by
  refine State.command_fixed _ _ _ _ fun t b => ?_
  repeat' (first | (simp; done) | (simp_all [pair_eq]; done) | split)

@[simp] theorem State.cmdWindow_fixed (s : State) (m : Nat) : (State.cmdWindow s m).fixed = s.fixed := by
  refine State.command_fixed _ _ _ _ fun t b => ?_
  repeat' (first | (simp; done) | (simp_all [pair_eq]; done) | split)

@[simp] theorem State.cmdSwitch_fixed (s : State) (m : Nat) : (State.cmdSwitch s m).fixed = s.fixed := by
  refine State.command_fixed _ _ _ _ fun t b => ?_
  repeat' (first | (simp; done) | (simp_all [pair_eq]; done) | split)

@[simp] theorem State.cmdRekey_fixed (s : State) (m : Nat) : (State.cmdRekey s m).fixed = s.fixed := by
  refine State.command_fixed _ _ _ _ fun t b => ?_
  repeat' (first | (simp; done) | (simp_all [pair_eq]; done) | split)

@[simp] theorem State.cmdUnwrap_fixed (s : State) (m : Nat) (header : Option Bytes) :
    (State.cmdUnwrap s m header).fixed = s.fixed := by
  refine State.command_fixed _ _ _ _ fun t b => ?_
  dsimp only
  repeat' (first | (simp; done) | (simp_all [pair_eq]; done) | split)

@[simp] theorem State.unwrapDone_fixed (s : State) (m : Nat) (data : Bytes) : (State.unwrapDone s m data).fixed = s.fixed := by
  unfold State.unwrapDone
  dsimp only
  repeat' (first | (simp; done) | split)

@[simp] theorem State.cmdProgram_fixed (s : State) (m : Nat) (image : Option Bytes) :
    (State.cmdProgram s m image).fixed = s.fixed := by
  refine State.command_fixed _ _ _ _ fun t b => ?_
  repeat' (first | (simp; done) | (simp_all [pair_eq]; done) | split)

@[simp] theorem State.cmdSched_fixed (s : State) (m : Nat) : (State.cmdSched s m).fixed = s.fixed := by
  refine State.command_fixed _ _ _ _ fun t b => ?_
  repeat' (first | (simp; done) | (simp_all [pair_eq]; done) | split)

@[simp] theorem State.cmdReplica_fixed (s : State) (m : Nat) : (State.cmdReplica s m).fixed = s.fixed := by
  refine State.command_fixed _ _ _ _ fun t b => ?_
  repeat' (first | (simp; done) | (simp_all [pair_eq]; done) | split)

@[simp] theorem State.cmdTcFlush_fixed (s : State) (m : Nat) : (State.cmdTcFlush s m).fixed = s.fixed := by
  refine State.command_fixed _ _ _ _ fun t b => ?_
  repeat' (first | (simp; done) | (simp_all [pair_eq]; done) | split)

@[simp] theorem State.cmdVector_fixed (s : State) (m : Nat) : (State.cmdVector s m).fixed = s.fixed := by
  refine State.command_fixed _ _ _ _ fun t b => ?_
  repeat' (first | (simp; done) | (simp_all [pair_eq]; done) | split)

@[simp] theorem State.cmdTally_fixed (s : State) (m : Nat) : (State.cmdTally s m).fixed = s.fixed := by
  refine State.command_fixed _ _ _ _ fun t b => ?_
  repeat' (first | (simp; done) | (simp_all [pair_eq]; done) | split)

@[simp] theorem State.cmdRetrain_fixed (s : State) (m : Nat) : (State.cmdRetrain s m).fixed = s.fixed := by
  refine State.command_fixed _ _ _ _ fun t b => ?_
  repeat' (first | (simp; done) | (simp_all [pair_eq]; done) | split)

@[simp] theorem State.rpPump_fixed (s : State) (x0 : Nat) : (State.rpPump s x0).fixed = s.fixed := by
  induction x0 generalizing s with
  | zero => rfl
  | succ n ih =>
    unfold State.rpPump
    repeat' (first | (simp [ih]; done) | split)

@[simp] theorem State.rpQueue_fixed (s : State) (m rid : Nat) (r : RpReq) : (State.rpQueue s m rid r).fixed = s.fixed := by
  unfold State.rpQueue
  simp

@[simp] theorem State.cmdRpConfig_fixed (s : State) (m : Nat) : (State.cmdRpConfig s m).fixed = s.fixed := by
  refine State.command_fixed _ _ _ _ fun t b => ?_
  repeat' (first | (simp; done) | (simp_all [pair_eq]; done) | split)

@[simp] theorem State.cmdRpMemory_fixed (s : State) (m : Nat) : (State.cmdRpMemory s m).fixed = s.fixed := by
  refine State.command_fixed _ _ _ _ fun t b => ?_
  repeat' (first | (simp; done) | (simp_all [pair_eq]; done) | split)

@[simp] theorem State.rpDone_fixed (s : State) (res : RpRes) : (State.rpDone s res).fixed = s.fixed := by
  unfold State.rpDone
  repeat' (first | (simp; done) | split)

@[simp] theorem State.cmdLoopback_fixed (s : State) (m : Nat) : (State.cmdLoopback s m).fixed = s.fixed := by
  refine State.command_fixed _ _ _ _ fun t b => ?_
  repeat' (first | (simp; done) | (simp_all [pair_eq]; done) | split)

@[simp] theorem State.cmdEvents_fixed (s : State) (m : Nat) : (State.cmdEvents s m).fixed = s.fixed := by
  refine State.command_fixed _ _ _ _ fun t b => ?_
  repeat' (first | (simp; done) | (simp_all [pair_eq]; done) | split)

@[simp] theorem State.cmdSensors_fixed (s : State) (m : Nat) : (State.cmdSensors s m).fixed = s.fixed := by
  refine State.command_fixed _ _ _ _ fun t b => ?_
  repeat' (first | (simp; done) | (simp_all [pair_eq]; done) | split)

@[simp] theorem State.cmdAdmit_fixed (s : State) (m : Nat) : (State.cmdAdmit s m).fixed = s.fixed := by
  have hm : ∀ (t : State) u l e x, t.mcWrite u l e = some x → x.fixed = t.fixed := State.mcWrite_fixed
  refine State.command_fixed _ _ _ _ fun t b => ?_
  dsimp only
  repeat' (first | rfl | (simp; done) | (rename_i h; simp [hm _ _ _ _ _ h]; done) | split)

@[simp] theorem State.cmdUnits_fixed (s : State) (m : Nat) : (State.cmdUnits s m).fixed = s.fixed := by
  refine State.command_fixed _ _ _ _ fun t b => ?_
  repeat' (first | (simp; done) | (simp_all [pair_eq]; done) | split)

@[simp] theorem State.cmdMode_fixed (s : State) (m : Nat) : (State.cmdMode s m).fixed = s.fixed := by
  refine State.command_fixed _ _ _ _ fun t b => ?_
  repeat' (first | (simp; done) | (simp_all [pair_eq]; done) | split)

@[simp] theorem State.cmdInfo_fixed (s : State) (m : Nat) : (State.cmdInfo s m).fixed = s.fixed := by
  refine State.command_fixed _ _ _ _ fun t b => ?_
  repeat' (first | (simp; done) | (simp_all [pair_eq]; done) | split)

@[simp] theorem State.cmdStage_fixed (s : State) (m : Nat) : (State.cmdStage s m).fixed = s.fixed := by
  refine State.command_fixed _ _ _ _ fun t b => ?_
  repeat' (first | (simp; done) | (simp_all [pair_eq]; done) | split)

@[simp] theorem State.cmdVerify_fixed (s : State) (m : Nat) : (State.cmdVerify s m).fixed = s.fixed := by
  refine State.command_fixed _ _ _ _ fun t b => ?_
  dsimp only
  repeat' (first | (simp; done) | (simp_all [pair_eq]; done) | split)

@[simp] theorem State.modPwr_fixed (s : State) (f : Power → Power) : (State.modPwr s f).fixed = s.fixed := by
  unfold State.modPwr
  simp

@[simp] theorem State.pwrError_fixed (s : State) (source cls detail : Nat) :
    (State.pwrError s source cls detail).fixed = s.fixed := by
  unfold State.pwrError
  simp

@[simp] theorem State.stepArr_fixed (s : State) (up : Bool) : (State.stepArr s up).fixed = s.fixed := by
  unfold State.stepArr
  simp

@[simp] theorem State.takeSensor_fixed (s : State) (k v : Nat) : (State.takeSensor s k v).fixed = s.fixed := by
  unfold State.takeSensor
  simp

@[simp] theorem State.sampleSensors_fixed (s : State) (v : List Nat) : (State.sampleSensors s v).fixed = s.fixed := by
  unfold State.sampleSensors
  simp

@[simp] theorem State.arrStepDone_fixed (s : State) : (State.arrStepDone s).fixed = s.fixed := by
  unfold State.arrStepDone
  split <;> simp

@[simp] theorem State.arrStepLate_fixed (s : State) : (State.arrStepLate s).fixed = s.fixed := by
  unfold State.arrStepLate
  split <;> simp

@[simp] theorem State.writePwr_fixed (s : State) (w : Nat) : (State.writePwr s w).fixed = s.fixed := by
  unfold State.writePwr
  simp

@[simp] theorem State.freqMaxStep_fixed (s : State) : (State.freqMaxStep s).fixed = s.fixed := by
  unfold State.freqMaxStep
  split <;> simp

@[simp] theorem State.romBoot_fixed (s : State) (b0 b1 : Bank) : (State.romBoot s b0 b1).fixed = s.fixed := by
  unfold State.romBoot
  simp

@[simp] theorem State.broadcast_fixed (s : State) (image : Bytes) : (State.broadcast s image).fixed = s.fixed := by
  unfold State.broadcast
  simp

@[simp] theorem State.cellEnds_fixed (s : State) (c : Nat) (bad : Bool) : (State.cellEnds s c bad).fixed = s.fixed := by
  unfold State.cellEnds
  simp

@[simp] theorem State.cellDigest_fixed (s : State) (c : Nat) (digest : Bytes) : (State.cellDigest s c digest).fixed = s.fixed := by
  unfold State.cellDigest
  simp

@[simp] theorem State.cellTimeout_fixed (s : State) (c : Nat) : (State.cellTimeout s c).fixed = s.fixed := by
  unfold State.cellTimeout
  simp

@[simp] theorem State.topologyCheck_fixed (s : State) : (State.topologyCheck s).fixed = s.fixed := by
  unfold State.topologyCheck
  simp

@[simp] theorem State.modRd_fixed (s : State) (f : Readiness → Readiness) : (State.modRd s f).fixed = s.fixed := by
  unfold State.modRd
  simp

@[simp] theorem State.readyEvent_fixed (s : State) : (State.readyEvent s).fixed = s.fixed := by
  unfold State.readyEvent
  simp

@[simp] theorem State.decideReady_fixed (s : State) : (State.decideReady s).fixed = s.fixed := by
  unfold State.decideReady
  simp

@[simp] theorem State.unplace_fixed (s : State) (p : Nat) : (State.unplace s p).fixed = s.fixed := by
  unfold State.unplace
  simp

@[simp] theorem State.partitionReset_fixed (s : State) (p : Nat) : (State.partitionReset s p).fixed = s.fixed := by
  unfold State.partitionReset
  simp

@[simp] theorem State.pfReset_fixed (s : State) : (State.pfReset s).fixed = s.fixed := by
  unfold State.pfReset
  simp

@[simp] theorem State.partitionResetEnd_fixed (s : State) (p : Nat) : (State.partitionResetEnd s p).fixed = s.fixed := by
  unfold State.partitionResetEnd
  split <;> simp

@[simp] theorem State.forgetHost_fixed (s : State) : (State.forgetHost s).fixed = s.fixed := by
  unfold State.forgetHost
  simp

@[simp] theorem State.hostLoss_fixed (s : State) (cause : Nat) : (State.hostLoss s cause).fixed = s.fixed := by
  unfold State.hostLoss
  simp

@[simp] theorem State.outTimer_fixed (s : State) : (State.outTimer s).fixed = s.fixed := by
  unfold State.outTimer
  split <;> simp

@[simp] theorem State.hostLossEnd_fixed (s : State) : (State.hostLossEnd s).fixed = s.fixed := by
  unfold State.hostLossEnd
  simp

@[simp] theorem State.portReset_fixed (s : State) (disable : Bool) : (State.portReset s disable).fixed = s.fixed := by
  unfold State.portReset
  simp

@[simp] theorem State.clockLoss_fixed (s : State) (px : Bool) : (State.clockLoss s px).fixed = s.fixed := by
  unfold State.clockLoss
  simp

@[simp] theorem State.channelSize_fixed (s : State) (log2 : Nat) : (State.channelSize s log2).fixed = s.fixed := by
  unfold State.channelSize
  simp

@[simp] theorem State.msixWrite_fixed (s : State) (f o : Nat) (x : RegWrite) : (State.msixWrite s f o x).fixed = s.fixed := by
  unfold State.msixWrite
  simp

@[simp] theorem State.boxWrite_fixed (s : State) (m o : Nat) (x : RegWrite) : (State.boxWrite s m o x).fixed = s.fixed := by
  unfold State.boxWrite
  simp

@[simp] theorem State.dropBox_fixed (s : State) (m : Nat) : (State.dropBox s m).fixed = s.fixed := by
  unfold State.dropBox
  simp

@[simp] theorem State.writeCapo_fixed (s : State) (trigger release : Bool) :
    (State.writeCapo s trigger release).fixed = s.fixed := by
  unfold State.writeCapo
  simp

@[simp] theorem State.writeSource_fixed (s : State) (i w : Nat) : (State.writeSource s i w).fixed = s.fixed := by
  unfold State.writeSource
  simp

@[simp] theorem State.mcSpaceWrite_fixed (s : State) (w : Who) (o : Nat) (x : RegWrite) :
    (State.mcSpaceWrite s w o x).fixed = s.fixed := by
  unfold State.mcSpaceWrite
  split <;> simp

@[simp] theorem State.regWrite_fixed (s : State) (w : Who) (o : Nat) (x : RegWrite) :
    (State.regWrite s w o x).fixed = s.fixed := by
  unfold State.regWrite
  simp

@[simp] theorem State.bar0Write_fixed (s : State) (w : Who) (o n value : Nat) :
    (State.bar0Write s w o n value).fixed = s.fixed := by
  unfold State.bar0Write
  simp

@[simp] theorem State.claim_fixed (s : State) (p : Nat) (body : Bytes) : (State.claim s p body).2.fixed = s.fixed := by
  unfold State.claim
  simp

@[simp] theorem State.setProvision_fixed (s : State) (p k : Nat) (body : Bytes) :
    (State.setProvision s p k body).2.fixed = s.fixed := by
  unfold State.setProvision
  simp

@[simp] theorem State.tenantReply_fixed (s : State) (session code result : Nat) :
    (State.tenantReply s session code result).fixed = s.fixed := by
  unfold State.tenantReply
  simp

@[simp] theorem State.modSpdm_fixed (s : State) (f : Spdm → Spdm) : (State.modSpdm s f).fixed = s.fixed := by
  unfold State.modSpdm
  simp

@[simp] theorem State.spdmError_fixed (s : State) (session : Option Nat) (error code : Nat) :
    (State.spdmError s session error code).fixed = s.fixed := by
  unfold State.spdmError
  simp

@[simp] theorem State.spdmAnswer_fixed (s : State) (session : Option Nat) (c : SpdmCode) (content : Bytes) :
    (State.spdmAnswer s session c content).fixed = s.fixed := by
  unfold State.spdmAnswer
  simp

@[simp] theorem State.resizeBar_fixed (s : State) (log2 : Nat) : (State.resizeBar s log2).fixed = s.fixed := by
  unfold State.resizeBar
  simp

@[simp] theorem State.vfEnableTo_fixed (s : State) (b : Bool) : (State.vfEnableTo s b).fixed = s.fixed := by
  unfold State.vfEnableTo
  simp

@[simp] theorem State.cfgExtWrite_fixed (s : State) (f reg w : Nat) (x : RegWrite) :
    (State.cfgExtWrite s f reg w x).fixed = s.fixed := by
  unfold State.cfgExtWrite
  split <;> simp

@[simp] theorem State.cfgLowWrite_fixed (s : State) (f reg w : Nat) (x : RegWrite) :
    (State.cfgLowWrite s f reg w x).fixed = s.fixed := by
  unfold State.cfgLowWrite
  split <;> simp

@[simp] theorem State.cfgWrite_fixed (s : State) (f reg : Nat) (x : RegWrite) : (State.cfgWrite s f reg x).fixed = s.fixed := by
  unfold State.cfgWrite
  simp

@[simp] theorem State.cxlCfgWrite_fixed (s : State) (reg : Nat) (x : RegWrite) : (State.cxlCfgWrite s reg x).fixed = s.fixed := by
  unfold State.cxlCfgWrite
  simp

@[simp] theorem State.setItems_fixed (s : State) (port : Nat) (l : List InItem) : (State.setItems s port l).fixed = s.fixed := by
  unfold State.setItems
  simp

@[simp] theorem State.complete_fixed (s : State) (port txn lo status : Nat) (poisoned : Bool) (data : Bytes) :
    (State.complete s port txn lo status poisoned data).fixed = s.fixed := by
  unfold State.complete
  simp

@[simp] theorem State.pageWrite_fixed (s : State) (p off n value : Nat) : (State.pageWrite s p off n value).fixed = s.fixed := by
  unfold State.pageWrite
  repeat' (first | (simp; done) | split)

@[simp] theorem State.vfBarWrite_fixed (s : State) (p o : Nat) (x : RegWrite) : (State.vfBarWrite s p o x).fixed = s.fixed := by
  unfold State.vfBarWrite
  simp

theorem State.wordsWrite_fixed (s : State) (f : State → Nat → RegWrite → State) (h : ∀ t o x, (f t o x).fixed = t.fixed) (n off : Nat)
    (d : Bytes) : (s.wordsWrite f n off d).fixed = s.fixed := by
  induction n generalizing s off d with
  | zero => rfl
  | succ n ih =>
    unfold State.wordsWrite
    split
    · rfl
    · dsimp only
      rw [ih, h]

@[simp] theorem State.sendInbound_fixed (s : State) (port : Nat) (part : Option Nat) (pa len : Nat) (data : Option Bytes) :
    (State.sendInbound s port part pa len data).fixed = s.fixed := by
  unfold State.sendInbound
  split <;> simp

theorem State.pumpStep_fixed (s : State) (port : Nat) (wait before : Bool) (done : List InItem) (x0 : List InItem) :
    ∀ t, State.pumpStep s port wait before done x0 = some t → t.fixed = s.fixed := by
  induction x0 generalizing wait before done with
  | nil => simp [State.pumpStep]
  | cons i rest ih =>
    intro t h
    unfold State.pumpStep at h
    repeat' (first | (exact ih _ _ _ t h) | (rw [← Option.some.inj h]; simp; done) | split at h)

@[simp] theorem State.pumpPort_fixed (s : State) (port : Nat) (x0 : Nat) : (State.pumpPort s port x0).fixed = s.fixed := by
  induction x0 generalizing s with
  | zero => rfl
  | succ n ih =>
    unfold State.pumpPort
    split
    · rename_i h
      rw [ih, State.pumpStep_fixed _ _ _ _ _ _ _ h]
    · rfl

@[simp] theorem State.take_fixed (s : State) (port : Nat) (i : InItem) : (State.take s port i).fixed = s.fixed := by
  unfold State.take
  simp

@[simp] theorem State.inboundWritten_fixed (s : State) (q : Req) (port : Nat) :
    (State.inboundWritten s q port).fixed = s.fixed := by
  unfold State.inboundWritten
  simp

@[simp] theorem State.inboundRead_fixed (s : State) (q : Req) (port : Nat) (res : RdRes) :
    (State.inboundRead s q port res).fixed = s.fixed := by
  unfold State.inboundRead
  simp

@[simp] theorem State.refuse_fixed (s : State) (port : Nat) (write : Bool) (d : InDest) :
    (State.refuse s port write d).fixed = s.fixed := by
  unfold State.refuse
  repeat' (first | (simp; done) | split)

@[simp] theorem State.takeWrite_fixed (s : State) (port : Nat) (d : InDest) (data : Bytes) :
    (State.takeWrite s port d data).fixed = s.fixed := by
  unfold State.takeWrite
  split <;> first | (simp; done) | (exact State.wordsWrite_fixed _ _ (fun _ _ _ => by simp) _ _ _)

@[simp] theorem State.takeRead_fixed (s : State) (port txn lo len : Nat) (d : InDest) :
    (State.takeRead s port txn lo len d).fixed = s.fixed := by
  unfold State.takeRead
  split <;> simp

@[simp] theorem State.cxlWrite_fixed (s : State) (pasid : Option Nat) (off : Nat) (data : Bytes) :
    (State.cxlWrite s pasid off data).fixed = s.fixed := by
  unfold State.cxlWrite
  simp

@[simp] theorem State.cxlRead_fixed (s : State) (pasid : Option Nat) (txn off len : Nat) (memory : Bool) :
    (State.cxlRead s pasid txn off len memory).fixed = s.fixed := by
  unfold State.cxlRead
  simp

@[simp] theorem State.cxlConfig_fixed (s : State) (txn reg : Nat) (write : Option RegWrite) :
    (State.cxlConfig s txn reg write).fixed = s.fixed := by
  unfold State.cxlConfig
  repeat' (first | (simp; done) | split)

@[simp] theorem State.deviceInterrupt_fixed (s : State) (p addr value : Nat) :
    (State.deviceInterrupt s p addr value).fixed = s.fixed := by
  unfold State.deviceInterrupt
  simp

@[simp] theorem State.interruptWrite_fixed (s : State) (rid addr value : Nat) :
    (State.interruptWrite s rid addr value).fixed = s.fixed := by
  unfold State.interruptWrite
  repeat' (first | (simp; done) | split)

@[simp] theorem State.memoryRequest_fixed (s0 : State) (kind : TlpKind) (rid txn addr len : Nat) (poisoned : Bool) (data header : Bytes) :
    (State.memoryRequest s0 kind rid txn addr len poisoned data header).fixed = s0.fixed := by
  have ht : s0.tlp.fixed = s0.fixed := by simp
  unfold State.memoryRequest
  dsimp only
  generalize s0.tlp = s at ht
  rw [← ht]
  repeat' (first | (simp; done) | (simp [ht]; done) | split)

@[simp] theorem State.configRequest_fixed (s0 : State) (f txn reg : Nat) (write : Option RegWrite) :
    (State.configRequest s0 f txn reg write).fixed = s0.fixed := by
  unfold State.configRequest
  repeat' (first | (simp; done) | split)

@[simp] theorem State.discardRes_fixed (s : State) (q : Req) : (State.discardRes s q).fixed = s.fixed := by
  unfold State.discardRes
  simp

@[simp] theorem State.readBack_fixed (s : State) (id : Nat) (res : RdRes) : (State.readBack s id res).fixed = s.fixed := by
  unfold State.readBack
  repeat' (first | (simp; done) | split)

@[simp] theorem State.writeBack_fixed (s : State) (id : Nat) (res : WrRes) : (State.writeBack s id res).fixed = s.fixed := by
  unfold State.writeBack
  repeat' (first | (simp; done) | split)

@[simp] theorem State.kppBack_fixed (s : State) (id : Nat) (res : WrRes) : (State.kppBack s id res).fixed = s.fixed := by
  unfold State.kppBack
  split <;> simp

@[simp] theorem State.endFill_fixed (s : State) (q : Req) (f : Nat) : (State.endFill s q f).fixed = s.fixed := by
  unfold State.endFill
  simp

@[simp] theorem State.countLimit_fixed (s : State) (q : Req) : (State.countLimit s q).fixed = s.fixed := by
  unfold State.countLimit
  simp

@[simp] theorem State.endAtLimit_fixed (s : State) (q : Req) : (State.endAtLimit s q).fixed = s.fixed := by
  unfold State.endAtLimit
  split <;> simp

@[simp] theorem State.requestLimit_fixed (s : State) (id : Nat) : (State.requestLimit s id).fixed = s.fixed := by
  unfold State.requestLimit
  split <;> simp

@[simp] theorem State.fetchBack_fixed (s : State) (id : Nat) (res : RdRes) : (State.fetchBack s id res).fixed = s.fixed := by
  unfold State.fetchBack
  repeat' (first | (simp; done) | split)

@[simp] theorem State.consumerBack_fixed (s : State) (id : Nat) (res : RdRes) : (State.consumerBack s id res).fixed = s.fixed := by
  unfold State.consumerBack
  repeat' (first | (simp; done) | split)

@[simp] theorem State.normBack_fixed (s : State) (id : Nat) (res : RdRes) : (State.normBack s id res).fixed = s.fixed := by
  unfold State.normBack
  repeat' (first | (simp; done) | split)

@[simp] theorem State.grant_fixed (s : State) (x0 : Requester) : (State.grant s x0).fixed = s.fixed := by
  unfold State.grant
  split <;> simp

@[simp] theorem State.assignI3c_fixed (s : State) (addr : Nat) : (State.assignI3c s addr).fixed = s.fixed := by
  unfold State.assignI3c
  simp

@[simp] theorem State.registerWrite_fixed (s : State) (via : Option (Option Nat)) (off n value : Nat) :
    (State.registerWrite s via off n value).fixed = s.fixed := by
  unfold State.registerWrite
  split <;> simp

@[simp] theorem State.tickArray_fixed (s : State) (a b : Nat) : (State.tickArray s a b).fixed = s.fixed := by
  unfold State.tickArray
  split <;> simp

@[simp] theorem State.tickTier_fixed (s : State) (f : Nat) : (State.tickTier s f).fixed = s.fixed := by
  unfold State.tickTier
  simp

end Sys2Proof.Machine
end

