-- ==== Sys2Proof/Laws/Lifecycle.lean ====
section
/-! SUPPORT. What the operations that do touch `State.fixed` make of it: the partition's life from create to free, its keys, what Tally
takes, the minimum SVN, the resets and the tick. -/

namespace Sys2Proof.Machine

/-- The fixed part with partition p's share changed. -/
def Fixed.setShare (x : Fixed) (p : Nat) (f : Share → Share) : Fixed :=
  { x with shares := fun q => if q = p then f (x.shares q) else x.shares q }

theorem modPart_share (s : State) (p : Nat) (f : Part → Part) (g : Share → Share) (h : ∀ x, (f x).share = g x.share) :
    (s.modPart p f).fixed = s.fixed.setShare p g := by
  have hs : sharesOf (Tab.upd s.pt.parts p f) = fun q => if q = p then g (sharesOf s.pt.parts q) else sharesOf s.pt.parts q := by
    funext q
    by_cases hq : q = p
    · subst hq; simp [sharesOf, h]
    · simp [sharesOf, hq]
  simp only [State.modPart, fixed_mk, hs]
  rw [State.fixed, Fixed.setShare]

/-- A partition at T0 is SCRUBBING and keeps its resources and keys (R378, R379). -/
@[simp] theorem State.startScrub_fixed (s : State) (p detail : Nat) :
    (s.startScrub p detail).fixed = s.fixed.setShare p fun x => { x with st := 3 } := by
  have h1 : ∀ (t : State) (l : List Nat), (t.each l fun s m => s.exitLp (4 + m)).fixed = t.fixed :=
    fun t l => each_fixed t l _ fun _ _ => by simp
  unfold State.startScrub
  dsimp only
  rw [each_fixed _ _ _ fun _ _ => by simp, State.settleUnit_fixed, State.emit_fixed]
  have h2 : ∀ t : State, t.fixed = s.fixed → (t.modPart p fun x =>
      { x with st := 3, scrubT0 := s.clk.fab, scrubPhase := 1, rekey := {}, heldLoad := none }).fixed =
        s.fixed.setShare p fun x => { x with st := 3 } := by
    intro t ht
    rw [modPart_share _ _ _ (fun x => { x with st := 3 }) (fun x => by rfl), ht]
  split
  · rw [State.emit_fixed, h1, fixed_mk, fixed_fold, h2 _ (by simp)]
  · rw [h1, fixed_mk, fixed_fold, h2 _ (by simp)]

/-- A partition that becomes FREE holds nothing (R355, R356, R380). -/
@[simp] theorem State.freePart_fixed (s : State) (p : Nat) :
    (s.freePart p).fixed = s.fixed.setShare p fun _ => ({} : Part).share := by
  unfold State.freePart
  simp only [each_fixed, State.pump_fixed, State.requestCommit_fixed, State.fabEvent_fixed, State.settleUnit_fixed, implies_true]
  rw [modPart_share _ _ _ (fun _ => ({} : Part).share) (fun x => by rfl), fixed_mk, fixed_fold]

/-- A created partition holds what its command names, and no key (R353). -/
@[simp] theorem State.createPart_fixed (s : State) (c : Create) :
    (s.createPart c).fixed =
      s.fixed.setShare c.part fun _ => ⟨1, c.groups, c.tcWays, c.tlbWays, c.modules, ([], [], []), ([], [], [])⟩ := by
  unfold State.createPart
  simp only [State.requestCommit_fixed, State.controlPulse_fixed, State.settleUnit_fixed, State.emptyTlbs_fixed]
  rw [modPart_share _ _ _ (fun _ => ⟨1, c.groups, c.tcWays, c.tlbWays, c.modules, ([], [], []), ([], [], [])⟩) (fun x => by rfl), fixed_mk,
    fixed_fold]

/-- A partition that activates was CREATED (R354). -/
theorem State.activate_fixed (s : State) (p : Nat) :
    (s.activate p).2.fixed = s.fixed ∨ (s.part p).st = 1 ∧ (s.activate p).2.fixed = s.fixed.setShare p fun x => { x with st := 2 } := by
  unfold State.activate
  dsimp only
  split
  · exact .inl rfl
  · split
    · exact .inl rfl
    · rename_i h1 _
      refine .inr ⟨?_, modPart_share _ _ _ _ fun x => by rfl⟩
      simp at h1
      exact h1.1

/-- CLOSE leaves no key (R380). -/
@[simp] theorem State.close_fixed (s : State) (p : Nat) :
    (s.close p).fixed = s.fixed.setShare p fun x => { x with key0 := ([], [], []), key1 := ([], [], []) } := by
  unfold State.close
  simp only [State.emit_fixed]
  rw [modPart_share _ _ _ (fun x => { x with key0 := ([], [], []), key1 := ([], [], []) }) (fun x => by rfl), fixed_mk, fixed_fold]
  simp

theorem State.zeroEnd_fixed (s : State) (p : Nat) :
    (s.zeroEnd p).fixed = s.fixed ∨
      (s.part p).st = 3 ∧ (s.zeroEnd p).fixed = s.fixed.setShare p fun x => { x with key0 := ([], [], []), key1 := ([], [], []) } := by
  unfold State.zeroEnd
  dsimp only
  split
  · exact .inl rfl
  · rename_i h
    simp at h
    exact .inr ⟨h.1.1, State.close_fixed s p⟩

/-- A partition that ends its scrub was SCRUBBING and becomes FREE (R380). -/
theorem State.closeEnd_fixed (s : State) (p : Nat) :
    (s.closeEnd p).fixed = s.fixed ∨ (s.part p).st = 3 ∧ (s.closeEnd p).fixed = s.fixed.setShare p fun _ => ({} : Part).share := by
  unfold State.closeEnd
  dsimp only
  split
  · exact .inl rfl
  · rename_i h
    simp at h
    exact .inr ⟨h.1.1, State.freePart_fixed s p⟩

/-- A key load changes the keys of one slot of its partition and nothing else (R372). -/
theorem State.keyLoad_fixed (s : State) (session p g : Nat) (body : Bytes) :
    ∃ f : Share → Share, (∀ x, (f x).st = x.st ∧ (f x).groups = x.groups ∧ (f x).tcWays = x.tcWays ∧ (f x).tlbWays = x.tlbWays ∧
      (f x).modules = x.modules) ∧ (s.keyLoad session p g body).2.fixed = s.fixed.setShare p f := by
  have hid : s.fixed = s.fixed.setShare p id := by
    rw [Fixed.setShare]; simp
  unfold State.keyLoad
  dsimp only
  split
  · by_cases hg : g = 0
    · refine ⟨fun x => { x with key0 := (slice body 0 64, slice body 64 32, slice body 96 64) }, fun _ => ⟨rfl, rfl, rfl, rfl, rfl⟩, ?_⟩
      refine modPart_share _ _ _ _ fun x => ?_
      simp [Part.modSlot, hg, Part.share]
    · refine ⟨fun x => { x with key1 := (slice body 0 64, slice body 64 32, slice body 96 64) }, fun _ => ⟨rfl, rfl, rfl, rfl, rfl⟩, ?_⟩
      refine modPart_share _ _ _ _ fun x => ?_
      simp [Part.modSlot, hg, Part.share]
  · refine ⟨id, fun _ => ⟨rfl, rfl, rfl, rfl, rfl⟩, ?_⟩
    split
    · exact hid
    · refine Eq.trans ?_ hid
      simp
  · exact ⟨id, fun _ => ⟨rfl, rfl, rfl, rfl, rfl⟩, hid⟩

/-! ## One relation for them all -/

theorem Life.refl (a : Fixed) : Fixed.Life a a :=
  ⟨rfl, rfl, rfl, rfl, Nat.le_refl _, id, fun _ _ _ => .inl rfl⟩

theorem Life.of_eq {a b : Fixed} (h : b = a) : Fixed.Life a b := h ▸ Life.refl a

/-- A change of one partition's share that keeps its resources, or gives them up, along an arrow of R351. -/
theorem Life.setShare (a : Fixed) (p : Nat) (f : Share → Share) (harrow : p < 16 → (a.shares p).st ≤ 3 → Arrow (a.shares p).st (f (a.shares p)).st)
    (hres : p < 16 → (f (a.shares p)).st = 0 ∨ (a.shares p).st ≠ 0 ∧ (f (a.shares p)).groups = (a.shares p).groups ∧
      (f (a.shares p)).tcWays = (a.shares p).tcWays ∧ (f (a.shares p)).tlbWays = (a.shares p).tlbWays ∧
      (f (a.shares p)).modules = (a.shares p).modules) : Fixed.Life a (a.setShare p f) := by
  refine ⟨rfl, rfl, rfl, rfl, Nat.le_refl _, ?_, ?_⟩
  · intro h q r hq hr hne
    simp only [Fixed.setShare]
    by_cases h1 : q = p
    · subst h1
      rw [if_pos rfl, if_neg (Ne.symm hne)]
      intro h2 h3
      rcases hres hq with hp | ⟨h4, h5, h6, h7, h8⟩
      · exact absurd hp h2
      · rw [h5, h6, h7, h8]
        exact h q r hq hr hne h4 h3
    · rw [if_neg h1]
      by_cases h2 : r = p
      · subst h2
        rw [if_pos rfl]
        intro h3 h4
        rcases hres hr with hp | ⟨h5, h6, h7, h8, h9⟩
        · exact absurd hp h4
        · rw [h6, h7, h8, h9]
          exact h q r hq hr hne h3 h5
      · rw [if_neg h2]
        exact h q r hq hr hne
  · intro q hq h3
    simp only [Fixed.setShare]
    by_cases h1 : q = p
    · subst h1
      rw [if_pos rfl]
      exact harrow hq h3
    · rw [if_neg h1]
      exact .inl rfl

/-- The same where the state stays. -/
theorem Life.setKeys (a : Fixed) (p : Nat) (f : Share → Share) (h : ∀ x, (f x).st = x.st ∧ (f x).groups = x.groups ∧
    (f x).tcWays = x.tcWays ∧ (f x).tlbWays = x.tlbWays ∧ (f x).modules = x.modules) : Fixed.Life a (a.setShare p f) := by
  obtain ⟨h1, h2, h3, h4, h5⟩ := h (a.shares p)
  refine Life.setShare a p f (fun _ _ => .inl h1) fun _ => ?_
  by_cases hx : (a.shares p).st = 0
  · exact .inl (h1.trans hx)
  · exact .inr ⟨hx, h2, h3, h4, h5⟩

theorem Life.trans {a b c : Fixed} (h : Fixed.Life a b) (h' : b = c) : Fixed.Life a c := h' ▸ h

/-- Either nothing of the fixed part changes, or it changes within `Life`. -/
theorem Life.command (s : State) (m op : Nat) (body : State → Bytes → State)
    (h : ∀ t b, t.fixed = s.fixed → Fixed.Life s.fixed (body t b).fixed) : Fixed.Life s.fixed (s.command m op body).fixed := by
  unfold State.command
  dsimp only
  split
  · exact Life.refl _
  · split
    · exact Life.of_eq (by simp)
    · exact h _ _ (by simp)

theorem State.share_st (s : State) (p : Nat) : (s.fixed.shares p).st = (s.part p).st := rfl

theorem part_st_of_fixed {s t : State} (h : t.fixed = s.fixed) (p : Nat) : (t.part p).st = (s.part p).st := by
  rw [← State.share_st, h, State.share_st]

theorem part_share_of_fixed {s t : State} (h : t.fixed = s.fixed) (p : Nat) : (t.part p).share = (s.part p).share := by
  show t.fixed.shares p = s.fixed.shares p
  rw [h]

theorem Life.startScrub (s : State) (p detail : Nat) (h0 : (s.part p).st ≠ 0) (h3 : (s.part p).st ≠ 3) :
    Fixed.Life s.fixed (s.startScrub p detail).fixed := by
  rw [State.startScrub_fixed]
  refine Life.setShare _ _ _ (fun _ h => ?_) fun _ => .inr ⟨?_, rfl, rfl, rfl, rfl⟩
  · rw [State.share_st] at h ⊢
    dsimp only [Arrow]
    omega
  · rw [State.share_st]
    exact h0

theorem Life.closeEnd (s : State) (p : Nat) : Fixed.Life s.fixed (s.closeEnd p).fixed := by
  rcases State.closeEnd_fixed s p with h | ⟨h, h'⟩
  · exact Life.of_eq h
  · rw [h']
    refine Life.setShare _ _ _ (fun _ _ => ?_) fun _ => .inl rfl
    rw [State.share_st, h]
    exact .inr (.inr (.inr (.inr (.inr ⟨rfl, rfl⟩))))

theorem Life.zeroEnd (s : State) (p : Nat) : Fixed.Life s.fixed (s.zeroEnd p).fixed := by
  rcases State.zeroEnd_fixed s p with h | ⟨_, h⟩
  · exact Life.of_eq h
  · rw [h]
    exact Life.setKeys _ _ _ fun _ => ⟨rfl, rfl, rfl, rfl, rfl⟩

theorem Life.activate (s : State) (p : Nat) : Fixed.Life s.fixed (s.activate p).2.fixed := by
  rcases State.activate_fixed s p with h | ⟨h, h'⟩
  · exact Life.of_eq h
  · rw [h']
    refine Life.setShare _ _ _ (fun _ _ => ?_) fun _ => .inr ⟨?_, rfl, rfl, rfl, rfl⟩
    · rw [State.share_st, h]
      exact .inr (.inr (.inl ⟨rfl, rfl⟩))
    · rw [State.share_st, h]
      decide

theorem State.othersOwn_false {s : State} {p : Nat} {f : Part → Nat} {mask q : Nat} (h : s.othersOwn p f mask = false) (hq : q < 16)
    (hne : q ≠ p) (hst : (s.part q).st ≠ 0) : f (s.part q) &&& mask = 0 := by
  unfold State.othersOwn at h
  have h' := List.any_eq_false.1 h q (List.mem_range.2 hq)
  simpa [hne, hst] using h'

/-- A create that passes its checks keeps the partitions apart (R353). -/
theorem Life.createPart (s : State) (c : Create) (h : s.createOk c = true) : Fixed.Life s.fixed (s.createPart c).fixed := by
  rw [State.createPart_fixed]
  simp only [State.createOk, Bool.and_eq_true, Bool.not_eq_true', beq_iff_eq, decide_eq_true_eq] at h
  obtain ⟨⟨⟨⟨⟨⟨⟨⟨⟨⟨⟨⟨h1, h2⟩, h3⟩, h4⟩, h5⟩, h6⟩, _⟩, _⟩, _⟩, _⟩, _⟩, _⟩, _⟩ := h
  refine ⟨rfl, rfl, rfl, rfl, Nat.le_refl _, ?_, ?_⟩
  · intro ha q r hq hr hne
    simp only [Fixed.setShare]
    by_cases hqp : q = c.part
    · rw [if_pos hqp, if_neg (by omega)]
      intro _ hst
      rw [State.share_st] at hst
      have hrp : r ≠ c.part := by omega
      refine ⟨?_, ?_, ?_, ?_⟩ <;> rw [Nat.and_comm]
      · exact State.othersOwn_false h3 hr hrp hst
      · exact State.othersOwn_false h4 hr hrp hst
      · exact State.othersOwn_false h5 hr hrp hst
      · exact State.othersOwn_false h6 hr hrp hst
    · rw [if_neg hqp]
      by_cases hrp : r = c.part
      · rw [if_pos hrp]
        intro hst _
        rw [State.share_st] at hst
        exact ⟨State.othersOwn_false h3 hq hqp hst, State.othersOwn_false h4 hq hqp hst, State.othersOwn_false h5 hq hqp hst,
          State.othersOwn_false h6 hq hqp hst⟩
      · rw [if_neg hrp]
        exact ha q r hq hr hne
  · intro q hq h3
    simp only [Fixed.setShare]
    by_cases hqp : q = c.part
    · rw [if_pos hqp, hqp, State.share_st, h2]
      exact .inr (.inl ⟨rfl, rfl⟩)
    · rw [if_neg hqp]
      exact .inl rfl

theorem Life.keyLoad (s : State) (session p g : Nat) (body : Bytes) : Fixed.Life s.fixed (s.keyLoad session p g body).2.fixed := by
  obtain ⟨f, hf, h⟩ := State.keyLoad_fixed s session p g body
  rw [h]
  exact Life.setKeys _ _ _ hf

theorem modSlot_life (s : State) (p g : Nat) (k : KeySlot) : Fixed.Life s.fixed (s.modPart p fun x => x.modSlot g fun _ => k).fixed := by
  by_cases hg : g = 0
  · rw [modPart_share s p _ (fun x => { x with key0 := k.key }) fun x => by simp [Part.modSlot, hg, Part.share]]
    exact Life.setKeys _ _ _ fun _ => ⟨rfl, rfl, rfl, rfl, rfl⟩
  · rw [modPart_share s p _ (fun x => { x with key1 := k.key }) fun x => by simp [Part.modSlot, hg, Part.share]]
    exact Life.setKeys _ _ _ fun _ => ⟨rfl, rfl, rfl, rfl, rfl⟩

theorem Life.comp {a b c : Fixed} (h : Fixed.Life a b) (h' : Fixed.Life b c) (hst : ∀ p, (b.shares p).st = (a.shares p).st) :
    Fixed.Life a c :=
  ⟨h'.pending.trans h.pending, h'.clk.trans h.clk, h'.pos.trans h.pos, h'.fuses.trans h.fuses, Nat.le_trans h.svn h'.svn,
    fun x => h'.apart (h.apart x), fun p hp h3 => by
      have h4 := h'.arrow p hp
      rw [hst p] at h4
      exact h4 h3⟩

theorem modSlot_part_st (s : State) (p g : Nat) (k : KeySlot) (q : Nat) :
    ((s.modPart p fun x => x.modSlot g fun _ => k).part q).st = (s.part q).st := by
  by_cases h : q = p <;> simp [State.part, State.modPart, h]

theorem Life.retireSlot (s : State) (p g : Nat) : Fixed.Life s.fixed (s.retireSlot p g).fixed := by
  unfold State.retireSlot
  dsimp only
  have h1 : Fixed.Life s.fixed ((s.modPart p fun x => x.modSlot g fun _ => {}).fabEvent 0x30 none (some p) g).fixed := by
    rw [State.fabEvent_fixed]
    exact modSlot_life s p g {}
  split
  · exact Life.refl _
  · split
    · split
      · refine Life.comp h1 (Life.trans (modSlot_life _ p g _) (by simp; rfl)) fun q => ?_
        rw [State.fabEvent_fixed]
        exact modSlot_part_st s p g {} q
      · exact h1
    · exact h1

theorem Life.tenantAct (s : State) (session p : Nat) (b : Bytes) (h : (s.part p).st = 1 ∨ (s.part p).st = 2) :
    Fixed.Life s.fixed (s.tenantAct session p b).2.fixed := by
  unfold State.tenantAct
  dsimp only
  split
  · exact Life.keyLoad ..
  · exact Life.of_eq (by simp)
  · exact Life.of_eq (by simp)
  · exact Life.startScrub _ _ _ (by omega) (by omega)

theorem Life.tenantRequest (s : State) (session : Nat) (b : Bytes) : Fixed.Life s.fixed (s.tenantRequest session b).fixed := by
  unfold State.tenantRequest
  dsimp only
  split
  · exact Life.refl _
  · split
    · exact Life.of_eq (by simp)
    · split
      · exact Life.of_eq (by simp)
      · split
        · rename_i h
          have hs : (s.modPart (byteAt b 1 % 16) fun x => { x with counter := fieldAt b 8 8 }).fixed = s.fixed := by simp
          have hst : ((s.modPart (byteAt b 1 % 16) fun x => { x with counter := fieldAt b 8 8 }).part (byteAt b 1 % 16)).st = 1 ∨
              ((s.modPart (byteAt b 1 % 16) fun x => { x with counter := fieldAt b 8 8 }).part (byteAt b 1 % 16)).st = 2 := by
            rw [part_st_of_fixed hs]
            simp only [State.tenantCheck] at h
            split at h
            · simp at h
            · rename_i h1
              simp at h1
              omega
          have hl := Life.tenantAct (s.modPart (byteAt b 1 % 16) fun x => { x with counter := fieldAt b 8 8 }) session _ b hst
          rw [hs] at hl
          split
          · rw [State.tenantReply_fixed]
            exact hl
          · exact hl
        · exact Life.of_eq (by simp)

theorem Life.spdmRequest (s : State) (doe : Bool) (session : Option Nat) (c : SpdmCode) (body : Bytes) :
    Fixed.Life s.fixed (s.spdmRequest doe session c body).fixed := by
  unfold State.spdmRequest
  dsimp only
  repeat' (first | exact Life.tenantRequest _ _ _ | (refine Life.of_eq ?_; simp; done) | split)

theorem Life.cmdCreate (s : State) (m : Nat) : Fixed.Life s.fixed (s.cmdCreate m).fixed := by
  refine Life.command s m _ _ fun t b ht => ?_
  dsimp only
  split
  · exact Life.of_eq (by simp [ht])
  · split
    · exact Life.of_eq (by simp [ht])
    · rename_i h _
      rw [State.ok_fixed, ← ht]
      exact Life.createPart t _ (by simpa using h)

theorem Life.cmdActivate (s : State) (m : Nat) : Fixed.Life s.fixed (s.cmdActivate m).fixed := by
  refine Life.command s m _ _ fun t b ht => ?_
  dsimp only
  split
  · exact Life.of_eq (by simp [ht])
  · rw [State.respond_fixed, ← ht]
    exact Life.activate t _

theorem Life.cmdDestroy (s : State) (m : Nat) : Fixed.Life s.fixed (s.cmdDestroy m).fixed := by
  refine Life.command s m _ _ fun t b ht => ?_
  dsimp only
  split
  · exact Life.of_eq (by simp [ht])
  · split
    · exact Life.of_eq (by simp [ht])
    · exact Life.of_eq (by simp [ht])
    · rw [State.ok_fixed, ← ht]
      exact Life.startScrub _ _ _ (by assumption) (by assumption)

/-- Scrubs of several partitions, none of them FREE or SCRUBBING (R441). -/
theorem Life.scrubAll (l : List Nat) (detail : Nat) (s : State) (hl : l.Nodup)
    (h : ∀ p ∈ l, (s.part p).st ≠ 0 ∧ (s.part p).st ≠ 3) :
    Fixed.Life s.fixed (s.each l fun s p => s.startScrub p detail).fixed ∧
      ∀ q, q ∉ l → ((s.each l fun s p => s.startScrub p detail).fixed.shares q).st = (s.fixed.shares q).st := by
  induction l generalizing s with
  | nil => exact ⟨Life.refl _, fun _ _ => rfl⟩
  | cons a l ih =>
    have ha := h a (by simp)
    have h1 := Life.startScrub s a detail ha.1 ha.2
    have hs : ∀ q, q ≠ a → ((s.startScrub a detail).part q).st = (s.part q).st := by
      intro q hq
      rw [← State.share_st, State.startScrub_fixed]
      simp [Fixed.setShare, hq, State.share_st]
    have hn := List.nodup_cons.1 hl
    obtain ⟨h2, h3⟩ := ih (s.startScrub a detail) hn.2 fun p hp => by
      rw [hs p fun e => hn.1 (e ▸ hp)]
      exact h p (by simp [hp])
    have he : s.each (a :: l) (fun s p => s.startScrub p detail) = (s.startScrub a detail).each l fun s p => s.startScrub p detail := rfl
    rw [he]
    refine ⟨⟨h2.pending.trans h1.pending, h2.clk.trans h1.clk, h2.pos.trans h1.pos, h2.fuses.trans h1.fuses, Nat.le_trans h1.svn h2.svn,
      fun x => h2.apart (h1.apart x), fun p hp h4 => ?_⟩, fun q hq => ?_⟩
    · by_cases hpa : p = a
      · subst hpa
        rw [h3 p hn.1]
        exact h1.arrow p hp h4
      · have h5 := h2.arrow p hp
        rw [State.share_st, hs p hpa, ← State.share_st] at h5
        exact h5 h4
    · simp only [List.mem_cons, not_or] at hq
      rw [h3 q hq.2, State.share_st, hs q hq.1, State.share_st]

theorem Life.computeReset (s : State) : Fixed.Life s.fixed s.computeReset.fixed := by
  unfold State.computeReset
  dsimp only
  split
  · exact Life.refl _
  · rw [State.readyEvent_fixed, fixed_mk]
    have h := (Life.scrubAll (partIxs.filter fun p => (s.part p).st == 1 || (s.part p).st == 2) 5 s
      ((List.nodup_range).filter _) fun p hp => by
        have := (List.mem_filter.1 hp).2
        simp at this
        omega).1
    refine Life.trans h ?_
    simp

theorem sharesOf_mapV (t : Tab Part) (f : Nat → Part → Part) (h : ∀ k x, (f k x).share = x.share) :
    sharesOf (Tab.mapV t f) = sharesOf t := by
  funext p
  rw [sharesOf, Tab.at_mapV]
  split
  · rw [h, sharesOf]
  · rename_i hp
    rw [sharesOf, Tab.at_of_not_mem]
    intro e he hk
    exact hp (List.mem_map.2 ⟨e, he, hk⟩)

/-- After the restore of a compute-part reset every partition is FREE (R441). -/
theorem Life.computeRestore (s : State) : Fixed.Life s.fixed s.computeRestore.fixed := by
  unfold State.computeRestore
  dsimp only
  split
  · exact Life.refl _
  · rename_i h
    rw [State.emit_fixed, State.modRd_fixed, modFw_fixed _ _ (by simp), fixed_mk]
    simp only [Bool.or_eq_true, decide_eq_true_eq, not_or, List.any_eq_true, not_exists, not_and, bne_iff_ne, ne_eq, Decidable.not_not] at h
    have hst : ∀ p < 16, (s.fixed.shares p).st = 0 := fun p hp => (h.1.2 p (List.mem_range.2 hp)).1
    have hsh : ∀ p, (sharesOf (Tab.mapV s.pt.parts fun _ x => { prevTag := x.prevTag }) p).st = 0 := by
      intro p
      rw [sharesOf, Tab.at_mapV]
      split <;> rfl
    refine ⟨rfl, rfl, rfl, rfl, Nat.le_refl _, fun _ p q _ _ _ h1 => absurd (hsh p) h1, fun p hp _ => .inl ?_⟩
    exact (hsh p).trans (hst p hp).symm

theorem Life.cmdFwActivate (s : State) (m : Nat) : Fixed.Life s.fixed (s.cmdFwActivate m).fixed := by
  refine Life.command s m _ _ fun t b ht => ?_
  dsimp only
  split
  · exact Life.of_eq (by simp [ht])
  · split
    · exact Life.of_eq (by simp [ht])
    · split
      · exact Life.of_eq (by simp [ht])
      · rw [State.ok_fixed, ← ht]
        simp only [State.modFw, fixed_mk]
        refine ⟨rfl, rfl, rfl, rfl, ?_, id, fun _ _ _ => .inl rfl⟩
        show t.mc.fw.svnMin ≤ _
        dsimp only
        split
        · rename_i h
          simp at h
          omega
        · exact Nat.le_refl _

/-- What changes only Tally's sums. -/
theorem Life.modTally (s : State) (f : Tally → Tally) : Fixed.Life s.fixed (s.modTally f).fixed := by
  rw [State.modTally, fixed_mk]
  exact ⟨rfl, rfl, rfl, rfl, Nat.le_refl _, id, fun _ _ _ => .inl rfl⟩

theorem Life.takePulse (s : State) : Fixed.Life s.fixed s.takePulse.fixed := by
  unfold State.takePulse
  repeat' (first | exact Life.refl _ | exact Life.modTally _ _ | split)

theorem Life.takeLifetime (s : State) : Fixed.Life s.fixed s.takeLifetime.fixed := by
  unfold State.takeLifetime
  repeat' (first | exact Life.refl _ | exact Life.modTally _ _ | split)

/-- What cold reset makes of the fixed part: the queue, the ticks taken and the fused minimum SVN stay (R437, R438). -/
theorem State.coldReset_fixed (s : State) (x : Straps) :
    (s.coldReset x).fixed =
      ⟨s.pending, { ticks := s.clk.ticks }, x.pos, { groups := x.groups.toNat, modules := x.modules.toNat, halfArray := x.halfArray },
        sharesOf [], s.mc.fw.svnMin, ([], [], Config.free s.free % 2 ^ 64)⟩ := by
  unfold State.coldReset
  dsimp only [State.draw]
  split
  · rw [each_fixed _ _ _ fun _ _ => by simp, fixed_mk, sums_mk]
  · rw [State.report_fixed, each_fixed _ _ _ fun _ _ => by simp, fixed_mk, sums_mk]

/-- A tick moves the clocks and leaves the rest of the fixed part alone. -/
theorem State.tick_fixed (s : State) : s.tick.fixed = { s.fixed with clk := s.clk.tick } := by
  unfold State.tick
  dsimp only
  simp only [State.releaseDue_fixed, State.tickTier_fixed, State.tickArray_fixed, fixed_mk]
  rw [sharesOf_mapV _ _ (by intro k x; rfl), State.fixed]

end Sys2Proof.Machine
end

