-- ==== Sys2Proof/Laws/Hide.lean ====
section
/-! SUPPORT. Which units an operation leaves alone (`State.hide`, `Same` of Safety.lean): the laws that carry it through updates of the
state and changes over a list. -/

namespace Sys2Proof.Machine

@[simp] theorem hide_ite (M : List Comp) (c : Prop) [Decidable c] (a b : State) :
    (if c then a else b).hide M = if c then a.hide M else b.hide M := by
  split <;> rfl

@[simp] theorem hide_snd_ite {α : Type} (M : List Comp) (c : Prop) [Decidable c] (a b : α × State) :
    (if c then a else b).2.hide M = if c then a.2.hide M else b.2.hide M := by
  split <;> rfl

@[simp] theorem each_hide {α : Type} (M : List Comp) (s : State) (l : List α) (f : State → α → State)
    (h : ∀ t x, (f t x).hide M = t.hide M) : (s.each l f).hide M = s.hide M := by
  unfold State.each
  induction l generalizing s with
  | nil => rfl
  | cons a l ih => rw [List.foldl_cons, ih, h]

@[simp] theorem foldl_hide {α : Type} (M : List Comp) (f : State → α → State) (l : List α) (s : State)
    (h : ∀ t x, (f t x).hide M = t.hide M) : (l.foldl f s).hide M = s.hide M := each_hide M s l f h

@[simp] theorem hide_pt {M : List Comp} (h : Comp.pt ∈ M) (s : State) (x4 : Pt) :
    State.hide M { s with pt := x4 } = s.hide M := by
  simp [State.hide, h]

@[simp] theorem hide_xl {M : List Comp} (h : Comp.xl ∈ M) (s : State) (x5 : Xl) :
    State.hide M { s with xl := x5 } = s.hide M := by
  simp [State.hide, h]

@[simp] theorem hide_qc {M : List Comp} (h : Comp.qc ∈ M) (s : State) (x6 : Qc) :
    State.hide M { s with qc := x6 } = s.hide M := by
  simp [State.hide, h]

@[simp] theorem hide_tier {M : List Comp} (h : Comp.tier ∈ M) (s : State) (x7 : Tier) :
    State.hide M { s with tier := x7 } = s.hide M := by
  simp [State.hide, h]

@[simp] theorem hide_rk {M : List Comp} (h : Comp.rk ∈ M) (s : State) (x8 : Reck) :
    State.hide M { s with rk := x8 } = s.hide M := by
  simp [State.hide, h]

@[simp] theorem hide_ch {M : List Comp} (h : Comp.ch ∈ M) (s : State) (x9 : Chords) :
    State.hide M { s with ch := x9 } = s.hide M := by
  simp [State.hide, h]

@[simp] theorem hide_ec {M : List Comp} (h : Comp.ec ∈ M) (s : State) (x10 : Ec) :
    State.hide M { s with ec := x10 } = s.hide M := by
  simp [State.hide, h]

@[simp] theorem hide_units {M : List Comp} (h : Comp.units ∈ M) (s : State) (x11 : Tab UnitWord) :
    State.hide M { s with units := x11 } = s.hide M := by
  simp [State.hide, h]

@[simp] theorem hide_links {M : List Comp} (h : Comp.links ∈ M) (s : State) (x12 : Links) :
    State.hide M { s with links := x12 } = s.hide M := by
  simp [State.hide, h]

@[simp] theorem hide_tally {M : List Comp} (h : Comp.tally ∈ M) (s : State) (x13 : Tally) :
    State.hide M { s with tally := x13 } = s.hide M := by
  simp [State.hide, h]

@[simp] theorem hide_mc {M : List Comp} (h : Comp.mc ∈ M) (s : State) (x14 : Mc) :
    State.hide M { s with mc := x14 } = s.hide M := by
  simp [State.hide, h]

@[simp] theorem hide_px {M : List Comp} (h : Comp.px ∈ M) (s : State) (x15 : Px) :
    State.hide M { s with px := x15 } = s.hide M := by
  simp [State.hide, h]

@[simp] theorem hide_reqs {M : List Comp} (h : Comp.reqs ∈ M) (s : State) (x16 : List Req) :
    State.hide M { s with reqs := x16 } = s.hide M := by
  simp [State.hide, h]

@[simp] theorem hide_nextReq {M : List Comp} (h : Comp.nextReq ∈ M) (s : State) (x17 : Nat) :
    State.hide M { s with nextReq := x17 } = s.hide M := by
  simp [State.hide, h]

@[simp] theorem hide_free {M : List Comp} (h : Comp.free ∈ M) (s : State) (x18 : Nat) :
    State.hide M { s with free := x18 } = s.hide M := by
  simp [State.hide, h]

@[simp] theorem hide_outbox {M : List Comp} (h : Comp.outbox ∈ M) (s : State) (x19 : List Emission) :
    State.hide M { s with outbox := x19 } = s.hide M := by
  simp [State.hide, h]

@[simp] theorem hide_pt_tier {M : List Comp} (h : Comp.pt ∈ M ∧ Comp.tier ∈ M) (s : State) (x4 : Pt) (x7 : Tier) :
    State.hide M { s with pt := x4, tier := x7 } = s.hide M := by
  simp [State.hide, h]

@[simp] theorem hide_pt_px {M : List Comp} (h : Comp.pt ∈ M ∧ Comp.px ∈ M) (s : State) (x4 : Pt) (x15 : Px) :
    State.hide M { s with pt := x4, px := x15 } = s.hide M := by
  simp [State.hide, h]

@[simp] theorem hide_xl_reqs {M : List Comp} (h : Comp.xl ∈ M ∧ Comp.reqs ∈ M) (s : State) (x5 : Xl) (x16 : List Req) :
    State.hide M { s with xl := x5, reqs := x16 } = s.hide M := by
  simp [State.hide, h]

@[simp] theorem hide_tier_reqs {M : List Comp} (h : Comp.tier ∈ M ∧ Comp.reqs ∈ M) (s : State) (x7 : Tier) (x16 : List Req) :
    State.hide M { s with tier := x7, reqs := x16 } = s.hide M := by
  simp [State.hide, h]

@[simp] theorem hide_reqs_nextReq {M : List Comp} (h : Comp.reqs ∈ M ∧ Comp.nextReq ∈ M) (s : State) (x16 : List Req) (x17 : Nat) :
    State.hide M { s with reqs := x16, nextReq := x17 } = s.hide M := by
  simp [State.hide, h]

@[simp] theorem hide_tier_links {M : List Comp} (h : Comp.tier ∈ M ∧ Comp.links ∈ M) (s : State) (x7 : Tier) (x12 : Links) :
    State.hide M { s with tier := x7, links := x12 } = s.hide M := by
  simp [State.hide, h]

@[simp] theorem hide_links_mc {M : List Comp} (h : Comp.links ∈ M ∧ Comp.mc ∈ M) (s : State) (x12 : Links) (x14 : Mc) :
    State.hide M { s with links := x12, mc := x14 } = s.hide M := by
  simp [State.hide, h]

@[simp] theorem hide_rk_free {M : List Comp} (h : Comp.rk ∈ M ∧ Comp.free ∈ M) (s : State) (x8 : Reck) (x18 : Nat) :
    State.hide M { s with rk := x8, free := x18 } = s.hide M := by
  simp [State.hide, h]

@[simp] theorem hide_xl_qc_ch {M : List Comp} (h : Comp.xl ∈ M ∧ Comp.qc ∈ M ∧ Comp.ch ∈ M) (s : State) (x5 : Xl) (x6 : Qc) (x9 : Chords) :
    State.hide M { s with xl := x5, qc := x6, ch := x9 } = s.hide M := by
  simp [State.hide, h]

@[simp] theorem hide_pt_xl_tier_px {M : List Comp} (h : Comp.pt ∈ M ∧ Comp.xl ∈ M ∧ Comp.tier ∈ M ∧ Comp.px ∈ M) (s : State) (x4 : Pt) (x5 : Xl) (x7 : Tier) (x15 : Px) :
    State.hide M { s with pt := x4, xl := x5, tier := x7, px := x15 } = s.hide M := by
  simp [State.hide, h]

@[simp] theorem hide_pt_xl_qc_rk_ch {M : List Comp} (h : Comp.pt ∈ M ∧ Comp.xl ∈ M ∧ Comp.qc ∈ M ∧ Comp.rk ∈ M ∧ Comp.ch ∈ M) (s : State) (x4 : Pt) (x5 : Xl) (x6 : Qc) (x8 : Reck) (x9 : Chords) :
    State.hide M { s with pt := x4, xl := x5, qc := x6, rk := x8, ch := x9 } = s.hide M := by
  simp [State.hide, h]

@[simp] theorem hide_xl_rk_ch_mc_px {M : List Comp} (h : Comp.xl ∈ M ∧ Comp.rk ∈ M ∧ Comp.ch ∈ M ∧ Comp.mc ∈ M ∧ Comp.px ∈ M) (s : State) (x5 : Xl) (x8 : Reck) (x9 : Chords) (x14 : Mc) (x15 : Px) :
    State.hide M { s with xl := x5, rk := x8, ch := x9, mc := x14, px := x15 } = s.hide M := by
  simp [State.hide, h]

@[simp] theorem hide_pt_xl_qc_tier_rk_ch_px {M : List Comp} (h : Comp.pt ∈ M ∧ Comp.xl ∈ M ∧ Comp.qc ∈ M ∧ Comp.tier ∈ M ∧ Comp.rk ∈ M ∧ Comp.ch ∈ M ∧ Comp.px ∈ M) (s : State) (x4 : Pt) (x5 : Xl) (x6 : Qc) (x7 : Tier) (x8 : Reck) (x9 : Chords) (x15 : Px) :
    State.hide M { s with pt := x4, xl := x5, qc := x6, tier := x7, rk := x8, ch := x9, px := x15 } = s.hide M := by
  simp [State.hide, h]

end Sys2Proof.Machine
end

