-- ==== Sys2Proof/Laws/HideOps.lean ====
section
/-! SUPPORT. Which units each operation leaves alone: the named operations, events, peer sending, the tier paths, translation, access checks and the transfer engine. Each leaves every unit alone but those its first hypothesis names. -/

set_option linter.unusedTactic false
set_option linter.unreachableTactic false
set_option linter.unusedSimpArgs false

namespace Sys2Proof.Machine

@[simp] theorem State.modPart_hide {M : List Comp} (hM : Comp.pt ∈ M) (s : State) (p : Nat) (f : Part → Part) : (State.modPart s p
    f).hide M = s.hide M := by
  unfold State.modPart
  simp [hM]

@[simp] theorem State.modRing_hide {M : List Comp} (hM : Comp.qc ∈ M) (s : State) (r : Nat) (f : Ring → Ring) : (State.modRing s r
    f).hide M = s.hide M := by
  unfold State.modRing
  simp [hM]

@[simp] theorem State.modCell_hide {M : List Comp} (hM : Comp.qc ∈ M) (s : State) (c : Nat) (f : Cell → Cell) : (State.modCell s c
    f).hide M = s.hide M := by
  unfold State.modCell
  simp [hM]

@[simp] theorem State.modSlot_hide {M : List Comp} (hM : Comp.qc ∈ M) (s : State) (k : Nat) (f : ParkSlot → ParkSlot) : (State.modSlot s
    k f).hide M = s.hide M := by
  unfold State.modSlot
  simp [hM]

@[simp] theorem State.modFq_hide {M : List Comp} (hM : Comp.qc ∈ M) (s : State) (p : Nat) (f : FaultQueue → FaultQueue) : (State.modFq s
    p f).hide M = s.hide M := by
  unfold State.modFq
  simp [hM]

@[simp] theorem State.modCq_hide {M : List Comp} (hM : Comp.qc ∈ M) (s : State) (k : Nat) (f : CompRing → CompRing) : (State.modCq s k
    f).hide M = s.hide M := by
  unfold State.modCq
  simp [hM]

@[simp] theorem State.modInvq_hide {M : List Comp} (hM : Comp.xl ∈ M) (s : State) (p : Nat) (f : InvQueue → InvQueue) : (State.modInvq s
    p f).hide M = s.hide M := by
  unfold State.modInvq
  simp [hM]

@[simp] theorem State.modChq_hide {M : List Comp} (hM : Comp.ch ∈ M) (s : State) (p : Nat) (f : ChordQueue → ChordQueue) : (State.modChq
    s p f).hide M = s.hide M := by
  unfold State.modChq
  simp [hM]

@[simp] theorem State.modChord_hide {M : List Comp} (hM : Comp.ch ∈ M) (s : State) (k : Nat) (f : ChordSlot → ChordSlot) :
    (State.modChord s k f).hide M = s.hide M := by
  unfold State.modChord
  simp [hM]

@[simp] theorem State.modUnit_hide {M : List Comp} (hM : Comp.units ∈ M) (s : State) (u : Nat) (f : UnitWord → UnitWord) :
    (State.modUnit s u f).hide M = s.hide M := by
  unfold State.modUnit
  simp [hM]

@[simp] theorem State.modSource_hide {M : List Comp} (hM : Comp.ec ∈ M) (s : State) (i : Nat) (f : Source → Source) : (State.modSource s
    i f).hide M = s.hide M := by
  unfold State.modSource
  simp [hM]

@[simp] theorem State.modWork_hide {M : List Comp} (hM : Comp.qc ∈ M) (s : State) (r pos : Nat) (f : Work → Work) : (State.modWork s r
    pos f).hide M = s.hide M := by
  unfold State.modWork
  simp [hM]

@[simp] theorem State.draw_hide {M : List Comp} (hM : Comp.free ∈ M) (s : State) : (State.draw s).2.hide M = s.hide M := by
  unfold State.draw
  simp [hM]

@[simp] theorem State.choose_hide {M : List Comp} (hM : Comp.free ∈ M) (s : State) (n : Nat) : (State.choose s n).2.hide M = s.hide M := by
  unfold State.choose
  simp [hM]

@[simp] theorem State.report_hide {M : List Comp} (hM : Comp.ec ∈ M) (s : State) (e : ErrorEv) : (State.report s e).hide M = s.hide M := by
  unfold State.report
  simp [hM]

@[simp] theorem State.dropReq_hide {M : List Comp} (hM : Comp.reqs ∈ M) (s : State) (id : Nat) : (State.dropReq s id).hide M = s.hide M := by
  unfold State.dropReq
  simp [hM]

@[simp] theorem State.modReq_hide {M : List Comp} (hM : Comp.reqs ∈ M) (s : State) (id : Nat) (f : Req → Req) : (State.modReq s id
    f).hide M = s.hide M := by
  unfold State.modReq
  simp [hM]

@[simp] theorem State.send_hide {M : List Comp} (hM : Comp.reqs ∈ M ∧ Comp.nextReq ∈ M) (s : State) (r : Req) : (State.send s r).hide M
    = s.hide M := by
  unfold State.send
  simp [hM]

@[simp] theorem State.keyTake_hide {M : List Comp} (hM : Comp.pt ∈ M) (s : State) (x0 : Option (Nat × Nat)) : (State.keyTake s x0).hide
    M = s.hide M := by
  rcases x0 with _ | ⟨p, g⟩
  · rfl
  · simp [State.keyTake, hM]

@[simp] theorem State.keyGive_hide {M : List Comp} (hM : Comp.pt ∈ M) (s : State) (x0 : Option (Nat × Nat)) : (State.keyGive s x0).hide
    M = s.hide M := by
  rcases x0 with _ | ⟨p, g⟩
  · rfl
  · simp [State.keyGive, hM]

@[simp] theorem State.drainSpan_hide {M : List Comp} (hM : Comp.xl ∈ M) (s : State) (sp : Nat × Nat × Nat) : (State.drainSpan s sp).hide
    M = s.hide M := by
  unfold State.drainSpan
  simp [hM]

@[simp] theorem State.finishReq_hide {M : List Comp} (hM : Comp.pt ∈ M ∧ Comp.xl ∈ M ∧ Comp.reqs ∈ M) (s : State) (r : Req) :
    (State.finishReq s r).hide M = s.hide M := by
  unfold State.finishReq
  split <;> simp [hM]

@[simp] theorem State.orphan_hide {M : List Comp} (hM : Comp.reqs ∈ M) (s : State) (mine : Purpose → Bool) : (State.orphan s mine).hide
    M = s.hide M := by
  unfold State.orphan
  simp [hM]

@[simp] theorem State.modBox_hide {M : List Comp} (hM : Comp.mc ∈ M) (s : State) (m : Nat) (f : Mailbox → Mailbox) : (State.modBox s m
    f).hide M = s.hide M := by
  unfold State.modBox
  simp [hM]

@[simp] theorem State.emit_hide {M : List Comp} (hM : Comp.outbox ∈ M) (s : State) (e : Emission) : (State.emit s e).hide M = s.hide M := by
  unfold State.emit
  simp [hM]

@[simp] theorem State.dropIrq_hide {M : List Comp} (hM : Comp.px ∈ M) (s : State) : (State.dropIrq s).hide M = s.hide M := by
  unfold State.dropIrq
  simp [hM]

@[simp] theorem State.signalVector_hide {M : List Comp} (hM : Comp.px ∈ M ∧ Comp.outbox ∈ M) (s : State) (owner v : Nat) :
    (State.signalVector s owner v).hide M = s.hide M := by
  unfold State.signalVector
  simp [hM]

@[simp] theorem State.signalBox_hide {M : List Comp} (hM : Comp.px ∈ M ∧ Comp.outbox ∈ M) (s : State) (m : Nat) : (State.signalBox s
    m).hide M = s.hide M := by
  unfold State.signalBox
  simp [hM]

@[simp] theorem State.notify_hide {M : List Comp} (hM : Comp.mc ∈ M ∧ Comp.px ∈ M ∧ Comp.outbox ∈ M) (s : State) (m : Nat) (e :
    EventRec) : (State.notify s m e).hide M = s.hide M := by
  unfold State.notify
  simp [hM]

@[simp] theorem State.event_hide {M : List Comp} (hM : Comp.mc ∈ M ∧ Comp.px ∈ M ∧ Comp.outbox ∈ M) (s : State) (code domain cycle :
    Nat) (unit part : Option Nat) (data : Nat) : (State.event s code domain cycle unit part data).hide M = s.hide M := by
  unfold State.event
  dsimp only
  rw [each_hide M _ _ _ fun _ _ => State.notify_hide (by simp [hM]) _ _ _]
  simp [hM]

@[simp] theorem State.fabEvent_hide {M : List Comp} (hM : Comp.mc ∈ M ∧ Comp.px ∈ M ∧ Comp.outbox ∈ M) (s : State) (code : Nat) (unit
    part : Option Nat) (data : Nat) : (State.fabEvent s code unit part data).hide M = s.hide M := by
  unfold State.fabEvent
  simp [hM]

@[simp] theorem State.mgtEvent_hide {M : List Comp} (hM : Comp.mc ∈ M ∧ Comp.px ∈ M ∧ Comp.outbox ∈ M) (s : State) (code : Nat) (unit
    part : Option Nat) (data : Nat) : (State.mgtEvent s code unit part data).hide M = s.hide M := by
  unfold State.mgtEvent
  simp [hM]

@[simp] theorem State.sendPulse_hide {M : List Comp} (hM : Comp.tally ∈ M) (s : State) (p k : Nat) : (State.sendPulse s p k).hide M =
    s.hide M := by
  unfold State.sendPulse
  simp [hM]

@[simp] theorem State.count_hide {M : List Comp} (hM : Comp.tally ∈ M) (s : State) (p k n : Nat) : (State.count s p k n).hide M = s.hide M := by
  unfold State.count
  simp [hM]

@[simp] theorem State.controlPulse_hide {M : List Comp} (hM : Comp.tally ∈ M) (s : State) (p n : Nat) : (State.controlPulse s p n).hide
    M = s.hide M := by
  unfold State.controlPulse
  simp [hM]

@[simp] theorem State.countHost_hide {M : List Comp} (hM : Comp.tally ∈ M) (s : State) (r : Req) : (State.countHost s r).hide M = s.hide M := by
  unfold State.countHost
  split <;> simp [hM]

@[simp] theorem State.sendHost_hide {M : List Comp} (hM : Comp.tally ∈ M ∧ Comp.reqs ∈ M ∧ Comp.nextReq ∈ M) (s : State) (r : Req) :
    (State.sendHost s r).hide M = s.hide M := by
  unfold State.sendHost
  simp [hM]

@[simp] theorem State.countAddress_hide {M : List Comp} (hM : Comp.pt ∈ M) (s : State) : (State.countAddress s).hide M = s.hide M := by
  unfold State.countAddress
  simp [hM]

@[simp] theorem State.violate_hide {M : List Comp} (hM : Comp.pt ∈ M ∧ Comp.ec ∈ M) (s : State) (requester part check pa : Nat) (write :
    Bool) (errPart : Option Nat) : (State.violate s requester part check pa write errPart).hide M = s.hide M := by
  unfold State.violate
  simp [hM]

@[simp] theorem State.clearWindowsOn_hide {M : List Comp} (hM : Comp.pt ∈ M) (s : State) (p c : Nat) : (State.clearWindowsOn s p c).hide
    M = s.hide M := by
  unfold State.clearWindowsOn
  simp [hM]

@[simp] theorem State.modMod_hide {M : List Comp} (hM : Comp.links ∈ M) (s : State) (k : Nat) (f : Module → Module) : (State.modMod s k
    f).hide M = s.hide M := by
  unfold State.modMod
  simp [hM]

@[simp] theorem State.sendFlit_hide {M : List Comp} (hM : Comp.links ∈ M ∧ Comp.outbox ∈ M) (s : State) (m header : Nat) (body : Bytes)
    : (State.sendFlit s m header body).hide M = s.hide M := by
  unfold State.sendFlit
  simp [hM]

@[simp] theorem State.sendIdle_hide {M : List Comp} (hM : Comp.links ∈ M ∧ Comp.outbox ∈ M) (s : State) (m : Nat) (x0 : Nat) :
    (State.sendIdle s m x0).hide M = s.hide M := by
  induction x0 generalizing s with
  | zero => rfl
  | succ n ih =>
    unfold State.sendIdle
    split <;> simp [ih, hM]

@[simp] theorem State.sendPackets_hide {M : List Comp} (hM : Comp.pt ∈ M ∧ Comp.links ∈ M ∧ Comp.tally ∈ M ∧ Comp.outbox ∈ M) (s :
    State) (m : Nat) (l : List Packet) : (State.sendPackets s m l).hide M = s.hide M := by
  unfold State.sendPackets
  split <;> simp [hM]

theorem State.pumpOne_hide {M : List Comp} (hM : Comp.pt ∈ M ∧ Comp.links ∈ M ∧ Comp.tally ∈ M ∧ Comp.outbox ∈ M) (s : State) (m : Nat)
    : ∀ t, State.pumpOne s m = some t → t.hide M = s.hide M := by
  intro t h
  unfold State.pumpOne at h
  dsimp only at h
  split at h
  · simp [hM] at h
  · split at h
    · simp [hM] at h
    · rw [← Option.some.inj h]
      simp [hM]

@[simp] theorem State.pumpN_hide {M : List Comp} (hM : Comp.pt ∈ M ∧ Comp.links ∈ M ∧ Comp.tally ∈ M ∧ Comp.outbox ∈ M) (s : State) (m :
    Nat) (x0 : Nat) : (State.pumpN s m x0).hide M = s.hide M := by
  induction x0 generalizing s with
  | zero => rfl
  | succ n ih =>
    unfold State.pumpN
    split
    · rename_i h
      rw [ih, State.pumpOne_hide (by simp [hM]) _ _ _ h]
    · rfl

@[simp] theorem State.pump_hide {M : List Comp} (hM : Comp.pt ∈ M ∧ Comp.links ∈ M ∧ Comp.tally ∈ M ∧ Comp.outbox ∈ M) (s : State) (m :
    Nat) : (State.pump s m).hide M = s.hide M := by
  unfold State.pump
  simp [hM]

@[simp] theorem State.queuePacket_hide {M : List Comp} (hM : Comp.pt ∈ M ∧ Comp.links ∈ M ∧ Comp.tally ∈ M ∧ Comp.outbox ∈ M) (s :
    State) (m : Nat) (p : Packet) : (State.queuePacket s m p).hide M = s.hide M := by
  unfold State.queuePacket
  simp [hM]

theorem State.freeTag_hide {M : List Comp} (hM : Comp.free ∈ M) (s : State) : ∀ a t, State.freeTag s = some (a, t) → t.hide M = s.hide M := by
  unfold State.freeTag
  simp [hM]

theorem State.sendPeer_hide {M : List Comp} (hM : Comp.pt ∈ M ∧ Comp.links ∈ M ∧ Comp.tally ∈ M ∧ Comp.reqs ∈ M ∧ Comp.nextReq ∈ M ∧
    Comp.free ∈ M ∧ Comp.outbox ∈ M) (s : State) (r : Req) (vc : Nat) : ∀ t, State.sendPeer s r vc = some (some t) → t.hide M = s.hide M := by
  intro t h
  unfold State.sendPeer at h
  split at h
  · simp at h
  · split at h
    · simp at h
    · split at h
      · simp at h
      · rename_i h1
        rw [← Option.some.inj (Option.some.inj h)]
        simp [State.freeTag_hide (M := M) (by simp [hM]) _ _ _ h1, hM]

@[simp] theorem State.freeTagOf_hide {M : List Comp} (hM : Comp.links ∈ M) (s : State) (t : Nat) : (State.freeTagOf s t).hide M = s.hide M := by
  unfold State.freeTagOf
  simp [hM]

@[simp] theorem State.sendResponse_hide {M : List Comp} (hM : Comp.pt ∈ M ∧ Comp.links ∈ M ∧ Comp.tally ∈ M ∧ Comp.outbox ∈ M) (s :
    State) (p dst tag : Nat) (slots : Bytes) (resp : Bool) : (State.sendResponse s p dst tag slots resp).hide M = s.hide M := by
  unfold State.sendResponse
  split <;> simp [hM]

@[simp] theorem State.tierPerf_hide {M : List Comp} (hM : Comp.tier ∈ M) (s : State) (p : Nat) (f : Tier → Tier) : (State.tierPerf s p
    f).hide M = s.hide M := by
  unfold State.tierPerf
  simp [hM]

@[simp] theorem State.onHit_hide {M : List Comp} (hM : Comp.tier ∈ M) (s : State) (p pa hint k : Nat) : (State.onHit s p pa hint k).hide
    M = s.hide M := by
  unfold State.onHit
  simp [hM]

@[simp] theorem State.removeLine_hide {M : List Comp} (hM : Comp.tier ∈ M) (s : State) (pa : Nat) : (State.removeLine s pa).hide M =
    s.hide M := by
  unfold State.removeLine
  simp [hM]

@[simp] theorem State.bulkRead_hide {M : List Comp} (hM : Comp.pt ∈ M ∧ Comp.tier ∈ M ∧ Comp.tally ∈ M ∧ Comp.reqs ∈ M ∧ Comp.nextReq ∈
    M) (s : State) (r : Req) (hint : Nat) : (State.bulkRead s r hint).hide M = s.hide M := by
  unfold State.bulkRead
  split <;> simp [hM]

@[simp] theorem State.installLine_hide {M : List Comp} (hM : Comp.tier ∈ M ∧ Comp.free ∈ M) (s : State) (f : Fill) (data : Bytes) :
    (State.installLine s f data).hide M = s.hide M := by
  unfold State.installLine
  dsimp only
  repeat' (first | (simp [hM]; done) | split)

@[simp] theorem State.pushEntry_hide {M : List Comp} (hM : Comp.pt ∈ M ∧ Comp.tier ∈ M ∧ Comp.tally ∈ M ∧ Comp.reqs ∈ M ∧ Comp.nextReq ∈
    M) (s : State) (n : Nat) (e : WcEntry) : (State.pushEntry s n e).hide M = s.hide M := by
  unfold State.pushEntry
  simp [hM]

@[simp] theorem State.flushEntry_hide {M : List Comp} (hM : Comp.pt ∈ M ∧ Comp.tier ∈ M ∧ Comp.tally ∈ M ∧ Comp.reqs ∈ M ∧ Comp.nextReq
    ∈ M) (s : State) (k : Nat) : (State.flushEntry s k).hide M = s.hide M := by
  unfold State.flushEntry
  simp [hM]

@[simp] theorem State.mergePush_hide {M : List Comp} (hM : Comp.pt ∈ M ∧ Comp.tier ∈ M ∧ Comp.tally ∈ M ∧ Comp.reqs ∈ M ∧ Comp.nextReq ∈
    M) (s : State) (n : Nat) (old : Bytes) : (State.mergePush s n old).hide M = s.hide M := by
  unfold State.mergePush
  simp [hM]

@[simp] theorem State.flushAll_hide {M : List Comp} (hM : Comp.pt ∈ M ∧ Comp.tier ∈ M ∧ Comp.tally ∈ M ∧ Comp.reqs ∈ M ∧ Comp.nextReq ∈
    M) (s : State) (l : List Nat) : (State.flushAll s l).hide M = s.hide M := by
  unfold State.flushAll
  simp [hM]

@[simp] theorem State.flushLine_hide {M : List Comp} (hM : Comp.pt ∈ M ∧ Comp.tier ∈ M ∧ Comp.tally ∈ M ∧ Comp.reqs ∈ M ∧ Comp.nextReq ∈
    M) (s : State) (p pa : Nat) : (State.flushLine s p pa).hide M = s.hide M := by
  unfold State.flushLine
  simp [hM]

@[simp] theorem State.flushOf_hide {M : List Comp} (hM : Comp.pt ∈ M ∧ Comp.tier ∈ M ∧ Comp.tally ∈ M ∧ Comp.reqs ∈ M ∧ Comp.nextReq ∈
    M) (s : State) (p : Nat) (mine : Purpose → Bool) : (State.flushOf s p mine).hide M = s.hide M := by
  unfold State.flushOf
  simp [hM]

@[simp] theorem State.mergeWc_hide {M : List Comp} (hM : Comp.pt ∈ M ∧ Comp.tier ∈ M ∧ Comp.tally ∈ M ∧ Comp.reqs ∈ M ∧ Comp.nextReq ∈
    M) (s : State) (k id : Nat) (r : Req) : (State.mergeWc s k id r).hide M = s.hide M := by
  unfold State.mergeWc
  simp [hM]

@[simp] theorem State.combine_hide {M : List Comp} (hM : Comp.pt ∈ M ∧ Comp.tier ∈ M ∧ Comp.tally ∈ M ∧ Comp.reqs ∈ M ∧ Comp.nextReq ∈
    M) (s : State) (r : Req) : (State.combine s r).hide M = s.hide M := by
  unfold State.combine
  dsimp only
  repeat' (first | (simp [hM]; done) | split)

@[simp] theorem State.bulkWrite_hide {M : List Comp} (hM : Comp.pt ∈ M ∧ Comp.tier ∈ M ∧ Comp.tally ∈ M ∧ Comp.reqs ∈ M ∧ Comp.nextReq ∈
    M) (s : State) (r : Req) : (State.bulkWrite s r).hide M = s.hide M := by
  unfold State.bulkWrite
  simp [hM]

@[simp] theorem State.narrowWrite_hide {M : List Comp} (hM : Comp.pt ∈ M ∧ Comp.tier ∈ M ∧ Comp.tally ∈ M ∧ Comp.reqs ∈ M ∧ Comp.nextReq
    ∈ M) (s : State) (r : Req) : (State.narrowWrite s r).hide M = s.hide M := by
  unfold State.narrowWrite
  simp [hM]

@[simp] theorem State.mergeNarrow_hide {M : List Comp} (hM : Comp.reqs ∈ M) (s : State) (id : Nat) (old : Bytes) : (State.mergeNarrow s
    id old).hide M = s.hide M := by
  unfold State.mergeNarrow
  simp [hM]

@[simp] theorem State.narrowRead_hide {M : List Comp} (hM : Comp.pt ∈ M ∧ Comp.tally ∈ M ∧ Comp.reqs ∈ M ∧ Comp.nextReq ∈ M) (s : State)
    (r : Req) : (State.narrowRead s r).hide M = s.hide M := by
  unfold State.narrowRead
  simp [hM]

@[simp] theorem State.dropWc_hide {M : List Comp} (hM : Comp.tier ∈ M) (s : State) (p : Nat) : (State.dropWc s p).hide M = s.hide M := by
  unfold State.dropWc
  simp [hM]

@[simp] theorem State.dropLines_hide {M : List Comp} (hM : Comp.tier ∈ M) (s : State) (p : Nat) : (State.dropLines s p).hide M = s.hide M := by
  unfold State.dropLines
  simp [hM]

@[simp] theorem State.l1Install_hide {M : List Comp} (hM : Comp.xl ∈ M ∧ Comp.free ∈ M) (s : State) (t : Nat) (l : Leaf) :
    (State.l1Install s t l).hide M = s.hide M := by
  unfold State.l1Install
  simp [hM]

@[simp] theorem State.l2Install_hide {M : List Comp} (hM : Comp.xl ∈ M ∧ Comp.free ∈ M) (s : State) (p : Nat) (l : Leaf) :
    (State.l2Install s p l).hide M = s.hide M := by
  unfold State.l2Install
  dsimp only
  repeat' (first | (simp [hM]; done) | split)

@[simp] theorem State.xlPerf_hide {M : List Comp} (hM : Comp.xl ∈ M) (s : State) (p : Nat) (f : Xl → Xl) : (State.xlPerf s p f).hide M =
    s.hide M := by
  unfold State.xlPerf
  simp [hM]

@[simp] theorem State.xlError_hide {M : List Comp} (hM : Comp.xl ∈ M ∧ Comp.ec ∈ M) (s : State) (kind p asid va : Nat) : (State.xlError
    s kind p asid va).hide M = s.hide M := by
  unfold State.xlError
  simp [hM]

@[simp] theorem State.translate_hide {M : List Comp} (hM : Comp.xl ∈ M ∧ Comp.free ∈ M) (s : State) (p t asid va : Nat) :
    (State.translate s p t asid va).2.hide M = s.hide M := by
  unfold State.translate
  repeat' (first | (simp [hM]; done) | split)

@[simp] theorem State.fileMiss_hide {M : List Comp} (hM : Comp.xl ∈ M) (s : State) (m : Miss) : (State.fileMiss s m).hide M = s.hide M := by
  unfold State.fileMiss
  simp [hM]

@[simp] theorem State.removeEntries_hide {M : List Comp} (hM : Comp.xl ∈ M) (s : State) (p : Nat) (k : InvKind) : (State.removeEntries s
    p k).hide M = s.hide M := by
  unfold State.removeEntries
  simp [hM]

@[simp] theorem State.discardWalks_hide {M : List Comp} (hM : Comp.xl ∈ M ∧ Comp.reqs ∈ M) (s : State) (p : Nat) : (State.discardWalks s
    p).hide M = s.hide M := by
  unfold State.discardWalks
  simp [hM]

@[simp] theorem State.cutInval_hide {M : List Comp} (hM : Comp.xl ∈ M ∧ Comp.reqs ∈ M) (s : State) (p : Nat) (k : InvKind) (i : Inval) :
    (State.cutInval s p k i).hide M = s.hide M := by
  unfold State.cutInval
  simp [hM]

@[simp] theorem State.emptyTlbs_hide {M : List Comp} (hM : Comp.xl ∈ M ∧ Comp.reqs ∈ M) (s : State) (p : Nat) : (State.emptyTlbs s
    p).hide M = s.hide M := by
  unfold State.emptyTlbs
  simp [hM]

@[simp] theorem State.takeTokens_hide {M : List Comp} (hM : Comp.pt ∈ M) (s : State) (p b n : Nat) : (State.takeTokens s p b n).hide M =
    s.hide M := by
  unfold State.takeTokens
  simp [hM]

@[simp] theorem State.waitTokens_hide {M : List Comp} (hM : Comp.pt ∈ M) (s : State) (p b : Nat) : (State.waitTokens s p b).hide M =
    s.hide M := by
  unfold State.waitTokens
  simp [hM]

@[simp] theorem State.fabricPort_hide {M : List Comp} (hM : Comp.free ∈ M) (s : State) (a : Access) : (State.fabricPort s a).2.hide M =
    s.hide M := by
  unfold State.fabricPort
  simp [hM]

@[simp] theorem State.accessHost_hide {M : List Comp} (hM : Comp.pt ∈ M ∧ Comp.tier ∈ M ∧ Comp.ec ∈ M ∧ Comp.tally ∈ M ∧ Comp.reqs ∈ M ∧
    Comp.nextReq ∈ M) (s : State) (a : Access) (pa : Nat) (key : Option (Nat × Nat)) : (State.accessHost s a pa key).2.hide M = s.hide M := by
  unfold State.accessHost
  simp [hM]

@[simp] theorem State.accessFabric_hide {M : List Comp} (hM : Comp.pt ∈ M ∧ Comp.tally ∈ M ∧ Comp.reqs ∈ M ∧ Comp.nextReq ∈ M ∧
    Comp.free ∈ M) (s : State) (a : Access) (pa : Nat) : (State.accessFabric s a pa).2.hide M = s.hide M := by
  unfold State.accessFabric
  simp [hM]

@[simp] theorem State.accessPeer_hide {M : List Comp} (hM : Comp.pt ∈ M ∧ Comp.links ∈ M ∧ Comp.tally ∈ M ∧ Comp.reqs ∈ M ∧ Comp.nextReq
    ∈ M ∧ Comp.free ∈ M ∧ Comp.outbox ∈ M) (s : State) (a : Access) (pa : Nat) : (State.accessPeer s a pa).2.hide M = s.hide M := by
  have ht : ∀ q vc t, s.sendPeer q vc = some (some t) → t.hide M = s.hide M := fun q vc t h => State.sendPeer_hide (by simp [hM]) s q vc t h
  unfold State.accessPeer
  dsimp only
  repeat' (first | rfl | (simp [hM]; done) | (rename_i h; simp [ht _ _ _ h, hM]; done) | split)

@[simp] theorem State.accessPhys_hide {M : List Comp} (hM : Comp.pt ∈ M ∧ Comp.tier ∈ M ∧ Comp.ec ∈ M ∧ Comp.links ∈ M ∧ Comp.tally ∈ M
    ∧ Comp.reqs ∈ M ∧ Comp.nextReq ∈ M ∧ Comp.free ∈ M ∧ Comp.outbox ∈ M) (s : State) (a : Access) (pa : Nat) (key : Option (Nat × Nat))
    : (State.accessPhys s a pa key).2.hide M = s.hide M := by
  unfold State.accessPhys
  repeat' (first | (simp [hM]; done) | split)

@[simp] theorem State.access_hide {M : List Comp} (hM : Comp.pt ∈ M ∧ Comp.xl ∈ M ∧ Comp.tier ∈ M ∧ Comp.ec ∈ M ∧ Comp.links ∈ M ∧
    Comp.tally ∈ M ∧ Comp.reqs ∈ M ∧ Comp.nextReq ∈ M ∧ Comp.free ∈ M ∧ Comp.outbox ∈ M) (s : State) (a : Access) : (State.access s
    a).2.hide M = s.hide M := by
  have ht : ∀ x t, s.translate a.part a.l1 a.asid a.va = (x, t) → t.hide M = s.hide M := by
    intro x t h
    rw [← State.translate_hide (by simp [hM]) s a.part a.l1 a.asid a.va, h]
  unfold State.access
  dsimp only
  split
  · simp [hM]
  · split
    · rfl
    · split <;> rename_i h <;> first
        | (simp [ht _ _ h, hM]; done)
        | (split <;> first | (simp [ht _ _ h, hM]; done) | (split <;> simp [ht _ _ h, hM]))

@[simp] theorem State.flushWork_hide {M : List Comp} (hM : Comp.pt ∈ M ∧ Comp.tier ∈ M ∧ Comp.tally ∈ M ∧ Comp.reqs ∈ M ∧ Comp.nextReq ∈
    M) (s : State) (p r pos : Nat) : (State.flushWork s p r pos).hide M = s.hide M := by
  unfold State.flushWork
  simp [hM]

@[simp] theorem State.dropReadMisses_hide {M : List Comp} (hM : Comp.xl ∈ M) (s : State) (r : Nat) : (State.dropReadMisses s r).hide M =
    s.hide M := by
  unfold State.dropReadMisses
  simp [hM]

@[simp] theorem State.markBad_hide {M : List Comp} (hM : Comp.pt ∈ M ∧ Comp.xl ∈ M ∧ Comp.qc ∈ M ∧ Comp.tier ∈ M ∧ Comp.tally ∈ M ∧
    Comp.reqs ∈ M ∧ Comp.nextReq ∈ M) (s : State) (p r pos : Nat) (e : BadEv) : (State.markBad s p r pos e).hide M = s.hide M := by
  unfold State.markBad
  simp [hM]

@[simp] theorem State.markFault_hide {M : List Comp} (hM : Comp.pt ∈ M ∧ Comp.xl ∈ M ∧ Comp.qc ∈ M ∧ Comp.tier ∈ M ∧ Comp.tally ∈ M ∧
    Comp.reqs ∈ M ∧ Comp.nextReq ∈ M) (s : State) (p r pos : Nat) (e : FaultEv) : (State.markFault s p r pos e).hide M = s.hide M := by
  unfold State.markFault
  simp [hM]

@[simp] theorem State.onVerdict_hide {M : List Comp} (hM : Comp.pt ∈ M ∧ Comp.xl ∈ M ∧ Comp.qc ∈ M ∧ Comp.tier ∈ M ∧ Comp.tally ∈ M ∧
    Comp.reqs ∈ M ∧ Comp.nextReq ∈ M) (s : State) (p r pos off : Nat) (dst : Bool) (a : Access) (x0 : Verdict) : (State.onVerdict s p r
    pos off dst a x0).hide M = s.hide M := by
  unfold State.onVerdict
  split <;> simp [hM]

@[simp] theorem State.issueDst_hide {M : List Comp} (hM : Comp.pt ∈ M ∧ Comp.xl ∈ M ∧ Comp.qc ∈ M ∧ Comp.tier ∈ M ∧ Comp.ec ∈ M ∧
    Comp.links ∈ M ∧ Comp.tally ∈ M ∧ Comp.reqs ∈ M ∧ Comp.nextReq ∈ M ∧ Comp.free ∈ M ∧ Comp.outbox ∈ M) (s : State) (p r pos : Nat) (o
    n : Nat) : (State.issueDst s p r pos o n).hide M = s.hide M := by
  unfold State.issueDst
  dsimp only
  repeat' (first | (simp [hM]; done) | split)

@[simp] theorem State.gaveUp_hide {M : List Comp} (hM : Comp.qc ∈ M) (s : State) (r pos o : Nat) : (State.gaveUp s r pos o).hide M =
    s.hide M := by
  unfold State.gaveUp
  repeat' (first | (simp [hM]; done) | split)

@[simp] theorem State.feedDst_hide {M : List Comp} (hM : Comp.pt ∈ M ∧ Comp.xl ∈ M ∧ Comp.qc ∈ M ∧ Comp.tier ∈ M ∧ Comp.ec ∈ M ∧
    Comp.links ∈ M ∧ Comp.tally ∈ M ∧ Comp.reqs ∈ M ∧ Comp.nextReq ∈ M ∧ Comp.free ∈ M ∧ Comp.outbox ∈ M) (s : State) (p r pos a b :
    Nat) : (State.feedDst s p r pos a b).hide M = s.hide M := by
  unfold State.feedDst
  split
  · rfl
  · split
    · rfl
    · refine each_hide M _ _ _ fun t x => ?_
      repeat' (first | (simp [hM]; done) | (simp_all [pair_eq]; done) | split)

@[simp] theorem State.feedRest_hide {M : List Comp} (hM : Comp.pt ∈ M ∧ Comp.xl ∈ M ∧ Comp.qc ∈ M ∧ Comp.tier ∈ M ∧ Comp.ec ∈ M ∧
    Comp.links ∈ M ∧ Comp.tally ∈ M ∧ Comp.reqs ∈ M ∧ Comp.nextReq ∈ M ∧ Comp.free ∈ M ∧ Comp.outbox ∈ M) (s : State) (p r pos : Nat) :
    (State.feedRest s p r pos).hide M = s.hide M := by
  unfold State.feedRest
  split <;> simp [hM]

@[simp] theorem State.settleWork_hide {M : List Comp} (hM : Comp.pt ∈ M ∧ Comp.qc ∈ M ∧ Comp.tier ∈ M ∧ Comp.tally ∈ M ∧ Comp.reqs ∈ M ∧
    Comp.nextReq ∈ M) (s : State) (p r pos : Nat) : (State.settleWork s p r pos).hide M = s.hide M := by
  unfold State.settleWork
  split <;> simp [hM]

@[simp] theorem State.issueSrc_hide {M : List Comp} (hM : Comp.pt ∈ M ∧ Comp.xl ∈ M ∧ Comp.qc ∈ M ∧ Comp.tier ∈ M ∧ Comp.ec ∈ M ∧
    Comp.links ∈ M ∧ Comp.tally ∈ M ∧ Comp.reqs ∈ M ∧ Comp.nextReq ∈ M ∧ Comp.free ∈ M ∧ Comp.outbox ∈ M) (s : State) (p r pos off :
    Nat) : (State.issueSrc s p r pos off).hide M = s.hide M := by
  unfold State.issueSrc
  dsimp only
  repeat' (first | (simp [hM]; done) | split)

@[simp] theorem State.srcDone_hide {M : List Comp} (hM : Comp.pt ∈ M ∧ Comp.xl ∈ M ∧ Comp.qc ∈ M ∧ Comp.tier ∈ M ∧ Comp.ec ∈ M ∧
    Comp.links ∈ M ∧ Comp.tally ∈ M ∧ Comp.reqs ∈ M ∧ Comp.nextReq ∈ M ∧ Comp.free ∈ M ∧ Comp.outbox ∈ M) (s : State) (q : Req) (r pos
    off len status : Nat) (timeout : Bool) (data : Bytes) : (State.srcDone s q r pos off len status timeout data).hide M = s.hide M := by
  unfold State.srcDone
  split <;> simp [hM]

@[simp] theorem State.physWrite_hide {M : List Comp} (hM : Comp.pt ∈ M ∧ Comp.tier ∈ M ∧ Comp.ec ∈ M ∧ Comp.tally ∈ M ∧ Comp.reqs ∈ M ∧
    Comp.nextReq ∈ M) (s : State) (p unit pa : Nat) (data : Bytes) (purpose : Purpose) (fenced : Bool) : (State.physWrite s p unit pa
    data purpose fenced).2.hide M = s.hide M := by
  unfold State.physWrite
  repeat' (first | (simp [hM]; done) | split)

@[simp] theorem State.physNote_hide {M : List Comp} (hM : Comp.pt ∈ M ∧ Comp.tier ∈ M ∧ Comp.ec ∈ M ∧ Comp.tally ∈ M ∧ Comp.reqs ∈ M ∧
    Comp.nextReq ∈ M) (s : State) (p unit pa : Nat) (data : Bytes) (purpose : Purpose) : (State.physNote s p unit pa data
    purpose).2.hide M = s.hide M := by
  unfold State.physNote
  simp [hM]

@[simp] theorem State.physRead_hide {M : List Comp} (hM : Comp.pt ∈ M ∧ Comp.ec ∈ M ∧ Comp.tally ∈ M ∧ Comp.reqs ∈ M ∧ Comp.nextReq ∈ M)
    (s : State) (p unit pa len : Nat) (purpose : Purpose) : (State.physRead s p unit pa len purpose).2.hide M = s.hide M := by
  unfold State.physRead
  split <;> simp [hM]

@[simp] theorem State.dropFinish_hide {M : List Comp} (hM : Comp.ec ∈ M) (s : State) (p r : Nat) : (State.dropFinish s p r).hide M =
    s.hide M := by
  unfold State.dropFinish
  simp [hM]

@[simp] theorem State.writeCounter_hide {M : List Comp} (hM : Comp.pt ∈ M ∧ Comp.qc ∈ M ∧ Comp.tier ∈ M ∧ Comp.ec ∈ M ∧ Comp.tally ∈ M ∧
    Comp.reqs ∈ M ∧ Comp.nextReq ∈ M) (s : State) (p r pos gr : Nat) : (State.writeCounter s p r pos gr).2.hide M = s.hide M := by
  unfold State.writeCounter
  split <;> simp [hM]

@[simp] theorem State.growCounter_hide {M : List Comp} (hM : Comp.pt ∈ M ∧ Comp.qc ∈ M ∧ Comp.tier ∈ M ∧ Comp.ec ∈ M ∧ Comp.tally ∈ M ∧
    Comp.reqs ∈ M ∧ Comp.nextReq ∈ M) (s : State) (p r pos : Nat) : (State.growCounter s p r pos).hide M = s.hide M := by
  unfold State.growCounter
  split <;> simp [hM]

@[simp] theorem State.dstDone_hide {M : List Comp} (hM : Comp.pt ∈ M ∧ Comp.xl ∈ M ∧ Comp.qc ∈ M ∧ Comp.tier ∈ M ∧ Comp.ec ∈ M ∧
    Comp.tally ∈ M ∧ Comp.reqs ∈ M ∧ Comp.nextReq ∈ M) (s : State) (q : Req) (r pos off len status : Nat) (timeout : Bool) :
    (State.dstDone s q r pos off len status timeout).hide M = s.hide M := by
  unfold State.dstDone
  split <;> simp [hM]

end Sys2Proof.Machine
end

