-- ==== Sys2Proof/Laws/HideWork.lean ====
section
/-! SUPPORT. Which units each operation leaves alone: rings, finishing, parking, jobs, repairs, faults, walks, invalidations and read data. Each leaves every unit alone but those its first hypothesis names. -/

set_option linter.unusedTactic false
set_option linter.unreachableTactic false
set_option linter.unusedSimpArgs false

namespace Sys2Proof.Machine

@[simp] theorem State.settleRing_hide {M : List Comp} (hM : Comp.qc ∈ M) (s : State) (r : Nat) : (State.settleRing s r).hide M = s.hide M := by
  unfold State.settleRing
  simp [hM]

@[simp] theorem State.discardFetches_hide {M : List Comp} (hM : Comp.qc ∈ M ∧ Comp.reqs ∈ M) (s : State) (r : Nat) (at_ : Nat → Bool) :
    (State.discardFetches s r at_).hide M = s.hide M := by
  unfold State.discardFetches
  simp [hM]

@[simp] theorem State.fetchFailed_hide {M : List Comp} (hM : Comp.qc ∈ M ∧ Comp.ec ∈ M ∧ Comp.reqs ∈ M) (s : State) (p r x : Nat) :
    (State.fetchFailed s p r x).hide M = s.hide M := by
  unfold State.fetchFailed
  simp [hM]

@[simp] theorem State.issueFetch_hide {M : List Comp} (hM : Comp.pt ∈ M ∧ Comp.qc ∈ M ∧ Comp.ec ∈ M ∧ Comp.tally ∈ M ∧ Comp.reqs ∈ M ∧
    Comp.nextReq ∈ M) (s : State) (p r x : Nat) : (State.issueFetch s p r x).hide M = s.hide M := by
  unfold State.issueFetch
  simp [hM]

@[simp] theorem State.staleHead_hide {M : List Comp} (hM : Comp.qc ∈ M ∧ Comp.mc ∈ M ∧ Comp.px ∈ M ∧ Comp.reqs ∈ M ∧ Comp.outbox ∈ M) (s
    : State) (p r t : Nat) : (State.staleHead s p r t).hide M = s.hide M := by
  unfold State.staleHead
  simp [hM]

@[simp] theorem State.consumeHead_hide {M : List Comp} (hM : Comp.qc ∈ M) (s : State) (r : Nat) (b : Bytes) : (State.consumeHead s r
    b).hide M = s.hide M := by
  unfold State.consumeHead
  simp [hM]

@[simp] theorem State.judgeHead_hide {M : List Comp} (hM : Comp.qc ∈ M ∧ Comp.mc ∈ M ∧ Comp.px ∈ M ∧ Comp.reqs ∈ M ∧ Comp.outbox ∈ M) (s
    : State) (p r : Nat) (x0 : Nat) : (State.judgeHead s p r x0).hide M = s.hide M := by
  induction x0 generalizing s with
  | zero => rfl
  | succ n ih =>
    unfold State.judgeHead
    dsimp only
    split
    · rfl
    · split
      · simp [hM]
      · split <;> simp [ih, hM]

@[simp] theorem State.judgeRing_hide {M : List Comp} (hM : Comp.qc ∈ M ∧ Comp.mc ∈ M ∧ Comp.px ∈ M ∧ Comp.reqs ∈ M ∧ Comp.outbox ∈ M) (s
    : State) (p r : Nat) : (State.judgeRing s p r).hide M = s.hide M := by
  unfold State.judgeRing
  simp [hM]

@[simp] theorem State.grantFetch_hide {M : List Comp} (hM : Comp.pt ∈ M ∧ Comp.qc ∈ M ∧ Comp.ec ∈ M ∧ Comp.tally ∈ M ∧ Comp.reqs ∈ M ∧
    Comp.nextReq ∈ M) (s : State) (r : Nat) : (State.grantFetch s r).hide M = s.hide M := by
  unfold State.grantFetch
  split <;> simp [hM]

@[simp] theorem State.fetchReturned_hide {M : List Comp} (hM : Comp.qc ∈ M ∧ Comp.ec ∈ M ∧ Comp.mc ∈ M ∧ Comp.px ∈ M ∧ Comp.reqs ∈ M ∧
    Comp.outbox ∈ M) (s : State) (q : Req) (r x : Nat) (res : RdRes) : (State.fetchReturned s q r x res).hide M = s.hide M := by
  unfold State.fetchReturned
  repeat' (first | (simp [hM]; done) | split)

@[simp] theorem State.refetch_hide {M : List Comp} (hM : Comp.pt ∈ M ∧ Comp.qc ∈ M ∧ Comp.ec ∈ M ∧ Comp.tally ∈ M ∧ Comp.reqs ∈ M ∧
    Comp.nextReq ∈ M) (s : State) (r : Nat) : (State.refetch s r).hide M = s.hide M := by
  unfold State.refetch
  dsimp only
  repeat' (first | (simp [hM]; done) | split)

@[simp] theorem State.moveProducer_hide {M : List Comp} (hM : Comp.qc ∈ M) (s : State) (r x : Nat) : (State.moveProducer s r x).hide M =
    s.hide M := by
  unfold State.moveProducer
  simp [hM]

@[simp] theorem State.afterDoorbell_hide {M : List Comp} (hM : Comp.qc ∈ M ∧ Comp.mc ∈ M ∧ Comp.px ∈ M ∧ Comp.reqs ∈ M ∧ Comp.outbox ∈
    M) (s : State) (p r : Nat) : (State.afterDoorbell s p r).hide M = s.hide M := by
  unfold State.afterDoorbell
  simp [hM]

@[simp] theorem State.acceptDoorbell_hide {M : List Comp} (hM : Comp.qc ∈ M ∧ Comp.mc ∈ M ∧ Comp.px ∈ M ∧ Comp.reqs ∈ M ∧ Comp.outbox ∈
    M) (s : State) (p r w : Nat) : (State.acceptDoorbell s p r w).hide M = s.hide M := by
  unfold State.acceptDoorbell
  simp [hM]

@[simp] theorem State.dropBadAccess_hide {M : List Comp} (hM : Comp.pt ∈ M) (s : State) (p : Nat) : (State.dropBadAccess s p).hide M =
    s.hide M := by
  unfold State.dropBadAccess
  simp [hM]

@[simp] theorem State.dropNotActive_hide {M : List Comp} (hM : Comp.pt ∈ M) (s : State) (p : Nat) : (State.dropNotActive s p).hide M =
    s.hide M := by
  unfold State.dropNotActive
  simp [hM]

@[simp] theorem State.dropBadCheck_hide {M : List Comp} (hM : Comp.pt ∈ M) (s : State) (p : Nat) : (State.dropBadCheck s p).hide M =
    s.hide M := by
  unfold State.dropBadCheck
  simp [hM]

@[simp] theorem State.dropUnbacked_hide {M : List Comp} (hM : Comp.pt ∈ M) (s : State) (p : Nat) : (State.dropUnbacked s p).hide M =
    s.hide M := by
  unfold State.dropUnbacked
  simp [hM]

theorem State.checkDoorbell_hide {M : List Comp} (hM : Comp.pt ∈ M) (s : State) (p w : Nat) (k : State → State)
    (h : (k s).hide M = s.hide M) : (s.checkDoorbell p w k).hide M = s.hide M := by
  unfold State.checkDoorbell
  simp [hM, h]

@[simp] theorem State.ringDoorbell_hide {M : List Comp} (hM : Comp.pt ∈ M ∧ Comp.qc ∈ M ∧ Comp.tally ∈ M ∧ Comp.mc ∈ M ∧ Comp.px ∈ M ∧
    Comp.reqs ∈ M ∧ Comp.outbox ∈ M) (s : State) (p j w : Nat) : (State.ringDoorbell s p j w).hide M = s.hide M := by
  refine State.checkDoorbell_hide (by simp [hM]) _ _ _ _ ?_
  repeat' (first | (simp [hM]; done) | (simp_all [pair_eq]; done) | split)

@[simp] theorem State.beginWork_hide {M : List Comp} (hM : Comp.qc ∈ M) (s : State) (p r : Nat) (w : Work) : (State.beginWork s p r
    w).hide M = s.hide M := by
  unfold State.beginWork
  simp [hM]

@[simp] theorem State.startWork_hide {M : List Comp} (hM : Comp.qc ∈ M ∧ Comp.mc ∈ M ∧ Comp.px ∈ M ∧ Comp.reqs ∈ M ∧ Comp.outbox ∈ M) (s
    : State) (r : Nat) : (State.startWork s r).hide M = s.hide M := by
  unfold State.startWork
  dsimp only
  repeat' (first | (simp [hM]; done) | split)

theorem State.readAt_hide {M : List Comp} (hM : Comp.pt ∈ M ∧ Comp.xl ∈ M ∧ Comp.qc ∈ M ∧ Comp.tier ∈ M ∧ Comp.ec ∈ M ∧ Comp.links ∈ M ∧
    Comp.tally ∈ M ∧ Comp.reqs ∈ M ∧ Comp.nextReq ∈ M ∧ Comp.free ∈ M ∧ Comp.outbox ∈ M) (s : State) (r off : Nat) : ∀ a t, State.readAt
    s r off = some (a, t) → t.hide M = s.hide M := by
  unfold State.readAt
  repeat' (first | (simp [hM]; done) | split)

@[simp] theorem State.grantRead_hide {M : List Comp} (hM : Comp.pt ∈ M ∧ Comp.xl ∈ M ∧ Comp.qc ∈ M ∧ Comp.tier ∈ M ∧ Comp.ec ∈ M ∧
    Comp.links ∈ M ∧ Comp.tally ∈ M ∧ Comp.reqs ∈ M ∧ Comp.nextReq ∈ M ∧ Comp.free ∈ M ∧ Comp.outbox ∈ M) (s : State) (r off : Nat) :
    (State.grantRead s r off).hide M = s.hide M := by
  unfold State.grantRead
  split
  · rfl
  · rename_i h
    exact State.readAt_hide (by simp [hM]) _ _ _ _ _ h
  · split
    · rfl
    · dsimp only
      split
      · rename_i h
        simp [State.readAt_hide (M := M) (by simp [hM]) _ _ _ _ _ h, hM]
      · rfl

@[simp] theorem State.grantWrite_hide {M : List Comp} (hM : Comp.pt ∈ M ∧ Comp.xl ∈ M ∧ Comp.qc ∈ M ∧ Comp.tier ∈ M ∧ Comp.ec ∈ M ∧
    Comp.links ∈ M ∧ Comp.tally ∈ M ∧ Comp.reqs ∈ M ∧ Comp.nextReq ∈ M ∧ Comp.free ∈ M ∧ Comp.outbox ∈ M) (s : State) (r pos off : Nat)
    : (State.grantWrite s r pos off).hide M = s.hide M := by
  unfold State.grantWrite
  split <;> simp [hM]

@[simp] theorem State.countOutcome_hide {M : List Comp} (hM : Comp.pt ∈ M ∧ Comp.qc ∈ M ∧ Comp.ec ∈ M) (s : State) (p r : Nat) (w :
    Work) : (State.countOutcome s p r w).hide M = s.hide M := by
  unfold State.countOutcome
  simp [hM]

@[simp] theorem State.advanceHead_hide {M : List Comp} (hM : Comp.pt ∈ M ∧ Comp.qc ∈ M ∧ Comp.tier ∈ M ∧ Comp.ec ∈ M ∧ Comp.tally ∈ M ∧
    Comp.reqs ∈ M ∧ Comp.nextReq ∈ M) (s : State) (p r : Nat) (w : Work) : (State.advanceHead s p r w).hide M = s.hide M := by
  unfold State.advanceHead
  simp [hM]

@[simp] theorem State.popWork_hide {M : List Comp} (hM : Comp.qc ∈ M) (s : State) (r pos : Nat) : (State.popWork s r pos).hide M = s.hide M := by
  unfold State.popWork
  simp [hM]

@[simp] theorem State.advance_hide {M : List Comp} (hM : Comp.pt ∈ M ∧ Comp.qc ∈ M ∧ Comp.tier ∈ M ∧ Comp.ec ∈ M ∧ Comp.tally ∈ M ∧
    Comp.reqs ∈ M ∧ Comp.nextReq ∈ M) (s : State) (p r : Nat) (x0 : Nat) : (State.advance s p r x0).hide M = s.hide M := by
  induction x0 generalizing s with
  | zero => rfl
  | succ n ih =>
    unfold State.advance
    dsimp only
    repeat' (first | (simp [ih, hM]; done) | split)

@[simp] theorem State.advanceAll_hide {M : List Comp} (hM : Comp.pt ∈ M ∧ Comp.qc ∈ M ∧ Comp.tier ∈ M ∧ Comp.ec ∈ M ∧ Comp.tally ∈ M ∧
    Comp.reqs ∈ M ∧ Comp.nextReq ∈ M) (s : State) (p : Nat) : (State.advanceAll s p).hide M = s.hide M := by
  unfold State.advanceAll
  simp [hM]

@[simp] theorem State.advanceOwner_hide {M : List Comp} (hM : Comp.pt ∈ M ∧ Comp.qc ∈ M ∧ Comp.tier ∈ M ∧ Comp.ec ∈ M ∧ Comp.tally ∈ M ∧
    Comp.reqs ∈ M ∧ Comp.nextReq ∈ M) (s : State) (r : Nat) : (State.advanceOwner s r).hide M = s.hide M := by
  unfold State.advanceOwner
  split <;> simp [hM]

@[simp] theorem State.issueFlag_hide {M : List Comp} (hM : Comp.pt ∈ M ∧ Comp.xl ∈ M ∧ Comp.qc ∈ M ∧ Comp.tier ∈ M ∧ Comp.ec ∈ M ∧
    Comp.links ∈ M ∧ Comp.tally ∈ M ∧ Comp.reqs ∈ M ∧ Comp.nextReq ∈ M ∧ Comp.free ∈ M ∧ Comp.outbox ∈ M) (s : State) (r : Nat) :
    (State.issueFlag s r).hide M = s.hide M := by
  unfold State.issueFlag
  dsimp only
  repeat' (first | (simp [hM]; done) | split)

@[simp] theorem State.endFinish_hide {M : List Comp} (hM : Comp.pt ∈ M ∧ Comp.xl ∈ M ∧ Comp.ec ∈ M ∧ Comp.reqs ∈ M) (s : State) (p r :
    Nat) (pu : Purpose) (ack : WrRes) : (State.endFinish s p r pu ack).hide M = s.hide M := by
  unfold State.endFinish
  split <;> simp [hM]

@[simp] theorem State.finishWrite_hide {M : List Comp} (hM : Comp.pt ∈ M ∧ Comp.tier ∈ M ∧ Comp.ec ∈ M ∧ Comp.tally ∈ M ∧ Comp.reqs ∈ M
    ∧ Comp.nextReq ∈ M) (s : State) (p r pos off : Nat) (data : Bytes) (pu : Purpose) : (State.finishWrite s p r pos off data pu).hide M
    = s.hide M := by
  unfold State.finishWrite
  simp [hM]

@[simp] theorem State.writeStatus_hide {M : List Comp} (hM : Comp.pt ∈ M ∧ Comp.qc ∈ M ∧ Comp.tier ∈ M ∧ Comp.ec ∈ M ∧ Comp.tally ∈ M ∧
    Comp.reqs ∈ M ∧ Comp.nextReq ∈ M) (s : State) (r : Nat) : (State.writeStatus s r).hide M = s.hide M := by
  unfold State.writeStatus
  split <;> simp [hM]

@[simp] theorem State.writeOwn_hide {M : List Comp} (hM : Comp.pt ∈ M ∧ Comp.xl ∈ M ∧ Comp.qc ∈ M ∧ Comp.tier ∈ M ∧ Comp.ec ∈ M ∧
    Comp.tally ∈ M ∧ Comp.reqs ∈ M ∧ Comp.nextReq ∈ M) (s : State) (r : Nat) (ack : WrRes) : (State.writeOwn s r ack).hide M = s.hide M := by
  unfold State.writeOwn
  split <;> simp [hM]

@[simp] theorem State.putEntry_hide {M : List Comp} (hM : Comp.pt ∈ M ∧ Comp.qc ∈ M ∧ Comp.tier ∈ M ∧ Comp.ec ∈ M ∧ Comp.tally ∈ M ∧
    Comp.reqs ∈ M ∧ Comp.nextReq ∈ M) (s : State) (p r : Nat) (w : Work) : (State.putEntry s p r w).hide M = s.hide M := by
  unfold State.putEntry
  simp [hM]

@[simp] theorem State.writeEntry_hide {M : List Comp} (hM : Comp.pt ∈ M ∧ Comp.xl ∈ M ∧ Comp.qc ∈ M ∧ Comp.tier ∈ M ∧ Comp.ec ∈ M ∧
    Comp.tally ∈ M ∧ Comp.reqs ∈ M ∧ Comp.nextReq ∈ M) (s : State) (r : Nat) (ack : WrRes) : (State.writeEntry s r ack).hide M = s.hide
    M := by
  unfold State.writeEntry
  split <;> simp [hM]

@[simp] theorem State.endWork_hide {M : List Comp} (hM : Comp.pt ∈ M ∧ Comp.xl ∈ M ∧ Comp.qc ∈ M ∧ Comp.tier ∈ M ∧ Comp.ec ∈ M ∧
    Comp.tally ∈ M ∧ Comp.px ∈ M ∧ Comp.reqs ∈ M ∧ Comp.nextReq ∈ M ∧ Comp.outbox ∈ M) (s : State) (r : Nat) (ack : WrRes) :
    (State.endWork s r ack).hide M = s.hide M := by
  unfold State.endWork
  dsimp only
  repeat' (first | (simp [hM]; done) | split)

@[simp] theorem State.pollConsumer_hide {M : List Comp} (hM : Comp.pt ∈ M ∧ Comp.qc ∈ M ∧ Comp.ec ∈ M ∧ Comp.tally ∈ M ∧ Comp.reqs ∈ M ∧
    Comp.nextReq ∈ M) (s : State) (k : Nat) : (State.pollConsumer s k).hide M = s.hide M := by
  unfold State.pollConsumer
  simp [hM]

@[simp] theorem State.releaseEntries_hide {M : List Comp} (hM : Comp.pt ∈ M ∧ Comp.qc ∈ M ∧ Comp.tier ∈ M ∧ Comp.ec ∈ M ∧ Comp.tally ∈ M
    ∧ Comp.reqs ∈ M ∧ Comp.nextReq ∈ M) (s : State) (k : Nat) (x0 : Nat) : (State.releaseEntries s k x0).hide M = s.hide M := by
  induction x0 generalizing s with
  | zero => rfl
  | succ n ih =>
    unfold State.releaseEntries
    dsimp only
    repeat' (first | (simp [ih, hM]; done) | split)

@[simp] theorem State.consumerReturned_hide {M : List Comp} (hM : Comp.pt ∈ M ∧ Comp.qc ∈ M ∧ Comp.tier ∈ M ∧ Comp.ec ∈ M ∧ Comp.tally ∈
    M ∧ Comp.reqs ∈ M ∧ Comp.nextReq ∈ M) (s : State) (q : Req) (k : Nat) (res : RdRes) : (State.consumerReturned s q k res).hide M =
    s.hide M := by
  unfold State.consumerReturned
  split <;> simp [hM]

@[simp] theorem State.freeSlot_hide {M : List Comp} (hM : Comp.qc ∈ M) (s : State) (k : Nat) : (State.freeSlot s k).hide M = s.hide M := by
  unfold State.freeSlot
  simp [hM]

@[simp] theorem State.endParkedRing_hide {M : List Comp} (hM : Comp.pt ∈ M ∧ Comp.qc ∈ M ∧ Comp.tier ∈ M ∧ Comp.ec ∈ M ∧ Comp.tally ∈ M
    ∧ Comp.reqs ∈ M ∧ Comp.nextReq ∈ M) (s : State) (r status : Nat) : (State.endParkedRing s r status).hide M = s.hide M := by
  unfold State.endParkedRing
  split <;> simp [hM]

@[simp] theorem State.resumeRing_hide {M : List Comp} (hM : Comp.qc ∈ M) (s : State) (r : Nat) : (State.resumeRing s r).hide M = s.hide M := by
  unfold State.resumeRing
  simp [hM]

@[simp] theorem State.issueRecord_hide {M : List Comp} (hM : Comp.pt ∈ M ∧ Comp.qc ∈ M ∧ Comp.tier ∈ M ∧ Comp.ec ∈ M ∧ Comp.tally ∈ M ∧
    Comp.reqs ∈ M ∧ Comp.nextReq ∈ M) (s : State) (p k : Nat) : (State.issueRecord s p k).2.hide M = s.hide M := by
  unfold State.issueRecord
  simp [hM]

@[simp] theorem State.reportRecord_hide {M : List Comp} (hM : Comp.ec ∈ M) (s : State) (p : Nat) : (State.reportRecord s p).hide M =
    s.hide M := by
  unfold State.reportRecord
  simp [hM]

@[simp] theorem State.fillSlot_hide {M : List Comp} (hM : Comp.xl ∈ M ∧ Comp.qc ∈ M) (s : State) (k : Nat) (x : ParkSlot) :
    (State.fillSlot s k x).hide M = s.hide M := by
  unfold State.fillSlot
  simp [hM]

@[simp] theorem State.holdRecord_hide {M : List Comp} (hM : Comp.qc ∈ M) (s : State) (p k : Nat) : (State.holdRecord s p k).hide M =
    s.hide M := by
  unfold State.holdRecord
  simp [hM]

@[simp] theorem State.parkRing_hide {M : List Comp} (hM : Comp.pt ∈ M ∧ Comp.xl ∈ M ∧ Comp.qc ∈ M ∧ Comp.tier ∈ M ∧ Comp.ec ∈ M ∧
    Comp.tally ∈ M ∧ Comp.reqs ∈ M ∧ Comp.nextReq ∈ M) (s : State) (r : Nat) : (State.parkRing s r).hide M = s.hide M := by
  unfold State.parkRing
  split <;> simp [hM]

@[simp] theorem State.modJob_hide {M : List Comp} (hM : Comp.rk ∈ M) (s : State) (e : Nat) (f : Job → Job) : (State.modJob s e f).hide M
    = s.hide M := by
  unfold State.modJob
  simp [hM]

@[simp] theorem State.giveBack_hide {M : List Comp} (hM : Comp.pt ∈ M ∧ Comp.qc ∈ M ∧ Comp.tier ∈ M ∧ Comp.ec ∈ M ∧ Comp.tally ∈ M ∧
    Comp.reqs ∈ M ∧ Comp.nextReq ∈ M) (s : State) (p r pos : Nat) (res : JobResult) (mute : Bool) : (State.giveBack s p r pos res
    mute).hide M = s.hide M := by
  unfold State.giveBack
  simp [hM]

@[simp] theorem State.malformedUpdate_hide {M : List Comp} (hM : Comp.pt ∈ M ∧ Comp.qc ∈ M ∧ Comp.tier ∈ M ∧ Comp.ec ∈ M ∧ Comp.tally ∈
    M ∧ Comp.reqs ∈ M ∧ Comp.nextReq ∈ M) (s : State) (p r pos : Nat) : (State.malformedUpdate s p r pos).hide M = s.hide M := by
  unfold State.malformedUpdate
  simp [hM]

@[simp] theorem State.consumeUpdate_hide {M : List Comp} (hM : Comp.qc ∈ M) (s : State) (r : Nat) (b : Bytes) : (State.consumeUpdate s r
    b).hide M = s.hide M := by
  unfold State.consumeUpdate
  simp [hM]

@[simp] theorem State.passUpdate_hide {M : List Comp} (hM : Comp.pt ∈ M ∧ Comp.qc ∈ M ∧ Comp.tier ∈ M ∧ Comp.rk ∈ M ∧ Comp.ec ∈ M ∧
    Comp.tally ∈ M ∧ Comp.mc ∈ M ∧ Comp.px ∈ M ∧ Comp.reqs ∈ M ∧ Comp.nextReq ∈ M ∧ Comp.outbox ∈ M) (s : State) (r : Nat) :
    (State.passUpdate s r).hide M = s.hide M := by
  unfold State.passUpdate
  dsimp only
  repeat' (first | (simp [hM]; done) | split)

@[simp] theorem State.dropJobMisses_hide {M : List Comp} (hM : Comp.xl ∈ M) (s : State) (e : Nat) : (State.dropJobMisses s e).hide M =
    s.hide M := by
  unfold State.dropJobMisses
  simp [hM]

@[simp] theorem State.flushJob_hide {M : List Comp} (hM : Comp.pt ∈ M ∧ Comp.tier ∈ M ∧ Comp.rk ∈ M ∧ Comp.tally ∈ M ∧ Comp.reqs ∈ M ∧
    Comp.nextReq ∈ M) (s : State) (e : Nat) : (State.flushJob s e).hide M = s.hide M := by
  unfold State.flushJob
  simp [hM]

@[simp] theorem State.jobBad_hide {M : List Comp} (hM : Comp.pt ∈ M ∧ Comp.xl ∈ M ∧ Comp.tier ∈ M ∧ Comp.rk ∈ M ∧ Comp.tally ∈ M ∧
    Comp.reqs ∈ M ∧ Comp.nextReq ∈ M) (s : State) (e : Nat) (ev : BadEv) : (State.jobBad s e ev).hide M = s.hide M := by
  unfold State.jobBad
  simp [hM]

@[simp] theorem State.jobFault_hide {M : List Comp} (hM : Comp.pt ∈ M ∧ Comp.xl ∈ M ∧ Comp.tier ∈ M ∧ Comp.rk ∈ M ∧ Comp.tally ∈ M ∧
    Comp.reqs ∈ M ∧ Comp.nextReq ∈ M) (s : State) (e : Nat) (ev : FaultEv) : (State.jobFault s e ev).hide M = s.hide M := by
  unfold State.jobFault
  simp [hM]

@[simp] theorem State.onJobVerdict_hide {M : List Comp} (hM : Comp.pt ∈ M ∧ Comp.xl ∈ M ∧ Comp.tier ∈ M ∧ Comp.rk ∈ M ∧ Comp.tally ∈ M ∧
    Comp.reqs ∈ M ∧ Comp.nextReq ∈ M) (s : State) (e elem : Nat) (dst : Bool) (a : Access) (x0 : Verdict) : (State.onJobVerdict s e elem
    dst a x0).hide M = s.hide M := by
  unfold State.onJobVerdict
  split <;> simp [hM]

@[simp] theorem State.jobReadIn_hide {M : List Comp} (hM : Comp.pt ∈ M ∧ Comp.xl ∈ M ∧ Comp.tier ∈ M ∧ Comp.rk ∈ M ∧ Comp.ec ∈ M ∧
    Comp.links ∈ M ∧ Comp.tally ∈ M ∧ Comp.reqs ∈ M ∧ Comp.nextReq ∈ M ∧ Comp.free ∈ M ∧ Comp.outbox ∈ M) (s : State) (e stream o n :
    Nat) (needs : Needs) : (State.jobReadIn s e stream o n needs).hide M = s.hide M := by
  unfold State.jobReadIn
  dsimp only
  repeat' (first | (simp [hM]; done) | split)

@[simp] theorem State.jobReadDone_hide {M : List Comp} (hM : Comp.pt ∈ M ∧ Comp.xl ∈ M ∧ Comp.tier ∈ M ∧ Comp.rk ∈ M ∧ Comp.tally ∈ M ∧
    Comp.mc ∈ M ∧ Comp.px ∈ M ∧ Comp.reqs ∈ M ∧ Comp.nextReq ∈ M ∧ Comp.outbox ∈ M) (s : State) (q : Req) (e stream o n status : Nat)
    (timeout : Bool) (data : Bytes) : (State.jobReadDone s q e stream o n status timeout data).hide M = s.hide M := by
  unfold State.jobReadDone
  simp [hM]

@[simp] theorem State.jobWriteOne_hide {M : List Comp} (hM : Comp.pt ∈ M ∧ Comp.xl ∈ M ∧ Comp.tier ∈ M ∧ Comp.rk ∈ M ∧ Comp.ec ∈ M ∧
    Comp.links ∈ M ∧ Comp.tally ∈ M ∧ Comp.reqs ∈ M ∧ Comp.nextReq ∈ M ∧ Comp.free ∈ M ∧ Comp.outbox ∈ M) (s : State) (e : Nat) :
    (State.jobWriteOne s e).2.hide M = s.hide M := by
  unfold State.jobWriteOne
  dsimp only
  repeat' (first | (simp [hM]; done) | split)

@[simp] theorem State.jobWrites_hide {M : List Comp} (hM : Comp.pt ∈ M ∧ Comp.xl ∈ M ∧ Comp.tier ∈ M ∧ Comp.rk ∈ M ∧ Comp.ec ∈ M ∧
    Comp.links ∈ M ∧ Comp.tally ∈ M ∧ Comp.reqs ∈ M ∧ Comp.nextReq ∈ M ∧ Comp.free ∈ M ∧ Comp.outbox ∈ M) (s : State) (e : Nat) (x0 :
    Nat) : (State.jobWrites s e x0).hide M = s.hide M := by
  induction x0 generalizing s with
  | zero => rfl
  | succ n ih =>
    unfold State.jobWrites
    split <;> rename_i h <;> simp_all [pair_eq] <;> simp [← h.2, hM]

@[simp] theorem State.jobDrain_hide {M : List Comp} (hM : Comp.pt ∈ M ∧ Comp.xl ∈ M ∧ Comp.tier ∈ M ∧ Comp.rk ∈ M ∧ Comp.ec ∈ M ∧
    Comp.links ∈ M ∧ Comp.tally ∈ M ∧ Comp.reqs ∈ M ∧ Comp.nextReq ∈ M ∧ Comp.free ∈ M ∧ Comp.outbox ∈ M) (s : State) (e : Nat) :
    (State.jobDrain s e).hide M = s.hide M := by
  unfold State.jobDrain
  simp [hM]

@[simp] theorem State.jobWriteDone_hide {M : List Comp} (hM : Comp.pt ∈ M ∧ Comp.xl ∈ M ∧ Comp.tier ∈ M ∧ Comp.rk ∈ M ∧ Comp.tally ∈ M ∧
    Comp.reqs ∈ M ∧ Comp.nextReq ∈ M) (s : State) (q : Req) (e stream o status : Nat) (timeout : Bool) : (State.jobWriteDone s q e
    stream o status timeout).hide M = s.hide M := by
  unfold State.jobWriteDone
  simp [hM]

@[simp] theorem State.startJob_hide {M : List Comp} (hM : Comp.pt ∈ M ∧ Comp.qc ∈ M ∧ Comp.tier ∈ M ∧ Comp.rk ∈ M ∧ Comp.ec ∈ M ∧
    Comp.tally ∈ M ∧ Comp.reqs ∈ M ∧ Comp.nextReq ∈ M) (s : State) (e : Nat) : (State.startJob s e).hide M = s.hide M := by
  unfold State.startJob
  simp [hM]

@[simp] theorem State.normPartial_hide {M : List Comp} (hM : Comp.rk ∈ M) (s : State) (e : Nat) (j : Job) : (State.normPartial s e
    j).1.hide M = s.hide M := by
  unfold State.normPartial
  simp [hM]

@[simp] theorem State.computeTile_hide {M : List Comp} (hM : Comp.pt ∈ M ∧ Comp.xl ∈ M ∧ Comp.tier ∈ M ∧ Comp.rk ∈ M ∧ Comp.ec ∈ M ∧
    Comp.links ∈ M ∧ Comp.tally ∈ M ∧ Comp.reqs ∈ M ∧ Comp.nextReq ∈ M ∧ Comp.free ∈ M ∧ Comp.outbox ∈ M) (s : State) (e : Nat) :
    (State.computeTile s e).hide M = s.hide M := by
  unfold State.computeTile
  dsimp only
  split
  · rfl
  · rw [State.jobDrain_hide (by simp [hM]), State.modJob_hide (by simp [hM])]
    split <;> simp [hM]

@[simp] theorem State.countElements_hide {M : List Comp} (hM : Comp.rk ∈ M ∧ Comp.tally ∈ M) (s : State) (e k : Nat) :
    (State.countElements s e k).hide M = s.hide M := by
  unfold State.countElements
  simp [hM]

@[simp] theorem State.ackTile_hide {M : List Comp} (hM : Comp.rk ∈ M ∧ Comp.tally ∈ M) (s : State) (e : Nat) : (State.ackTile s e).hide
    M = s.hide M := by
  unfold State.ackTile
  dsimp only
  repeat' (first | (simp [hM]; done) | split)

@[simp] theorem State.readNorm_hide {M : List Comp} (hM : Comp.pt ∈ M ∧ Comp.xl ∈ M ∧ Comp.tier ∈ M ∧ Comp.rk ∈ M ∧ Comp.ec ∈ M ∧
    Comp.links ∈ M ∧ Comp.tally ∈ M ∧ Comp.reqs ∈ M ∧ Comp.nextReq ∈ M ∧ Comp.free ∈ M ∧ Comp.outbox ∈ M) (s : State) (e : Nat) :
    (State.readNorm s e).hide M = s.hide M := by
  unfold State.readNorm
  dsimp only
  repeat' (first | (simp [hM]; done) | split)

@[simp] theorem State.normReturned_hide {M : List Comp} (hM : Comp.pt ∈ M ∧ Comp.xl ∈ M ∧ Comp.tier ∈ M ∧ Comp.rk ∈ M ∧ Comp.tally ∈ M ∧
    Comp.reqs ∈ M ∧ Comp.nextReq ∈ M) (s : State) (q : Req) (e status : Nat) (timeout : Bool) (data : Bytes) : (State.normReturned s q e
    status timeout data).hide M = s.hide M := by
  unfold State.normReturned
  simp [hM]

@[simp] theorem State.normLimit_hide {M : List Comp} (hM : Comp.rk ∈ M ∧ Comp.ec ∈ M) (s : State) (e : Nat) : (State.normLimit s e).hide
    M = s.hide M := by
  unfold State.normLimit
  dsimp only
  repeat' (first | (simp [hM]; done) | split)

@[simp] theorem State.writeFingerprint_hide {M : List Comp} (hM : Comp.pt ∈ M ∧ Comp.xl ∈ M ∧ Comp.tier ∈ M ∧ Comp.rk ∈ M ∧ Comp.ec ∈ M
    ∧ Comp.links ∈ M ∧ Comp.tally ∈ M ∧ Comp.reqs ∈ M ∧ Comp.nextReq ∈ M ∧ Comp.free ∈ M ∧ Comp.outbox ∈ M) (s : State) (e k : Nat) :
    (State.writeFingerprint s e k).hide M = s.hide M := by
  unfold State.writeFingerprint
  dsimp only
  repeat' (first | (simp [hM]; done) | split)

@[simp] theorem State.parkJob_hide {M : List Comp} (hM : Comp.pt ∈ M ∧ Comp.xl ∈ M ∧ Comp.qc ∈ M ∧ Comp.tier ∈ M ∧ Comp.rk ∈ M ∧ Comp.ec
    ∈ M ∧ Comp.tally ∈ M ∧ Comp.reqs ∈ M ∧ Comp.nextReq ∈ M) (s : State) (e : Nat) : (State.parkJob s e).hide M = s.hide M := by
  unfold State.parkJob
  dsimp only
  repeat' (first | (simp [hM]; done) | split)

@[simp] theorem State.resumeJob_hide {M : List Comp} (hM : Comp.pt ∈ M ∧ Comp.xl ∈ M ∧ Comp.qc ∈ M ∧ Comp.tier ∈ M ∧ Comp.rk ∈ M ∧
    Comp.ec ∈ M ∧ Comp.links ∈ M ∧ Comp.tally ∈ M ∧ Comp.reqs ∈ M ∧ Comp.nextReq ∈ M ∧ Comp.free ∈ M ∧ Comp.outbox ∈ M) (s : State) (p :
    Nat) : (State.resumeJob s p).hide M = s.hide M := by
  unfold State.resumeJob
  split <;> simp [hM]

@[simp] theorem State.endParkedJob_hide {M : List Comp} (hM : Comp.pt ∈ M ∧ Comp.xl ∈ M ∧ Comp.qc ∈ M ∧ Comp.tier ∈ M ∧ Comp.rk ∈ M ∧
    Comp.tally ∈ M ∧ Comp.reqs ∈ M ∧ Comp.nextReq ∈ M) (s : State) (p status : Nat) : (State.endParkedJob s p status).hide M = s.hide M := by
  unfold State.endParkedJob
  split <;> simp [hM]

@[simp] theorem State.abortJobs_hide {M : List Comp} (hM : Comp.pt ∈ M ∧ Comp.xl ∈ M ∧ Comp.qc ∈ M ∧ Comp.tier ∈ M ∧ Comp.rk ∈ M ∧
    Comp.tally ∈ M ∧ Comp.reqs ∈ M ∧ Comp.nextReq ∈ M) (s : State) (r : Nat) : (State.abortJobs s r).hide M = s.hide M := by
  unfold State.abortJobs
  simp [hM]

@[simp] theorem State.placeRepair_hide {M : List Comp} (hM : Comp.rk ∈ M) (s : State) (p set region mask expected : Nat) :
    (State.placeRepair s p set region mask expected).2.hide M = s.hide M := by
  unfold State.placeRepair
  dsimp only
  repeat' (first | (simp [hM]; done) | split)

@[simp] theorem State.afterCheck_hide {M : List Comp} (hM : Comp.rk ∈ M) (s : State) (p : Nat) (j : Job) : (State.afterCheck s p j).hide
    M = s.hide M := by
  unfold State.afterCheck
  repeat' (first | (simp [hM]; done) | split)

@[simp] theorem State.countJob_hide {M : List Comp} (hM : Comp.rk ∈ M) (s : State) (p : Nat) (j : Job) : (State.countJob s p j).hide M =
    s.hide M := by
  unfold State.countJob
  simp [hM]

@[simp] theorem State.reportJob_hide {M : List Comp} (hM : Comp.pt ∈ M ∧ Comp.qc ∈ M ∧ Comp.ec ∈ M) (s : State) (p : Nat) (j : Job) :
    (State.reportJob s p j).hide M = s.hide M := by
  unfold State.reportJob
  simp [hM]

@[simp] theorem State.returnJob_hide {M : List Comp} (hM : Comp.pt ∈ M ∧ Comp.qc ∈ M ∧ Comp.tier ∈ M ∧ Comp.rk ∈ M ∧ Comp.ec ∈ M ∧
    Comp.tally ∈ M ∧ Comp.reqs ∈ M ∧ Comp.nextReq ∈ M) (s : State) (e : Nat) : (State.returnJob s e).hide M = s.hide M := by
  unfold State.returnJob
  simp [hM]

@[simp] theorem State.startChunk_hide {M : List Comp} (hM : Comp.rk ∈ M ∧ Comp.tally ∈ M) (s : State) (e q : Nat) : (State.startChunk s
    e q).hide M = s.hide M := by
  unfold State.startChunk
  repeat' (first | (simp [hM]; done) | split)

@[simp] theorem State.finishTile_hide {M : List Comp} (hM : Comp.rk ∈ M) (s : State) : (State.finishTile s).hide M = s.hide M := by
  unfold State.finishTile
  split <;> simp [hM]

@[simp] theorem State.outputTile_hide {M : List Comp} (hM : Comp.pt ∈ M ∧ Comp.xl ∈ M ∧ Comp.tier ∈ M ∧ Comp.rk ∈ M ∧ Comp.ec ∈ M ∧
    Comp.links ∈ M ∧ Comp.tally ∈ M ∧ Comp.reqs ∈ M ∧ Comp.nextReq ∈ M ∧ Comp.free ∈ M ∧ Comp.outbox ∈ M) (s : State) :
    (State.outputTile s).hide M = s.hide M := by
  unfold State.outputTile
  split <;> simp [hM]

@[simp] theorem State.respond_hide {M : List Comp} (hM : Comp.mc ∈ M ∧ Comp.px ∈ M ∧ Comp.outbox ∈ M) (s : State) (m result detail :
    Nat) (payload : Bytes) : (State.respond s m result detail payload).hide M = s.hide M := by
  unfold State.respond
  simp [hM]

@[simp] theorem State.ok_hide {M : List Comp} (hM : Comp.mc ∈ M ∧ Comp.px ∈ M ∧ Comp.outbox ∈ M) (s : State) (m : Nat) : (State.ok s
    m).hide M = s.hide M := by
  unfold State.ok
  simp [hM]

@[simp] theorem State.grantJobRead_hide {M : List Comp} (hM : Comp.pt ∈ M ∧ Comp.xl ∈ M ∧ Comp.tier ∈ M ∧ Comp.rk ∈ M ∧ Comp.ec ∈ M ∧
    Comp.links ∈ M ∧ Comp.tally ∈ M ∧ Comp.reqs ∈ M ∧ Comp.nextReq ∈ M ∧ Comp.free ∈ M ∧ Comp.outbox ∈ M) (s : State) (e stream o n :
    Nat) : (State.grantJobRead s e stream o n).hide M = s.hide M := by
  unfold State.grantJobRead
  split <;> simp [hM]

@[simp] theorem State.startRepair_hide {M : List Comp} (hM : Comp.pt ∈ M ∧ Comp.xl ∈ M ∧ Comp.tier ∈ M ∧ Comp.rk ∈ M ∧ Comp.ec ∈ M ∧
    Comp.links ∈ M ∧ Comp.tally ∈ M ∧ Comp.reqs ∈ M ∧ Comp.nextReq ∈ M ∧ Comp.free ∈ M ∧ Comp.outbox ∈ M) (s : State) (p : Nat) :
    (State.startRepair s p).hide M = s.hide M := by
  unfold State.startRepair
  repeat' (first | (simp [hM]; done) | split)

@[simp] theorem State.modRepair_hide {M : List Comp} (hM : Comp.rk ∈ M) (s : State) (e : Nat) (f : RepairJob → RepairJob) :
    (State.modRepair s e f).hide M = s.hide M := by
  unfold State.modRepair
  simp [hM]

@[simp] theorem State.checkRepair_hide {M : List Comp} (hM : Comp.rk ∈ M) (s : State) (e : Nat) : (State.checkRepair s e).hide M = s.hide M := by
  unfold State.checkRepair
  dsimp only
  repeat' (first | (simp [hM]; done) | split)

@[simp] theorem State.repairTile_hide {M : List Comp} (hM : Comp.pt ∈ M ∧ Comp.xl ∈ M ∧ Comp.tier ∈ M ∧ Comp.rk ∈ M ∧ Comp.ec ∈ M ∧
    Comp.links ∈ M ∧ Comp.tally ∈ M ∧ Comp.reqs ∈ M ∧ Comp.nextReq ∈ M ∧ Comp.free ∈ M ∧ Comp.outbox ∈ M) (s : State) (e : Nat) :
    (State.repairTile s e).hide M = s.hide M := by
  unfold State.repairTile
  dsimp only
  repeat' (first | (simp [hM]; done) | split)

@[simp] theorem State.repairAck_hide {M : List Comp} (hM : Comp.rk ∈ M) (s : State) (e : Nat) : (State.repairAck s e).hide M = s.hide M := by
  unfold State.repairAck
  dsimp only
  repeat' (first | (simp [hM]; done) | split)

@[simp] theorem State.queueStep_hide {M : List Comp} (hM : Comp.pt ∈ M ∧ Comp.xl ∈ M ∧ Comp.tier ∈ M ∧ Comp.rk ∈ M ∧ Comp.ec ∈ M ∧
    Comp.links ∈ M ∧ Comp.tally ∈ M ∧ Comp.reqs ∈ M ∧ Comp.nextReq ∈ M ∧ Comp.free ∈ M ∧ Comp.outbox ∈ M) (s : State) (e : Nat) (runs :
    List Run) (f : RepairJob → RepairJob) : (State.queueStep s e runs f).hide M = s.hide M := by
  unfold State.queueStep
  simp [hM]

@[simp] theorem State.writeMembers_hide {M : List Comp} (hM : Comp.pt ∈ M ∧ Comp.xl ∈ M ∧ Comp.tier ∈ M ∧ Comp.rk ∈ M ∧ Comp.ec ∈ M ∧
    Comp.links ∈ M ∧ Comp.tally ∈ M ∧ Comp.reqs ∈ M ∧ Comp.nextReq ∈ M ∧ Comp.free ∈ M ∧ Comp.outbox ∈ M) (s : State) (e : Nat) :
    (State.writeMembers s e).hide M = s.hide M := by
  unfold State.writeMembers
  dsimp only
  repeat' (first | (simp [hM]; done) | split)

@[simp] theorem State.writeRegionPrints_hide {M : List Comp} (hM : Comp.pt ∈ M ∧ Comp.xl ∈ M ∧ Comp.tier ∈ M ∧ Comp.rk ∈ M ∧ Comp.ec ∈ M
    ∧ Comp.links ∈ M ∧ Comp.tally ∈ M ∧ Comp.reqs ∈ M ∧ Comp.nextReq ∈ M ∧ Comp.free ∈ M ∧ Comp.outbox ∈ M) (s : State) (e : Nat) :
    (State.writeRegionPrints s e).hide M = s.hide M := by
  unfold State.writeRegionPrints
  dsimp only
  repeat' (first | (simp [hM]; done) | split)

@[simp] theorem State.writeRepairNote_hide {M : List Comp} (hM : Comp.pt ∈ M ∧ Comp.tier ∈ M ∧ Comp.rk ∈ M ∧ Comp.ec ∈ M ∧ Comp.tally ∈
    M ∧ Comp.reqs ∈ M ∧ Comp.nextReq ∈ M) (s : State) (e : Nat) : (State.writeRepairNote s e).hide M = s.hide M := by
  unfold State.writeRepairNote
  dsimp only
  repeat' (first | (simp [hM]; done) | split)

@[simp] theorem State.tileReads_hide {M : List Comp} (hM : Comp.pt ∈ M ∧ Comp.xl ∈ M ∧ Comp.tier ∈ M ∧ Comp.rk ∈ M ∧ Comp.ec ∈ M ∧
    Comp.links ∈ M ∧ Comp.tally ∈ M ∧ Comp.reqs ∈ M ∧ Comp.nextReq ∈ M ∧ Comp.free ∈ M ∧ Comp.outbox ∈ M) (s : State) (e : Nat) :
    (State.tileReads s e).hide M = s.hide M := by
  unfold State.tileReads
  simp [hM]

@[simp] theorem State.tileAcks_hide {M : List Comp} (hM : Comp.rk ∈ M ∧ Comp.tally ∈ M) (s : State) (e : Nat) : (State.tileAcks s
    e).hide M = s.hide M := by
  unfold State.tileAcks
  simp [hM]

@[simp] theorem State.endParked_hide {M : List Comp} (hM : Comp.pt ∈ M ∧ Comp.xl ∈ M ∧ Comp.qc ∈ M ∧ Comp.tier ∈ M ∧ Comp.rk ∈ M ∧
    Comp.ec ∈ M ∧ Comp.tally ∈ M ∧ Comp.reqs ∈ M ∧ Comp.nextReq ∈ M) (s : State) (k status : Nat) : (State.endParked s k status).hide M
    = s.hide M := by
  unfold State.endParked
  simp [hM]

@[simp] theorem State.resumeParked_hide {M : List Comp} (hM : Comp.pt ∈ M ∧ Comp.xl ∈ M ∧ Comp.qc ∈ M ∧ Comp.tier ∈ M ∧ Comp.rk ∈ M ∧
    Comp.ec ∈ M ∧ Comp.links ∈ M ∧ Comp.tally ∈ M ∧ Comp.reqs ∈ M ∧ Comp.nextReq ∈ M ∧ Comp.free ∈ M ∧ Comp.outbox ∈ M) (s : State) (k :
    Nat) : (State.resumeParked s k).hide M = s.hide M := by
  unfold State.resumeParked
  simp [hM]

@[simp] theorem State.writeHeld_hide {M : List Comp} (hM : Comp.pt ∈ M ∧ Comp.xl ∈ M ∧ Comp.qc ∈ M ∧ Comp.tier ∈ M ∧ Comp.rk ∈ M ∧
    Comp.ec ∈ M ∧ Comp.tally ∈ M ∧ Comp.reqs ∈ M ∧ Comp.nextReq ∈ M) (s : State) (p : Nat) (x0 : Nat) : (State.writeHeld s p x0).hide M
    = s.hide M := by
  induction x0 generalizing s with
  | zero => rfl
  | succ n ih =>
    unfold State.writeHeld
    dsimp only
    repeat' (first | (simp [ih, hM]; done) | split)

@[simp] theorem State.countStale_hide {M : List Comp} (hM : Comp.qc ∈ M) (s : State) (p : Nat) : (State.countStale s p).hide M = s.hide M := by
  unfold State.countStale
  simp [hM]

@[simp] theorem State.takeConsumer_hide {M : List Comp} (hM : Comp.qc ∈ M) (s : State) (p c : Nat) : (State.takeConsumer s p c).hide M =
    s.hide M := by
  unfold State.takeConsumer
  simp [hM]

@[simp] theorem State.faultResponse_hide {M : List Comp} (hM : Comp.pt ∈ M ∧ Comp.xl ∈ M ∧ Comp.qc ∈ M ∧ Comp.tier ∈ M ∧ Comp.rk ∈ M ∧
    Comp.ec ∈ M ∧ Comp.links ∈ M ∧ Comp.tally ∈ M ∧ Comp.reqs ∈ M ∧ Comp.nextReq ∈ M ∧ Comp.free ∈ M ∧ Comp.outbox ∈ M) (s : State) (p w
    : Nat) : (State.faultResponse s p w).hide M = s.hide M := by
  unfold State.faultResponse
  split <;> simp [hM]

@[simp] theorem State.faultDoorbell_hide {M : List Comp} (hM : Comp.pt ∈ M ∧ Comp.xl ∈ M ∧ Comp.qc ∈ M ∧ Comp.tier ∈ M ∧ Comp.rk ∈ M ∧
    Comp.ec ∈ M ∧ Comp.links ∈ M ∧ Comp.tally ∈ M ∧ Comp.reqs ∈ M ∧ Comp.nextReq ∈ M ∧ Comp.free ∈ M ∧ Comp.outbox ∈ M) (s : State) (p w
    : Nat) : (State.faultDoorbell s p w).hide M = s.hide M := by
  refine State.checkDoorbell_hide (by simp [hM]) _ _ _ _ ?_
  repeat' (first | (simp [hM]; done) | (simp_all [pair_eq]; done) | split)

@[simp] theorem State.recordAcked_hide {M : List Comp} (hM : Comp.pt ∈ M ∧ Comp.xl ∈ M ∧ Comp.qc ∈ M ∧ Comp.tier ∈ M ∧ Comp.rk ∈ M ∧
    Comp.ec ∈ M ∧ Comp.tally ∈ M ∧ Comp.reqs ∈ M ∧ Comp.nextReq ∈ M) (s : State) (k gen : Nat) (ack : WrRes) : (State.recordAcked s k
    gen ack).hide M = s.hide M := by
  unfold State.recordAcked
  split <;> simp [hM]

@[simp] theorem State.timerExpired_hide {M : List Comp} (hM : Comp.pt ∈ M ∧ Comp.xl ∈ M ∧ Comp.qc ∈ M ∧ Comp.tier ∈ M ∧ Comp.rk ∈ M ∧
    Comp.ec ∈ M ∧ Comp.tally ∈ M ∧ Comp.reqs ∈ M ∧ Comp.nextReq ∈ M) (s : State) (k : Nat) : (State.timerExpired s k).hide M = s.hide M := by
  unfold State.timerExpired
  dsimp only
  repeat' (first | (simp [hM]; done) | split)

@[simp] theorem State.endMiss_hide {M : List Comp} (hM : Comp.pt ∈ M ∧ Comp.xl ∈ M ∧ Comp.qc ∈ M ∧ Comp.tier ∈ M ∧ Comp.rk ∈ M ∧ Comp.ec
    ∈ M ∧ Comp.links ∈ M ∧ Comp.tally ∈ M ∧ Comp.reqs ∈ M ∧ Comp.nextReq ∈ M ∧ Comp.free ∈ M ∧ Comp.outbox ∈ M) (s : State) (m : Miss)
    (x : WalkEnd) : (State.endMiss s m x).hide M = s.hide M := by
  unfold State.endMiss
  repeat' (first | (simp [hM]; done) | split)

@[simp] theorem State.modWalk_hide {M : List Comp} (hM : Comp.xl ∈ M) (s : State) (i : Nat) (f : Walk → Walk) : (State.modWalk s i
    f).hide M = s.hide M := by
  unfold State.modWalk
  simp [hM]

@[simp] theorem State.dropWalk_hide {M : List Comp} (hM : Comp.xl ∈ M) (s : State) (i : Nat) : (State.dropWalk s i).hide M = s.hide M := by
  unfold State.dropWalk
  simp [hM]

@[simp] theorem State.endMisses_hide {M : List Comp} (hM : Comp.pt ∈ M ∧ Comp.xl ∈ M ∧ Comp.qc ∈ M ∧ Comp.tier ∈ M ∧ Comp.rk ∈ M ∧
    Comp.ec ∈ M ∧ Comp.links ∈ M ∧ Comp.tally ∈ M ∧ Comp.reqs ∈ M ∧ Comp.nextReq ∈ M ∧ Comp.free ∈ M ∧ Comp.outbox ∈ M) (s : State)
    (pick : Miss → Bool) (x : WalkEnd) : (State.endMisses s pick x).hide M = s.hide M := by
  unfold State.endMisses
  simp [hM]

@[simp] theorem State.failWalk_hide {M : List Comp} (hM : Comp.pt ∈ M ∧ Comp.xl ∈ M ∧ Comp.qc ∈ M ∧ Comp.tier ∈ M ∧ Comp.rk ∈ M ∧
    Comp.ec ∈ M ∧ Comp.links ∈ M ∧ Comp.tally ∈ M ∧ Comp.reqs ∈ M ∧ Comp.nextReq ∈ M ∧ Comp.free ∈ M ∧ Comp.outbox ∈ M) (s : State) (w :
    Walk) (writesOnly : Bool) (x : WalkEnd) : (State.failWalk s w writesOnly x).hide M = s.hide M := by
  unfold State.failWalk
  simp [hM]

@[simp] theorem State.walkError_hide {M : List Comp} (hM : Comp.pt ∈ M ∧ Comp.xl ∈ M ∧ Comp.qc ∈ M ∧ Comp.tier ∈ M ∧ Comp.rk ∈ M ∧
    Comp.ec ∈ M ∧ Comp.links ∈ M ∧ Comp.tally ∈ M ∧ Comp.reqs ∈ M ∧ Comp.nextReq ∈ M ∧ Comp.free ∈ M ∧ Comp.outbox ∈ M) (s : State) (w :
    Walk) (kind : Nat) : (State.walkError s w kind).hide M = s.hide M := by
  unfold State.walkError
  simp [hM]

@[simp] theorem State.walkRead_hide {M : List Comp} (hM : Comp.pt ∈ M ∧ Comp.xl ∈ M ∧ Comp.qc ∈ M ∧ Comp.tier ∈ M ∧ Comp.rk ∈ M ∧
    Comp.ec ∈ M ∧ Comp.links ∈ M ∧ Comp.tally ∈ M ∧ Comp.reqs ∈ M ∧ Comp.nextReq ∈ M ∧ Comp.free ∈ M ∧ Comp.outbox ∈ M) (s : State) (i
    table : Nat) : (State.walkRead s i table).hide M = s.hide M := by
  unfold State.walkRead
  split <;> simp [hM]

@[simp] theorem State.installWalk_hide {M : List Comp} (hM : Comp.xl ∈ M ∧ Comp.free ∈ M) (s : State) (p : Nat) (e : WalkEntry) :
    (State.installWalk s p e).hide M = s.hide M := by
  unfold State.installWalk
  simp [hM]

@[simp] theorem State.startWalk_hide {M : List Comp} (hM : Comp.pt ∈ M ∧ Comp.xl ∈ M ∧ Comp.qc ∈ M ∧ Comp.tier ∈ M ∧ Comp.rk ∈ M ∧
    Comp.ec ∈ M ∧ Comp.links ∈ M ∧ Comp.tally ∈ M ∧ Comp.reqs ∈ M ∧ Comp.nextReq ∈ M ∧ Comp.free ∈ M ∧ Comp.outbox ∈ M) (s : State) (p :
    Nat) : (State.startWalk s p).hide M = s.hide M := by
  unfold State.startWalk
  split <;> simp [hM]

@[simp] theorem State.installLeaf_hide {M : List Comp} (hM : Comp.xl ∈ M ∧ Comp.free ∈ M) (s : State) (w : Walk) (l : Leaf) :
    (State.installLeaf s w l).hide M = s.hide M := by
  unfold State.installLeaf
  simp [hM]

@[simp] theorem State.walkOn_hide {M : List Comp} (hM : Comp.pt ∈ M ∧ Comp.xl ∈ M ∧ Comp.qc ∈ M ∧ Comp.tier ∈ M ∧ Comp.rk ∈ M ∧ Comp.ec
    ∈ M ∧ Comp.links ∈ M ∧ Comp.tally ∈ M ∧ Comp.reqs ∈ M ∧ Comp.nextReq ∈ M ∧ Comp.free ∈ M ∧ Comp.outbox ∈ M) (s : State) (w : Walk)
    (e : Nat) : (State.walkOn s w e).hide M = s.hide M := by
  unfold State.walkOn
  simp [hM]

theorem State.walkCheck_hide {M : List Comp} (hM : Comp.pt ∈ M ∧ Comp.xl ∈ M ∧ Comp.qc ∈ M ∧ Comp.tier ∈ M ∧ Comp.rk ∈ M ∧ Comp.ec ∈ M ∧ Comp.links ∈ M ∧ Comp.tally ∈ M ∧ Comp.reqs ∈ M ∧ Comp.nextReq ∈ M ∧ Comp.free ∈ M ∧ Comp.outbox ∈ M) (s : State) (w : Walk) (e : Nat) (k : State → State)
    (h : (k s).hide M = s.hide M) : (s.walkCheck w e k).hide M = s.hide M := by
  unfold State.walkCheck
  simp [hM, h]

@[simp] theorem State.walkReturned_hide {M : List Comp} (hM : Comp.pt ∈ M ∧ Comp.xl ∈ M ∧ Comp.qc ∈ M ∧ Comp.tier ∈ M ∧ Comp.rk ∈ M ∧
    Comp.ec ∈ M ∧ Comp.links ∈ M ∧ Comp.tally ∈ M ∧ Comp.reqs ∈ M ∧ Comp.nextReq ∈ M ∧ Comp.free ∈ M ∧ Comp.outbox ∈ M) (s : State) (i :
    Nat) (res : RdRes) : (State.walkReturned s i res).hide M = s.hide M := by
  unfold State.walkReturned
  dsimp only
  repeat' (first | (simp [hM]; done) | split | (rw [State.walkCheck_hide (by simp [hM])]))

@[simp] theorem State.ownedReturned_hide {M : List Comp} (hM : Comp.pt ∈ M ∧ Comp.xl ∈ M ∧ Comp.qc ∈ M ∧ Comp.tier ∈ M ∧ Comp.rk ∈ M ∧
    Comp.ec ∈ M ∧ Comp.links ∈ M ∧ Comp.tally ∈ M ∧ Comp.reqs ∈ M ∧ Comp.nextReq ∈ M ∧ Comp.free ∈ M ∧ Comp.outbox ∈ M) (s : State) (i :
    Nat) (res : RdRes) : (State.ownedReturned s i res).hide M = s.hide M := by
  unfold State.ownedReturned
  dsimp only
  repeat' (first | (simp [hM]; done) | split | (rw [State.walkCheck_hide (by simp [hM])]))

@[simp] theorem State.walkTimeout_hide {M : List Comp} (hM : Comp.pt ∈ M ∧ Comp.xl ∈ M ∧ Comp.qc ∈ M ∧ Comp.tier ∈ M ∧ Comp.rk ∈ M ∧
    Comp.ec ∈ M ∧ Comp.links ∈ M ∧ Comp.tally ∈ M ∧ Comp.reqs ∈ M ∧ Comp.nextReq ∈ M ∧ Comp.free ∈ M ∧ Comp.outbox ∈ M) (s : State) (i :
    Nat) : (State.walkTimeout s i).hide M = s.hide M := by
  unfold State.walkTimeout
  split <;> simp [hM]

@[simp] theorem State.invDoorbell_hide {M : List Comp} (hM : Comp.pt ∈ M ∧ Comp.xl ∈ M ∧ Comp.tally ∈ M) (s : State) (p w : Nat) :
    (State.invDoorbell s p w).hide M = s.hide M := by
  refine State.checkDoorbell_hide (by simp [hM]) _ _ _ _ ?_
  repeat' (first | (simp [hM]; done) | (simp_all [pair_eq]; done) | split)

@[simp] theorem State.stopInv_hide {M : List Comp} (hM : Comp.xl ∈ M ∧ Comp.ec ∈ M) (s : State) (p : Nat) : (State.stopInv s p).hide M =
    s.hide M := by
  unfold State.stopInv
  simp [hM]

@[simp] theorem State.readInv_hide {M : List Comp} (hM : Comp.pt ∈ M ∧ Comp.xl ∈ M ∧ Comp.ec ∈ M ∧ Comp.tally ∈ M ∧ Comp.reqs ∈ M ∧
    Comp.nextReq ∈ M) (s : State) (p : Nat) : (State.readInv s p).hide M = s.hide M := by
  unfold State.readInv
  simp [hM]

@[simp] theorem State.fetchInv_hide {M : List Comp} (hM : Comp.pt ∈ M ∧ Comp.xl ∈ M ∧ Comp.ec ∈ M ∧ Comp.tally ∈ M ∧ Comp.reqs ∈ M ∧
    Comp.nextReq ∈ M) (s : State) (p : Nat) : (State.fetchInv s p).hide M = s.hide M := by
  unfold State.fetchInv
  simp [hM]

@[simp] theorem State.refetchInv_hide {M : List Comp} (hM : Comp.pt ∈ M ∧ Comp.xl ∈ M ∧ Comp.ec ∈ M ∧ Comp.tally ∈ M ∧ Comp.reqs ∈ M ∧
    Comp.nextReq ∈ M) (s : State) (p : Nat) : (State.refetchInv s p).hide M = s.hide M := by
  unfold State.refetchInv
  simp [hM]

@[simp] theorem State.invReturned_hide {M : List Comp} (hM : Comp.pt ∈ M ∧ Comp.xl ∈ M ∧ Comp.ec ∈ M ∧ Comp.reqs ∈ M) (s0 : State) (p :
    Nat) (res : RdRes) : (State.invReturned s0 p res).hide M = s0.hide M := by
  unfold State.invReturned
  repeat' (first | (simp [hM]; done) | split)

@[simp] theorem State.cutEntry_hide {M : List Comp} (hM : Comp.xl ∈ M ∧ Comp.reqs ∈ M) (s : State) (p : Nat) : (State.cutEntry s p).hide
    M = s.hide M := by
  unfold State.cutEntry
  dsimp only
  repeat' (first | (simp [hM]; done) | split)

@[simp] theorem State.applyBind_hide {M : List Comp} (hM : Comp.xl ∈ M) (s : State) (m : Nat) : (State.applyBind s m).hide M = s.hide M := by
  unfold State.applyBind
  split <;> simp [hM]

@[simp] theorem State.cutWaiting_hide {M : List Comp} (hM : Comp.xl ∈ M ∧ Comp.reqs ∈ M) (s : State) (p : Nat) : (State.cutWaiting s
    p).hide M = s.hide M := by
  unfold State.cutWaiting
  split <;> simp [hM]

@[simp] theorem State.takeInval_hide {M : List Comp} (hM : Comp.xl ∈ M ∧ Comp.reqs ∈ M) (s : State) (p : Nat) : (State.takeInval s
    p).hide M = s.hide M := by
  unfold State.takeInval
  dsimp only
  repeat' (first | (simp [hM]; done) | split)

@[simp] theorem State.writeNote_hide {M : List Comp} (hM : Comp.pt ∈ M ∧ Comp.tier ∈ M ∧ Comp.ec ∈ M ∧ Comp.tally ∈ M ∧ Comp.reqs ∈ M ∧
    Comp.nextReq ∈ M) (s : State) (i : Inval) : (State.writeNote s i).hide M = s.hide M := by
  unfold State.writeNote
  split <;> simp [hM]

@[simp] theorem State.ackInval_hide {M : List Comp} (hM : Comp.pt ∈ M ∧ Comp.xl ∈ M ∧ Comp.tier ∈ M ∧ Comp.ch ∈ M ∧ Comp.ec ∈ M ∧
    Comp.tally ∈ M ∧ Comp.mc ∈ M ∧ Comp.px ∈ M ∧ Comp.reqs ∈ M ∧ Comp.nextReq ∈ M ∧ Comp.outbox ∈ M) (s : State) (id : Nat) :
    (State.ackInval s id).hide M = s.hide M := by
  unfold State.ackInval
  repeat' (first | (simp [hM]; done) | split)

@[simp] theorem State.drainLimit_hide {M : List Comp} (hM : Comp.xl ∈ M ∧ Comp.ec ∈ M) (s : State) (id : Nat) : (State.drainLimit s
    id).hide M = s.hide M := by
  unfold State.drainLimit
  split <;> simp [hM]

@[simp] theorem State.askRepair_hide {M : List Comp} (hM : Comp.pt ∈ M) (s : State) (e c : Nat) : (State.askRepair s e c).hide M = s.hide M := by
  unfold State.askRepair
  simp [hM]

@[simp] theorem State.readStatus_hide {M : List Comp} (hM : Comp.pt ∈ M) (s : State) (q : Req) (res : RdRes) : (State.readStatus s q
    res).2.hide M = s.hide M := by
  unfold State.readStatus
  repeat' (first | (simp [hM]; done) | split)

@[simp] theorem State.afterReq_hide {M : List Comp} (hM : Comp.pt ∈ M ∧ Comp.qc ∈ M ∧ Comp.tier ∈ M ∧ Comp.ec ∈ M ∧ Comp.tally ∈ M ∧
    Comp.reqs ∈ M ∧ Comp.nextReq ∈ M) (s : State) (q : Req) : (State.afterReq s q).hide M = s.hide M := by
  unfold State.afterReq
  split <;> simp [hM]

@[simp] theorem State.endRead_hide {M : List Comp} (hM : Comp.pt ∈ M ∧ Comp.xl ∈ M ∧ Comp.qc ∈ M ∧ Comp.tier ∈ M ∧ Comp.rk ∈ M ∧ Comp.ec
    ∈ M ∧ Comp.links ∈ M ∧ Comp.tally ∈ M ∧ Comp.mc ∈ M ∧ Comp.px ∈ M ∧ Comp.reqs ∈ M ∧ Comp.nextReq ∈ M ∧ Comp.free ∈ M ∧ Comp.outbox ∈
    M) (s : State) (q : Req) (status : Nat) (timeout : Bool) (data : Bytes) : (State.endRead s q status timeout data).hide M = s.hide M := by
  unfold State.endRead
  split <;> simp [hM]

@[simp] theorem State.flagDone_hide {M : List Comp} (hM : Comp.pt ∈ M ∧ Comp.xl ∈ M ∧ Comp.qc ∈ M ∧ Comp.tier ∈ M ∧ Comp.tally ∈ M ∧
    Comp.reqs ∈ M ∧ Comp.nextReq ∈ M) (s : State) (q : Req) (r pos status : Nat) (timeout : Bool) : (State.flagDone s q r pos status
    timeout).hide M = s.hide M := by
  unfold State.flagDone
  split <;> simp [hM]

@[simp] theorem State.endWrite_hide {M : List Comp} (hM : Comp.pt ∈ M ∧ Comp.xl ∈ M ∧ Comp.qc ∈ M ∧ Comp.tier ∈ M ∧ Comp.rk ∈ M ∧
    Comp.ec ∈ M ∧ Comp.tally ∈ M ∧ Comp.reqs ∈ M ∧ Comp.nextReq ∈ M) (s : State) (q : Req) (status : Nat) (timeout : Bool) :
    (State.endWrite s q status timeout).hide M = s.hide M := by
  unfold State.endWrite
  split <;> simp [hM]

@[simp] theorem State.endWrites_hide {M : List Comp} (hM : Comp.pt ∈ M ∧ Comp.xl ∈ M ∧ Comp.qc ∈ M ∧ Comp.tier ∈ M ∧ Comp.rk ∈ M ∧
    Comp.ec ∈ M ∧ Comp.tally ∈ M ∧ Comp.reqs ∈ M ∧ Comp.nextReq ∈ M) (s : State) (ids : List Nat) (status : Nat) : (State.endWrites s
    ids status).hide M = s.hide M := by
  refine each_hide M _ _ _ fun t x => ?_
  repeat' (first | (simp [hM]; done) | (simp_all [pair_eq]; done) | split)

@[simp] theorem State.endPush_hide {M : List Comp} (hM : Comp.pt ∈ M ∧ Comp.xl ∈ M ∧ Comp.qc ∈ M ∧ Comp.tier ∈ M ∧ Comp.rk ∈ M ∧ Comp.ec
    ∈ M ∧ Comp.tally ∈ M ∧ Comp.reqs ∈ M ∧ Comp.nextReq ∈ M) (s : State) (n status : Nat) : (State.endPush s n status).hide M = s.hide M := by
  unfold State.endPush
  simp [hM]

@[simp] theorem State.dataReturned_hide {M : List Comp} (hM : Comp.pt ∈ M ∧ Comp.xl ∈ M ∧ Comp.qc ∈ M ∧ Comp.tier ∈ M ∧ Comp.rk ∈ M ∧
    Comp.ec ∈ M ∧ Comp.links ∈ M ∧ Comp.tally ∈ M ∧ Comp.mc ∈ M ∧ Comp.px ∈ M ∧ Comp.reqs ∈ M ∧ Comp.nextReq ∈ M ∧ Comp.free ∈ M ∧
    Comp.outbox ∈ M) (s : State) (q : Req) (res : RdRes) : (State.dataReturned s q res).hide M = s.hide M := by
  have he : (State.dataReturned.ended s q res).hide M = s.hide M := by
    unfold State.dataReturned.ended
    repeat' (first | (simp [hM]; done) | split)
  unfold State.dataReturned
  repeat' (first | (simp [he, hM]; done) | split)

@[simp] theorem State.performAdds_hide {M : List Comp} (hM : Comp.outbox ∈ M) (s : State) (q : Req) (res : WrRes) : (State.performAdds s
    q res).hide M = s.hide M := by
  unfold State.performAdds
  split <;> simp [hM]

@[simp] theorem State.dataAcked_hide {M : List Comp} (hM : Comp.pt ∈ M ∧ Comp.xl ∈ M ∧ Comp.qc ∈ M ∧ Comp.tier ∈ M ∧ Comp.rk ∈ M ∧
    Comp.ec ∈ M ∧ Comp.tally ∈ M ∧ Comp.reqs ∈ M ∧ Comp.nextReq ∈ M ∧ Comp.outbox ∈ M) (s0 : State) (q : Req) (res : WrRes) :
    (State.dataAcked s0 q res).hide M = s0.hide M := by
  unfold State.dataAcked
  repeat' (first | (simp [hM]; done) | split)

@[simp] theorem State.fillReturned_hide {M : List Comp} (hM : Comp.pt ∈ M ∧ Comp.xl ∈ M ∧ Comp.qc ∈ M ∧ Comp.tier ∈ M ∧ Comp.rk ∈ M ∧
    Comp.ec ∈ M ∧ Comp.links ∈ M ∧ Comp.tally ∈ M ∧ Comp.mc ∈ M ∧ Comp.px ∈ M ∧ Comp.reqs ∈ M ∧ Comp.nextReq ∈ M ∧ Comp.free ∈ M ∧
    Comp.outbox ∈ M) (s : State) (id : Nat) (res : RdRes) : (State.fillReturned s id res).hide M = s.hide M := by
  unfold State.fillReturned
  repeat' (first | (simp [hM]; done) | split)

@[simp] theorem State.snoop_hide {M : List Comp} (hM : Comp.tier ∈ M ∧ Comp.outbox ∈ M) (s : State) (module pa : Nat) (invalidate :
    Bool) : (State.snoop s module pa invalidate).hide M = s.hide M := by
  unfold State.snoop
  dsimp only
  split
  · rw [State.emit_hide (by simp [hM]), State.removeLine_hide (by simp [hM]), foldl_hide M]
    simp [hM]
  · simp [hM]

@[simp] theorem State.idleFlush_hide {M : List Comp} (hM : Comp.pt ∈ M ∧ Comp.tier ∈ M ∧ Comp.tally ∈ M ∧ Comp.reqs ∈ M ∧ Comp.nextReq ∈
    M) (s : State) (k : Nat) : (State.idleFlush s k).hide M = s.hide M := by
  unfold State.idleFlush
  simp [hM]

end Sys2Proof.Machine
end

