-- ==== Sys2Proof/Laws/HideLinks.lean ====
section
/-! SUPPORT. Which units each operation leaves alone: ring disable, unit words, link modules, Capo, the error collector, the count path, chords and inbound peer packets. Each leaves every unit alone but those its first hypothesis names. -/

set_option linter.unusedTactic false
set_option linter.unreachableTactic false
set_option linter.unusedSimpArgs false

namespace Sys2Proof.Machine

@[simp] theorem State.dropRingMisses_hide {M : List Comp} (hM : Comp.xl ∈ M) (s : State) (r : Nat) : (State.dropRingMisses s r).hide M =
    s.hide M := by
  unfold State.dropRingMisses
  simp [hM]

@[simp] theorem State.enableRing_hide {M : List Comp} (hM : Comp.qc ∈ M) (s : State) (r start : Nat) : (State.enableRing s r start).hide
    M = s.hide M := by
  unfold State.enableRing
  simp [hM]

@[simp] theorem State.stopFetching_hide {M : List Comp} (hM : Comp.qc ∈ M ∧ Comp.reqs ∈ M) (s : State) (r : Nat) : (State.stopFetching s
    r).hide M = s.hide M := by
  unfold State.stopFetching
  simp [hM]

@[simp] theorem State.disableRing_hide {M : List Comp} (hM : Comp.pt ∈ M ∧ Comp.xl ∈ M ∧ Comp.qc ∈ M ∧ Comp.tier ∈ M ∧ Comp.rk ∈ M ∧
    Comp.ec ∈ M ∧ Comp.tally ∈ M ∧ Comp.reqs ∈ M ∧ Comp.nextReq ∈ M) (s : State) (p r : Nat) : (State.disableRing s p r).hide M = s.hide
    M := by
  unfold State.disableRing
  simp [hM]

@[simp] theorem State.drainRing_hide {M : List Comp} (hM : Comp.qc ∈ M ∧ Comp.mc ∈ M ∧ Comp.px ∈ M ∧ Comp.outbox ∈ M) (s : State) (r :
    Nat) : (State.drainRing s r).hide M = s.hide M := by
  unfold State.drainRing
  simp [hM]

@[simp] theorem State.admissionEvent_hide {M : List Comp} (hM : Comp.mc ∈ M ∧ Comp.px ∈ M ∧ Comp.outbox ∈ M) (s : State) (u : Nat) :
    (State.admissionEvent s u).hide M = s.hide M := by
  unfold State.admissionEvent
  simp [hM]

@[simp] theorem State.settleUnit_hide {M : List Comp} (hM : Comp.units ∈ M ∧ Comp.mc ∈ M ∧ Comp.px ∈ M ∧ Comp.outbox ∈ M) (s : State) (u
    : Nat) : (State.settleUnit s u).hide M = s.hide M := by
  unfold State.settleUnit
  simp [hM]

@[simp] theorem State.endQuarantine_hide {M : List Comp} (hM : Comp.pt ∈ M ∧ Comp.units ∈ M ∧ Comp.mc ∈ M ∧ Comp.px ∈ M ∧ Comp.outbox ∈
    M) (s : State) (u : Nat) : (State.endQuarantine s u).hide M = s.hide M := by
  unfold State.endQuarantine
  simp [hM]

@[simp] theorem State.quarantine_hide {M : List Comp} (hM : Comp.units ∈ M ∧ Comp.mc ∈ M ∧ Comp.px ∈ M ∧ Comp.outbox ∈ M) (s : State) (u
    cause : Nat) : (State.quarantine s u cause).hide M = s.hide M := by
  unfold State.quarantine
  simp [hM]

@[simp] theorem State.clearQuarantine_hide {M : List Comp} (hM : Comp.pt ∈ M ∧ Comp.units ∈ M ∧ Comp.mc ∈ M ∧ Comp.px ∈ M ∧ Comp.outbox
    ∈ M) (s : State) (u : Nat) : (State.clearQuarantine s u).hide M = s.hide M := by
  unfold State.clearQuarantine
  simp [hM]

theorem State.mcWrite_hide {M : List Comp} (hM : Comp.pt ∈ M ∧ Comp.units ∈ M ∧ Comp.mc ∈ M ∧ Comp.px ∈ M ∧ Comp.outbox ∈ M) (s : State)
    (u level epoch : Nat) : ∀ t, State.mcWrite s u level epoch = some t → t.hide M = s.hide M := by
  unfold State.mcWrite
  dsimp only
  repeat' (first | (simp [hM]; done) | split)

@[simp] theorem State.setModState_hide {M : List Comp} (hM : Comp.units ∈ M ∧ Comp.links ∈ M ∧ Comp.mc ∈ M ∧ Comp.px ∈ M ∧ Comp.outbox ∈
    M) (s : State) (k st : Nat) : (State.setModState s k st).hide M = s.hide M := by
  unfold State.setModState
  dsimp only
  split <;> simp [hM]

@[simp] theorem State.startTraining_hide {M : List Comp} (hM : Comp.units ∈ M ∧ Comp.links ∈ M ∧ Comp.mc ∈ M ∧ Comp.px ∈ M ∧ Comp.outbox
    ∈ M) (s : State) (k : Nat) : (State.startTraining s k).hide M = s.hide M := by
  unfold State.startTraining
  simp [hM]

@[simp] theorem State.sidebandUp_hide {M : List Comp} (hM : Comp.units ∈ M ∧ Comp.links ∈ M ∧ Comp.mc ∈ M ∧ Comp.px ∈ M ∧ Comp.outbox ∈
    M) (s : State) (k : Nat) : (State.sidebandUp s k).hide M = s.hide M := by
  unfold State.sidebandUp
  simp [hM]

@[simp] theorem State.sendCtl_hide {M : List Comp} (hM : Comp.links ∈ M ∧ Comp.outbox ∈ M) (s : State) (m : Nat) (body : Bytes) :
    (State.sendCtl s m body).hide M = s.hide M := by
  unfold State.sendCtl
  simp [hM]

@[simp] theorem State.endPeer_hide {M : List Comp} (hM : Comp.pt ∈ M ∧ Comp.xl ∈ M ∧ Comp.qc ∈ M ∧ Comp.tier ∈ M ∧ Comp.rk ∈ M ∧ Comp.ec
    ∈ M ∧ Comp.links ∈ M ∧ Comp.tally ∈ M ∧ Comp.mc ∈ M ∧ Comp.px ∈ M ∧ Comp.reqs ∈ M ∧ Comp.nextReq ∈ M ∧ Comp.free ∈ M ∧ Comp.outbox ∈
    M) (s : State) (t status : Nat) (timeout : Bool) (data : Bytes) : (State.endPeer s t status timeout data).hide M = s.hide M := by
  unfold State.endPeer
  dsimp only
  repeat' (first | (simp [hM]; done) | split)

@[simp] theorem State.endOn_hide {M : List Comp} (hM : Comp.pt ∈ M ∧ Comp.xl ∈ M ∧ Comp.qc ∈ M ∧ Comp.tier ∈ M ∧ Comp.rk ∈ M ∧ Comp.ec ∈
    M ∧ Comp.links ∈ M ∧ Comp.tally ∈ M ∧ Comp.mc ∈ M ∧ Comp.px ∈ M ∧ Comp.reqs ∈ M ∧ Comp.nextReq ∈ M ∧ Comp.free ∈ M ∧ Comp.outbox ∈
    M) (s : State) (m : Nat) : (State.endOn s m).hide M = s.hide M := by
  unfold State.endOn
  simp [hM]

@[simp] theorem State.moveIo_hide {M : List Comp} (hM : Comp.ec ∈ M ∧ Comp.links ∈ M ∧ Comp.reqs ∈ M ∧ Comp.outbox ∈ M) (s : State) :
    (State.moveIo s).hide M = s.hide M := by
  unfold State.moveIo
  dsimp only
  rw [State.report_hide (by simp [hM]), hide_links (by simp [hM]), State.orphan_hide (by simp [hM])]
  refine each_hide M _ _ _ fun t x => ?_
  repeat' (first | (simp [hM]; done) | split)

@[simp] theorem State.downMod_hide {M : List Comp} (hM : Comp.pt ∈ M ∧ Comp.xl ∈ M ∧ Comp.qc ∈ M ∧ Comp.tier ∈ M ∧ Comp.rk ∈ M ∧ Comp.ec
    ∈ M ∧ Comp.units ∈ M ∧ Comp.links ∈ M ∧ Comp.tally ∈ M ∧ Comp.mc ∈ M ∧ Comp.px ∈ M ∧ Comp.reqs ∈ M ∧ Comp.nextReq ∈ M ∧ Comp.free ∈
    M ∧ Comp.outbox ∈ M) (s : State) (k cause : Nat) : (State.downMod s k cause).hide M = s.hide M := by
  unfold State.downMod
  simp [hM]

@[simp] theorem State.mainbandTrained_hide {M : List Comp} (hM : Comp.pt ∈ M ∧ Comp.xl ∈ M ∧ Comp.qc ∈ M ∧ Comp.tier ∈ M ∧ Comp.rk ∈ M ∧
    Comp.ec ∈ M ∧ Comp.units ∈ M ∧ Comp.links ∈ M ∧ Comp.tally ∈ M ∧ Comp.mc ∈ M ∧ Comp.px ∈ M ∧ Comp.reqs ∈ M ∧ Comp.nextReq ∈ M ∧
    Comp.free ∈ M ∧ Comp.outbox ∈ M) (s : State) (k lo hi : Nat) : (State.mainbandTrained s k lo hi).hide M = s.hide M := by
  unfold State.mainbandTrained
  repeat' (first | (simp [hM]; done) | split)

@[simp] theorem State.linkUp_hide {M : List Comp} (hM : Comp.pt ∈ M ∧ Comp.units ∈ M ∧ Comp.links ∈ M ∧ Comp.tally ∈ M ∧ Comp.mc ∈ M ∧
    Comp.px ∈ M ∧ Comp.outbox ∈ M) (s : State) (k : Nat) : (State.linkUp s k).hide M = s.hide M := by
  unfold State.linkUp
  simp [hM]

@[simp] theorem State.paramReceived_hide {M : List Comp} (hM : Comp.pt ∈ M ∧ Comp.xl ∈ M ∧ Comp.qc ∈ M ∧ Comp.tier ∈ M ∧ Comp.rk ∈ M ∧
    Comp.ec ∈ M ∧ Comp.units ∈ M ∧ Comp.links ∈ M ∧ Comp.tally ∈ M ∧ Comp.mc ∈ M ∧ Comp.px ∈ M ∧ Comp.reqs ∈ M ∧ Comp.nextReq ∈ M ∧
    Comp.free ∈ M ∧ Comp.outbox ∈ M) (s : State) (k : Nat) (b : Bytes) : (State.paramReceived s k b).hide M = s.hide M := by
  unfold State.paramReceived
  simp [hM]

@[simp] theorem State.trainingLimit_hide {M : List Comp} (hM : Comp.pt ∈ M ∧ Comp.xl ∈ M ∧ Comp.qc ∈ M ∧ Comp.tier ∈ M ∧ Comp.rk ∈ M ∧
    Comp.ec ∈ M ∧ Comp.units ∈ M ∧ Comp.links ∈ M ∧ Comp.tally ∈ M ∧ Comp.mc ∈ M ∧ Comp.px ∈ M ∧ Comp.reqs ∈ M ∧ Comp.nextReq ∈ M ∧
    Comp.free ∈ M ∧ Comp.outbox ∈ M) (s : State) (k : Nat) : (State.trainingLimit s k).hide M = s.hide M := by
  unfold State.trainingLimit
  simp [hM]

@[simp] theorem State.freeRetry_hide {M : List Comp} (hM : Comp.pt ∈ M ∧ Comp.links ∈ M) (s : State) (m seq : Nat) : (State.freeRetry s
    m seq).hide M = s.hide M := by
  unfold State.freeRetry
  dsimp only
  split
  · rfl
  · rw [State.modMod_hide (by simp [hM]), foldl_hide M]
    simp [hM]

@[simp] theorem State.takeAck_hide {M : List Comp} (hM : Comp.pt ∈ M ∧ Comp.links ∈ M ∧ Comp.tally ∈ M ∧ Comp.outbox ∈ M) (s : State) (m
    : Nat) (b : Bytes) : (State.takeAck s m b).hide M = s.hide M := by
  unfold State.takeAck
  simp [hM]

@[simp] theorem State.resend_hide {M : List Comp} (hM : Comp.links ∈ M ∧ Comp.outbox ∈ M) (s : State) (m : Nat) : (State.resend s
    m).hide M = s.hide M := by
  unfold State.resend
  simp [hM]

@[simp] theorem State.enterRetrain_hide {M : List Comp} (hM : Comp.units ∈ M ∧ Comp.links ∈ M ∧ Comp.mc ∈ M ∧ Comp.px ∈ M ∧ Comp.outbox
    ∈ M) (s : State) (k : Nat) : (State.enterRetrain s k).hide M = s.hide M := by
  unfold State.enterRetrain
  simp [hM]

@[simp] theorem State.replay_hide {M : List Comp} (hM : Comp.units ∈ M ∧ Comp.links ∈ M ∧ Comp.mc ∈ M ∧ Comp.px ∈ M ∧ Comp.outbox ∈ M)
    (s : State) (k : Nat) : (State.replay s k).hide M = s.hide M := by
  unfold State.replay
  simp [hM]

@[simp] theorem State.sendNak_hide {M : List Comp} (hM : Comp.links ∈ M ∧ Comp.outbox ∈ M) (s : State) (m : Nat) : (State.sendNak s
    m).hide M = s.hide M := by
  unfold State.sendNak
  simp [hM]

@[simp] theorem State.crcError_hide {M : List Comp} (hM : Comp.links ∈ M ∧ Comp.outbox ∈ M) (s : State) (k : Nat) (b : Bytes) :
    (State.crcError s k b).hide M = s.hide M := by
  unfold State.crcError
  simp [hM]

@[simp] theorem State.outOfOrder_hide {M : List Comp} (hM : Comp.pt ∈ M ∧ Comp.links ∈ M ∧ Comp.tally ∈ M ∧ Comp.outbox ∈ M) (s : State)
    (m : Nat) (b : Bytes) : (State.outOfOrder s m b).hide M = s.hide M := by
  unfold State.outOfOrder
  simp [hM]

@[simp] theorem State.nakRepeat_hide {M : List Comp} (hM : Comp.links ∈ M ∧ Comp.outbox ∈ M) (s : State) (m : Nat) : (State.nakRepeat s
    m).hide M = s.hide M := by
  unfold State.nakRepeat
  simp [hM]

@[simp] theorem State.nakReceived_hide {M : List Comp} (hM : Comp.pt ∈ M ∧ Comp.units ∈ M ∧ Comp.links ∈ M ∧ Comp.tally ∈ M ∧ Comp.mc ∈
    M ∧ Comp.px ∈ M ∧ Comp.outbox ∈ M) (s : State) (k : Nat) (b : Bytes) : (State.nakReceived s k b).hide M = s.hide M := by
  unfold State.nakReceived
  simp [hM]

@[simp] theorem State.replayTimeout_hide {M : List Comp} (hM : Comp.units ∈ M ∧ Comp.links ∈ M ∧ Comp.mc ∈ M ∧ Comp.px ∈ M ∧ Comp.outbox
    ∈ M) (s : State) (m : Nat) : (State.replayTimeout s m).hide M = s.hide M := by
  unfold State.replayTimeout
  simp [hM]

@[simp] theorem State.idleReceived_hide {M : List Comp} (hM : Comp.pt ∈ M ∧ Comp.links ∈ M ∧ Comp.tally ∈ M ∧ Comp.outbox ∈ M) (s :
    State) (k : Nat) (b : Bytes) : (State.idleReceived s k b).hide M = s.hide M := by
  unfold State.idleReceived
  simp [hM]

@[simp] theorem State.retrainDone_hide {M : List Comp} (hM : Comp.pt ∈ M ∧ Comp.xl ∈ M ∧ Comp.qc ∈ M ∧ Comp.tier ∈ M ∧ Comp.rk ∈ M ∧
    Comp.ec ∈ M ∧ Comp.units ∈ M ∧ Comp.links ∈ M ∧ Comp.tally ∈ M ∧ Comp.mc ∈ M ∧ Comp.px ∈ M ∧ Comp.reqs ∈ M ∧ Comp.nextReq ∈ M ∧
    Comp.free ∈ M ∧ Comp.outbox ∈ M) (s : State) (k lo hi : Nat) (param : Bytes) : (State.retrainDone s k lo hi param).hide M = s.hide M := by
  unfold State.retrainDone
  split <;> simp [hM]

@[simp] theorem State.enterLp_hide {M : List Comp} (hM : Comp.units ∈ M ∧ Comp.links ∈ M ∧ Comp.mc ∈ M ∧ Comp.px ∈ M ∧ Comp.outbox ∈ M)
    (s : State) (k : Nat) : (State.enterLp s k).hide M = s.hide M := by
  unfold State.enterLp
  simp [hM]

@[simp] theorem State.exitLp_hide {M : List Comp} (hM : Comp.pt ∈ M ∧ Comp.units ∈ M ∧ Comp.links ∈ M ∧ Comp.tally ∈ M ∧ Comp.mc ∈ M ∧
    Comp.px ∈ M ∧ Comp.outbox ∈ M) (s : State) (k : Nat) : (State.exitLp s k).hide M = s.hide M := by
  unfold State.exitLp
  simp [hM]

@[simp] theorem State.writeTg_hide {M : List Comp} (hM : Comp.links ∈ M) (s : State) (k w : Nat) : (State.writeTg s k w).hide M = s.hide M := by
  unfold State.writeTg
  simp [hM]

@[simp] theorem State.sendTest_hide {M : List Comp} (hM : Comp.links ∈ M ∧ Comp.outbox ∈ M) (s : State) (k : Nat) : (State.sendTest s
    k).hide M = s.hide M := by
  unfold State.sendTest
  simp [hM]

@[simp] theorem State.testReceived_hide {M : List Comp} (hM : Comp.pt ∈ M ∧ Comp.links ∈ M ∧ Comp.tally ∈ M ∧ Comp.outbox ∈ M) (s :
    State) (k : Nat) (b : Bytes) : (State.testReceived s k b).hide M = s.hide M := by
  unfold State.testReceived
  simp [hM]

@[simp] theorem State.modPx_hide {M : List Comp} (hM : Comp.px ∈ M) (s : State) (f : Px → Px) : (State.modPx s f).hide M = s.hide M := by
  unfold State.modPx
  simp [hM]

@[simp] theorem State.modFn_hide {M : List Comp} (hM : Comp.px ∈ M) (s : State) (f : Nat) (g : PxFn → PxFn) : (State.modFn s f g).hide M
    = s.hide M := by
  unfold State.modFn
  simp [hM]

@[simp] theorem State.tlp_hide {M : List Comp} (hM : Comp.px ∈ M) (s : State) : (State.tlp s).hide M = s.hide M := by
  unfold State.tlp
  simp [hM]

@[simp] theorem State.abortReads_hide {M : List Comp} (hM : Comp.px ∈ M ∧ Comp.reqs ∈ M ∧ Comp.outbox ∈ M) (s : State) :
    (State.abortReads s).hide M = s.hide M := by
  unfold State.abortReads
  dsimp only
  rw [State.modPx_hide (by simp [hM]), each_hide M]
  · simp [hM]
  · intro t x
    repeat' (first | (simp [hM]; done) | split)

@[simp] theorem State.holdLink_hide {M : List Comp} (hM : Comp.px ∈ M) (s : State) : (State.holdLink s).hide M = s.hide M := by
  unfold State.holdLink
  simp [hM]

@[simp] theorem State.capoTrigger_hide {M : List Comp} (hM : Comp.mc ∈ M ∧ Comp.px ∈ M ∧ Comp.reqs ∈ M ∧ Comp.outbox ∈ M) (s : State)
    (cause err : Nat) : (State.capoTrigger s cause err).hide M = s.hide M := by
  unfold State.capoTrigger
  simp [hM]

@[simp] theorem State.capoRelease_hide {M : List Comp} (hM : Comp.px ∈ M) (s : State) : (State.capoRelease s).hide M = s.hide M := by
  unfold State.capoRelease
  simp [hM]

@[simp] theorem State.sendPending_hide {M : List Comp} (hM : Comp.px ∈ M ∧ Comp.outbox ∈ M) (s : State) (k : Nat) : (State.sendPending s
    k).hide M = s.hide M := by
  unfold State.sendPending
  simp [hM]

@[simp] theorem State.sendAllPending_hide {M : List Comp} (hM : Comp.px ∈ M ∧ Comp.outbox ∈ M) (s : State) : (State.sendAllPending
    s).hide M = s.hide M := by
  unfold State.sendAllPending
  simp [hM]

@[simp] theorem State.releaseDue_hide {M : List Comp} (hM : Comp.px ∈ M ∧ Comp.outbox ∈ M) (s : State) : (State.releaseDue s).hide M =
    s.hide M := by
  unfold State.releaseDue
  split <;> simp [hM]

@[simp] theorem State.aerCorrectable_hide {M : List Comp} (hM : Comp.ec ∈ M ∧ Comp.px ∈ M) (s : State) (b : Nat) : (State.aerCorrectable
    s b).hide M = s.hide M := by
  unfold State.aerCorrectable
  simp [hM]

@[simp] theorem State.aerUncorrectable_hide {M : List Comp} (hM : Comp.ec ∈ M ∧ Comp.px ∈ M) (s : State) (b : Nat) (header : Bytes) :
    (State.aerUncorrectable s b header).hide M = s.hide M := by
  unfold State.aerUncorrectable
  repeat' (first | (simp [hM]; done) | split)

@[simp] theorem State.aerCapo_hide {M : List Comp} (hM : Comp.mc ∈ M ∧ Comp.px ∈ M ∧ Comp.reqs ∈ M ∧ Comp.outbox ∈ M) (s : State) (b :
    Nat) : (State.aerCapo s b).hide M = s.hide M := by
  unfold State.aerCapo
  simp [hM]

@[simp] theorem State.aerError_hide {M : List Comp} (hM : Comp.ec ∈ M ∧ Comp.mc ∈ M ∧ Comp.px ∈ M ∧ Comp.reqs ∈ M ∧ Comp.outbox ∈ M) (s
    : State) (b : Nat) (header : Bytes) : (State.aerError s b header).hide M = s.hide M := by
  unfold State.aerError
  simp [hM]

@[simp] theorem State.aerDetected_hide {M : List Comp} (hM : Comp.ec ∈ M ∧ Comp.mc ∈ M ∧ Comp.px ∈ M ∧ Comp.reqs ∈ M ∧ Comp.outbox ∈ M)
    (s : State) (correctable : Bool) (b : Nat) (header : Bytes) : (State.aerDetected s correctable b header).hide M = s.hide M := by
  unfold State.aerDetected
  simp [hM]

@[simp] theorem State.unsupported_hide {M : List Comp} (hM : Comp.ec ∈ M ∧ Comp.mc ∈ M ∧ Comp.px ∈ M ∧ Comp.reqs ∈ M ∧ Comp.outbox ∈ M)
    (s : State) (header : Bytes) : (State.unsupported s header).hide M = s.hide M := by
  unfold State.unsupported
  simp [hM]

@[simp] theorem State.resetPort_hide {M : List Comp} (hM : Comp.px ∈ M) (s : State) : (State.resetPort s).hide M = s.hide M := by
  unfold State.resetPort
  simp [hM]

@[simp] theorem State.resetVf_hide {M : List Comp} (hM : Comp.px ∈ M) (s : State) (p : Nat) : (State.resetVf s p).hide M = s.hide M := by
  unfold State.resetVf
  simp [hM]

@[simp] theorem State.dlDown_hide {M : List Comp} (hM : Comp.ec ∈ M ∧ Comp.mc ∈ M ∧ Comp.px ∈ M ∧ Comp.reqs ∈ M ∧ Comp.outbox ∈ M) (s :
    State) : (State.dlDown s).hide M = s.hide M := by
  unfold State.dlDown
  simp [hM]

@[simp] theorem State.dlUp_hide {M : List Comp} (hM : Comp.mc ∈ M ∧ Comp.px ∈ M ∧ Comp.reqs ∈ M ∧ Comp.outbox ∈ M) (s : State) (width
    rate : Nat) (insert : Bool) : (State.dlUp s width rate insert).hide M = s.hide M := by
  unfold State.dlUp
  simp [hM]

@[simp] theorem State.l0pEnter_hide {M : List Comp} (hM : Comp.px ∈ M ∧ Comp.outbox ∈ M) (s : State) : (State.l0pEnter s).hide M = s.hide M := by
  unfold State.l0pEnter
  simp [hM]

@[simp] theorem State.l0pLeave_hide {M : List Comp} (hM : Comp.px ∈ M ∧ Comp.outbox ∈ M) (s : State) : (State.l0pLeave s).hide M = s.hide M := by
  unfold State.l0pLeave
  simp [hM]

@[simp] theorem State.l1Enter_hide {M : List Comp} (hM : Comp.px ∈ M ∧ Comp.outbox ∈ M) (s : State) : (State.l1Enter s).hide M = s.hide M := by
  unfold State.l1Enter
  simp [hM]

@[simp] theorem State.errMessage_hide {M : List Comp} (hM : Comp.mc ∈ M ∧ Comp.px ∈ M ∧ Comp.reqs ∈ M ∧ Comp.outbox ∈ M) (s : State)
    (rid kind : Nat) : (State.errMessage s rid kind).hide M = s.hide M := by
  unfold State.errMessage
  simp [hM]

@[simp] theorem State.errorEvent_hide {M : List Comp} (hM : Comp.mc ∈ M ∧ Comp.px ∈ M ∧ Comp.outbox ∈ M) (s : State) (e : ErrorEv) (kind
    level : Nat) (second : Bool) : (State.errorEvent s e kind level second).hide M = s.hide M := by
  unfold State.errorEvent
  simp [hM]

@[simp] theorem State.ecQuarantine_hide {M : List Comp} (hM : Comp.units ∈ M ∧ Comp.mc ∈ M ∧ Comp.px ∈ M ∧ Comp.outbox ∈ M) (s : State)
    (src u cause : Nat) : (State.ecQuarantine s src u cause).hide M = s.hide M := by
  unfold State.ecQuarantine
  simp [hM]

@[simp] theorem State.isolate_hide {M : List Comp} (hM : Comp.units ∈ M ∧ Comp.mc ∈ M ∧ Comp.px ∈ M ∧ Comp.outbox ∈ M) (s : State) (src
    : Nat) (l : List Nat) : (State.isolate s src l).hide M = s.hide M := by
  unfold State.isolate
  simp [hM]

@[simp] theorem State.freeze_hide {M : List Comp} (hM : Comp.pt ∈ M ∧ Comp.units ∈ M ∧ Comp.mc ∈ M ∧ Comp.px ∈ M ∧ Comp.outbox ∈ M) (s :
    State) (src : Nat) (l : List Nat) : (State.freeze s src l).hide M = s.hide M := by
  unfold State.freeze
  simp [hM]

@[simp] theorem State.levelAction_hide {M : List Comp} (hM : Comp.pt ∈ M ∧ Comp.units ∈ M ∧ Comp.mc ∈ M ∧ Comp.px ∈ M ∧ Comp.reqs ∈ M ∧
    Comp.outbox ∈ M) (s : State) (src : Nat) (l : List Nat) (level : Nat) : (State.levelAction s src l level).hide M = s.hide M := by
  unfold State.levelAction
  split <;> simp [hM]

@[simp] theorem State.raiseTo_hide {M : List Comp} (hM : Comp.pt ∈ M ∧ Comp.ec ∈ M ∧ Comp.units ∈ M ∧ Comp.mc ∈ M ∧ Comp.px ∈ M ∧
    Comp.reqs ∈ M ∧ Comp.outbox ∈ M) (s : State) (e : ErrorEv) (level : Nat) (step : Bool) : (State.raiseTo s e level step).hide M =
    s.hide M := by
  unfold State.raiseTo
  simp [hM]

@[simp] theorem State.latchUnmasked_hide {M : List Comp} (hM : Comp.pt ∈ M ∧ Comp.ec ∈ M ∧ Comp.units ∈ M ∧ Comp.mc ∈ M ∧ Comp.px ∈ M ∧
    Comp.reqs ∈ M ∧ Comp.outbox ∈ M) (s : State) (e : ErrorEv) : (State.latchUnmasked s e).hide M = s.hide M := by
  unfold State.latchUnmasked
  simp [hM]

@[simp] theorem State.latch_hide {M : List Comp} (hM : Comp.pt ∈ M ∧ Comp.ec ∈ M ∧ Comp.units ∈ M ∧ Comp.mc ∈ M ∧ Comp.px ∈ M ∧
    Comp.reqs ∈ M ∧ Comp.outbox ∈ M) (s : State) (e : ErrorEv) : (State.latch s e).hide M = s.hide M := by
  unfold State.latch
  simp [hM]

@[simp] theorem State.latchLine_hide {M : List Comp} (hM : Comp.pt ∈ M ∧ Comp.ec ∈ M ∧ Comp.units ∈ M ∧ Comp.mc ∈ M ∧ Comp.px ∈ M ∧
    Comp.reqs ∈ M ∧ Comp.outbox ∈ M) (s : State) (e : ErrorEv) : (State.latchLine s e).hide M = s.hide M := by
  unfold State.latchLine
  simp [hM]

@[simp] theorem State.graceExpiry_hide {M : List Comp} (hM : Comp.pt ∈ M ∧ Comp.ec ∈ M ∧ Comp.units ∈ M ∧ Comp.mc ∈ M ∧ Comp.px ∈ M ∧
    Comp.reqs ∈ M ∧ Comp.outbox ∈ M) (s : State) (src : Nat) : (State.graceExpiry s src).hide M = s.hide M := by
  unfold State.graceExpiry
  dsimp only
  repeat' (first | (simp [hM]; done) | split)

@[simp] theorem State.acknowledge_hide {M : List Comp} (hM : Comp.pt ∈ M ∧ Comp.ec ∈ M ∧ Comp.units ∈ M ∧ Comp.mc ∈ M ∧ Comp.px ∈ M ∧
    Comp.outbox ∈ M) (s : State) (src : Nat) : (State.acknowledge s src).hide M = s.hide M := by
  unfold State.acknowledge
  simp [hM]

@[simp] theorem State.changeSource_hide {M : List Comp} (hM : Comp.pt ∈ M ∧ Comp.ec ∈ M ∧ Comp.units ∈ M ∧ Comp.mc ∈ M ∧ Comp.px ∈ M ∧
    Comp.outbox ∈ M) (s : State) (src : Nat) (f : Source → Source) : (State.changeSource s src f).hide M = s.hide M := by
  unfold State.changeSource
  simp [hM]

@[simp] theorem State.clearStatus_hide {M : List Comp} (hM : Comp.pt ∈ M ∧ Comp.ec ∈ M ∧ Comp.units ∈ M ∧ Comp.mc ∈ M ∧ Comp.px ∈ M ∧
    Comp.outbox ∈ M) (s : State) (w : Nat) : (State.clearStatus s w).hide M = s.hide M := by
  unfold State.clearStatus
  simp [hM]

@[simp] theorem State.releaseUnits_hide {M : List Comp} (hM : Comp.pt ∈ M ∧ Comp.units ∈ M ∧ Comp.mc ∈ M ∧ Comp.px ∈ M ∧ Comp.outbox ∈
    M) (s : State) (src : Nat) : (State.releaseUnits s src).hide M = s.hide M := by
  refine each_hide M _ _ _ fun t x => ?_
  dsimp only
  split
  · simp [hM]
  · rw [State.modUnit_hide (by simp [hM])]
    cases h : (t.modUnit x fun w => { w with sources := setBits w.sources src 1 0 }).mcWrite x 0
        ((t.modUnit x fun w => { w with sources := setBits w.sources src 1 0 }).unit x).epoch with
    | none => simp [hM]
    | some t' => simp [State.mcWrite_hide (M := M) (by simp [hM]) _ _ _ _ _ h, hM]

@[simp] theorem State.quietExpiry_hide {M : List Comp} (hM : Comp.pt ∈ M ∧ Comp.ec ∈ M ∧ Comp.units ∈ M ∧ Comp.mc ∈ M ∧ Comp.px ∈ M ∧
    Comp.outbox ∈ M) (s : State) (src : Nat) : (State.quietExpiry s src).hide M = s.hide M := by
  unfold State.quietExpiry
  dsimp only
  repeat' (first | (simp [hM]; done) | split)

@[simp] theorem State.inject_hide {M : List Comp} (hM : Comp.pt ∈ M ∧ Comp.ec ∈ M ∧ Comp.units ∈ M ∧ Comp.mc ∈ M ∧ Comp.px ∈ M ∧
    Comp.reqs ∈ M ∧ Comp.outbox ∈ M) (s : State) (w : Nat) : (State.inject s w).hide M = s.hide M := by
  unfold State.inject
  simp [hM]

@[simp] theorem State.aliveToggle_hide {M : List Comp} (hM : Comp.ec ∈ M) (s : State) : (State.aliveToggle s).hide M = s.hide M := by
  unfold State.aliveToggle
  simp [hM]

@[simp] theorem State.reconcileUnit_hide {M : List Comp} (hM : Comp.pt ∈ M ∧ Comp.units ∈ M ∧ Comp.mc ∈ M ∧ Comp.px ∈ M ∧ Comp.outbox ∈
    M) (s : State) (u : Nat) : (State.reconcileUnit s u).hide M = s.hide M := by
  unfold State.reconcileUnit
  dsimp only
  split
  · rfl
  · rw [State.mgtEvent_hide (by simp [hM]), hide_mc (by simp [hM])]
    split
    · generalize hm : State.mcWrite _ _ _ _ = o
      cases o with
      | none => simp [hM]
      | some t => simp [State.mcWrite_hide (M := M) (by simp [hM]) _ _ _ _ _ hm, hM]
    · simp [hM]

@[simp] theorem State.reconcile_hide {M : List Comp} (hM : Comp.pt ∈ M ∧ Comp.units ∈ M ∧ Comp.mc ∈ M ∧ Comp.px ∈ M ∧ Comp.outbox ∈ M)
    (s : State) : (State.reconcile s).hide M = s.hide M := by
  unfold State.reconcile
  simp [hM]

@[simp] theorem State.modTally_hide {M : List Comp} (hM : Comp.tally ∈ M) (s : State) (f : Tally → Tally) : (State.modTally s f).hide M
    = s.hide M := by
  unfold State.modTally
  simp [hM]

@[simp] theorem State.flushUnits_hide {M : List Comp} (hM : Comp.tally ∈ M) (s : State) : (State.flushUnits s).hide M = s.hide M := by
  unfold State.flushUnits
  simp [hM]

@[simp] theorem State.requestCommit_hide {M : List Comp} (hM : Comp.tally ∈ M) (s : State) (box : Option Nat) : (State.requestCommit s
    box).hide M = s.hide M := by
  unfold State.requestCommit
  simp [hM]

@[simp] theorem State.accumAge_hide {M : List Comp} (hM : Comp.tally ∈ M) (s : State) (p k : Nat) : (State.accumAge s p k).hide M =
    s.hide M := by
  unfold State.accumAge
  simp [hM]

@[simp] theorem State.takePulse_hide {M : List Comp} (hM : Comp.tally ∈ M) (s : State) : (State.takePulse s).hide M = s.hide M := by
  unfold State.takePulse
  split <;> simp [hM]

@[simp] theorem State.takeLifetime_hide {M : List Comp} (hM : Comp.tally ∈ M) (s : State) : (State.takeLifetime s).hide M = s.hide M := by
  unfold State.takeLifetime
  split <;> simp [hM]

@[simp] theorem State.takeMark_hide {M : List Comp} (hM : Comp.tally ∈ M) (s : State) : (State.takeMark s).hide M = s.hide M := by
  unfold State.takeMark
  split <;> simp [hM]

@[simp] theorem State.tallyCommit_hide {M : List Comp} (hM : Comp.tally ∈ M) (s : State) : (State.tallyCommit s).hide M = s.hide M := by
  unfold State.tallyCommit
  simp [hM]

@[simp] theorem State.tallyStored_hide {M : List Comp} (hM : Comp.tally ∈ M ∧ Comp.mc ∈ M ∧ Comp.px ∈ M ∧ Comp.outbox ∈ M) (s : State) :
    (State.tallyStored s).hide M = s.hide M := by
  unfold State.tallyStored
  split <;> simp [hM]

@[simp] theorem State.powerWarn_hide {M : List Comp} (hM : Comp.tally ∈ M) (s : State) : (State.powerWarn s).hide M = s.hide M := by
  unfold State.powerWarn
  simp [hM]

@[simp] theorem State.powerWarnDue_hide {M : List Comp} (hM : Comp.tally ∈ M) (s : State) (low : Bool) : (State.powerWarnDue s low).hide
    M = s.hide M := by
  unfold State.powerWarnDue
  split <;> simp [hM]

@[simp] theorem State.selectRecord_hide {M : List Comp} (hM : Comp.tally ∈ M) (s : State) (w : Nat) : (State.selectRecord s w).hide M =
    s.hide M := by
  unfold State.selectRecord
  simp [hM]

@[simp] theorem State.chordDoorbell_hide {M : List Comp} (hM : Comp.pt ∈ M ∧ Comp.ch ∈ M ∧ Comp.tally ∈ M) (s : State) (p w : Nat) :
    (State.chordDoorbell s p w).hide M = s.hide M := by
  refine State.checkDoorbell_hide (by simp [hM]) _ _ _ _ ?_
  repeat' (first | (simp [hM]; done) | (simp_all [pair_eq]; done) | split)

@[simp] theorem State.chError_hide {M : List Comp} (hM : Comp.ec ∈ M) (s : State) (p detail : Nat) : (State.chError s p detail).hide M =
    s.hide M := by
  unfold State.chError
  simp [hM]

@[simp] theorem State.chordFailed_hide {M : List Comp} (hM : Comp.ch ∈ M ∧ Comp.ec ∈ M ∧ Comp.reqs ∈ M) (s : State) (p k : Nat) :
    (State.chordFailed s p k).hide M = s.hide M := by
  unfold State.chordFailed
  simp [hM]

@[simp] theorem State.readHeader_hide {M : List Comp} (hM : Comp.pt ∈ M ∧ Comp.ch ∈ M ∧ Comp.ec ∈ M ∧ Comp.tally ∈ M ∧ Comp.reqs ∈ M ∧
    Comp.nextReq ∈ M) (s : State) (p k : Nat) : (State.readHeader s p k).hide M = s.hide M := by
  unfold State.readHeader
  simp [hM]

@[simp] theorem State.fetchChord_hide {M : List Comp} (hM : Comp.pt ∈ M ∧ Comp.ch ∈ M ∧ Comp.ec ∈ M ∧ Comp.tally ∈ M ∧ Comp.reqs ∈ M ∧
    Comp.nextReq ∈ M) (s : State) (p : Nat) : (State.fetchChord s p).hide M = s.hide M := by
  unfold State.fetchChord
  repeat' (first | (simp [hM]; done) | split)

@[simp] theorem State.refetchChord_hide {M : List Comp} (hM : Comp.pt ∈ M ∧ Comp.ch ∈ M ∧ Comp.ec ∈ M ∧ Comp.tally ∈ M ∧ Comp.reqs ∈ M ∧
    Comp.nextReq ∈ M) (s : State) (p : Nat) : (State.refetchChord s p).hide M = s.hide M := by
  unfold State.refetchChord
  split <;> simp [hM]

@[simp] theorem State.decideChord_hide {M : List Comp} (hM : Comp.ch ∈ M) (s : State) (p k status failed detail : Nat) :
    (State.decideChord s p k status failed detail).hide M = s.hide M := by
  unfold State.decideChord
  simp [hM]

@[simp] theorem State.headerReturned_hide {M : List Comp} (hM : Comp.pt ∈ M ∧ Comp.xl ∈ M ∧ Comp.ch ∈ M ∧ Comp.ec ∈ M ∧ Comp.tally ∈ M ∧
    Comp.mc ∈ M ∧ Comp.px ∈ M ∧ Comp.reqs ∈ M ∧ Comp.nextReq ∈ M ∧ Comp.outbox ∈ M) (s : State) (p : Nat) (res : RdRes) :
    (State.headerReturned s p res).hide M = s.hide M := by
  unfold State.headerReturned
  split
  · rfl
  · split
    · dsimp only
      repeat' (first | (simp [hM]; done) | split)
    · simp [hM]
    · rfl

@[simp] theorem State.takeChord_hide {M : List Comp} (hM : Comp.pt ∈ M ∧ Comp.xl ∈ M ∧ Comp.ch ∈ M ∧ Comp.ec ∈ M ∧ Comp.reqs ∈ M) (s :
    State) (p : Nat) (lines : List RdRes) : (State.takeChord s p lines).hide M = s.hide M := by
  unfold State.takeChord
  dsimp only
  repeat' (first | (simp [hM]; done) | split)

theorem State.applyRing_hide {M : List Comp} (hM : Comp.qc ∈ M ∧ Comp.mc ∈ M ∧ Comp.px ∈ M ∧ Comp.reqs ∈ M ∧ Comp.outbox ∈ M) (s :
    State) (p r : Nat) (launch : Bool) (pi lap : Nat) : ∀ t, State.applyRing s p r launch pi lap = .ok t → t.hide M = s.hide M := by
  unfold State.applyRing
  dsimp only
  repeat' (first | (simp [hM]; done) | split)

theorem State.applyAction_hide {M : List Comp} (hM : Comp.pt ∈ M ∧ Comp.xl ∈ M ∧ Comp.qc ∈ M ∧ Comp.tier ∈ M ∧ Comp.rk ∈ M ∧ Comp.ec ∈ M
    ∧ Comp.tally ∈ M ∧ Comp.mc ∈ M ∧ Comp.px ∈ M ∧ Comp.reqs ∈ M ∧ Comp.nextReq ∈ M ∧ Comp.outbox ∈ M) (s : State) (p k : Nat) (acts :
    List Action) (a : Action) : ∀ t, State.applyAction s p k acts a = .ok t → t.hide M = s.hide M := by
  have hr : ∀ f : Nat → Except (Nat × Nat) State, (∀ r t, f r = .ok t → t.hide M = s.hide M) → ∀ t, State.applyAction.onRing s p a f = .ok t → t.hide M = s.hide M := by
    intro f h t ht
    unfold State.applyAction.onRing at ht
    split at ht
    · exact h _ t ht
    · simp [hM] at ht
  have ha : ∀ r l x y t, (State.applyRing s p r l x y).mapError (fun d => (a.ix, d)) = .ok t → t.hide M = s.hide M := by
    intro r l x y t h
    cases hx : State.applyRing s p r l x y with
    | error e => simp [hx, Except.mapError, hM] at h
    | ok u =>
      simp only [hx, Except.mapError, Except.ok.injEq] at h
      exact h ▸ State.applyRing_hide (by simp [hM]) _ _ _ _ _ _ _ hx
  intro t h
  unfold State.applyAction at h
  dsimp only at h
  split at h
  · exact hr _ (fun r t h => ha _ _ _ _ t h) t h
  · exact hr _ (fun r t h => ha _ _ _ _ t h) t h
  · refine hr _ (fun r t h => ?_) t h
    split at h
    · simp [hM] at h
    · split at h
      · simp [hM] at h
      · rw [← Except.ok.inj h]
        simp [hM]
  · refine hr _ (fun r t h => ?_) t h
    split at h
    · simp [hM] at h
    · rw [← Except.ok.inj h]
      simp [hM]
  · repeat' (first | contradiction | split at h | (rw [← Except.ok.inj h]; simp [hM]; done))
  · split at h
    · rw [← Except.ok.inj h]
      simp [hM]
    · rw [← Except.ok.inj h]
  · split at h
    · contradiction
    · rw [← Except.ok.inj h]
      simp [hM]

theorem State.applyActions_hide {M : List Comp} (hM : Comp.pt ∈ M ∧ Comp.xl ∈ M ∧ Comp.qc ∈ M ∧ Comp.tier ∈ M ∧ Comp.rk ∈ M ∧ Comp.ec ∈
    M ∧ Comp.tally ∈ M ∧ Comp.mc ∈ M ∧ Comp.px ∈ M ∧ Comp.reqs ∈ M ∧ Comp.nextReq ∈ M ∧ Comp.outbox ∈ M) (s : State) (p k : Nat) (acts :
    List Action) (x0 : List Action) : ∀ t, State.applyActions s p k acts x0 = .ok t → t.hide M = s.hide M := by
  induction x0 generalizing s with
  | nil =>
    intro t h
    rw [← Except.ok.inj h]
  | cons a l ih =>
    intro t h
    unfold State.applyActions at h
    split at h
    · rename_i h1
      rw [ih _ t h, State.applyAction_hide (by simp [hM]) _ _ _ _ _ _ h1]
    · contradiction

@[simp] theorem State.commitChord_hide {M : List Comp} (hM : Comp.pt ∈ M ∧ Comp.xl ∈ M ∧ Comp.qc ∈ M ∧ Comp.tier ∈ M ∧ Comp.rk ∈ M ∧
    Comp.ch ∈ M ∧ Comp.ec ∈ M ∧ Comp.tally ∈ M ∧ Comp.mc ∈ M ∧ Comp.px ∈ M ∧ Comp.reqs ∈ M ∧ Comp.nextReq ∈ M ∧ Comp.outbox ∈ M) (s :
    State) (p : Nat) : (State.commitChord s p).hide M = s.hide M := by
  unfold State.commitChord
  dsimp only
  split
  · rfl
  · split
    · rfl
    · split
      · simp [hM]
      · split
        · simp [hM]
        · rename_i h
          simp [State.applyActions_hide (M := M) (by simp [hM]) _ _ _ _ _ _ h, hM]

@[simp] theorem State.chordTimeout_hide {M : List Comp} (hM : Comp.ch ∈ M) (s : State) (k : Nat) : (State.chordTimeout s k).hide M =
    s.hide M := by
  unfold State.chordTimeout
  simp [hM]

@[simp] theorem State.chordWrite_hide {M : List Comp} (hM : Comp.pt ∈ M ∧ Comp.tier ∈ M ∧ Comp.ec ∈ M ∧ Comp.tally ∈ M ∧ Comp.reqs ∈ M ∧
    Comp.nextReq ∈ M) (s : State) (p pa : Nat) (data : Bytes) (pu : Purpose) : (State.chordWrite s p pa data pu).hide M = s.hide M := by
  unfold State.chordWrite
  simp [hM]

@[simp] theorem State.chordAck_hide {M : List Comp} (hM : Comp.pt ∈ M ∧ Comp.xl ∈ M ∧ Comp.ec ∈ M ∧ Comp.reqs ∈ M) (s : State) (p : Nat)
    (pu : Purpose) (ack : WrRes) : (State.chordAck s p pu ack).hide M = s.hide M := by
  unfold State.chordAck
  split <;> simp [hM]

@[simp] theorem State.chordStatus_hide {M : List Comp} (hM : Comp.pt ∈ M ∧ Comp.tier ∈ M ∧ Comp.ch ∈ M ∧ Comp.ec ∈ M ∧ Comp.tally ∈ M ∧
    Comp.reqs ∈ M ∧ Comp.nextReq ∈ M) (s : State) (k : Nat) : (State.chordStatus s k).hide M = s.hide M := by
  unfold State.chordStatus
  simp [hM]

@[simp] theorem State.chordOwn_hide {M : List Comp} (hM : Comp.pt ∈ M ∧ Comp.xl ∈ M ∧ Comp.tier ∈ M ∧ Comp.ch ∈ M ∧ Comp.ec ∈ M ∧
    Comp.tally ∈ M ∧ Comp.reqs ∈ M ∧ Comp.nextReq ∈ M) (s : State) (k : Nat) (ack : WrRes) : (State.chordOwn s k ack).hide M = s.hide M := by
  unfold State.chordOwn
  simp [hM]

@[simp] theorem State.chordNote_hide {M : List Comp} (hM : Comp.pt ∈ M ∧ Comp.xl ∈ M ∧ Comp.tier ∈ M ∧ Comp.ch ∈ M ∧ Comp.ec ∈ M ∧
    Comp.tally ∈ M ∧ Comp.reqs ∈ M ∧ Comp.nextReq ∈ M) (s : State) (k : Nat) (ack : WrRes) : (State.chordNote s k ack).hide M = s.hide M := by
  unfold State.chordNote
  simp [hM]

@[simp] theorem State.dropChords_hide {M : List Comp} (hM : Comp.ch ∈ M ∧ Comp.reqs ∈ M) (s : State) (p : Nat) : (State.dropChords s
    p).hide M = s.hide M := by
  unfold State.dropChords
  simp [hM]

@[simp] theorem State.freeSlots_hide {M : List Comp} (hM : Comp.links ∈ M) (s : State) (m : Nat) (x : Rx) : (State.freeSlots s m x).hide
    M = s.hide M := by
  unfold State.freeSlots
  simp [hM]

@[simp] theorem State.refuseKpp_hide {M : List Comp} (hM : Comp.pt ∈ M ∧ Comp.links ∈ M ∧ Comp.tally ∈ M ∧ Comp.outbox ∈ M) (s : State)
    (p : Nat) (x : Rx) (status : Nat) : (State.refuseKpp s p x status).hide M = s.hide M := by
  unfold State.refuseKpp
  simp [hM]

@[simp] theorem State.replyKpp_hide {M : List Comp} (hM : Comp.pt ∈ M ∧ Comp.links ∈ M ∧ Comp.tally ∈ M ∧ Comp.outbox ∈ M) (s : State)
    (p : Nat) (x : Rx) (status : Nat) : (State.replyKpp s p x status).hide M = s.hide M := by
  unfold State.replyKpp
  simp [hM]

@[simp] theorem State.serveKpp_hide {M : List Comp} (hM : Comp.pt ∈ M ∧ Comp.ec ∈ M ∧ Comp.links ∈ M ∧ Comp.tally ∈ M ∧ Comp.reqs ∈ M ∧
    Comp.nextReq ∈ M ∧ Comp.outbox ∈ M) (s : State) (m p : Nat) (x : Rx) : (State.serveKpp s m p x).hide M = s.hide M := by
  unfold State.serveKpp
  dsimp only
  repeat' (first | (simp [hM]; done) | split)

@[simp] theorem State.kppDone_hide {M : List Comp} (hM : Comp.pt ∈ M ∧ Comp.links ∈ M ∧ Comp.tally ∈ M ∧ Comp.outbox ∈ M) (s : State)
    (id status : Nat) (data : Bytes) : (State.kppDone s id status data).hide M = s.hide M := by
  unfold State.kppDone
  split <;> simp [hM]

@[simp] theorem State.inboundAcked_hide {M : List Comp} (hM : Comp.pt ∈ M ∧ Comp.xl ∈ M ∧ Comp.links ∈ M ∧ Comp.tally ∈ M ∧ Comp.reqs ∈
    M ∧ Comp.outbox ∈ M) (s : State) (q : Req) (res : WrRes) : (State.inboundAcked s q res).hide M = s.hide M := by
  unfold State.inboundAcked
  split <;> simp [hM]

@[simp] theorem State.kppRead_hide {M : List Comp} (hM : Comp.pt ∈ M ∧ Comp.xl ∈ M ∧ Comp.links ∈ M ∧ Comp.tally ∈ M ∧ Comp.reqs ∈ M ∧
    Comp.outbox ∈ M) (s : State) (q : Req) (id : Nat) (res : RdRes) : (State.kppRead s q id res).hide M = s.hide M := by
  unfold State.kppRead
  split <;> simp [hM]

@[simp] theorem State.takeReport_hide {M : List Comp} (hM : Comp.rk ∈ M ∧ Comp.ec ∈ M ∧ Comp.mc ∈ M ∧ Comp.px ∈ M ∧ Comp.outbox ∈ M) (s
    : State) (p : Nat) (b : Bytes) : (State.takeReport s p b).hide M = s.hide M := by
  unfold State.takeReport
  simp [hM]

@[simp] theorem State.lostMessage_hide {M : List Comp} (hM : Comp.mc ∈ M ∧ Comp.px ∈ M ∧ Comp.outbox ∈ M) (s : State) (p dst tag : Nat)
    : (State.lostMessage s p dst tag).hide M = s.hide M := by
  unfold State.lostMessage
  simp [hM]

theorem State.sendMessage_hide {M : List Comp} (hM : Comp.pt ∈ M ∧ Comp.links ∈ M ∧ Comp.tally ∈ M ∧ Comp.mc ∈ M ∧ Comp.px ∈ M ∧
    Comp.free ∈ M ∧ Comp.outbox ∈ M) (s : State) (p dst : Nat) (payload : Bytes) : ∀ t, State.sendMessage s p dst payload = some t →
    t.hide M = s.hide M := by
  intro t h
  unfold State.sendMessage at h
  split at h
  · simp at h
  · rename_i h1
    have hf := State.freeTag_hide (M := M) (by simp [hM]) _ _ _ h1
    split at h
    · rw [← Option.some.inj h]
      simp [hf, hM]
    · split at h
      · simp at h
      · rw [← Option.some.inj h]
        simp [hf, hM]

@[simp] theorem State.sendReport_hide {M : List Comp} (hM : Comp.pt ∈ M ∧ Comp.rk ∈ M ∧ Comp.links ∈ M ∧ Comp.tally ∈ M ∧ Comp.mc ∈ M ∧
    Comp.px ∈ M ∧ Comp.free ∈ M ∧ Comp.outbox ∈ M) (s : State) (p : Nat) : (State.sendReport s p).hide M = s.hide M := by
  unfold State.sendReport
  split
  · rfl
  · dsimp only
    split
    · rfl
    · split
      · rename_i h
        rw [State.sendMessage_hide (by simp [hM]) _ _ _ _ _ h]
        simp [hM]
      · rfl

@[simp] theorem State.messageTimeout_hide {M : List Comp} (hM : Comp.links ∈ M ∧ Comp.mc ∈ M ∧ Comp.px ∈ M ∧ Comp.outbox ∈ M) (s :
    State) (t : Nat) : (State.messageTimeout s t).hide M = s.hide M := by
  unfold State.messageTimeout
  simp [hM]

@[simp] theorem State.takeResponse_hide {M : List Comp} (hM : Comp.pt ∈ M ∧ Comp.xl ∈ M ∧ Comp.qc ∈ M ∧ Comp.tier ∈ M ∧ Comp.rk ∈ M ∧
    Comp.ec ∈ M ∧ Comp.links ∈ M ∧ Comp.tally ∈ M ∧ Comp.mc ∈ M ∧ Comp.px ∈ M ∧ Comp.reqs ∈ M ∧ Comp.nextReq ∈ M ∧ Comp.free ∈ M ∧
    Comp.outbox ∈ M) (s : State) (x : Rx) (exact : Bool) : (State.takeResponse s x exact).hide M = s.hide M := by
  unfold State.takeResponse
  dsimp only
  repeat' (first | (simp [hM]; done) | split)

@[simp] theorem State.forward_hide {M : List Comp} (hM : Comp.pt ∈ M ∧ Comp.links ∈ M ∧ Comp.tally ∈ M ∧ Comp.outbox ∈ M) (s : State) (m
    p : Nat) (x : Rx) (resp : Bool) : (State.forward s m p x resp).hide M = s.hide M := by
  unfold State.forward
  dsimp only
  repeat' (first | (simp [hM]; done) | split)

@[simp] theorem State.deliver_hide {M : List Comp} (hM : Comp.pt ∈ M ∧ Comp.xl ∈ M ∧ Comp.qc ∈ M ∧ Comp.tier ∈ M ∧ Comp.rk ∈ M ∧ Comp.ec
    ∈ M ∧ Comp.links ∈ M ∧ Comp.tally ∈ M ∧ Comp.mc ∈ M ∧ Comp.px ∈ M ∧ Comp.reqs ∈ M ∧ Comp.nextReq ∈ M ∧ Comp.free ∈ M ∧ Comp.outbox ∈
    M) (s0 : State) (m p : Nat) (x : Rx) : (State.deliver s0 m p x).hide M = s0.hide M := by
  unfold State.deliver
  simp [hM]

@[simp] theorem State.acceptSeq_hide {M : List Comp} (hM : Comp.pt ∈ M ∧ Comp.links ∈ M ∧ Comp.tally ∈ M ∧ Comp.outbox ∈ M) (s : State)
    (m : Nat) (b : Bytes) : (State.acceptSeq s m b).hide M = s.hide M := by
  unfold State.acceptSeq
  simp [hM]

@[simp] theorem State.payloadReceived_hide {M : List Comp} (hM : Comp.pt ∈ M ∧ Comp.xl ∈ M ∧ Comp.qc ∈ M ∧ Comp.tier ∈ M ∧ Comp.rk ∈ M ∧
    Comp.ec ∈ M ∧ Comp.links ∈ M ∧ Comp.tally ∈ M ∧ Comp.mc ∈ M ∧ Comp.px ∈ M ∧ Comp.reqs ∈ M ∧ Comp.nextReq ∈ M ∧ Comp.free ∈ M ∧
    Comp.outbox ∈ M) (s : State) (m : Nat) (b : Bytes) : (State.payloadReceived s m b).hide M = s.hide M := by
  unfold State.payloadReceived
  dsimp only
  repeat' (first | (simp [hM]; done) | split)

@[simp] theorem State.respReceived_hide {M : List Comp} (hM : Comp.pt ∈ M ∧ Comp.xl ∈ M ∧ Comp.qc ∈ M ∧ Comp.tier ∈ M ∧ Comp.rk ∈ M ∧
    Comp.ec ∈ M ∧ Comp.links ∈ M ∧ Comp.tally ∈ M ∧ Comp.mc ∈ M ∧ Comp.px ∈ M ∧ Comp.reqs ∈ M ∧ Comp.nextReq ∈ M ∧ Comp.free ∈ M ∧
    Comp.outbox ∈ M) (s : State) (m : Nat) (b : Bytes) : (State.respReceived s m b).hide M = s.hide M := by
  unfold State.respReceived
  simp [hM]

end Sys2Proof.Machine
end

