-- ==== Sys2Proof/Laws/HideMc.lean ====
section
/-! SUPPORT. Which units each operation leaves alone: partitions, mailboxes and their commands, firmware, resets, registers, tenants, the port, acknowledgements and the tick. Each leaves every unit alone but those its first hypothesis names. -/

set_option linter.unusedTactic false
set_option linter.unreachableTactic false
set_option linter.unusedSimpArgs false

namespace Sys2Proof.Machine

@[simp] theorem State.forget_hide {M : List Comp} (hM : Comp.pt ∈ M ∧ Comp.xl ∈ M ∧ Comp.reqs ∈ M) (s : State) (pick : Req → Bool) :
    (State.forget s pick).hide M = s.hide M := by
  unfold State.forget
  simp [hM]

@[simp] theorem State.orphanPart_hide {M : List Comp} (hM : Comp.pt ∈ M ∧ Comp.xl ∈ M ∧ Comp.tier ∈ M ∧ Comp.tally ∈ M ∧ Comp.reqs ∈ M ∧
    Comp.nextReq ∈ M) (s : State) (p : Nat) (discard : Bool) : (State.orphanPart s p discard).hide M = s.hide M := by
  unfold State.orphanPart
  simp [hM]

@[simp] theorem State.dropPackets_hide {M : List Comp} (hM : Comp.links ∈ M) (s : State) (p : Nat) : (State.dropPackets s p).hide M =
    s.hide M := by
  unfold State.dropPackets
  simp [hM]

@[simp] theorem State.dropJobs_hide {M : List Comp} (hM : Comp.rk ∈ M) (s : State) (p : Nat) : (State.dropJobs s p).hide M = s.hide M := by
  unfold State.dropJobs
  simp [hM]

@[simp] theorem State.dropWorks_hide {M : List Comp} (hM : Comp.qc ∈ M) (s : State) (p : Nat) (f : Ring → Ring) : (State.dropWorks s p
    f).hide M = s.hide M := by
  unfold State.dropWorks
  simp [hM]

@[simp] theorem State.dropWalks_hide {M : List Comp} (hM : Comp.xl ∈ M) (s : State) (p : Nat) : (State.dropWalks s p).hide M = s.hide M := by
  unfold State.dropWalks
  simp [hM]

@[simp] theorem State.dropInvals_hide {M : List Comp} (hM : Comp.xl ∈ M) (s : State) (p : Nat) : (State.dropInvals s p).hide M = s.hide M := by
  unfold State.dropInvals
  simp [hM]

@[simp] theorem State.stopWork_hide {M : List Comp} (hM : Comp.pt ∈ M ∧ Comp.xl ∈ M ∧ Comp.qc ∈ M ∧ Comp.tier ∈ M ∧ Comp.rk ∈ M ∧
    Comp.ch ∈ M ∧ Comp.tally ∈ M ∧ Comp.reqs ∈ M ∧ Comp.nextReq ∈ M) (s : State) (p : Nat) (discard : Bool) (f : Ring → Ring) :
    (State.stopWork s p discard f).hide M = s.hide M := by
  unfold State.stopWork
  simp [hM]

@[simp] theorem State.startScrub_hide {M : List Comp} (hM : Comp.pt ∈ M ∧ Comp.xl ∈ M ∧ Comp.qc ∈ M ∧ Comp.tier ∈ M ∧ Comp.rk ∈ M ∧
    Comp.ch ∈ M ∧ Comp.units ∈ M ∧ Comp.links ∈ M ∧ Comp.tally ∈ M ∧ Comp.mc ∈ M ∧ Comp.px ∈ M ∧ Comp.reqs ∈ M ∧ Comp.nextReq ∈ M ∧
    Comp.outbox ∈ M) (s : State) (p detail : Nat) : (State.startScrub s p detail).hide M = s.hide M := by
  unfold State.startScrub
  dsimp only
  repeat' (first | (simp [hM]; done) | split)

@[simp] theorem State.quiesceEnd_hide {M : List Comp} (hM : Comp.pt ∈ M ∧ Comp.xl ∈ M ∧ Comp.qc ∈ M ∧ Comp.tier ∈ M ∧ Comp.links ∈ M ∧
    Comp.mc ∈ M ∧ Comp.px ∈ M ∧ Comp.reqs ∈ M ∧ Comp.outbox ∈ M) (s : State) (p : Nat) : (State.quiesceEnd s p).hide M = s.hide M := by
  unfold State.quiesceEnd
  dsimp only
  split
  · rfl
  · rw [each_hide M _ _ _ fun t r => by simp [hM], State.modPart_hide (by simp [hM])]
    simp [hM]

@[simp] theorem State.close_hide {M : List Comp} (hM : Comp.pt ∈ M ∧ Comp.xl ∈ M ∧ Comp.qc ∈ M ∧ Comp.tier ∈ M ∧ Comp.rk ∈ M ∧ Comp.ch ∈
    M ∧ Comp.reqs ∈ M ∧ Comp.outbox ∈ M) (s : State) (p : Nat) : (State.close s p).hide M = s.hide M := by
  unfold State.close
  simp [hM]

@[simp] theorem State.zeroEnd_hide {M : List Comp} (hM : Comp.pt ∈ M ∧ Comp.xl ∈ M ∧ Comp.qc ∈ M ∧ Comp.tier ∈ M ∧ Comp.rk ∈ M ∧ Comp.ch
    ∈ M ∧ Comp.reqs ∈ M ∧ Comp.outbox ∈ M) (s : State) (p : Nat) : (State.zeroEnd s p).hide M = s.hide M := by
  unfold State.zeroEnd
  simp [hM]

@[simp] theorem State.freePart_hide {M : List Comp} (hM : Comp.pt ∈ M ∧ Comp.units ∈ M ∧ Comp.links ∈ M ∧ Comp.tally ∈ M ∧ Comp.mc ∈ M ∧
    Comp.px ∈ M ∧ Comp.outbox ∈ M) (s : State) (p : Nat) : (State.freePart s p).hide M = s.hide M := by
  unfold State.freePart
  simp [hM]

@[simp] theorem State.closeEnd_hide {M : List Comp} (hM : Comp.pt ∈ M ∧ Comp.units ∈ M ∧ Comp.links ∈ M ∧ Comp.tally ∈ M ∧ Comp.mc ∈ M ∧
    Comp.px ∈ M ∧ Comp.outbox ∈ M) (s : State) (p : Nat) : (State.closeEnd s p).hide M = s.hide M := by
  unfold State.closeEnd
  simp [hM]

@[simp] theorem State.createPart_hide {M : List Comp} (hM : Comp.pt ∈ M ∧ Comp.xl ∈ M ∧ Comp.units ∈ M ∧ Comp.tally ∈ M ∧ Comp.mc ∈ M ∧
    Comp.px ∈ M ∧ Comp.reqs ∈ M ∧ Comp.outbox ∈ M) (s : State) (c : Create) : (State.createPart s c).hide M = s.hide M := by
  unfold State.createPart
  simp [hM]

@[simp] theorem State.activate_hide {M : List Comp} (hM : Comp.pt ∈ M) (s : State) (p : Nat) : (State.activate s p).2.hide M = s.hide M := by
  unfold State.activate
  simp [hM]

@[simp] theorem State.startRekey_hide {M : List Comp} (hM : Comp.pt ∈ M) (s : State) (p g : Nat) (items : List RekeyItem) :
    (State.startRekey s p g items).hide M = s.hide M := by
  unfold State.startRekey
  simp [hM]

@[simp] theorem State.lockPage_hide {M : List Comp} (hM : Comp.pt ∈ M ∧ Comp.xl ∈ M ∧ Comp.reqs ∈ M) (s : State) (p : Nat) (leaf :
    Option FoundLeaf) : (State.lockPage s p leaf).hide M = s.hide M := by
  unfold State.lockPage
  split <;> simp [hM]

@[simp] theorem State.pagePushed_hide {M : List Comp} (hM : Comp.pt ∈ M ∧ Comp.tier ∈ M ∧ Comp.tally ∈ M ∧ Comp.reqs ∈ M ∧ Comp.nextReq
    ∈ M ∧ Comp.outbox ∈ M) (s : State) (p : Nat) (old : Bytes) : (State.pagePushed s p old).hide M = s.hide M := by
  unfold State.pagePushed
  dsimp only
  repeat' (first | (simp [hM]; done) | split)

@[simp] theorem State.unlockPage_hide {M : List Comp} (hM : Comp.pt ∈ M ∧ Comp.xl ∈ M ∧ Comp.reqs ∈ M) (s : State) (p : Nat) :
    (State.unlockPage s p).hide M = s.hide M := by
  unfold State.unlockPage
  split <;> simp [hM]

@[simp] theorem State.hbmPassEnd_hide {M : List Comp} (hM : Comp.pt ∈ M) (s : State) (p : Nat) : (State.hbmPassEnd s p).hide M = s.hide M := by
  unfold State.hbmPassEnd
  simp [hM]

@[simp] theorem State.retireSlot_hide {M : List Comp} (hM : Comp.pt ∈ M ∧ Comp.mc ∈ M ∧ Comp.px ∈ M ∧ Comp.outbox ∈ M) (s : State) (p g
    : Nat) : (State.retireSlot s p g).hide M = s.hide M := by
  unfold State.retireSlot
  dsimp only
  repeat' (first | (simp [hM]; done) | split)

@[simp] theorem State.openRepair_hide {M : List Comp} (hM : Comp.pt ∈ M) (s : State) : (State.openRepair s).hide M = s.hide M := by
  unfold State.openRepair
  split <;> simp [hM]

@[simp] theorem State.closeRepair_hide {M : List Comp} (hM : Comp.pt ∈ M) (s : State) (id : Nat) : (State.closeRepair s id).hide M =
    s.hide M := by
  unfold State.closeRepair
  simp [hM]

@[simp] theorem State.failShared_hide {M : List Comp} (hM : Comp.pt ∈ M ∧ Comp.ec ∈ M) (s : State) (r : SharedRepair) :
    (State.failShared s r).hide M = s.hide M := by
  unfold State.failShared
  simp [hM]

@[simp] theorem State.originRead_hide {M : List Comp} (hM : Comp.pt ∈ M ∧ Comp.tier ∈ M ∧ Comp.ec ∈ M ∧ Comp.outbox ∈ M) (s : State) (id
    : Nat) (res : Option (Bytes × Bytes)) : (State.originRead s id res).hide M = s.hide M := by
  unfold State.originRead
  repeat' (first | (simp [hM]; done) | split)

@[simp] theorem State.repairClosed_hide {M : List Comp} (hM : Comp.pt ∈ M ∧ Comp.ec ∈ M) (s : State) (id : Nat) : (State.repairClosed s
    id).hide M = s.hide M := by
  unfold State.repairClosed
  split <;> simp [hM]

@[simp] theorem State.repairTimeout_hide {M : List Comp} (hM : Comp.pt ∈ M ∧ Comp.ec ∈ M) (s : State) (id : Nat) : (State.repairTimeout
    s id).hide M = s.hide M := by
  unfold State.repairTimeout
  split <;> simp [hM]

@[simp] theorem State.judgeCmd_hide {M : List Comp} (hM : Comp.mc ∈ M ∧ Comp.px ∈ M ∧ Comp.outbox ∈ M) (s : State) (m : Nat) :
    (State.judgeCmd s m).hide M = s.hide M := by
  unfold State.judgeCmd
  dsimp only
  repeat' (first | (simp [hM]; done) | split)

@[simp] theorem State.submit_hide {M : List Comp} (hM : Comp.mc ∈ M ∧ Comp.px ∈ M ∧ Comp.outbox ∈ M) (s : State) (m : Nat) (mctp : Bool)
    : (State.submit s m mctp).hide M = s.hide M := by
  unfold State.submit
  simp [hM]

@[simp] theorem State.mailboxGo_hide {M : List Comp} (hM : Comp.mc ∈ M ∧ Comp.px ∈ M ∧ Comp.outbox ∈ M) (s : State) (m : Nat) :
    (State.mailboxGo s m).hide M = s.hide M := by
  unfold State.mailboxGo
  simp [hM]

@[simp] theorem State.mctpRequest_hide {M : List Comp} (hM : Comp.mc ∈ M ∧ Comp.px ∈ M ∧ Comp.outbox ∈ M) (s : State) (body : Bytes) :
    (State.mctpRequest s body).hide M = s.hide M := by
  unfold State.mctpRequest
  simp [hM]

theorem State.command_hide {M : List Comp} (hM : Comp.mc ∈ M ∧ Comp.px ∈ M ∧ Comp.outbox ∈ M) (s : State) (m op : Nat) (body : State → Bytes → State)
    (h : ∀ t b, (body t b).hide M = t.hide M) : (s.command m op body).hide M = s.hide M := by
  unfold State.command
  dsimp only
  split
  · rfl
  · split <;> simp [h, hM]

@[simp] theorem State.malformed_hide {M : List Comp} (hM : Comp.mc ∈ M ∧ Comp.px ∈ M ∧ Comp.outbox ∈ M) (s : State) (m : Nat) :
    (State.malformed s m).hide M = s.hide M := by
  unfold State.malformed
  simp [hM]

@[simp] theorem State.state_hide {M : List Comp} (hM : Comp.mc ∈ M ∧ Comp.px ∈ M ∧ Comp.outbox ∈ M) (s : State) (m d : Nat) :
    (State.state s m d).hide M = s.hide M := by
  unfold State.state
  simp [hM]

@[simp] theorem State.failed_hide {M : List Comp} (hM : Comp.mc ∈ M ∧ Comp.px ∈ M ∧ Comp.outbox ∈ M) (s : State) (m d : Nat) :
    (State.failed s m d).hide M = s.hide M := by
  unfold State.failed
  simp [hM]

@[simp] theorem State.okIf_hide {M : List Comp} (hM : Comp.mc ∈ M ∧ Comp.px ∈ M ∧ Comp.outbox ∈ M) (s : State) (m : Nat) (good : Bool) (s' : State)
    (h : s'.hide M = s.hide M) : (s.okIf m good s').hide M = s.hide M := by
  unfold State.okIf
  split <;> simp [h, hM]

@[simp] theorem State.cmdCreate_hide {M : List Comp} (hM : Comp.pt ∈ M ∧ Comp.xl ∈ M ∧ Comp.units ∈ M ∧ Comp.tally ∈ M ∧ Comp.mc ∈ M ∧
    Comp.px ∈ M ∧ Comp.reqs ∈ M ∧ Comp.outbox ∈ M) (s : State) (m : Nat) : (State.cmdCreate s m).hide M = s.hide M := by
  refine State.command_hide (by simp [hM]) _ _ _ _ fun t b => ?_
  repeat' (first | (simp [hM]; done) | (simp_all [pair_eq]; done) | split)

@[simp] theorem State.cmdActivate_hide {M : List Comp} (hM : Comp.pt ∈ M ∧ Comp.mc ∈ M ∧ Comp.px ∈ M ∧ Comp.outbox ∈ M) (s : State) (m :
    Nat) : (State.cmdActivate s m).hide M = s.hide M := by
  refine State.command_hide (by simp [hM]) _ _ _ _ fun t b => ?_
  repeat' (first | (simp [hM]; done) | (simp_all [pair_eq]; done) | split)

@[simp] theorem State.cmdDestroy_hide {M : List Comp} (hM : Comp.pt ∈ M ∧ Comp.xl ∈ M ∧ Comp.qc ∈ M ∧ Comp.tier ∈ M ∧ Comp.rk ∈ M ∧
    Comp.ch ∈ M ∧ Comp.units ∈ M ∧ Comp.links ∈ M ∧ Comp.tally ∈ M ∧ Comp.mc ∈ M ∧ Comp.px ∈ M ∧ Comp.reqs ∈ M ∧ Comp.nextReq ∈ M ∧
    Comp.outbox ∈ M) (s : State) (m : Nat) : (State.cmdDestroy s m).hide M = s.hide M := by
  refine State.command_hide (by simp [hM]) _ _ _ _ fun t b => ?_
  dsimp only
  repeat' (first | (simp [hM]; done) | split)

@[simp] theorem State.cmdReg_hide {M : List Comp} (hM : Comp.pt ∈ M ∧ Comp.mc ∈ M ∧ Comp.px ∈ M ∧ Comp.outbox ∈ M) (s : State) (m : Nat)
    : (State.cmdReg s m).hide M = s.hide M := by
  refine State.command_hide (by simp [hM]) _ _ _ _ fun t b => ?_
  repeat' (first | (simp [hM]; done) | (simp_all [pair_eq]; done) | split)

@[simp] theorem State.cmdRange_hide {M : List Comp} (hM : Comp.pt ∈ M ∧ Comp.mc ∈ M ∧ Comp.px ∈ M ∧ Comp.outbox ∈ M) (s : State) (m :
    Nat) : (State.cmdRange s m).hide M = s.hide M := by
  refine State.command_hide (by simp [hM]) _ _ _ _ fun t b => ?_
  repeat' (first | (simp [hM]; done) | (simp_all [pair_eq]; done) | split)

@[simp] theorem State.cmdPasid_hide {M : List Comp} (hM : Comp.pt ∈ M ∧ Comp.mc ∈ M ∧ Comp.px ∈ M ∧ Comp.outbox ∈ M) (s : State) (m :
    Nat) : (State.cmdPasid s m).hide M = s.hide M := by
  refine State.command_hide (by simp [hM]) _ _ _ _ fun t b => ?_
  repeat' (first | (simp [hM]; done) | (simp_all [pair_eq]; done) | split)

@[simp] theorem State.cmdPfWin_hide {M : List Comp} (hM : Comp.pt ∈ M ∧ Comp.mc ∈ M ∧ Comp.px ∈ M ∧ Comp.outbox ∈ M) (s : State) (m :
    Nat) : (State.cmdPfWin s m).hide M = s.hide M := by
  refine State.command_hide (by simp [hM]) _ _ _ _ fun t b => ?_
  repeat' (first | (simp [hM]; done) | (simp_all [pair_eq]; done) | split)

@[simp] theorem State.cmdVfWin_hide {M : List Comp} (hM : Comp.pt ∈ M ∧ Comp.mc ∈ M ∧ Comp.px ∈ M ∧ Comp.outbox ∈ M) (s : State) (m :
    Nat) : (State.cmdVfWin s m).hide M = s.hide M := by
  refine State.command_hide (by simp [hM]) _ _ _ _ fun t b => ?_
  repeat' (first | (simp [hM]; done) | (simp_all [pair_eq]; done) | split)

@[simp] theorem State.cmdShared_hide {M : List Comp} (hM : Comp.pt ∈ M ∧ Comp.mc ∈ M ∧ Comp.px ∈ M ∧ Comp.outbox ∈ M) (s : State) (m :
    Nat) : (State.cmdShared s m).hide M = s.hide M := by
  refine State.command_hide (by simp [hM]) _ _ _ _ fun t b => ?_
  repeat' (first | (simp [hM]; done) | (simp_all [pair_eq]; done) | split)

@[simp] theorem State.cmdAssign_hide {M : List Comp} (hM : Comp.mc ∈ M ∧ Comp.px ∈ M ∧ Comp.outbox ∈ M) (s : State) (m : Nat) :
    (State.cmdAssign s m).hide M = s.hide M := by
  refine State.command_hide (by simp [hM]) _ _ _ _ fun t b => ?_
  repeat' (first | (simp [hM]; done) | (simp_all [pair_eq]; done) | split)

@[simp] theorem State.boxInval_hide {M : List Comp} (hM : Comp.xl ∈ M ∧ Comp.reqs ∈ M) (s : State) (p m kind asid va pages : Nat) :
    (State.boxInval s p m kind asid va pages).hide M = s.hide M := by
  unfold State.boxInval
  simp [hM]

@[simp] theorem State.cmdAsid_hide {M : List Comp} (hM : Comp.xl ∈ M ∧ Comp.mc ∈ M ∧ Comp.px ∈ M ∧ Comp.reqs ∈ M ∧ Comp.outbox ∈ M) (s :
    State) (m : Nat) : (State.cmdAsid s m).hide M = s.hide M := by
  refine State.command_hide (by simp [hM]) _ _ _ _ fun t b => ?_
  repeat' (first | (simp [hM]; done) | (simp_all [pair_eq]; done) | split)

@[simp] theorem State.cmdInvq_hide {M : List Comp} (hM : Comp.xl ∈ M ∧ Comp.mc ∈ M ∧ Comp.px ∈ M ∧ Comp.reqs ∈ M ∧ Comp.outbox ∈ M) (s :
    State) (m : Nat) : (State.cmdInvq s m).hide M = s.hide M := by
  refine State.command_hide (by simp [hM]) _ _ _ _ fun t b => ?_
  repeat' (first | (simp [hM]; done) | (simp_all [pair_eq]; done) | split)

@[simp] theorem State.cmdDrainLimit_hide {M : List Comp} (hM : Comp.xl ∈ M ∧ Comp.mc ∈ M ∧ Comp.px ∈ M ∧ Comp.outbox ∈ M) (s : State) (m
    : Nat) : (State.cmdDrainLimit s m).hide M = s.hide M := by
  refine State.command_hide (by simp [hM]) _ _ _ _ fun t b => ?_
  repeat' (first | (simp [hM]; done) | (simp_all [pair_eq]; done) | split)

@[simp] theorem State.cmdInvalidate_hide {M : List Comp} (hM : Comp.xl ∈ M ∧ Comp.mc ∈ M ∧ Comp.px ∈ M ∧ Comp.reqs ∈ M ∧ Comp.outbox ∈
    M) (s : State) (m : Nat) : (State.cmdInvalidate s m).hide M = s.hide M := by
  refine State.command_hide (by simp [hM]) _ _ _ _ fun t b => ?_
  repeat' (first | (simp [hM]; done) | (simp_all [pair_eq]; done) | split)

@[simp] theorem State.cmdFq_hide {M : List Comp} (hM : Comp.qc ∈ M ∧ Comp.mc ∈ M ∧ Comp.px ∈ M ∧ Comp.outbox ∈ M) (s : State) (m : Nat)
    : (State.cmdFq s m).hide M = s.hide M := by
  refine State.command_hide (by simp [hM]) _ _ _ _ fun t b => ?_
  repeat' (first | (simp [hM]; done) | (simp_all [pair_eq]; done) | split)

@[simp] theorem State.cmdFaultTimeout_hide {M : List Comp} (hM : Comp.qc ∈ M ∧ Comp.mc ∈ M ∧ Comp.px ∈ M ∧ Comp.outbox ∈ M) (s : State)
    (m : Nat) : (State.cmdFaultTimeout s m).hide M = s.hide M := by
  refine State.command_hide (by simp [hM]) _ _ _ _ fun t b => ?_
  repeat' (first | (simp [hM]; done) | (simp_all [pair_eq]; done) | split)

@[simp] theorem State.cmdRing_hide {M : List Comp} (hM : Comp.qc ∈ M ∧ Comp.mc ∈ M ∧ Comp.px ∈ M ∧ Comp.outbox ∈ M) (s : State) (m :
    Nat) : (State.cmdRing s m).hide M = s.hide M := by
  refine State.command_hide (by simp [hM]) _ _ _ _ fun t b => ?_
  repeat' (first | (simp [hM]; done) | (simp_all [pair_eq]; done) | split)

@[simp] theorem State.cmdEnable_hide {M : List Comp} (hM : Comp.qc ∈ M ∧ Comp.mc ∈ M ∧ Comp.px ∈ M ∧ Comp.outbox ∈ M) (s : State) (m :
    Nat) : (State.cmdEnable s m).hide M = s.hide M := by
  refine State.command_hide (by simp [hM]) _ _ _ _ fun t b => ?_
  repeat' (first | (simp [hM]; done) | (simp_all [pair_eq]; done) | split)

@[simp] theorem State.cmdDisable_hide {M : List Comp} (hM : Comp.pt ∈ M ∧ Comp.xl ∈ M ∧ Comp.qc ∈ M ∧ Comp.tier ∈ M ∧ Comp.rk ∈ M ∧
    Comp.ec ∈ M ∧ Comp.tally ∈ M ∧ Comp.mc ∈ M ∧ Comp.px ∈ M ∧ Comp.reqs ∈ M ∧ Comp.nextReq ∈ M ∧ Comp.outbox ∈ M) (s : State) (m : Nat)
    : (State.cmdDisable s m).hide M = s.hide M := by
  refine State.command_hide (by simp [hM]) _ _ _ _ fun t b => ?_
  repeat' (first | (simp [hM]; done) | (simp_all [pair_eq]; done) | split)

@[simp] theorem State.cmdCq_hide {M : List Comp} (hM : Comp.qc ∈ M ∧ Comp.mc ∈ M ∧ Comp.px ∈ M ∧ Comp.outbox ∈ M) (s : State) (m : Nat)
    : (State.cmdCq s m).hide M = s.hide M := by
  refine State.command_hide (by simp [hM]) _ _ _ _ fun t b => ?_
  repeat' (first | (simp [hM]; done) | (simp_all [pair_eq]; done) | split)

@[simp] theorem State.cmdArea_hide {M : List Comp} (hM : Comp.qc ∈ M ∧ Comp.mc ∈ M ∧ Comp.px ∈ M ∧ Comp.outbox ∈ M) (s : State) (m :
    Nat) : (State.cmdArea s m).hide M = s.hide M := by
  refine State.command_hide (by simp [hM]) _ _ _ _ fun t b => ?_
  repeat' (first | (simp [hM]; done) | (simp_all [pair_eq]; done) | split)

@[simp] theorem State.cmdChordQueue_hide {M : List Comp} (hM : Comp.ch ∈ M ∧ Comp.mc ∈ M ∧ Comp.px ∈ M ∧ Comp.outbox ∈ M) (s : State) (m
    : Nat) : (State.cmdChordQueue s m).hide M = s.hide M := by
  refine State.command_hide (by simp [hM]) _ _ _ _ fun t b => ?_
  repeat' (first | (simp [hM]; done) | (simp_all [pair_eq]; done) | split)

@[simp] theorem State.cmdWindow_hide {M : List Comp} (hM : Comp.pt ∈ M ∧ Comp.mc ∈ M ∧ Comp.px ∈ M ∧ Comp.outbox ∈ M) (s : State) (m :
    Nat) : (State.cmdWindow s m).hide M = s.hide M := by
  refine State.command_hide (by simp [hM]) _ _ _ _ fun t b => ?_
  repeat' (first | (simp [hM]; done) | (simp_all [pair_eq]; done) | split)

@[simp] theorem State.cmdSwitch_hide {M : List Comp} (hM : Comp.pt ∈ M ∧ Comp.mc ∈ M ∧ Comp.px ∈ M ∧ Comp.outbox ∈ M) (s : State) (m :
    Nat) : (State.cmdSwitch s m).hide M = s.hide M := by
  refine State.command_hide (by simp [hM]) _ _ _ _ fun t b => ?_
  repeat' (first | (simp [hM]; done) | (simp_all [pair_eq]; done) | split)

@[simp] theorem State.cmdRekey_hide {M : List Comp} (hM : Comp.pt ∈ M ∧ Comp.mc ∈ M ∧ Comp.px ∈ M ∧ Comp.outbox ∈ M) (s : State) (m :
    Nat) : (State.cmdRekey s m).hide M = s.hide M := by
  refine State.command_hide (by simp [hM]) _ _ _ _ fun t b => ?_
  repeat' (first | (simp [hM]; done) | (simp_all [pair_eq]; done) | split)

@[simp] theorem State.cmdUnwrap_hide {M : List Comp} (hM : Comp.mc ∈ M ∧ Comp.px ∈ M ∧ Comp.outbox ∈ M) (s : State) (m : Nat) (header :
    Option Bytes) : (State.cmdUnwrap s m header).hide M = s.hide M := by
  refine State.command_hide (by simp [hM]) _ _ _ _ fun t b => ?_
  dsimp only
  repeat' (first | (simp [hM]; done) | (simp_all [pair_eq]; done) | split)

@[simp] theorem State.unwrapDone_hide {M : List Comp} (hM : Comp.pt ∈ M ∧ Comp.mc ∈ M ∧ Comp.px ∈ M ∧ Comp.outbox ∈ M) (s : State) (m :
    Nat) (data : Bytes) : (State.unwrapDone s m data).hide M = s.hide M := by
  unfold State.unwrapDone
  dsimp only
  repeat' (first | (simp [hM]; done) | split)

@[simp] theorem State.cmdProgram_hide {M : List Comp} (hM : Comp.pt ∈ M ∧ Comp.mc ∈ M ∧ Comp.px ∈ M ∧ Comp.outbox ∈ M) (s : State) (m :
    Nat) (image : Option Bytes) : (State.cmdProgram s m image).hide M = s.hide M := by
  refine State.command_hide (by simp [hM]) _ _ _ _ fun t b => ?_
  repeat' (first | (simp [hM]; done) | (simp_all [pair_eq]; done) | split)

@[simp] theorem State.cmdSched_hide {M : List Comp} (hM : Comp.rk ∈ M ∧ Comp.mc ∈ M ∧ Comp.px ∈ M ∧ Comp.outbox ∈ M) (s : State) (m :
    Nat) : (State.cmdSched s m).hide M = s.hide M := by
  refine State.command_hide (by simp [hM]) _ _ _ _ fun t b => ?_
  repeat' (first | (simp [hM]; done) | (simp_all [pair_eq]; done) | split)

@[simp] theorem State.cmdReplica_hide {M : List Comp} (hM : Comp.rk ∈ M ∧ Comp.mc ∈ M ∧ Comp.px ∈ M ∧ Comp.outbox ∈ M) (s : State) (m :
    Nat) : (State.cmdReplica s m).hide M = s.hide M := by
  refine State.command_hide (by simp [hM]) _ _ _ _ fun t b => ?_
  repeat' (first | (simp [hM]; done) | (simp_all [pair_eq]; done) | split)

@[simp] theorem State.cmdTcFlush_hide {M : List Comp} (hM : Comp.tier ∈ M ∧ Comp.mc ∈ M ∧ Comp.px ∈ M ∧ Comp.outbox ∈ M) (s : State) (m
    : Nat) : (State.cmdTcFlush s m).hide M = s.hide M := by
  refine State.command_hide (by simp [hM]) _ _ _ _ fun t b => ?_
  repeat' (first | (simp [hM]; done) | (simp_all [pair_eq]; done) | split)

@[simp] theorem State.cmdVector_hide {M : List Comp} (hM : Comp.mc ∈ M ∧ Comp.px ∈ M ∧ Comp.outbox ∈ M) (s : State) (m : Nat) :
    (State.cmdVector s m).hide M = s.hide M := by
  refine State.command_hide (by simp [hM]) _ _ _ _ fun t b => ?_
  repeat' (first | (simp [hM]; done) | (simp_all [pair_eq]; done) | split)

@[simp] theorem State.cmdTally_hide {M : List Comp} (hM : Comp.tally ∈ M ∧ Comp.mc ∈ M ∧ Comp.px ∈ M ∧ Comp.outbox ∈ M) (s : State) (m :
    Nat) : (State.cmdTally s m).hide M = s.hide M := by
  refine State.command_hide (by simp [hM]) _ _ _ _ fun t b => ?_
  repeat' (first | (simp [hM]; done) | (simp_all [pair_eq]; done) | split)

@[simp] theorem State.cmdRetrain_hide {M : List Comp} (hM : Comp.pt ∈ M ∧ Comp.xl ∈ M ∧ Comp.qc ∈ M ∧ Comp.tier ∈ M ∧ Comp.rk ∈ M ∧
    Comp.ec ∈ M ∧ Comp.units ∈ M ∧ Comp.links ∈ M ∧ Comp.tally ∈ M ∧ Comp.mc ∈ M ∧ Comp.px ∈ M ∧ Comp.reqs ∈ M ∧ Comp.nextReq ∈ M ∧
    Comp.free ∈ M ∧ Comp.outbox ∈ M) (s : State) (m : Nat) : (State.cmdRetrain s m).hide M = s.hide M := by
  refine State.command_hide (by simp [hM]) _ _ _ _ fun t b => ?_
  repeat' (first | (simp [hM]; done) | (simp_all [pair_eq]; done) | split)

@[simp] theorem State.rpPump_hide {M : List Comp} (hM : Comp.mc ∈ M ∧ Comp.px ∈ M ∧ Comp.outbox ∈ M) (s : State) (x0 : Nat) :
    (State.rpPump s x0).hide M = s.hide M := by
  induction x0 generalizing s with
  | zero => rfl
  | succ n ih =>
    unfold State.rpPump
    repeat' (first | (simp [ih, hM]; done) | split)

@[simp] theorem State.rpQueue_hide {M : List Comp} (hM : Comp.mc ∈ M ∧ Comp.px ∈ M ∧ Comp.outbox ∈ M) (s : State) (m rid : Nat) (r :
    RpReq) : (State.rpQueue s m rid r).hide M = s.hide M := by
  unfold State.rpQueue
  simp [hM]

@[simp] theorem State.cmdRpConfig_hide {M : List Comp} (hM : Comp.mc ∈ M ∧ Comp.px ∈ M ∧ Comp.outbox ∈ M) (s : State) (m : Nat) :
    (State.cmdRpConfig s m).hide M = s.hide M := by
  refine State.command_hide (by simp [hM]) _ _ _ _ fun t b => ?_
  repeat' (first | (simp [hM]; done) | (simp_all [pair_eq]; done) | split)

@[simp] theorem State.cmdRpMemory_hide {M : List Comp} (hM : Comp.mc ∈ M ∧ Comp.px ∈ M ∧ Comp.outbox ∈ M) (s : State) (m : Nat) :
    (State.cmdRpMemory s m).hide M = s.hide M := by
  refine State.command_hide (by simp [hM]) _ _ _ _ fun t b => ?_
  repeat' (first | (simp [hM]; done) | (simp_all [pair_eq]; done) | split)

@[simp] theorem State.rpDone_hide {M : List Comp} (hM : Comp.ec ∈ M ∧ Comp.mc ∈ M ∧ Comp.px ∈ M ∧ Comp.reqs ∈ M ∧ Comp.outbox ∈ M) (s :
    State) (res : RpRes) : (State.rpDone s res).hide M = s.hide M := by
  unfold State.rpDone
  repeat' (first | (simp [hM]; done) | split)

@[simp] theorem State.cmdLoopback_hide {M : List Comp} (hM : Comp.links ∈ M ∧ Comp.mc ∈ M ∧ Comp.px ∈ M ∧ Comp.outbox ∈ M) (s : State)
    (m : Nat) : (State.cmdLoopback s m).hide M = s.hide M := by
  refine State.command_hide (by simp [hM]) _ _ _ _ fun t b => ?_
  repeat' (first | (simp [hM]; done) | (simp_all [pair_eq]; done) | split)

@[simp] theorem State.cmdEvents_hide {M : List Comp} (hM : Comp.mc ∈ M ∧ Comp.px ∈ M ∧ Comp.outbox ∈ M) (s : State) (m : Nat) :
    (State.cmdEvents s m).hide M = s.hide M := by
  refine State.command_hide (by simp [hM]) _ _ _ _ fun t b => ?_
  repeat' (first | (simp [hM]; done) | (simp_all [pair_eq]; done) | split)

@[simp] theorem State.cmdSensors_hide {M : List Comp} (hM : Comp.mc ∈ M ∧ Comp.px ∈ M ∧ Comp.outbox ∈ M) (s : State) (m : Nat) :
    (State.cmdSensors s m).hide M = s.hide M := by
  refine State.command_hide (by simp [hM]) _ _ _ _ fun t b => ?_
  repeat' (first | (simp [hM]; done) | (simp_all [pair_eq]; done) | split)

@[simp] theorem State.cmdAdmit_hide {M : List Comp} (hM : Comp.pt ∈ M ∧ Comp.units ∈ M ∧ Comp.mc ∈ M ∧ Comp.px ∈ M ∧ Comp.outbox ∈ M) (s
    : State) (m : Nat) : (State.cmdAdmit s m).hide M = s.hide M := by
  have hm : ∀ (t : State) u l e x, t.mcWrite u l e = some x → x.hide M = t.hide M := State.mcWrite_hide (by simp [hM])
  refine State.command_hide (by simp [hM]) _ _ _ _ fun t b => ?_
  dsimp only
  repeat' (first | rfl | (simp [hM]; done) | (rename_i h; simp [hm _ _ _ _ _ h, hM]; done) | split)

@[simp] theorem State.cmdUnits_hide {M : List Comp} (hM : Comp.mc ∈ M ∧ Comp.px ∈ M ∧ Comp.outbox ∈ M) (s : State) (m : Nat) :
    (State.cmdUnits s m).hide M = s.hide M := by
  refine State.command_hide (by simp [hM]) _ _ _ _ fun t b => ?_
  repeat' (first | (simp [hM]; done) | (simp_all [pair_eq]; done) | split)

@[simp] theorem State.cmdMode_hide {M : List Comp} (hM : Comp.mc ∈ M ∧ Comp.px ∈ M ∧ Comp.outbox ∈ M) (s : State) (m : Nat) :
    (State.cmdMode s m).hide M = s.hide M := by
  refine State.command_hide (by simp [hM]) _ _ _ _ fun t b => ?_
  repeat' (first | (simp [hM]; done) | (simp_all [pair_eq]; done) | split)

@[simp] theorem State.cmdInfo_hide {M : List Comp} (hM : Comp.mc ∈ M ∧ Comp.px ∈ M ∧ Comp.outbox ∈ M) (s : State) (m : Nat) :
    (State.cmdInfo s m).hide M = s.hide M := by
  refine State.command_hide (by simp [hM]) _ _ _ _ fun t b => ?_
  repeat' (first | (simp [hM]; done) | (simp_all [pair_eq]; done) | split)

@[simp] theorem State.modFw_hide {M : List Comp} (hM : Comp.mc ∈ M) (s : State) (f : Firmware → Firmware) : (State.modFw s f).hide M =
    s.hide M := by
  unfold State.modFw
  simp [hM]

@[simp] theorem State.cmdStage_hide {M : List Comp} (hM : Comp.mc ∈ M ∧ Comp.px ∈ M ∧ Comp.outbox ∈ M) (s : State) (m : Nat) :
    (State.cmdStage s m).hide M = s.hide M := by
  refine State.command_hide (by simp [hM]) _ _ _ _ fun t b => ?_
  repeat' (first | (simp [hM]; done) | (simp_all [pair_eq]; done) | split)

@[simp] theorem State.cmdVerify_hide {M : List Comp} (hM : Comp.mc ∈ M ∧ Comp.px ∈ M ∧ Comp.outbox ∈ M) (s : State) (m : Nat) :
    (State.cmdVerify s m).hide M = s.hide M := by
  refine State.command_hide (by simp [hM]) _ _ _ _ fun t b => ?_
  dsimp only
  repeat' (first | (simp [hM]; done) | (simp_all [pair_eq]; done) | split)

@[simp] theorem State.cmdFwActivate_hide {M : List Comp} (hM : Comp.mc ∈ M ∧ Comp.px ∈ M ∧ Comp.free ∈ M ∧ Comp.outbox ∈ M) (s : State)
    (m : Nat) : (State.cmdFwActivate s m).hide M = s.hide M := by
  refine State.command_hide (by simp [hM]) _ _ _ _ fun t b => ?_
  repeat' (first | (simp [hM]; done) | (simp_all [pair_eq]; done) | split)

@[simp] theorem State.modPwr_hide {M : List Comp} (hM : Comp.mc ∈ M) (s : State) (f : Power → Power) : (State.modPwr s f).hide M = s.hide M := by
  unfold State.modPwr
  simp [hM]

@[simp] theorem State.pwrError_hide {M : List Comp} (hM : Comp.ec ∈ M) (s : State) (source cls detail : Nat) : (State.pwrError s source
    cls detail).hide M = s.hide M := by
  unfold State.pwrError
  simp [hM]

@[simp] theorem State.stepArr_hide {M : List Comp} (hM : Comp.mc ∈ M) (s : State) (up : Bool) : (State.stepArr s up).hide M = s.hide M := by
  unfold State.stepArr
  simp [hM]

@[simp] theorem State.takeSensor_hide {M : List Comp} (hM : Comp.ec ∈ M ∧ Comp.mc ∈ M) (s : State) (k v : Nat) : (State.takeSensor s k
    v).hide M = s.hide M := by
  unfold State.takeSensor
  simp [hM]

@[simp] theorem State.sampleSensors_hide {M : List Comp} (hM : Comp.ec ∈ M ∧ Comp.mc ∈ M) (s : State) (v : List Nat) :
    (State.sampleSensors s v).hide M = s.hide M := by
  unfold State.sampleSensors
  simp [hM]

@[simp] theorem State.arrStepDone_hide {M : List Comp} (hM : Comp.mc ∈ M) (s : State) : (State.arrStepDone s).hide M = s.hide M := by
  unfold State.arrStepDone
  split <;> simp [hM]

@[simp] theorem State.arrStepLate_hide {M : List Comp} (hM : Comp.ec ∈ M ∧ Comp.mc ∈ M) (s : State) : (State.arrStepLate s).hide M =
    s.hide M := by
  unfold State.arrStepLate
  split <;> simp [hM]

@[simp] theorem State.writePwr_hide {M : List Comp} (hM : Comp.mc ∈ M) (s : State) (w : Nat) : (State.writePwr s w).hide M = s.hide M := by
  unfold State.writePwr
  simp [hM]

@[simp] theorem State.freqMaxStep_hide {M : List Comp} (hM : Comp.mc ∈ M) (s : State) : (State.freqMaxStep s).hide M = s.hide M := by
  unfold State.freqMaxStep
  split <;> simp [hM]

@[simp] theorem State.romBoot_hide {M : List Comp} (hM : Comp.xl ∈ M ∧ Comp.rk ∈ M ∧ Comp.ch ∈ M ∧ Comp.units ∈ M ∧ Comp.links ∈ M ∧
    Comp.mc ∈ M ∧ Comp.px ∈ M ∧ Comp.outbox ∈ M) (s : State) (b0 b1 : Bank) : (State.romBoot s b0 b1).hide M = s.hide M := by
  unfold State.romBoot
  simp [hM]

@[simp] theorem State.broadcast_hide {M : List Comp} (hM : Comp.mc ∈ M ∧ Comp.outbox ∈ M) (s : State) (image : Bytes) : (State.broadcast
    s image).hide M = s.hide M := by
  unfold State.broadcast
  simp [hM]

@[simp] theorem State.cellEnds_hide {M : List Comp} (hM : Comp.mc ∈ M) (s : State) (c : Nat) (bad : Bool) : (State.cellEnds s c
    bad).hide M = s.hide M := by
  unfold State.cellEnds
  simp [hM]

@[simp] theorem State.cellDigest_hide {M : List Comp} (hM : Comp.mc ∈ M) (s : State) (c : Nat) (digest : Bytes) : (State.cellDigest s c
    digest).hide M = s.hide M := by
  unfold State.cellDigest
  simp [hM]

@[simp] theorem State.cellTimeout_hide {M : List Comp} (hM : Comp.mc ∈ M) (s : State) (c : Nat) : (State.cellTimeout s c).hide M = s.hide M := by
  unfold State.cellTimeout
  simp [hM]

@[simp] theorem State.topologyCheck_hide {M : List Comp} (hM : Comp.pt ∈ M ∧ Comp.xl ∈ M ∧ Comp.qc ∈ M ∧ Comp.tier ∈ M ∧ Comp.rk ∈ M ∧
    Comp.ec ∈ M ∧ Comp.units ∈ M ∧ Comp.links ∈ M ∧ Comp.tally ∈ M ∧ Comp.mc ∈ M ∧ Comp.px ∈ M ∧ Comp.reqs ∈ M ∧ Comp.nextReq ∈ M ∧
    Comp.free ∈ M ∧ Comp.outbox ∈ M) (s : State) : (State.topologyCheck s).hide M = s.hide M := by
  unfold State.topologyCheck
  simp [hM]

@[simp] theorem State.modRd_hide {M : List Comp} (hM : Comp.mc ∈ M) (s : State) (f : Readiness → Readiness) : (State.modRd s f).hide M =
    s.hide M := by
  unfold State.modRd
  simp [hM]

@[simp] theorem State.readyEvent_hide {M : List Comp} (hM : Comp.mc ∈ M ∧ Comp.px ∈ M ∧ Comp.outbox ∈ M) (s : State) : (State.readyEvent
    s).hide M = s.hide M := by
  unfold State.readyEvent
  simp [hM]

@[simp] theorem State.decideReady_hide {M : List Comp} (hM : Comp.pt ∈ M ∧ Comp.links ∈ M ∧ Comp.tally ∈ M ∧ Comp.mc ∈ M ∧ Comp.px ∈ M ∧
    Comp.outbox ∈ M) (s : State) : (State.decideReady s).hide M = s.hide M := by
  unfold State.decideReady
  simp [hM]

@[simp] theorem State.computeReset_hide {M : List Comp} (hM : Comp.pt ∈ M ∧ Comp.xl ∈ M ∧ Comp.qc ∈ M ∧ Comp.tier ∈ M ∧ Comp.rk ∈ M ∧
    Comp.ch ∈ M ∧ Comp.units ∈ M ∧ Comp.links ∈ M ∧ Comp.tally ∈ M ∧ Comp.mc ∈ M ∧ Comp.px ∈ M ∧ Comp.reqs ∈ M ∧ Comp.nextReq ∈ M ∧
    Comp.outbox ∈ M) (s : State) : (State.computeReset s).hide M = s.hide M := by
  unfold State.computeReset
  simp [hM]

@[simp] theorem State.computeRestore_hide {M : List Comp} (hM : Comp.pt ∈ M ∧ Comp.xl ∈ M ∧ Comp.qc ∈ M ∧ Comp.tier ∈ M ∧ Comp.rk ∈ M ∧
    Comp.ch ∈ M ∧ Comp.mc ∈ M ∧ Comp.px ∈ M ∧ Comp.outbox ∈ M) (s : State) : (State.computeRestore s).hide M = s.hide M := by
  unfold State.computeRestore
  simp [hM]

@[simp] theorem State.unplace_hide {M : List Comp} (hM : Comp.xl ∈ M ∧ Comp.qc ∈ M ∧ Comp.ch ∈ M) (s : State) (p : Nat) : (State.unplace
    s p).hide M = s.hide M := by
  unfold State.unplace
  simp [hM]

@[simp] theorem State.partitionReset_hide {M : List Comp} (hM : Comp.pt ∈ M ∧ Comp.xl ∈ M ∧ Comp.qc ∈ M ∧ Comp.tier ∈ M ∧ Comp.rk ∈ M ∧
    Comp.ch ∈ M ∧ Comp.units ∈ M ∧ Comp.tally ∈ M ∧ Comp.mc ∈ M ∧ Comp.px ∈ M ∧ Comp.reqs ∈ M ∧ Comp.nextReq ∈ M ∧ Comp.outbox ∈ M) (s :
    State) (p : Nat) : (State.partitionReset s p).hide M = s.hide M := by
  unfold State.partitionReset
  simp [hM]

@[simp] theorem State.pfReset_hide {M : List Comp} (hM : Comp.px ∈ M) (s : State) : (State.pfReset s).hide M = s.hide M := by
  unfold State.pfReset
  simp [hM]

@[simp] theorem State.partitionResetEnd_hide {M : List Comp} (hM : Comp.pt ∈ M ∧ Comp.xl ∈ M ∧ Comp.units ∈ M ∧ Comp.mc ∈ M ∧ Comp.px ∈
    M ∧ Comp.reqs ∈ M ∧ Comp.outbox ∈ M) (s : State) (p : Nat) : (State.partitionResetEnd s p).hide M = s.hide M := by
  unfold State.partitionResetEnd
  split <;> simp [hM]

@[simp] theorem State.forgetHost_hide {M : List Comp} (hM : Comp.pt ∈ M ∧ Comp.xl ∈ M ∧ Comp.qc ∈ M ∧ Comp.tier ∈ M ∧ Comp.rk ∈ M ∧
    Comp.ch ∈ M ∧ Comp.tally ∈ M ∧ Comp.mc ∈ M ∧ Comp.px ∈ M ∧ Comp.reqs ∈ M ∧ Comp.nextReq ∈ M ∧ Comp.outbox ∈ M) (s : State) :
    (State.forgetHost s).hide M = s.hide M := by
  unfold State.forgetHost
  simp [hM]

@[simp] theorem State.hostLoss_hide {M : List Comp} (hM : Comp.pt ∈ M ∧ Comp.xl ∈ M ∧ Comp.qc ∈ M ∧ Comp.tier ∈ M ∧ Comp.rk ∈ M ∧
    Comp.ch ∈ M ∧ Comp.units ∈ M ∧ Comp.links ∈ M ∧ Comp.tally ∈ M ∧ Comp.mc ∈ M ∧ Comp.px ∈ M ∧ Comp.reqs ∈ M ∧ Comp.nextReq ∈ M ∧
    Comp.outbox ∈ M) (s : State) (cause : Nat) : (State.hostLoss s cause).hide M = s.hide M := by
  unfold State.hostLoss
  simp [hM]

@[simp] theorem State.outTimer_hide {M : List Comp} (hM : Comp.pt ∈ M ∧ Comp.xl ∈ M ∧ Comp.qc ∈ M ∧ Comp.tier ∈ M ∧ Comp.rk ∈ M ∧
    Comp.ch ∈ M ∧ Comp.units ∈ M ∧ Comp.links ∈ M ∧ Comp.tally ∈ M ∧ Comp.mc ∈ M ∧ Comp.px ∈ M ∧ Comp.reqs ∈ M ∧ Comp.nextReq ∈ M ∧
    Comp.outbox ∈ M) (s : State) : (State.outTimer s).hide M = s.hide M := by
  unfold State.outTimer
  split <;> simp [hM]

@[simp] theorem State.hostLossEnd_hide {M : List Comp} (hM : Comp.links ∈ M) (s : State) : (State.hostLossEnd s).hide M = s.hide M := by
  unfold State.hostLossEnd
  simp [hM]

@[simp] theorem State.portReset_hide {M : List Comp} (hM : Comp.px ∈ M) (s : State) (disable : Bool) : (State.portReset s disable).hide
    M = s.hide M := by
  unfold State.portReset
  simp [hM]

@[simp] theorem State.clockLoss_hide {M : List Comp} (hM : Comp.ec ∈ M) (s : State) (px : Bool) : (State.clockLoss s px).hide M = s.hide M := by
  unfold State.clockLoss
  simp [hM]

@[simp] theorem State.channelSize_hide {M : List Comp} (hM : Comp.pt ∈ M) (s : State) (log2 : Nat) : (State.channelSize s log2).hide M =
    s.hide M := by
  unfold State.channelSize
  simp [hM]

@[simp] theorem State.msixWrite_hide {M : List Comp} (hM : Comp.px ∈ M ∧ Comp.outbox ∈ M) (s : State) (f o : Nat) (x : RegWrite) :
    (State.msixWrite s f o x).hide M = s.hide M := by
  unfold State.msixWrite
  simp [hM]

@[simp] theorem State.boxWrite_hide {M : List Comp} (hM : Comp.mc ∈ M ∧ Comp.px ∈ M ∧ Comp.outbox ∈ M) (s : State) (m o : Nat) (x :
    RegWrite) : (State.boxWrite s m o x).hide M = s.hide M := by
  unfold State.boxWrite
  simp [hM]

@[simp] theorem State.dropBox_hide {M : List Comp} (hM : Comp.mc ∈ M) (s : State) (m : Nat) : (State.dropBox s m).hide M = s.hide M := by
  unfold State.dropBox
  simp [hM]

@[simp] theorem State.writeCapo_hide {M : List Comp} (hM : Comp.mc ∈ M ∧ Comp.px ∈ M ∧ Comp.reqs ∈ M ∧ Comp.outbox ∈ M) (s : State)
    (trigger release : Bool) : (State.writeCapo s trigger release).hide M = s.hide M := by
  unfold State.writeCapo
  simp [hM]

@[simp] theorem State.writeSource_hide {M : List Comp} (hM : Comp.pt ∈ M ∧ Comp.ec ∈ M ∧ Comp.units ∈ M ∧ Comp.mc ∈ M ∧ Comp.px ∈ M ∧
    Comp.outbox ∈ M) (s : State) (i w : Nat) : (State.writeSource s i w).hide M = s.hide M := by
  unfold State.writeSource
  simp [hM]

@[simp] theorem State.mcSpaceWrite_hide {M : List Comp} (hM : Comp.mc ∈ M ∧ Comp.px ∈ M ∧ Comp.outbox ∈ M) (s : State) (w : Who) (o :
    Nat) (x : RegWrite) : (State.mcSpaceWrite s w o x).hide M = s.hide M := by
  unfold State.mcSpaceWrite
  split <;> simp [hM]

@[simp] theorem State.regWrite_hide {M : List Comp} (hM : Comp.pt ∈ M ∧ Comp.xl ∈ M ∧ Comp.qc ∈ M ∧ Comp.tier ∈ M ∧ Comp.rk ∈ M ∧
    Comp.ec ∈ M ∧ Comp.units ∈ M ∧ Comp.links ∈ M ∧ Comp.tally ∈ M ∧ Comp.mc ∈ M ∧ Comp.px ∈ M ∧ Comp.reqs ∈ M ∧ Comp.outbox ∈ M) (s :
    State) (w : Who) (o : Nat) (x : RegWrite) : (State.regWrite s w o x).hide M = s.hide M := by
  unfold State.regWrite
  simp [hM]

@[simp] theorem State.bar0Write_hide {M : List Comp} (hM : Comp.pt ∈ M ∧ Comp.xl ∈ M ∧ Comp.qc ∈ M ∧ Comp.tier ∈ M ∧ Comp.rk ∈ M ∧
    Comp.ec ∈ M ∧ Comp.units ∈ M ∧ Comp.links ∈ M ∧ Comp.tally ∈ M ∧ Comp.mc ∈ M ∧ Comp.px ∈ M ∧ Comp.reqs ∈ M ∧ Comp.outbox ∈ M) (s :
    State) (w : Who) (o n value : Nat) : (State.bar0Write s w o n value).hide M = s.hide M := by
  unfold State.bar0Write
  simp [hM]

@[simp] theorem State.claim_hide {M : List Comp} (hM : Comp.pt ∈ M) (s : State) (p : Nat) (body : Bytes) : (State.claim s p body).2.hide
    M = s.hide M := by
  unfold State.claim
  simp [hM]

@[simp] theorem State.keyLoad_hide {M : List Comp} (hM : Comp.pt ∈ M) (s : State) (session p g : Nat) (body : Bytes) : (State.keyLoad s
    session p g body).2.hide M = s.hide M := by
  unfold State.keyLoad
  dsimp only
  repeat' (first | (simp [hM]; done) | split)

@[simp] theorem State.setProvision_hide {M : List Comp} (hM : Comp.pt ∈ M) (s : State) (p k : Nat) (body : Bytes) : (State.setProvision
    s p k body).2.hide M = s.hide M := by
  unfold State.setProvision
  simp [hM]

@[simp] theorem State.tenantAct_hide {M : List Comp} (hM : Comp.pt ∈ M ∧ Comp.xl ∈ M ∧ Comp.qc ∈ M ∧ Comp.tier ∈ M ∧ Comp.rk ∈ M ∧
    Comp.ch ∈ M ∧ Comp.units ∈ M ∧ Comp.links ∈ M ∧ Comp.tally ∈ M ∧ Comp.mc ∈ M ∧ Comp.px ∈ M ∧ Comp.reqs ∈ M ∧ Comp.nextReq ∈ M ∧
    Comp.outbox ∈ M) (s : State) (session p : Nat) (b : Bytes) : (State.tenantAct s session p b).2.hide M = s.hide M := by
  unfold State.tenantAct
  split <;> simp [hM]

@[simp] theorem State.tenantReply_hide {M : List Comp} (hM : Comp.outbox ∈ M) (s : State) (session code result : Nat) :
    (State.tenantReply s session code result).hide M = s.hide M := by
  unfold State.tenantReply
  simp [hM]

@[simp] theorem State.tenantRequest_hide {M : List Comp} (hM : Comp.pt ∈ M ∧ Comp.xl ∈ M ∧ Comp.qc ∈ M ∧ Comp.tier ∈ M ∧ Comp.rk ∈ M ∧
    Comp.ch ∈ M ∧ Comp.units ∈ M ∧ Comp.links ∈ M ∧ Comp.tally ∈ M ∧ Comp.mc ∈ M ∧ Comp.px ∈ M ∧ Comp.reqs ∈ M ∧ Comp.nextReq ∈ M ∧
    Comp.outbox ∈ M) (s : State) (session : Nat) (b : Bytes) : (State.tenantRequest s session b).hide M = s.hide M := by
  unfold State.tenantRequest
  dsimp only
  repeat' (first | (simp [hM]; done) | split)

@[simp] theorem State.modSpdm_hide {M : List Comp} (hM : Comp.mc ∈ M) (s : State) (f : Spdm → Spdm) : (State.modSpdm s f).hide M = s.hide M := by
  unfold State.modSpdm
  simp [hM]

@[simp] theorem State.spdmError_hide {M : List Comp} (hM : Comp.outbox ∈ M) (s : State) (session : Option Nat) (error code : Nat) :
    (State.spdmError s session error code).hide M = s.hide M := by
  unfold State.spdmError
  simp [hM]

@[simp] theorem State.spdmAnswer_hide {M : List Comp} (hM : Comp.free ∈ M ∧ Comp.outbox ∈ M) (s : State) (session : Option Nat) (c :
    SpdmCode) (content : Bytes) : (State.spdmAnswer s session c content).hide M = s.hide M := by
  unfold State.spdmAnswer
  simp [hM]

@[simp] theorem State.spdmRequest_hide {M : List Comp} (hM : Comp.pt ∈ M ∧ Comp.xl ∈ M ∧ Comp.qc ∈ M ∧ Comp.tier ∈ M ∧ Comp.rk ∈ M ∧
    Comp.ch ∈ M ∧ Comp.units ∈ M ∧ Comp.links ∈ M ∧ Comp.tally ∈ M ∧ Comp.mc ∈ M ∧ Comp.px ∈ M ∧ Comp.reqs ∈ M ∧ Comp.nextReq ∈ M ∧
    Comp.free ∈ M ∧ Comp.outbox ∈ M) (s : State) (doe : Bool) (session : Option Nat) (c : SpdmCode) (body : Bytes) : (State.spdmRequest
    s doe session c body).hide M = s.hide M := by
  unfold State.spdmRequest
  repeat' (first | (simp [hM]; done) | split)

@[simp] theorem State.resizeBar_hide {M : List Comp} (hM : Comp.px ∈ M) (s : State) (log2 : Nat) : (State.resizeBar s log2).hide M =
    s.hide M := by
  unfold State.resizeBar
  simp [hM]

@[simp] theorem State.vfEnableTo_hide {M : List Comp} (hM : Comp.px ∈ M) (s : State) (b : Bool) : (State.vfEnableTo s b).hide M = s.hide M := by
  unfold State.vfEnableTo
  simp [hM]

@[simp] theorem State.cfgExtWrite_hide {M : List Comp} (hM : Comp.mc ∈ M ∧ Comp.px ∈ M ∧ Comp.reqs ∈ M ∧ Comp.outbox ∈ M) (s : State) (f
    reg w : Nat) (x : RegWrite) : (State.cfgExtWrite s f reg w x).hide M = s.hide M := by
  unfold State.cfgExtWrite
  split <;> simp [hM]

@[simp] theorem State.cfgLowWrite_hide {M : List Comp} (hM : Comp.pt ∈ M ∧ Comp.xl ∈ M ∧ Comp.qc ∈ M ∧ Comp.tier ∈ M ∧ Comp.rk ∈ M ∧
    Comp.ch ∈ M ∧ Comp.units ∈ M ∧ Comp.tally ∈ M ∧ Comp.mc ∈ M ∧ Comp.px ∈ M ∧ Comp.reqs ∈ M ∧ Comp.nextReq ∈ M ∧ Comp.outbox ∈ M) (s :
    State) (f reg w : Nat) (x : RegWrite) : (State.cfgLowWrite s f reg w x).hide M = s.hide M := by
  unfold State.cfgLowWrite
  split <;> simp [hM]

@[simp] theorem State.cfgWrite_hide {M : List Comp} (hM : Comp.pt ∈ M ∧ Comp.xl ∈ M ∧ Comp.qc ∈ M ∧ Comp.tier ∈ M ∧ Comp.rk ∈ M ∧
    Comp.ch ∈ M ∧ Comp.units ∈ M ∧ Comp.tally ∈ M ∧ Comp.mc ∈ M ∧ Comp.px ∈ M ∧ Comp.reqs ∈ M ∧ Comp.nextReq ∈ M ∧ Comp.outbox ∈ M) (s :
    State) (f reg : Nat) (x : RegWrite) : (State.cfgWrite s f reg x).hide M = s.hide M := by
  unfold State.cfgWrite
  simp [hM]

@[simp] theorem State.cxlCfgWrite_hide {M : List Comp} (hM : Comp.links ∈ M) (s : State) (reg : Nat) (x : RegWrite) : (State.cxlCfgWrite
    s reg x).hide M = s.hide M := by
  unfold State.cxlCfgWrite
  simp [hM]

@[simp] theorem State.setItems_hide {M : List Comp} (hM : Comp.links ∈ M ∧ Comp.px ∈ M) (s : State) (port : Nat) (l : List InItem) :
    (State.setItems s port l).hide M = s.hide M := by
  unfold State.setItems
  simp [hM]

@[simp] theorem State.complete_hide {M : List Comp} (hM : Comp.ec ∈ M ∧ Comp.mc ∈ M ∧ Comp.px ∈ M ∧ Comp.reqs ∈ M ∧ Comp.outbox ∈ M) (s
    : State) (port txn lo status : Nat) (poisoned : Bool) (data : Bytes) : (State.complete s port txn lo status poisoned data).hide M =
    s.hide M := by
  unfold State.complete
  simp [hM]

@[simp] theorem State.pageWrite_hide {M : List Comp} (hM : Comp.pt ∈ M ∧ Comp.xl ∈ M ∧ Comp.qc ∈ M ∧ Comp.tier ∈ M ∧ Comp.rk ∈ M ∧
    Comp.ch ∈ M ∧ Comp.ec ∈ M ∧ Comp.links ∈ M ∧ Comp.tally ∈ M ∧ Comp.mc ∈ M ∧ Comp.px ∈ M ∧ Comp.reqs ∈ M ∧ Comp.nextReq ∈ M ∧
    Comp.free ∈ M ∧ Comp.outbox ∈ M) (s : State) (p off n value : Nat) : (State.pageWrite s p off n value).hide M = s.hide M := by
  unfold State.pageWrite
  repeat' (first | (simp [hM]; done) | split)

@[simp] theorem State.vfBarWrite_hide {M : List Comp} (hM : Comp.mc ∈ M ∧ Comp.px ∈ M ∧ Comp.outbox ∈ M) (s : State) (p o : Nat) (x :
    RegWrite) : (State.vfBarWrite s p o x).hide M = s.hide M := by
  unfold State.vfBarWrite
  simp [hM]

theorem State.wordsWrite_hide {M : List Comp} (s : State) (f : State → Nat → RegWrite → State)
    (h : ∀ t o x, (f t o x).hide M = t.hide M) (n off : Nat) (d : Bytes) : (s.wordsWrite f n off d).hide M = s.hide M := by
  induction n generalizing s off d with
  | zero => rfl
  | succ n ih =>
    unfold State.wordsWrite
    split
    · rfl
    · dsimp only
      rw [ih, h]

@[simp] theorem State.sendInbound_hide {M : List Comp} (hM : Comp.tally ∈ M ∧ Comp.reqs ∈ M ∧ Comp.nextReq ∈ M) (s : State) (port : Nat)
    (part : Option Nat) (pa len : Nat) (data : Option Bytes) : (State.sendInbound s port part pa len data).hide M = s.hide M := by
  unfold State.sendInbound
  split <;> simp [hM]

theorem State.pumpStep_hide {M : List Comp} (hM : Comp.pt ∈ M ∧ Comp.xl ∈ M ∧ Comp.qc ∈ M ∧ Comp.tier ∈ M ∧ Comp.rk ∈ M ∧ Comp.ch ∈ M ∧
    Comp.ec ∈ M ∧ Comp.links ∈ M ∧ Comp.tally ∈ M ∧ Comp.mc ∈ M ∧ Comp.px ∈ M ∧ Comp.reqs ∈ M ∧ Comp.nextReq ∈ M ∧ Comp.free ∈ M ∧
    Comp.outbox ∈ M) (s : State) (port : Nat) (wait before : Bool) (done : List InItem) (x0 : List InItem) : ∀ t, State.pumpStep s port
    wait before done x0 = some t → t.hide M = s.hide M := by
  induction x0 generalizing wait before done with
  | nil => simp [State.pumpStep, hM]
  | cons i rest ih =>
    intro t h
    unfold State.pumpStep at h
    repeat' (first | (exact ih _ _ _ t h) | (rw [← Option.some.inj h]; simp [hM]; done) | split at h)

@[simp] theorem State.pumpPort_hide {M : List Comp} (hM : Comp.pt ∈ M ∧ Comp.xl ∈ M ∧ Comp.qc ∈ M ∧ Comp.tier ∈ M ∧ Comp.rk ∈ M ∧
    Comp.ch ∈ M ∧ Comp.ec ∈ M ∧ Comp.links ∈ M ∧ Comp.tally ∈ M ∧ Comp.mc ∈ M ∧ Comp.px ∈ M ∧ Comp.reqs ∈ M ∧ Comp.nextReq ∈ M ∧
    Comp.free ∈ M ∧ Comp.outbox ∈ M) (s : State) (port : Nat) (x0 : Nat) : (State.pumpPort s port x0).hide M = s.hide M := by
  induction x0 generalizing s with
  | zero => rfl
  | succ n ih =>
    unfold State.pumpPort
    split
    · rename_i h
      rw [ih, State.pumpStep_hide (by simp [hM]) _ _ _ _ _ _ _ h]
    · rfl

@[simp] theorem State.take_hide {M : List Comp} (hM : Comp.pt ∈ M ∧ Comp.xl ∈ M ∧ Comp.qc ∈ M ∧ Comp.tier ∈ M ∧ Comp.rk ∈ M ∧ Comp.ch ∈
    M ∧ Comp.ec ∈ M ∧ Comp.links ∈ M ∧ Comp.tally ∈ M ∧ Comp.mc ∈ M ∧ Comp.px ∈ M ∧ Comp.reqs ∈ M ∧ Comp.nextReq ∈ M ∧ Comp.free ∈ M ∧
    Comp.outbox ∈ M) (s : State) (port : Nat) (i : InItem) : (State.take s port i).hide M = s.hide M := by
  unfold State.take
  simp [hM]

@[simp] theorem State.inboundWritten_hide {M : List Comp} (hM : Comp.pt ∈ M ∧ Comp.xl ∈ M ∧ Comp.qc ∈ M ∧ Comp.tier ∈ M ∧ Comp.rk ∈ M ∧
    Comp.ch ∈ M ∧ Comp.ec ∈ M ∧ Comp.links ∈ M ∧ Comp.tally ∈ M ∧ Comp.mc ∈ M ∧ Comp.px ∈ M ∧ Comp.reqs ∈ M ∧ Comp.nextReq ∈ M ∧
    Comp.free ∈ M ∧ Comp.outbox ∈ M) (s : State) (q : Req) (port : Nat) : (State.inboundWritten s q port).hide M = s.hide M := by
  unfold State.inboundWritten
  simp [hM]

@[simp] theorem State.inboundRead_hide {M : List Comp} (hM : Comp.pt ∈ M ∧ Comp.xl ∈ M ∧ Comp.qc ∈ M ∧ Comp.tier ∈ M ∧ Comp.rk ∈ M ∧
    Comp.ch ∈ M ∧ Comp.ec ∈ M ∧ Comp.links ∈ M ∧ Comp.tally ∈ M ∧ Comp.mc ∈ M ∧ Comp.px ∈ M ∧ Comp.reqs ∈ M ∧ Comp.nextReq ∈ M ∧
    Comp.free ∈ M ∧ Comp.outbox ∈ M) (s : State) (q : Req) (port : Nat) (res : RdRes) : (State.inboundRead s q port res).hide M = s.hide
    M := by
  unfold State.inboundRead
  simp [hM]

@[simp] theorem State.refuse_hide {M : List Comp} (hM : Comp.pt ∈ M ∧ Comp.ec ∈ M ∧ Comp.px ∈ M) (s : State) (port : Nat) (write : Bool)
    (d : InDest) : (State.refuse s port write d).hide M = s.hide M := by
  unfold State.refuse
  repeat' (first | (simp [hM]; done) | split)

@[simp] theorem State.takeWrite_hide {M : List Comp} (hM : Comp.pt ∈ M ∧ Comp.xl ∈ M ∧ Comp.qc ∈ M ∧ Comp.tier ∈ M ∧ Comp.rk ∈ M ∧
    Comp.ch ∈ M ∧ Comp.ec ∈ M ∧ Comp.units ∈ M ∧ Comp.links ∈ M ∧ Comp.tally ∈ M ∧ Comp.mc ∈ M ∧ Comp.px ∈ M ∧ Comp.reqs ∈ M ∧
    Comp.nextReq ∈ M ∧ Comp.free ∈ M ∧ Comp.outbox ∈ M) (s : State) (port : Nat) (d : InDest) (data : Bytes) : (State.takeWrite s port d
    data).hide M = s.hide M := by
  unfold State.takeWrite
  split <;> first | (simp [hM]; done) | (exact State.wordsWrite_hide _ _ (fun _ _ _ => by simp [hM]) _ _ _)

@[simp] theorem State.takeRead_hide {M : List Comp} (hM : Comp.pt ∈ M ∧ Comp.xl ∈ M ∧ Comp.qc ∈ M ∧ Comp.tier ∈ M ∧ Comp.rk ∈ M ∧
    Comp.ch ∈ M ∧ Comp.ec ∈ M ∧ Comp.links ∈ M ∧ Comp.tally ∈ M ∧ Comp.mc ∈ M ∧ Comp.px ∈ M ∧ Comp.reqs ∈ M ∧ Comp.nextReq ∈ M ∧
    Comp.free ∈ M ∧ Comp.outbox ∈ M) (s : State) (port txn lo len : Nat) (d : InDest) : (State.takeRead s port txn lo len d).hide M =
    s.hide M := by
  unfold State.takeRead
  split <;> simp [hM]

@[simp] theorem State.cxlWrite_hide {M : List Comp} (hM : Comp.pt ∈ M ∧ Comp.xl ∈ M ∧ Comp.qc ∈ M ∧ Comp.tier ∈ M ∧ Comp.rk ∈ M ∧
    Comp.ch ∈ M ∧ Comp.ec ∈ M ∧ Comp.units ∈ M ∧ Comp.links ∈ M ∧ Comp.tally ∈ M ∧ Comp.mc ∈ M ∧ Comp.px ∈ M ∧ Comp.reqs ∈ M ∧
    Comp.nextReq ∈ M ∧ Comp.free ∈ M ∧ Comp.outbox ∈ M) (s : State) (pasid : Option Nat) (off : Nat) (data : Bytes) : (State.cxlWrite s
    pasid off data).hide M = s.hide M := by
  unfold State.cxlWrite
  simp [hM]

@[simp] theorem State.cxlRead_hide {M : List Comp} (hM : Comp.pt ∈ M ∧ Comp.xl ∈ M ∧ Comp.qc ∈ M ∧ Comp.tier ∈ M ∧ Comp.rk ∈ M ∧ Comp.ch
    ∈ M ∧ Comp.ec ∈ M ∧ Comp.links ∈ M ∧ Comp.tally ∈ M ∧ Comp.mc ∈ M ∧ Comp.px ∈ M ∧ Comp.reqs ∈ M ∧ Comp.nextReq ∈ M ∧ Comp.free ∈ M ∧
    Comp.outbox ∈ M) (s : State) (pasid : Option Nat) (txn off len : Nat) (memory : Bool) : (State.cxlRead s pasid txn off len
    memory).hide M = s.hide M := by
  unfold State.cxlRead
  simp [hM]

@[simp] theorem State.cxlConfig_hide {M : List Comp} (hM : Comp.pt ∈ M ∧ Comp.xl ∈ M ∧ Comp.qc ∈ M ∧ Comp.tier ∈ M ∧ Comp.rk ∈ M ∧
    Comp.ch ∈ M ∧ Comp.ec ∈ M ∧ Comp.links ∈ M ∧ Comp.tally ∈ M ∧ Comp.mc ∈ M ∧ Comp.px ∈ M ∧ Comp.reqs ∈ M ∧ Comp.nextReq ∈ M ∧
    Comp.free ∈ M ∧ Comp.outbox ∈ M) (s : State) (txn reg : Nat) (write : Option RegWrite) : (State.cxlConfig s txn reg write).hide M =
    s.hide M := by
  unfold State.cxlConfig
  repeat' (first | (simp [hM]; done) | split)

@[simp] theorem State.deviceInterrupt_hide {M : List Comp} (hM : Comp.mc ∈ M ∧ Comp.px ∈ M ∧ Comp.outbox ∈ M) (s : State) (p addr value
    : Nat) : (State.deviceInterrupt s p addr value).hide M = s.hide M := by
  unfold State.deviceInterrupt
  simp [hM]

@[simp] theorem State.interruptWrite_hide {M : List Comp} (hM : Comp.pt ∈ M ∧ Comp.xl ∈ M ∧ Comp.qc ∈ M ∧ Comp.tier ∈ M ∧ Comp.rk ∈ M ∧
    Comp.ch ∈ M ∧ Comp.ec ∈ M ∧ Comp.units ∈ M ∧ Comp.links ∈ M ∧ Comp.tally ∈ M ∧ Comp.mc ∈ M ∧ Comp.px ∈ M ∧ Comp.reqs ∈ M ∧
    Comp.nextReq ∈ M ∧ Comp.free ∈ M ∧ Comp.outbox ∈ M) (s : State) (rid addr value : Nat) : (State.interruptWrite s rid addr
    value).hide M = s.hide M := by
  unfold State.interruptWrite
  repeat' (first | (simp [hM]; done) | split)

@[simp] theorem State.memoryRequest_hide {M : List Comp} (hM : Comp.pt ∈ M ∧ Comp.xl ∈ M ∧ Comp.qc ∈ M ∧ Comp.tier ∈ M ∧ Comp.rk ∈ M ∧
    Comp.ch ∈ M ∧ Comp.ec ∈ M ∧ Comp.units ∈ M ∧ Comp.links ∈ M ∧ Comp.tally ∈ M ∧ Comp.mc ∈ M ∧ Comp.px ∈ M ∧ Comp.reqs ∈ M ∧
    Comp.nextReq ∈ M ∧ Comp.free ∈ M ∧ Comp.outbox ∈ M) (s0 : State) (kind : TlpKind) (rid txn addr len : Nat) (poisoned : Bool) (data
    header : Bytes) : (State.memoryRequest s0 kind rid txn addr len poisoned data header).hide M = s0.hide M := by
  have ht : s0.tlp.hide M = s0.hide M := by simp [hM]
  unfold State.memoryRequest
  dsimp only
  generalize s0.tlp = s at ht
  rw [← ht]
  repeat' (first | (simp [hM]; done) | (simp [ht, hM]; done) | split)

@[simp] theorem State.configRequest_hide {M : List Comp} (hM : Comp.pt ∈ M ∧ Comp.xl ∈ M ∧ Comp.qc ∈ M ∧ Comp.tier ∈ M ∧ Comp.rk ∈ M ∧
    Comp.ch ∈ M ∧ Comp.ec ∈ M ∧ Comp.units ∈ M ∧ Comp.links ∈ M ∧ Comp.tally ∈ M ∧ Comp.mc ∈ M ∧ Comp.px ∈ M ∧ Comp.reqs ∈ M ∧
    Comp.nextReq ∈ M ∧ Comp.free ∈ M ∧ Comp.outbox ∈ M) (s0 : State) (f txn reg : Nat) (write : Option RegWrite) : (State.configRequest
    s0 f txn reg write).hide M = s0.hide M := by
  unfold State.configRequest
  repeat' (first | (simp [hM]; done) | split)

@[simp] theorem State.discardRes_hide {M : List Comp} (hM : Comp.pt ∈ M ∧ Comp.xl ∈ M ∧ Comp.reqs ∈ M) (s : State) (q : Req) :
    (State.discardRes s q).hide M = s.hide M := by
  unfold State.discardRes
  simp [hM]

@[simp] theorem State.readBack_hide {M : List Comp} (hM : Comp.pt ∈ M ∧ Comp.xl ∈ M ∧ Comp.qc ∈ M ∧ Comp.tier ∈ M ∧ Comp.rk ∈ M ∧
    Comp.ch ∈ M ∧ Comp.ec ∈ M ∧ Comp.links ∈ M ∧ Comp.tally ∈ M ∧ Comp.mc ∈ M ∧ Comp.px ∈ M ∧ Comp.reqs ∈ M ∧ Comp.nextReq ∈ M ∧
    Comp.free ∈ M ∧ Comp.outbox ∈ M) (s : State) (id : Nat) (res : RdRes) : (State.readBack s id res).hide M = s.hide M := by
  unfold State.readBack
  repeat' (first | (simp [hM]; done) | split)

@[simp] theorem State.writeBack_hide {M : List Comp} (hM : Comp.pt ∈ M ∧ Comp.xl ∈ M ∧ Comp.qc ∈ M ∧ Comp.tier ∈ M ∧ Comp.rk ∈ M ∧
    Comp.ch ∈ M ∧ Comp.ec ∈ M ∧ Comp.links ∈ M ∧ Comp.tally ∈ M ∧ Comp.mc ∈ M ∧ Comp.px ∈ M ∧ Comp.reqs ∈ M ∧ Comp.nextReq ∈ M ∧
    Comp.free ∈ M ∧ Comp.outbox ∈ M) (s : State) (id : Nat) (res : WrRes) : (State.writeBack s id res).hide M = s.hide M := by
  unfold State.writeBack
  repeat' (first | (simp [hM]; done) | split)

@[simp] theorem State.kppBack_hide {M : List Comp} (hM : Comp.pt ∈ M ∧ Comp.xl ∈ M ∧ Comp.links ∈ M ∧ Comp.tally ∈ M ∧ Comp.reqs ∈ M ∧
    Comp.outbox ∈ M) (s : State) (id : Nat) (res : WrRes) : (State.kppBack s id res).hide M = s.hide M := by
  unfold State.kppBack
  split <;> simp [hM]

@[simp] theorem State.endFill_hide {M : List Comp} (hM : Comp.pt ∈ M ∧ Comp.xl ∈ M ∧ Comp.tier ∈ M ∧ Comp.reqs ∈ M) (s : State) (q :
    Req) (f : Nat) : (State.endFill s q f).hide M = s.hide M := by
  unfold State.endFill
  simp [hM]

@[simp] theorem State.countLimit_hide {M : List Comp} (hM : Comp.qc ∈ M) (s : State) (q : Req) : (State.countLimit s q).hide M = s.hide M := by
  unfold State.countLimit
  simp [hM]

@[simp] theorem State.endAtLimit_hide {M : List Comp} (hM : Comp.pt ∈ M ∧ Comp.xl ∈ M ∧ Comp.qc ∈ M ∧ Comp.tier ∈ M ∧ Comp.rk ∈ M ∧
    Comp.ch ∈ M ∧ Comp.ec ∈ M ∧ Comp.links ∈ M ∧ Comp.tally ∈ M ∧ Comp.mc ∈ M ∧ Comp.px ∈ M ∧ Comp.reqs ∈ M ∧ Comp.nextReq ∈ M ∧
    Comp.free ∈ M ∧ Comp.outbox ∈ M) (s : State) (q : Req) : (State.endAtLimit s q).hide M = s.hide M := by
  unfold State.endAtLimit
  split <;> simp [hM]

@[simp] theorem State.requestLimit_hide {M : List Comp} (hM : Comp.pt ∈ M ∧ Comp.xl ∈ M ∧ Comp.qc ∈ M ∧ Comp.tier ∈ M ∧ Comp.rk ∈ M ∧
    Comp.ch ∈ M ∧ Comp.ec ∈ M ∧ Comp.links ∈ M ∧ Comp.tally ∈ M ∧ Comp.mc ∈ M ∧ Comp.px ∈ M ∧ Comp.reqs ∈ M ∧ Comp.nextReq ∈ M ∧
    Comp.free ∈ M ∧ Comp.outbox ∈ M) (s : State) (id : Nat) : (State.requestLimit s id).hide M = s.hide M := by
  unfold State.requestLimit
  split <;> simp [hM]

@[simp] theorem State.fetchBack_hide {M : List Comp} (hM : Comp.pt ∈ M ∧ Comp.xl ∈ M ∧ Comp.qc ∈ M ∧ Comp.ec ∈ M ∧ Comp.mc ∈ M ∧ Comp.px
    ∈ M ∧ Comp.reqs ∈ M ∧ Comp.outbox ∈ M) (s : State) (id : Nat) (res : RdRes) : (State.fetchBack s id res).hide M = s.hide M := by
  unfold State.fetchBack
  repeat' (first | (simp [hM]; done) | split)

@[simp] theorem State.consumerBack_hide {M : List Comp} (hM : Comp.pt ∈ M ∧ Comp.xl ∈ M ∧ Comp.qc ∈ M ∧ Comp.tier ∈ M ∧ Comp.ec ∈ M ∧
    Comp.tally ∈ M ∧ Comp.reqs ∈ M ∧ Comp.nextReq ∈ M) (s : State) (id : Nat) (res : RdRes) : (State.consumerBack s id res).hide M =
    s.hide M := by
  unfold State.consumerBack
  repeat' (first | (simp [hM]; done) | split)

@[simp] theorem State.normBack_hide {M : List Comp} (hM : Comp.pt ∈ M ∧ Comp.xl ∈ M ∧ Comp.qc ∈ M ∧ Comp.tier ∈ M ∧ Comp.rk ∈ M ∧
    Comp.ec ∈ M ∧ Comp.links ∈ M ∧ Comp.tally ∈ M ∧ Comp.mc ∈ M ∧ Comp.px ∈ M ∧ Comp.reqs ∈ M ∧ Comp.nextReq ∈ M ∧ Comp.free ∈ M ∧
    Comp.outbox ∈ M) (s : State) (id : Nat) (res : RdRes) : (State.normBack s id res).hide M = s.hide M := by
  unfold State.normBack
  repeat' (first | (simp [hM]; done) | split)

@[simp] theorem State.grant_hide {M : List Comp} (hM : Comp.pt ∈ M ∧ Comp.xl ∈ M ∧ Comp.qc ∈ M ∧ Comp.tier ∈ M ∧ Comp.rk ∈ M ∧ Comp.ec ∈
    M ∧ Comp.links ∈ M ∧ Comp.tally ∈ M ∧ Comp.reqs ∈ M ∧ Comp.nextReq ∈ M ∧ Comp.free ∈ M ∧ Comp.outbox ∈ M) (s : State) (x0 :
    Requester) : (State.grant s x0).hide M = s.hide M := by
  unfold State.grant
  split <;> simp [hM]

@[simp] theorem State.assignI3c_hide {M : List Comp} (hM : Comp.mc ∈ M) (s : State) (addr : Nat) : (State.assignI3c s addr).hide M =
    s.hide M := by
  unfold State.assignI3c
  simp [hM]

@[simp] theorem State.registerWrite_hide {M : List Comp} (hM : Comp.pt ∈ M ∧ Comp.xl ∈ M ∧ Comp.qc ∈ M ∧ Comp.tier ∈ M ∧ Comp.rk ∈ M ∧
    Comp.ec ∈ M ∧ Comp.units ∈ M ∧ Comp.links ∈ M ∧ Comp.tally ∈ M ∧ Comp.mc ∈ M ∧ Comp.px ∈ M ∧ Comp.reqs ∈ M ∧ Comp.outbox ∈ M) (s :
    State) (via : Option (Option Nat)) (off n value : Nat) : (State.registerWrite s via off n value).hide M = s.hide M := by
  unfold State.registerWrite
  split <;> simp [hM]

@[simp] theorem State.tickArray_hide {M : List Comp} (hM : Comp.rk ∈ M) (s : State) (a b : Nat) : (State.tickArray s a b).hide M = s.hide M := by
  unfold State.tickArray
  split <;> simp [hM]

@[simp] theorem State.tickTier_hide {M : List Comp} (hM : Comp.tier ∈ M) (s : State) (f : Nat) : (State.tickTier s f).hide M = s.hide M := by
  unfold State.tickTier
  simp [hM]

end Sys2Proof.Machine
end

