-- ==== Sys2Proof/Laws/Quiet.lean ====
section
/-! SUPPORT. The background effects: the event log and the mailboxes, interrupts, reported errors and counts. `State.quiet` is what they
leave of the management core, the port, the error collector and Tally; the laws that carry it through updates. -/

namespace Sys2Proof.Machine

@[simp] theorem quiet_mk (a1 : List Instr) (a2 : Clocks) (a3 : Nat) (a4 : Fuses) (a5 : Pt) (a6 : Xl) (a7 : Qc) (a8 : Tier) (a9 : Reck) (a10 : Chords) (a11 : Ec) (a12 : Tab UnitWord) (a13 : Links) (a14 : Tally) (a15 : Mc) (a16 : Px) (a17 : List Req) (a18 : Nat) (a19 : Nat) (a20 : List Emission) :
    (State.mk a1 a2 a3 a4 a5 a6 a7 a8 a9 a10 a11 a12 a13 a14 a15 a16 a17 a18 a19 a20).quiet = ⟨a15.rest, a16.rest, a11.rest, a14.rest⟩ := by
  rw [State.quiet]

@[simp] theorem quiet_fold (s : State) : Quiet.mk s.mc.rest s.px.rest s.ec.rest s.tally.rest = s.quiet := by
  rw [State.quiet]

@[simp] theorem Mc.rest_pwr (m : Mc) : m.rest.pwr = m.pwr := rfl
@[simp] theorem Mc.rest_ready (m : Mc) : m.rest.ready = m.ready := rfl
@[simp] theorem Mc.rest_served (m : Mc) : m.rest.served = m.served := rfl
@[simp] theorem Mc.rest_skews (m : Mc) : m.rest.skews = m.skews := rfl
@[simp] theorem Mc.rest_reconcileAt (m : Mc) : m.rest.reconcileAt = m.reconcileAt := rfl
@[simp] theorem Mc.rest_mode (m : Mc) : m.rest.mode = m.mode := rfl
@[simp] theorem Mc.rest_fw (m : Mc) : m.rest.fw = m.fw := rfl
@[simp] theorem Mc.rest_rd (m : Mc) : m.rest.rd = m.rd := rfl
@[simp] theorem Mc.rest_unwraps (m : Mc) : m.rest.unwraps = m.unwraps := rfl
@[simp] theorem Mc.rest_spdm (m : Mc) : m.rest.spdm = m.spdm := rfl
@[simp] theorem Mc.rest_i3c (m : Mc) : m.rest.i3c = m.i3c := rfl
@[simp] theorem Mc.rest_set_log (m : Mc) (x) : Mc.rest { m with log := x } = m.rest := by
  rw [Mc.rest, Mc.rest]
@[simp] theorem Mc.rest_set_seq (m : Mc) (x) : Mc.rest { m with seq := x } = m.rest := by
  rw [Mc.rest, Mc.rest]
@[simp] theorem Mc.rest_set_boxes (m : Mc) (x) : Mc.rest { m with boxes := x } = m.rest := by
  rw [Mc.rest, Mc.rest]
@[simp] theorem Mc.rest_set_decide (m : Mc) (x) : Mc.rest { m with decide := x } = m.rest := by
  rw [Mc.rest, Mc.rest]

@[simp] theorem Px.rest_rootPort (p : Px) : p.rest.rootPort = p.rootPort := rfl
@[simp] theorem Px.rest_configReady (p : Px) : p.rest.configReady = p.configReady := rfl
@[simp] theorem Px.rest_linkUp (p : Px) : p.rest.linkUp = p.linkUp := rfl
@[simp] theorem Px.rest_linkWidth (p : Px) : p.rest.linkWidth = p.linkWidth := rfl
@[simp] theorem Px.rest_linkRate (p : Px) : p.rest.linkRate = p.linkRate := rfl
@[simp] theorem Px.rest_wasDown (p : Px) : p.rest.wasDown = p.wasDown := rfl
@[simp] theorem Px.rest_linkDisable (p : Px) : p.rest.linkDisable = p.linkDisable := rfl
@[simp] theorem Px.rest_l0p (p : Px) : p.rest.l0p = p.l0p := rfl
@[simp] theorem Px.rest_l1 (p : Px) : p.rest.l1 = p.l1 := rfl
@[simp] theorem Px.rest_l1Enable (p : Px) : p.rest.l1Enable = p.l1Enable := rfl
@[simp] theorem Px.rest_frozen (p : Px) : p.rest.frozen = p.frozen := rfl
@[simp] theorem Px.rest_cause (p : Px) : p.rest.cause = p.cause := rfl
@[simp] theorem Px.rest_triggerErr (p : Px) : p.rest.triggerErr = p.triggerErr := rfl
@[simp] theorem Px.rest_insertHold (p : Px) : p.rest.insertHold = p.insertHold := rfl
@[simp] theorem Px.rest_capoMask (p : Px) : p.rest.capoMask = p.capoMask := rfl
@[simp] theorem Px.rest_triggers (p : Px) : p.rest.triggers = p.triggers := rfl
@[simp] theorem Px.rest_refusedReleases (p : Px) : p.rest.refusedReleases = p.refusedReleases := rfl
@[simp] theorem Px.rest_frozenAt (p : Px) : p.rest.frozenAt = p.frozenAt := rfl
@[simp] theorem Px.rest_trigAt (p : Px) : p.rest.trigAt = p.trigAt := rfl
@[simp] theorem Px.rest_releaseAt (p : Px) : p.rest.releaseAt = p.releaseAt := rfl
@[simp] theorem Px.rest_refusedAt (p : Px) : p.rest.refusedAt = p.refusedAt := rfl
@[simp] theorem Px.rest_uncStatus (p : Px) : p.rest.uncStatus = p.uncStatus := rfl
@[simp] theorem Px.rest_uncMask (p : Px) : p.rest.uncMask = p.uncMask := rfl
@[simp] theorem Px.rest_uncSev (p : Px) : p.rest.uncSev = p.uncSev := rfl
@[simp] theorem Px.rest_corStatus (p : Px) : p.rest.corStatus = p.corStatus := rfl
@[simp] theorem Px.rest_corMask (p : Px) : p.rest.corMask = p.corMask := rfl
@[simp] theorem Px.rest_firstErr (p : Px) : p.rest.firstErr = p.firstErr := rfl
@[simp] theorem Px.rest_headerLog (p : Px) : p.rest.headerLog = p.headerLog := rfl
@[simp] theorem Px.rest_rootErr (p : Px) : p.rest.rootErr = p.rootErr := rfl
@[simp] theorem Px.rest_rootSrc (p : Px) : p.rest.rootSrc = p.rootSrc := rfl
@[simp] theorem Px.rest_fns (p : Px) : p.rest.fns = p.fns := rfl
@[simp] theorem Px.rest_vfEnable (p : Px) : p.rest.vfEnable = p.vfEnable := rfl
@[simp] theorem Px.rest_vfMemSpace (p : Px) : p.rest.vfMemSpace = p.vfMemSpace := rfl
@[simp] theorem Px.rest_numVfs (p : Px) : p.rest.numVfs = p.numVfs := rfl
@[simp] theorem Px.rest_vfBar0 (p : Px) : p.rest.vfBar0 = p.vfBar0 := rfl
@[simp] theorem Px.rest_vfBar2 (p : Px) : p.rest.vfBar2 = p.vfBar2 := rfl
@[simp] theorem Px.rest_vfBar4 (p : Px) : p.rest.vfBar4 = p.vfBar4 := rfl
@[simp] theorem Px.rest_bar2Log2 (p : Px) : p.rest.bar2Log2 = p.bar2Log2 := rfl
@[simp] theorem Px.rest_winMisaligned (p : Px) : p.rest.winMisaligned = p.winMisaligned := rfl
@[simp] theorem Px.rest_inbound (p : Px) : p.rest.inbound = p.inbound := rfl
@[simp] theorem Px.rest_frozenDiscards (p : Px) : p.rest.frozenDiscards = p.frozenDiscards := rfl
@[simp] theorem Px.rest_refused (p : Px) : p.rest.refused = p.refused := rfl
@[simp] theorem Px.rest_unsupported (p : Px) : p.rest.unsupported = p.unsupported := rfl
@[simp] theorem Px.rest_assigns (p : Px) : p.rest.assigns = p.assigns := rfl
@[simp] theorem Px.rest_rpNow (p : Px) : p.rest.rpNow = p.rpNow := rfl
@[simp] theorem Px.rest_rpWait (p : Px) : p.rest.rpWait = p.rpWait := rfl
@[simp] theorem Px.rest_image (p : Px) : p.rest.image = p.image := rfl
@[simp] theorem Px.rest_routePcie (p : Px) : p.rest.routePcie = p.routePcie := rfl
@[simp] theorem Px.rest_hostVec (p : Px) : p.rest.hostVec = p.hostVec := rfl
@[simp] theorem Px.rest_set_msix (p : Px) (x) : Px.rest { p with msix := x } = p.rest := by
  rw [Px.rest, Px.rest]
@[simp] theorem Px.rest_set_irqDropped (p : Px) (x) : Px.rest { p with irqDropped := x } = p.rest := by
  rw [Px.rest, Px.rest]
@[simp] theorem Px.rest_set_tlpAt (p : Px) (x) : Px.rest { p with tlpAt := x } = p.rest := by
  rw [Px.rest, Px.rest]

@[simp] theorem Ec.rest_sources (e : Ec) : e.rest.sources = e.sources := rfl
@[simp] theorem Ec.rest_quietLog2 (e : Ec) : e.rest.quietLog2 = e.quietLog2 := rfl
@[simp] theorem Ec.rest_steps (e : Ec) : e.rest.steps = e.steps := rfl
@[simp] theorem Ec.rest_recoveries (e : Ec) : e.rest.recoveries = e.recoveries := rfl
@[simp] theorem Ec.rest_alive (e : Ec) : e.rest.alive = e.alive := rfl
@[simp] theorem Ec.rest_aliveAt (e : Ec) : e.rest.aliveAt = e.aliveAt := rfl
@[simp] theorem Ec.rest_testMode (e : Ec) : e.rest.testMode = e.testMode := rfl
@[simp] theorem Ec.rest_set_lines (e : Ec) (x) : Ec.rest { e with lines := x } = e.rest := by
  rw [Ec.rest, Ec.rest]

@[simp] theorem Tally.rest_counters (t : Tally) : t.rest.counters = t.counters := rfl
@[simp] theorem Tally.rest_lifetimes (t : Tally) : t.rest.lifetimes = t.lifetimes := rfl
@[simp] theorem Tally.rest_epoch (t : Tally) : t.rest.epoch = t.epoch := rfl
@[simp] theorem Tally.rest_total (t : Tally) : t.rest.total = t.total := rfl
@[simp] theorem Tally.rest_since (t : Tally) : t.rest.since = t.since := rfl
@[simp] theorem Tally.rest_cause (t : Tally) : t.rest.cause = t.cause := rfl
@[simp] theorem Tally.rest_signing (t : Tally) : t.rest.signing = t.signing := rfl
@[simp] theorem Tally.rest_waiters (t : Tally) : t.rest.waiters = t.waiters := rfl
@[simp] theorem Tally.rest_records (t : Tally) : t.rest.records = t.records := rfl
@[simp] theorem Tally.rest_next (t : Tally) : t.rest.next = t.next := rfl
@[simp] theorem Tally.rest_selfFail (t : Tally) : t.rest.selfFail = t.selfFail := rfl
@[simp] theorem Tally.rest_warnLow (t : Tally) : t.rest.warnLow = t.warnLow := rfl
@[simp] theorem Tally.rest_warnAt (t : Tally) : t.rest.warnAt = t.warnAt := rfl
@[simp] theorem Tally.rest_select (t : Tally) : t.rest.select = t.select := rfl
@[simp] theorem Tally.rest_held (t : Tally) : t.rest.held = t.held := rfl
@[simp] theorem Tally.rest_set_acc (t : Tally) (x) : Tally.rest { t with acc := x } = t.rest := by
  rw [Tally.rest, Tally.rest]
@[simp] theorem Tally.rest_set_pulses (t : Tally) (x) : Tally.rest { t with pulses := x } = t.rest := by
  rw [Tally.rest, Tally.rest]
@[simp] theorem Tally.rest_set_asks (t : Tally) (x) : Tally.rest { t with asks := x } = t.rest := by
  rw [Tally.rest, Tally.rest]

@[simp] theorem Mc.rest_set_log_seq (m : Mc) (x y) : Mc.rest { m with log := x, seq := y } = m.rest := by
  rw [Mc.rest, Mc.rest]

@[simp] theorem Tally.rest_set_acc_pulses (t : Tally) (x y) : Tally.rest { t with acc := x, pulses := y } = t.rest := by
  rw [Tally.rest, Tally.rest]

@[simp] theorem quiet_ite (c : Prop) [Decidable c] (a b : State) : (if c then a else b).quiet = if c then a.quiet else b.quiet := by
  split <;> rfl

@[simp] theorem quiet_snd_ite {α : Type} (c : Prop) [Decidable c] (a b : α × State) :
    (if c then a else b).2.quiet = if c then a.2.quiet else b.2.quiet := by
  split <;> rfl

@[simp] theorem each_quiet {α : Type} (s : State) (l : List α) (f : State → α → State) (h : ∀ t x, (f t x).quiet = t.quiet) :
    (s.each l f).quiet = s.quiet := by
  unfold State.each
  induction l generalizing s with
  | nil => rfl
  | cons a l ih => rw [List.foldl_cons, ih, h]

@[simp] theorem foldl_quiet {α : Type} (f : State → α → State) (l : List α) (s : State) (h : ∀ t x, (f t x).quiet = t.quiet) :
    (l.foldl f s).quiet = s.quiet := each_quiet s l f h

/-- A change of Tally that touches only accumulators and pulses. -/
@[simp] theorem modTally_quiet (s : State) (f : Tally → Tally) (h : ∀ t, (f t).rest = t.rest) : (s.modTally f).quiet = s.quiet := by
  simp [State.modTally, h]

end Sys2Proof.Machine
end

