-- ==== Sys2Proof/Laws/QuietOps.lean ====
section
/-! SUPPORT. Operations whose effects on the management core, the port, the error collector and Tally are background effects alone: the named operations, events, peer sending, the tier paths, translation, access checks and the transfer engine. -/

set_option linter.unusedTactic false
set_option linter.unreachableTactic false
set_option linter.unusedSimpArgs false

namespace Sys2Proof.Machine

@[simp] theorem State.modPart_quiet (s : State) (p : Nat) (f : Part → Part) : (State.modPart s p f).quiet = s.quiet := by
  unfold State.modPart
  simp

@[simp] theorem State.modRing_quiet (s : State) (r : Nat) (f : Ring → Ring) : (State.modRing s r f).quiet = s.quiet := by
  unfold State.modRing
  simp

@[simp] theorem State.modCell_quiet (s : State) (c : Nat) (f : Cell → Cell) : (State.modCell s c f).quiet = s.quiet := by
  unfold State.modCell
  simp

@[simp] theorem State.modSlot_quiet (s : State) (k : Nat) (f : ParkSlot → ParkSlot) : (State.modSlot s k f).quiet = s.quiet := by
  unfold State.modSlot
  simp

@[simp] theorem State.modFq_quiet (s : State) (p : Nat) (f : FaultQueue → FaultQueue) : (State.modFq s p f).quiet = s.quiet := by
  unfold State.modFq
  simp

@[simp] theorem State.modCq_quiet (s : State) (k : Nat) (f : CompRing → CompRing) : (State.modCq s k f).quiet = s.quiet := by
  unfold State.modCq
  simp

@[simp] theorem State.modInvq_quiet (s : State) (p : Nat) (f : InvQueue → InvQueue) : (State.modInvq s p f).quiet = s.quiet := by
  unfold State.modInvq
  simp

@[simp] theorem State.modChq_quiet (s : State) (p : Nat) (f : ChordQueue → ChordQueue) : (State.modChq s p f).quiet = s.quiet := by
  unfold State.modChq
  simp

@[simp] theorem State.modChord_quiet (s : State) (k : Nat) (f : ChordSlot → ChordSlot) : (State.modChord s k f).quiet = s.quiet := by
  unfold State.modChord
  simp

@[simp] theorem State.modUnit_quiet (s : State) (u : Nat) (f : UnitWord → UnitWord) : (State.modUnit s u f).quiet = s.quiet := by
  unfold State.modUnit
  simp

@[simp] theorem State.modWork_quiet (s : State) (r pos : Nat) (f : Work → Work) : (State.modWork s r pos f).quiet = s.quiet := by
  unfold State.modWork
  simp

@[simp] theorem State.draw_quiet (s : State) : (State.draw s).2.quiet = s.quiet := by
  unfold State.draw
  simp

@[simp] theorem State.choose_quiet (s : State) (n : Nat) : (State.choose s n).2.quiet = s.quiet := by
  unfold State.choose
  simp

@[simp] theorem State.report_quiet (s : State) (e : ErrorEv) : (State.report s e).quiet = s.quiet := by
  unfold State.report
  simp

@[simp] theorem State.dropReq_quiet (s : State) (id : Nat) : (State.dropReq s id).quiet = s.quiet := by
  unfold State.dropReq
  simp

@[simp] theorem State.modReq_quiet (s : State) (id : Nat) (f : Req → Req) : (State.modReq s id f).quiet = s.quiet := by
  unfold State.modReq
  simp

@[simp] theorem State.send_quiet (s : State) (r : Req) : (State.send s r).quiet = s.quiet := by
  unfold State.send
  simp

@[simp] theorem State.keyTake_quiet (s : State) (x0 : Option (Nat × Nat)) : (State.keyTake s x0).quiet = s.quiet := by
  rcases x0 with _ | ⟨p, g⟩
  · rfl
  · simp [State.keyTake]

@[simp] theorem State.keyGive_quiet (s : State) (x0 : Option (Nat × Nat)) : (State.keyGive s x0).quiet = s.quiet := by
  rcases x0 with _ | ⟨p, g⟩
  · rfl
  · simp [State.keyGive]

@[simp] theorem State.drainSpan_quiet (s : State) (sp : Nat × Nat × Nat) : (State.drainSpan s sp).quiet = s.quiet := by
  unfold State.drainSpan
  simp

@[simp] theorem State.finishReq_quiet (s : State) (r : Req) : (State.finishReq s r).quiet = s.quiet := by
  unfold State.finishReq
  split <;> simp

@[simp] theorem State.orphan_quiet (s : State) (mine : Purpose → Bool) : (State.orphan s mine).quiet = s.quiet := by
  unfold State.orphan
  simp

@[simp] theorem State.modBox_quiet (s : State) (m : Nat) (f : Mailbox → Mailbox) : (State.modBox s m f).quiet = s.quiet := by
  unfold State.modBox
  simp

@[simp] theorem State.emit_quiet (s : State) (e : Emission) : (State.emit s e).quiet = s.quiet := by
  unfold State.emit
  simp

@[simp] theorem State.dropIrq_quiet (s : State) : (State.dropIrq s).quiet = s.quiet := by
  unfold State.dropIrq
  simp

@[simp] theorem State.signalVector_quiet (s : State) (owner v : Nat) : (State.signalVector s owner v).quiet = s.quiet := by
  unfold State.signalVector
  simp

@[simp] theorem State.signalBox_quiet (s : State) (m : Nat) : (State.signalBox s m).quiet = s.quiet := by
  unfold State.signalBox
  simp

@[simp] theorem State.notify_quiet (s : State) (m : Nat) (e : EventRec) : (State.notify s m e).quiet = s.quiet := by
  unfold State.notify
  simp

@[simp] theorem State.event_quiet (s : State) (code domain cycle : Nat) (unit part : Option Nat) (data : Nat) : (State.event s code
    domain cycle unit part data).quiet = s.quiet := by
  unfold State.event
  dsimp only
  rw [each_quiet _ _ _ (fun _ _ => State.notify_quiet _ _ _)]
  simp

@[simp] theorem State.fabEvent_quiet (s : State) (code : Nat) (unit part : Option Nat) (data : Nat) : (State.fabEvent s code unit part
    data).quiet = s.quiet := by
  unfold State.fabEvent
  simp

@[simp] theorem State.mgtEvent_quiet (s : State) (code : Nat) (unit part : Option Nat) (data : Nat) : (State.mgtEvent s code unit part
    data).quiet = s.quiet := by
  unfold State.mgtEvent
  simp

@[simp] theorem State.sendPulse_quiet (s : State) (p k : Nat) : (State.sendPulse s p k).quiet = s.quiet := by
  unfold State.sendPulse
  simp

@[simp] theorem State.count_quiet (s : State) (p k n : Nat) : (State.count s p k n).quiet = s.quiet := by
  unfold State.count
  simp

@[simp] theorem State.controlPulse_quiet (s : State) (p n : Nat) : (State.controlPulse s p n).quiet = s.quiet := by
  unfold State.controlPulse
  simp

@[simp] theorem State.countHost_quiet (s : State) (r : Req) : (State.countHost s r).quiet = s.quiet := by
  unfold State.countHost
  split <;> simp

@[simp] theorem State.sendHost_quiet (s : State) (r : Req) : (State.sendHost s r).quiet = s.quiet := by
  unfold State.sendHost
  simp

@[simp] theorem State.countAddress_quiet (s : State) : (State.countAddress s).quiet = s.quiet := by
  unfold State.countAddress
  simp

@[simp] theorem State.violate_quiet (s : State) (requester part check pa : Nat) (write : Bool) (errPart : Option Nat) : (State.violate s
    requester part check pa write errPart).quiet = s.quiet := by
  unfold State.violate
  simp

@[simp] theorem State.clearWindowsOn_quiet (s : State) (p c : Nat) : (State.clearWindowsOn s p c).quiet = s.quiet := by
  unfold State.clearWindowsOn
  simp

@[simp] theorem State.modMod_quiet (s : State) (k : Nat) (f : Module → Module) : (State.modMod s k f).quiet = s.quiet := by
  unfold State.modMod
  simp

@[simp] theorem State.sendFlit_quiet (s : State) (m header : Nat) (body : Bytes) : (State.sendFlit s m header body).quiet = s.quiet := by
  unfold State.sendFlit
  simp

@[simp] theorem State.sendIdle_quiet (s : State) (m : Nat) (x0 : Nat) : (State.sendIdle s m x0).quiet = s.quiet := by
  induction x0 generalizing s with
  | zero => rfl
  | succ n ih =>
    unfold State.sendIdle
    split <;> simp [ih]

@[simp] theorem State.sendPackets_quiet (s : State) (m : Nat) (l : List Packet) : (State.sendPackets s m l).quiet = s.quiet := by
  unfold State.sendPackets
  split <;> simp

theorem State.pumpOne_quiet (s : State) (m : Nat) : ∀ t, State.pumpOne s m = some t → t.quiet = s.quiet := by
  intro t h
  unfold State.pumpOne at h
  dsimp only at h
  split at h
  · simp at h
  · split at h
    · simp at h
    · rw [← Option.some.inj h]
      simp

@[simp] theorem State.pumpN_quiet (s : State) (m : Nat) (x0 : Nat) : (State.pumpN s m x0).quiet = s.quiet := by
  induction x0 generalizing s with
  | zero => rfl
  | succ n ih =>
    unfold State.pumpN
    split
    · rename_i h
      rw [ih, State.pumpOne_quiet _ _ _ h]
    · rfl

@[simp] theorem State.pump_quiet (s : State) (m : Nat) : (State.pump s m).quiet = s.quiet := by
  unfold State.pump
  simp

@[simp] theorem State.queuePacket_quiet (s : State) (m : Nat) (p : Packet) : (State.queuePacket s m p).quiet = s.quiet := by
  unfold State.queuePacket
  simp

theorem State.freeTag_quiet (s : State) : ∀ a t, State.freeTag s = some (a, t) → t.quiet = s.quiet := by
  unfold State.freeTag
  simp

theorem State.sendPeer_quiet (s : State) (r : Req) (vc : Nat) : ∀ t, State.sendPeer s r vc = some (some t) → t.quiet = s.quiet := by
  intro t h
  unfold State.sendPeer at h
  split at h
  · simp at h
  · split at h
    · simp at h
    · split at h
      · simp at h
      · rename_i h1
        rw [← Option.some.inj (Option.some.inj h)]
        simp [State.freeTag_quiet _ _ _ h1]

@[simp] theorem State.freeTagOf_quiet (s : State) (t : Nat) : (State.freeTagOf s t).quiet = s.quiet := by
  unfold State.freeTagOf
  simp

@[simp] theorem State.sendResponse_quiet (s : State) (p dst tag : Nat) (slots : Bytes) (resp : Bool) : (State.sendResponse s p dst tag
    slots resp).quiet = s.quiet := by
  unfold State.sendResponse
  split <;> simp

@[simp] theorem State.tierPerf_quiet (s : State) (p : Nat) (f : Tier → Tier) : (State.tierPerf s p f).quiet = s.quiet := by
  unfold State.tierPerf
  simp

@[simp] theorem State.onHit_quiet (s : State) (p pa hint k : Nat) : (State.onHit s p pa hint k).quiet = s.quiet := by
  unfold State.onHit
  simp

@[simp] theorem State.removeLine_quiet (s : State) (pa : Nat) : (State.removeLine s pa).quiet = s.quiet := by
  unfold State.removeLine
  simp

@[simp] theorem State.bulkRead_quiet (s : State) (r : Req) (hint : Nat) : (State.bulkRead s r hint).quiet = s.quiet := by
  unfold State.bulkRead
  split <;> simp

@[simp] theorem State.installLine_quiet (s : State) (f : Fill) (data : Bytes) : (State.installLine s f data).quiet = s.quiet := by
  unfold State.installLine
  dsimp only
  repeat' (first | (simp; done) | split)

@[simp] theorem State.pushEntry_quiet (s : State) (n : Nat) (e : WcEntry) : (State.pushEntry s n e).quiet = s.quiet := by
  unfold State.pushEntry
  simp

@[simp] theorem State.flushEntry_quiet (s : State) (k : Nat) : (State.flushEntry s k).quiet = s.quiet := by
  unfold State.flushEntry
  simp

@[simp] theorem State.mergePush_quiet (s : State) (n : Nat) (old : Bytes) : (State.mergePush s n old).quiet = s.quiet := by
  unfold State.mergePush
  simp

@[simp] theorem State.flushAll_quiet (s : State) (l : List Nat) : (State.flushAll s l).quiet = s.quiet := by
  unfold State.flushAll
  simp

@[simp] theorem State.flushLine_quiet (s : State) (p pa : Nat) : (State.flushLine s p pa).quiet = s.quiet := by
  unfold State.flushLine
  simp

@[simp] theorem State.flushOf_quiet (s : State) (p : Nat) (mine : Purpose → Bool) : (State.flushOf s p mine).quiet = s.quiet := by
  unfold State.flushOf
  simp

@[simp] theorem State.mergeWc_quiet (s : State) (k id : Nat) (r : Req) : (State.mergeWc s k id r).quiet = s.quiet := by
  unfold State.mergeWc
  simp

@[simp] theorem State.combine_quiet (s : State) (r : Req) : (State.combine s r).quiet = s.quiet := by
  unfold State.combine
  dsimp only
  repeat' (first | (simp; done) | split)

@[simp] theorem State.bulkWrite_quiet (s : State) (r : Req) : (State.bulkWrite s r).quiet = s.quiet := by
  unfold State.bulkWrite
  simp

@[simp] theorem State.narrowWrite_quiet (s : State) (r : Req) : (State.narrowWrite s r).quiet = s.quiet := by
  unfold State.narrowWrite
  simp

@[simp] theorem State.mergeNarrow_quiet (s : State) (id : Nat) (old : Bytes) : (State.mergeNarrow s id old).quiet = s.quiet := by
  unfold State.mergeNarrow
  simp

@[simp] theorem State.narrowRead_quiet (s : State) (r : Req) : (State.narrowRead s r).quiet = s.quiet := by
  unfold State.narrowRead
  simp

@[simp] theorem State.dropWc_quiet (s : State) (p : Nat) : (State.dropWc s p).quiet = s.quiet := by
  unfold State.dropWc
  simp

@[simp] theorem State.dropLines_quiet (s : State) (p : Nat) : (State.dropLines s p).quiet = s.quiet := by
  unfold State.dropLines
  simp

@[simp] theorem State.l1Install_quiet (s : State) (t : Nat) (l : Leaf) : (State.l1Install s t l).quiet = s.quiet := by
  unfold State.l1Install
  simp

@[simp] theorem State.l2Install_quiet (s : State) (p : Nat) (l : Leaf) : (State.l2Install s p l).quiet = s.quiet := by
  unfold State.l2Install
  dsimp only
  repeat' (first | (simp; done) | split)

@[simp] theorem State.xlPerf_quiet (s : State) (p : Nat) (f : Xl → Xl) : (State.xlPerf s p f).quiet = s.quiet := by
  unfold State.xlPerf
  simp

@[simp] theorem State.xlError_quiet (s : State) (kind p asid va : Nat) : (State.xlError s kind p asid va).quiet = s.quiet := by
  unfold State.xlError
  simp

@[simp] theorem State.translate_quiet (s : State) (p t asid va : Nat) : (State.translate s p t asid va).2.quiet = s.quiet := by
  unfold State.translate
  repeat' (first | (simp; done) | split)

@[simp] theorem State.fileMiss_quiet (s : State) (m : Miss) : (State.fileMiss s m).quiet = s.quiet := by
  unfold State.fileMiss
  simp

@[simp] theorem State.removeEntries_quiet (s : State) (p : Nat) (k : InvKind) : (State.removeEntries s p k).quiet = s.quiet := by
  unfold State.removeEntries
  simp

@[simp] theorem State.discardWalks_quiet (s : State) (p : Nat) : (State.discardWalks s p).quiet = s.quiet := by
  unfold State.discardWalks
  simp

@[simp] theorem State.cutInval_quiet (s : State) (p : Nat) (k : InvKind) (i : Inval) : (State.cutInval s p k i).quiet = s.quiet := by
  unfold State.cutInval
  simp

@[simp] theorem State.emptyTlbs_quiet (s : State) (p : Nat) : (State.emptyTlbs s p).quiet = s.quiet := by
  unfold State.emptyTlbs
  simp

@[simp] theorem State.takeTokens_quiet (s : State) (p b n : Nat) : (State.takeTokens s p b n).quiet = s.quiet := by
  unfold State.takeTokens
  simp

@[simp] theorem State.waitTokens_quiet (s : State) (p b : Nat) : (State.waitTokens s p b).quiet = s.quiet := by
  unfold State.waitTokens
  simp

@[simp] theorem State.fabricPort_quiet (s : State) (a : Access) : (State.fabricPort s a).2.quiet = s.quiet := by
  unfold State.fabricPort
  simp

@[simp] theorem State.accessHost_quiet (s : State) (a : Access) (pa : Nat) (key : Option (Nat × Nat)) : (State.accessHost s a pa
    key).2.quiet = s.quiet := by
  unfold State.accessHost
  simp

@[simp] theorem State.accessFabric_quiet (s : State) (a : Access) (pa : Nat) : (State.accessFabric s a pa).2.quiet = s.quiet := by
  unfold State.accessFabric
  simp

@[simp] theorem State.accessPeer_quiet (s : State) (a : Access) (pa : Nat) : (State.accessPeer s a pa).2.quiet = s.quiet := by
  have ht : ∀ q vc t, s.sendPeer q vc = some (some t) → t.quiet = s.quiet := fun q vc t h => State.sendPeer_quiet s q vc t h
  unfold State.accessPeer
  dsimp only
  repeat' (first | rfl | (simp; done) | (rename_i h; simp [ht _ _ _ h]; done) | split)

@[simp] theorem State.accessPhys_quiet (s : State) (a : Access) (pa : Nat) (key : Option (Nat × Nat)) : (State.accessPhys s a pa
    key).2.quiet = s.quiet := by
  unfold State.accessPhys
  repeat' (first | (simp; done) | split)

@[simp] theorem State.access_quiet (s : State) (a : Access) : (State.access s a).2.quiet = s.quiet := by
  have ht : ∀ x t, s.translate a.part a.l1 a.asid a.va = (x, t) → t.quiet = s.quiet := by
    intro x t h
    rw [← State.translate_quiet s a.part a.l1 a.asid a.va, h]
  unfold State.access
  dsimp only
  split
  · simp
  · split
    · rfl
    · split <;> rename_i h <;> first
        | (simp [ht _ _ h]; done)
        | (split <;> first | (simp [ht _ _ h]; done) | (split <;> simp [ht _ _ h]))

@[simp] theorem State.flushWork_quiet (s : State) (p r pos : Nat) : (State.flushWork s p r pos).quiet = s.quiet := by
  unfold State.flushWork
  simp

@[simp] theorem State.dropReadMisses_quiet (s : State) (r : Nat) : (State.dropReadMisses s r).quiet = s.quiet := by
  unfold State.dropReadMisses
  simp

@[simp] theorem State.markBad_quiet (s : State) (p r pos : Nat) (e : BadEv) : (State.markBad s p r pos e).quiet = s.quiet := by
  unfold State.markBad
  simp

@[simp] theorem State.markFault_quiet (s : State) (p r pos : Nat) (e : FaultEv) : (State.markFault s p r pos e).quiet = s.quiet := by
  unfold State.markFault
  simp

@[simp] theorem State.onVerdict_quiet (s : State) (p r pos off : Nat) (dst : Bool) (a : Access) (x0 : Verdict) : (State.onVerdict s p r
    pos off dst a x0).quiet = s.quiet := by
  unfold State.onVerdict
  split <;> simp

@[simp] theorem State.issueDst_quiet (s : State) (p r pos : Nat) (o n : Nat) : (State.issueDst s p r pos o n).quiet = s.quiet := by
  unfold State.issueDst
  dsimp only
  repeat' (first | (simp; done) | split)

@[simp] theorem State.gaveUp_quiet (s : State) (r pos o : Nat) : (State.gaveUp s r pos o).quiet = s.quiet := by
  unfold State.gaveUp
  repeat' (first | (simp; done) | split)

@[simp] theorem State.feedDst_quiet (s : State) (p r pos a b : Nat) : (State.feedDst s p r pos a b).quiet = s.quiet := by
  unfold State.feedDst
  split
  · rfl
  · split
    · rfl
    · refine each_quiet _ _ _ fun t x => ?_
      repeat' (first | (simp; done) | (simp_all [pair_eq]; done) | split)

@[simp] theorem State.feedRest_quiet (s : State) (p r pos : Nat) : (State.feedRest s p r pos).quiet = s.quiet := by
  unfold State.feedRest
  split <;> simp

@[simp] theorem State.settleWork_quiet (s : State) (p r pos : Nat) : (State.settleWork s p r pos).quiet = s.quiet := by
  unfold State.settleWork
  split <;> simp

@[simp] theorem State.issueSrc_quiet (s : State) (p r pos off : Nat) : (State.issueSrc s p r pos off).quiet = s.quiet := by
  unfold State.issueSrc
  dsimp only
  repeat' (first | (simp; done) | split)

@[simp] theorem State.srcDone_quiet (s : State) (q : Req) (r pos off len status : Nat) (timeout : Bool) (data : Bytes) : (State.srcDone
    s q r pos off len status timeout data).quiet = s.quiet := by
  unfold State.srcDone
  split <;> simp

@[simp] theorem State.physWrite_quiet (s : State) (p unit pa : Nat) (data : Bytes) (purpose : Purpose) (fenced : Bool) :
    (State.physWrite s p unit pa data purpose fenced).2.quiet = s.quiet := by
  unfold State.physWrite
  repeat' (first | (simp; done) | split)

@[simp] theorem State.physNote_quiet (s : State) (p unit pa : Nat) (data : Bytes) (purpose : Purpose) : (State.physNote s p unit pa data
    purpose).2.quiet = s.quiet := by
  unfold State.physNote
  simp

@[simp] theorem State.physRead_quiet (s : State) (p unit pa len : Nat) (purpose : Purpose) : (State.physRead s p unit pa len
    purpose).2.quiet = s.quiet := by
  unfold State.physRead
  split <;> simp

@[simp] theorem State.dropFinish_quiet (s : State) (p r : Nat) : (State.dropFinish s p r).quiet = s.quiet := by
  unfold State.dropFinish
  simp

@[simp] theorem State.writeCounter_quiet (s : State) (p r pos gr : Nat) : (State.writeCounter s p r pos gr).2.quiet = s.quiet := by
  unfold State.writeCounter
  split <;> simp

@[simp] theorem State.growCounter_quiet (s : State) (p r pos : Nat) : (State.growCounter s p r pos).quiet = s.quiet := by
  unfold State.growCounter
  split <;> simp

@[simp] theorem State.dstDone_quiet (s : State) (q : Req) (r pos off len status : Nat) (timeout : Bool) : (State.dstDone s q r pos off
    len status timeout).quiet = s.quiet := by
  unfold State.dstDone
  split <;> simp

end Sys2Proof.Machine
end

