-- ==== Sys2Proof/Laws/QuietWork.lean ====
section
/-! SUPPORT. Operations whose effects on the management core, the port, the error collector and Tally are background effects alone: rings, finishing, parking, jobs, repairs, faults, walks, invalidations and read data. -/

set_option linter.unusedTactic false
set_option linter.unreachableTactic false
set_option linter.unusedSimpArgs false

namespace Sys2Proof.Machine

@[simp] theorem State.settleRing_quiet (s : State) (r : Nat) : (State.settleRing s r).quiet = s.quiet := by
  unfold State.settleRing
  simp

@[simp] theorem State.discardFetches_quiet (s : State) (r : Nat) (at_ : Nat → Bool) : (State.discardFetches s r at_).quiet = s.quiet := by
  unfold State.discardFetches
  simp

@[simp] theorem State.fetchFailed_quiet (s : State) (p r x : Nat) : (State.fetchFailed s p r x).quiet = s.quiet := by
  unfold State.fetchFailed
  simp

@[simp] theorem State.issueFetch_quiet (s : State) (p r x : Nat) : (State.issueFetch s p r x).quiet = s.quiet := by
  unfold State.issueFetch
  simp

@[simp] theorem State.staleHead_quiet (s : State) (p r t : Nat) : (State.staleHead s p r t).quiet = s.quiet := by
  unfold State.staleHead
  simp

@[simp] theorem State.consumeHead_quiet (s : State) (r : Nat) (b : Bytes) : (State.consumeHead s r b).quiet = s.quiet := by
  unfold State.consumeHead
  simp

@[simp] theorem State.judgeHead_quiet (s : State) (p r : Nat) (x0 : Nat) : (State.judgeHead s p r x0).quiet = s.quiet := by
  induction x0 generalizing s with
  | zero => rfl
  | succ n ih =>
    unfold State.judgeHead
    dsimp only
    split
    · rfl
    · split
      · simp
      · split <;> simp [ih]

@[simp] theorem State.judgeRing_quiet (s : State) (p r : Nat) : (State.judgeRing s p r).quiet = s.quiet := by
  unfold State.judgeRing
  simp

@[simp] theorem State.grantFetch_quiet (s : State) (r : Nat) : (State.grantFetch s r).quiet = s.quiet := by
  unfold State.grantFetch
  split <;> simp

@[simp] theorem State.fetchReturned_quiet (s : State) (q : Req) (r x : Nat) (res : RdRes) : (State.fetchReturned s q r x res).quiet =
    s.quiet := by
  unfold State.fetchReturned
  repeat' (first | (simp; done) | split)

@[simp] theorem State.refetch_quiet (s : State) (r : Nat) : (State.refetch s r).quiet = s.quiet := by
  unfold State.refetch
  dsimp only
  repeat' (first | (simp; done) | split)

@[simp] theorem State.moveProducer_quiet (s : State) (r x : Nat) : (State.moveProducer s r x).quiet = s.quiet := by
  unfold State.moveProducer
  simp

@[simp] theorem State.afterDoorbell_quiet (s : State) (p r : Nat) : (State.afterDoorbell s p r).quiet = s.quiet := by
  unfold State.afterDoorbell
  simp

@[simp] theorem State.acceptDoorbell_quiet (s : State) (p r w : Nat) : (State.acceptDoorbell s p r w).quiet = s.quiet := by
  unfold State.acceptDoorbell
  simp

@[simp] theorem State.dropBadAccess_quiet (s : State) (p : Nat) : (State.dropBadAccess s p).quiet = s.quiet := by
  unfold State.dropBadAccess
  simp

@[simp] theorem State.dropNotActive_quiet (s : State) (p : Nat) : (State.dropNotActive s p).quiet = s.quiet := by
  unfold State.dropNotActive
  simp

@[simp] theorem State.dropBadCheck_quiet (s : State) (p : Nat) : (State.dropBadCheck s p).quiet = s.quiet := by
  unfold State.dropBadCheck
  simp

@[simp] theorem State.dropUnbacked_quiet (s : State) (p : Nat) : (State.dropUnbacked s p).quiet = s.quiet := by
  unfold State.dropUnbacked
  simp

theorem State.checkDoorbell_quiet (s : State) (p w : Nat) (k : State → State) (h : (k s).quiet = s.quiet) :
    (s.checkDoorbell p w k).quiet = s.quiet := by
  unfold State.checkDoorbell
  simp [h]

@[simp] theorem State.ringDoorbell_quiet (s : State) (p j w : Nat) : (State.ringDoorbell s p j w).quiet = s.quiet := by
  refine State.checkDoorbell_quiet _ _ _ _ ?_
  repeat' (first | (simp; done) | (simp_all [pair_eq]; done) | split)

@[simp] theorem State.beginWork_quiet (s : State) (p r : Nat) (w : Work) : (State.beginWork s p r w).quiet = s.quiet := by
  unfold State.beginWork
  simp

@[simp] theorem State.startWork_quiet (s : State) (r : Nat) : (State.startWork s r).quiet = s.quiet := by
  unfold State.startWork
  dsimp only
  repeat' (first | (simp; done) | split)

theorem State.readAt_quiet (s : State) (r off : Nat) : ∀ a t, State.readAt s r off = some (a, t) → t.quiet = s.quiet := by
  unfold State.readAt
  repeat' (first | (simp; done) | split)

@[simp] theorem State.grantRead_quiet (s : State) (r off : Nat) : (State.grantRead s r off).quiet = s.quiet := by
  unfold State.grantRead
  split
  · rfl
  · rename_i h
    exact State.readAt_quiet _ _ _ _ _ h
  · split
    · rfl
    · dsimp only
      split
      · rename_i h
        simp [State.readAt_quiet _ _ _ _ _ h]
      · rfl

@[simp] theorem State.grantWrite_quiet (s : State) (r pos off : Nat) : (State.grantWrite s r pos off).quiet = s.quiet := by
  unfold State.grantWrite
  split <;> simp

@[simp] theorem State.countOutcome_quiet (s : State) (p r : Nat) (w : Work) : (State.countOutcome s p r w).quiet = s.quiet := by
  unfold State.countOutcome
  simp

@[simp] theorem State.advanceHead_quiet (s : State) (p r : Nat) (w : Work) : (State.advanceHead s p r w).quiet = s.quiet := by
  unfold State.advanceHead
  simp

@[simp] theorem State.popWork_quiet (s : State) (r pos : Nat) : (State.popWork s r pos).quiet = s.quiet := by
  unfold State.popWork
  simp

@[simp] theorem State.advance_quiet (s : State) (p r : Nat) (x0 : Nat) : (State.advance s p r x0).quiet = s.quiet := by
  induction x0 generalizing s with
  | zero => rfl
  | succ n ih =>
    unfold State.advance
    dsimp only
    repeat' (first | (simp [ih]; done) | split)

@[simp] theorem State.advanceAll_quiet (s : State) (p : Nat) : (State.advanceAll s p).quiet = s.quiet := by
  unfold State.advanceAll
  simp

@[simp] theorem State.advanceOwner_quiet (s : State) (r : Nat) : (State.advanceOwner s r).quiet = s.quiet := by
  unfold State.advanceOwner
  split <;> simp

@[simp] theorem State.issueFlag_quiet (s : State) (r : Nat) : (State.issueFlag s r).quiet = s.quiet := by
  unfold State.issueFlag
  dsimp only
  repeat' (first | (simp; done) | split)

@[simp] theorem State.endFinish_quiet (s : State) (p r : Nat) (pu : Purpose) (ack : WrRes) : (State.endFinish s p r pu ack).quiet = s.quiet := by
  unfold State.endFinish
  split <;> simp

@[simp] theorem State.finishWrite_quiet (s : State) (p r pos off : Nat) (data : Bytes) (pu : Purpose) : (State.finishWrite s p r pos off
    data pu).quiet = s.quiet := by
  unfold State.finishWrite
  simp

@[simp] theorem State.writeStatus_quiet (s : State) (r : Nat) : (State.writeStatus s r).quiet = s.quiet := by
  unfold State.writeStatus
  split <;> simp

@[simp] theorem State.writeOwn_quiet (s : State) (r : Nat) (ack : WrRes) : (State.writeOwn s r ack).quiet = s.quiet := by
  unfold State.writeOwn
  split <;> simp

@[simp] theorem State.putEntry_quiet (s : State) (p r : Nat) (w : Work) : (State.putEntry s p r w).quiet = s.quiet := by
  unfold State.putEntry
  simp

@[simp] theorem State.writeEntry_quiet (s : State) (r : Nat) (ack : WrRes) : (State.writeEntry s r ack).quiet = s.quiet := by
  unfold State.writeEntry
  split <;> simp

@[simp] theorem State.endWork_quiet (s : State) (r : Nat) (ack : WrRes) : (State.endWork s r ack).quiet = s.quiet := by
  unfold State.endWork
  dsimp only
  repeat' (first | (simp; done) | split)

@[simp] theorem State.pollConsumer_quiet (s : State) (k : Nat) : (State.pollConsumer s k).quiet = s.quiet := by
  unfold State.pollConsumer
  simp

@[simp] theorem State.releaseEntries_quiet (s : State) (k : Nat) (x0 : Nat) : (State.releaseEntries s k x0).quiet = s.quiet := by
  induction x0 generalizing s with
  | zero => rfl
  | succ n ih =>
    unfold State.releaseEntries
    dsimp only
    repeat' (first | (simp [ih]; done) | split)

@[simp] theorem State.consumerReturned_quiet (s : State) (q : Req) (k : Nat) (res : RdRes) : (State.consumerReturned s q k res).quiet =
    s.quiet := by
  unfold State.consumerReturned
  split <;> simp

@[simp] theorem State.freeSlot_quiet (s : State) (k : Nat) : (State.freeSlot s k).quiet = s.quiet := by
  unfold State.freeSlot
  simp

@[simp] theorem State.endParkedRing_quiet (s : State) (r status : Nat) : (State.endParkedRing s r status).quiet = s.quiet := by
  unfold State.endParkedRing
  split <;> simp

@[simp] theorem State.resumeRing_quiet (s : State) (r : Nat) : (State.resumeRing s r).quiet = s.quiet := by
  unfold State.resumeRing
  simp

@[simp] theorem State.issueRecord_quiet (s : State) (p k : Nat) : (State.issueRecord s p k).2.quiet = s.quiet := by
  unfold State.issueRecord
  simp

@[simp] theorem State.reportRecord_quiet (s : State) (p : Nat) : (State.reportRecord s p).quiet = s.quiet := by
  unfold State.reportRecord
  simp

@[simp] theorem State.fillSlot_quiet (s : State) (k : Nat) (x : ParkSlot) : (State.fillSlot s k x).quiet = s.quiet := by
  unfold State.fillSlot
  simp

@[simp] theorem State.holdRecord_quiet (s : State) (p k : Nat) : (State.holdRecord s p k).quiet = s.quiet := by
  unfold State.holdRecord
  simp

@[simp] theorem State.parkRing_quiet (s : State) (r : Nat) : (State.parkRing s r).quiet = s.quiet := by
  unfold State.parkRing
  split <;> simp

@[simp] theorem State.modJob_quiet (s : State) (e : Nat) (f : Job → Job) : (State.modJob s e f).quiet = s.quiet := by
  unfold State.modJob
  simp

@[simp] theorem State.giveBack_quiet (s : State) (p r pos : Nat) (res : JobResult) (mute : Bool) : (State.giveBack s p r pos res
    mute).quiet = s.quiet := by
  unfold State.giveBack
  simp

@[simp] theorem State.malformedUpdate_quiet (s : State) (p r pos : Nat) : (State.malformedUpdate s p r pos).quiet = s.quiet := by
  unfold State.malformedUpdate
  simp

@[simp] theorem State.consumeUpdate_quiet (s : State) (r : Nat) (b : Bytes) : (State.consumeUpdate s r b).quiet = s.quiet := by
  unfold State.consumeUpdate
  simp

@[simp] theorem State.passUpdate_quiet (s : State) (r : Nat) : (State.passUpdate s r).quiet = s.quiet := by
  unfold State.passUpdate
  dsimp only
  repeat' (first | (simp; done) | split)

@[simp] theorem State.dropJobMisses_quiet (s : State) (e : Nat) : (State.dropJobMisses s e).quiet = s.quiet := by
  unfold State.dropJobMisses
  simp

@[simp] theorem State.flushJob_quiet (s : State) (e : Nat) : (State.flushJob s e).quiet = s.quiet := by
  unfold State.flushJob
  simp

@[simp] theorem State.jobBad_quiet (s : State) (e : Nat) (ev : BadEv) : (State.jobBad s e ev).quiet = s.quiet := by
  unfold State.jobBad
  simp

@[simp] theorem State.jobFault_quiet (s : State) (e : Nat) (ev : FaultEv) : (State.jobFault s e ev).quiet = s.quiet := by
  unfold State.jobFault
  simp

@[simp] theorem State.onJobVerdict_quiet (s : State) (e elem : Nat) (dst : Bool) (a : Access) (x0 : Verdict) : (State.onJobVerdict s e
    elem dst a x0).quiet = s.quiet := by
  unfold State.onJobVerdict
  split <;> simp

@[simp] theorem State.jobReadIn_quiet (s : State) (e stream o n : Nat) (needs : Needs) : (State.jobReadIn s e stream o n needs).quiet =
    s.quiet := by
  unfold State.jobReadIn
  dsimp only
  repeat' (first | (simp; done) | split)

@[simp] theorem State.jobReadDone_quiet (s : State) (q : Req) (e stream o n status : Nat) (timeout : Bool) (data : Bytes) :
    (State.jobReadDone s q e stream o n status timeout data).quiet = s.quiet := by
  unfold State.jobReadDone
  simp

@[simp] theorem State.jobWriteOne_quiet (s : State) (e : Nat) : (State.jobWriteOne s e).2.quiet = s.quiet := by
  unfold State.jobWriteOne
  dsimp only
  repeat' (first | (simp; done) | split)

@[simp] theorem State.jobWrites_quiet (s : State) (e : Nat) (x0 : Nat) : (State.jobWrites s e x0).quiet = s.quiet := by
  induction x0 generalizing s with
  | zero => rfl
  | succ n ih =>
    unfold State.jobWrites
    split <;> rename_i h <;> simp_all [pair_eq] <;> simp [← h.2]

@[simp] theorem State.jobDrain_quiet (s : State) (e : Nat) : (State.jobDrain s e).quiet = s.quiet := by
  unfold State.jobDrain
  simp

@[simp] theorem State.jobWriteDone_quiet (s : State) (q : Req) (e stream o status : Nat) (timeout : Bool) : (State.jobWriteDone s q e
    stream o status timeout).quiet = s.quiet := by
  unfold State.jobWriteDone
  simp

@[simp] theorem State.startJob_quiet (s : State) (e : Nat) : (State.startJob s e).quiet = s.quiet := by
  unfold State.startJob
  simp

@[simp] theorem State.normPartial_quiet (s : State) (e : Nat) (j : Job) : (State.normPartial s e j).1.quiet = s.quiet := by
  unfold State.normPartial
  simp

@[simp] theorem State.computeTile_quiet (s : State) (e : Nat) : (State.computeTile s e).quiet = s.quiet := by
  unfold State.computeTile
  dsimp only
  repeat' (first | (simp; done) | split)

@[simp] theorem State.countElements_quiet (s : State) (e k : Nat) : (State.countElements s e k).quiet = s.quiet := by
  unfold State.countElements
  simp

@[simp] theorem State.ackTile_quiet (s : State) (e : Nat) : (State.ackTile s e).quiet = s.quiet := by
  unfold State.ackTile
  dsimp only
  repeat' (first | (simp; done) | split)

@[simp] theorem State.readNorm_quiet (s : State) (e : Nat) : (State.readNorm s e).quiet = s.quiet := by
  unfold State.readNorm
  dsimp only
  repeat' (first | (simp; done) | split)

@[simp] theorem State.normReturned_quiet (s : State) (q : Req) (e status : Nat) (timeout : Bool) (data : Bytes) : (State.normReturned s
    q e status timeout data).quiet = s.quiet := by
  unfold State.normReturned
  simp

@[simp] theorem State.normLimit_quiet (s : State) (e : Nat) : (State.normLimit s e).quiet = s.quiet := by
  unfold State.normLimit
  dsimp only
  repeat' (first | (simp; done) | split)

@[simp] theorem State.writeFingerprint_quiet (s : State) (e k : Nat) : (State.writeFingerprint s e k).quiet = s.quiet := by
  unfold State.writeFingerprint
  dsimp only
  repeat' (first | (simp; done) | split)

@[simp] theorem State.parkJob_quiet (s : State) (e : Nat) : (State.parkJob s e).quiet = s.quiet := by
  unfold State.parkJob
  dsimp only
  repeat' (first | (simp; done) | split)

@[simp] theorem State.resumeJob_quiet (s : State) (p : Nat) : (State.resumeJob s p).quiet = s.quiet := by
  unfold State.resumeJob
  split <;> simp

@[simp] theorem State.endParkedJob_quiet (s : State) (p status : Nat) : (State.endParkedJob s p status).quiet = s.quiet := by
  unfold State.endParkedJob
  split <;> simp

@[simp] theorem State.abortJobs_quiet (s : State) (r : Nat) : (State.abortJobs s r).quiet = s.quiet := by
  unfold State.abortJobs
  simp

@[simp] theorem State.placeRepair_quiet (s : State) (p set region mask expected : Nat) : (State.placeRepair s p set region mask
    expected).2.quiet = s.quiet := by
  unfold State.placeRepair
  dsimp only
  repeat' (first | (simp; done) | split)

@[simp] theorem State.afterCheck_quiet (s : State) (p : Nat) (j : Job) : (State.afterCheck s p j).quiet = s.quiet := by
  unfold State.afterCheck
  repeat' (first | (simp; done) | split)

@[simp] theorem State.countJob_quiet (s : State) (p : Nat) (j : Job) : (State.countJob s p j).quiet = s.quiet := by
  unfold State.countJob
  simp

@[simp] theorem State.reportJob_quiet (s : State) (p : Nat) (j : Job) : (State.reportJob s p j).quiet = s.quiet := by
  unfold State.reportJob
  simp

@[simp] theorem State.returnJob_quiet (s : State) (e : Nat) : (State.returnJob s e).quiet = s.quiet := by
  unfold State.returnJob
  simp

@[simp] theorem State.startChunk_quiet (s : State) (e q : Nat) : (State.startChunk s e q).quiet = s.quiet := by
  unfold State.startChunk
  repeat' (first | (simp; done) | split)

@[simp] theorem State.finishTile_quiet (s : State) : (State.finishTile s).quiet = s.quiet := by
  unfold State.finishTile
  split <;> simp

@[simp] theorem State.outputTile_quiet (s : State) : (State.outputTile s).quiet = s.quiet := by
  unfold State.outputTile
  split <;> simp

@[simp] theorem State.respond_quiet (s : State) (m result detail : Nat) (payload : Bytes) : (State.respond s m result detail
    payload).quiet = s.quiet := by
  unfold State.respond
  simp

@[simp] theorem State.ok_quiet (s : State) (m : Nat) : (State.ok s m).quiet = s.quiet := by
  unfold State.ok
  simp

@[simp] theorem State.grantJobRead_quiet (s : State) (e stream o n : Nat) : (State.grantJobRead s e stream o n).quiet = s.quiet := by
  unfold State.grantJobRead
  split <;> simp

@[simp] theorem State.startRepair_quiet (s : State) (p : Nat) : (State.startRepair s p).quiet = s.quiet := by
  unfold State.startRepair
  repeat' (first | (simp; done) | split)

@[simp] theorem State.modRepair_quiet (s : State) (e : Nat) (f : RepairJob → RepairJob) : (State.modRepair s e f).quiet = s.quiet := by
  unfold State.modRepair
  simp

@[simp] theorem State.checkRepair_quiet (s : State) (e : Nat) : (State.checkRepair s e).quiet = s.quiet := by
  unfold State.checkRepair
  dsimp only
  repeat' (first | (simp; done) | split)

@[simp] theorem State.repairTile_quiet (s : State) (e : Nat) : (State.repairTile s e).quiet = s.quiet := by
  unfold State.repairTile
  dsimp only
  repeat' (first | (simp; done) | split)

@[simp] theorem State.repairAck_quiet (s : State) (e : Nat) : (State.repairAck s e).quiet = s.quiet := by
  unfold State.repairAck
  dsimp only
  repeat' (first | (simp; done) | split)

@[simp] theorem State.queueStep_quiet (s : State) (e : Nat) (runs : List Run) (f : RepairJob → RepairJob) : (State.queueStep s e runs
    f).quiet = s.quiet := by
  unfold State.queueStep
  simp

@[simp] theorem State.writeMembers_quiet (s : State) (e : Nat) : (State.writeMembers s e).quiet = s.quiet := by
  unfold State.writeMembers
  dsimp only
  repeat' (first | (simp; done) | split)

@[simp] theorem State.writeRegionPrints_quiet (s : State) (e : Nat) : (State.writeRegionPrints s e).quiet = s.quiet := by
  unfold State.writeRegionPrints
  dsimp only
  repeat' (first | (simp; done) | split)

@[simp] theorem State.writeRepairNote_quiet (s : State) (e : Nat) : (State.writeRepairNote s e).quiet = s.quiet := by
  unfold State.writeRepairNote
  dsimp only
  repeat' (first | (simp; done) | split)

@[simp] theorem State.tileReads_quiet (s : State) (e : Nat) : (State.tileReads s e).quiet = s.quiet := by
  unfold State.tileReads
  simp

@[simp] theorem State.tileAcks_quiet (s : State) (e : Nat) : (State.tileAcks s e).quiet = s.quiet := by
  unfold State.tileAcks
  simp

@[simp] theorem State.endParked_quiet (s : State) (k status : Nat) : (State.endParked s k status).quiet = s.quiet := by
  unfold State.endParked
  simp

@[simp] theorem State.resumeParked_quiet (s : State) (k : Nat) : (State.resumeParked s k).quiet = s.quiet := by
  unfold State.resumeParked
  simp

@[simp] theorem State.writeHeld_quiet (s : State) (p : Nat) (x0 : Nat) : (State.writeHeld s p x0).quiet = s.quiet := by
  induction x0 generalizing s with
  | zero => rfl
  | succ n ih =>
    unfold State.writeHeld
    dsimp only
    repeat' (first | (simp [ih]; done) | split)

@[simp] theorem State.countStale_quiet (s : State) (p : Nat) : (State.countStale s p).quiet = s.quiet := by
  unfold State.countStale
  simp

@[simp] theorem State.takeConsumer_quiet (s : State) (p c : Nat) : (State.takeConsumer s p c).quiet = s.quiet := by
  unfold State.takeConsumer
  simp

@[simp] theorem State.faultResponse_quiet (s : State) (p w : Nat) : (State.faultResponse s p w).quiet = s.quiet := by
  unfold State.faultResponse
  split <;> simp

@[simp] theorem State.faultDoorbell_quiet (s : State) (p w : Nat) : (State.faultDoorbell s p w).quiet = s.quiet := by
  refine State.checkDoorbell_quiet _ _ _ _ ?_
  repeat' (first | (simp; done) | (simp_all [pair_eq]; done) | split)

@[simp] theorem State.recordAcked_quiet (s : State) (k gen : Nat) (ack : WrRes) : (State.recordAcked s k gen ack).quiet = s.quiet := by
  unfold State.recordAcked
  split <;> simp

@[simp] theorem State.timerExpired_quiet (s : State) (k : Nat) : (State.timerExpired s k).quiet = s.quiet := by
  unfold State.timerExpired
  dsimp only
  repeat' (first | (simp; done) | split)

@[simp] theorem State.endMiss_quiet (s : State) (m : Miss) (x : WalkEnd) : (State.endMiss s m x).quiet = s.quiet := by
  unfold State.endMiss
  repeat' (first | (simp; done) | split)

@[simp] theorem State.modWalk_quiet (s : State) (i : Nat) (f : Walk → Walk) : (State.modWalk s i f).quiet = s.quiet := by
  unfold State.modWalk
  simp

@[simp] theorem State.dropWalk_quiet (s : State) (i : Nat) : (State.dropWalk s i).quiet = s.quiet := by
  unfold State.dropWalk
  simp

@[simp] theorem State.endMisses_quiet (s : State) (pick : Miss → Bool) (x : WalkEnd) : (State.endMisses s pick x).quiet = s.quiet := by
  unfold State.endMisses
  simp

@[simp] theorem State.failWalk_quiet (s : State) (w : Walk) (writesOnly : Bool) (x : WalkEnd) : (State.failWalk s w writesOnly x).quiet
    = s.quiet := by
  unfold State.failWalk
  simp

@[simp] theorem State.walkError_quiet (s : State) (w : Walk) (kind : Nat) : (State.walkError s w kind).quiet = s.quiet := by
  unfold State.walkError
  simp

@[simp] theorem State.walkRead_quiet (s : State) (i table : Nat) : (State.walkRead s i table).quiet = s.quiet := by
  unfold State.walkRead
  split <;> simp

@[simp] theorem State.installWalk_quiet (s : State) (p : Nat) (e : WalkEntry) : (State.installWalk s p e).quiet = s.quiet := by
  unfold State.installWalk
  simp

@[simp] theorem State.startWalk_quiet (s : State) (p : Nat) : (State.startWalk s p).quiet = s.quiet := by
  unfold State.startWalk
  split <;> simp

@[simp] theorem State.installLeaf_quiet (s : State) (w : Walk) (l : Leaf) : (State.installLeaf s w l).quiet = s.quiet := by
  unfold State.installLeaf
  simp

@[simp] theorem State.walkOn_quiet (s : State) (w : Walk) (e : Nat) : (State.walkOn s w e).quiet = s.quiet := by
  unfold State.walkOn
  simp

theorem State.walkCheck_quiet (s : State) (w : Walk) (e : Nat) (k : State → State) (h : (k s).quiet = s.quiet) :
    (s.walkCheck w e k).quiet = s.quiet := by
  unfold State.walkCheck
  simp [h]

@[simp] theorem State.walkReturned_quiet (s : State) (i : Nat) (res : RdRes) : (State.walkReturned s i res).quiet = s.quiet := by
  unfold State.walkReturned
  dsimp only
  repeat' (first | (simp; done) | split | (rw [State.walkCheck_quiet]))

@[simp] theorem State.ownedReturned_quiet (s : State) (i : Nat) (res : RdRes) : (State.ownedReturned s i res).quiet = s.quiet := by
  unfold State.ownedReturned
  dsimp only
  repeat' (first | (simp; done) | split | (rw [State.walkCheck_quiet]))

@[simp] theorem State.walkTimeout_quiet (s : State) (i : Nat) : (State.walkTimeout s i).quiet = s.quiet := by
  unfold State.walkTimeout
  split <;> simp

@[simp] theorem State.invDoorbell_quiet (s : State) (p w : Nat) : (State.invDoorbell s p w).quiet = s.quiet := by
  refine State.checkDoorbell_quiet _ _ _ _ ?_
  repeat' (first | (simp; done) | (simp_all [pair_eq]; done) | split)

@[simp] theorem State.stopInv_quiet (s : State) (p : Nat) : (State.stopInv s p).quiet = s.quiet := by
  unfold State.stopInv
  simp

@[simp] theorem State.readInv_quiet (s : State) (p : Nat) : (State.readInv s p).quiet = s.quiet := by
  unfold State.readInv
  simp

@[simp] theorem State.fetchInv_quiet (s : State) (p : Nat) : (State.fetchInv s p).quiet = s.quiet := by
  unfold State.fetchInv
  simp

@[simp] theorem State.refetchInv_quiet (s : State) (p : Nat) : (State.refetchInv s p).quiet = s.quiet := by
  unfold State.refetchInv
  simp

@[simp] theorem State.invReturned_quiet (s0 : State) (p : Nat) (res : RdRes) : (State.invReturned s0 p res).quiet = s0.quiet := by
  unfold State.invReturned
  repeat' (first | (simp; done) | split)

@[simp] theorem State.cutEntry_quiet (s : State) (p : Nat) : (State.cutEntry s p).quiet = s.quiet := by
  unfold State.cutEntry
  dsimp only
  repeat' (first | (simp; done) | split)

@[simp] theorem State.applyBind_quiet (s : State) (m : Nat) : (State.applyBind s m).quiet = s.quiet := by
  unfold State.applyBind
  split <;> simp

@[simp] theorem State.cutWaiting_quiet (s : State) (p : Nat) : (State.cutWaiting s p).quiet = s.quiet := by
  unfold State.cutWaiting
  split <;> simp

@[simp] theorem State.takeInval_quiet (s : State) (p : Nat) : (State.takeInval s p).quiet = s.quiet := by
  unfold State.takeInval
  dsimp only
  repeat' (first | (simp; done) | split)

@[simp] theorem State.writeNote_quiet (s : State) (i : Inval) : (State.writeNote s i).quiet = s.quiet := by
  unfold State.writeNote
  split <;> simp

@[simp] theorem State.ackInval_quiet (s : State) (id : Nat) : (State.ackInval s id).quiet = s.quiet := by
  unfold State.ackInval
  repeat' (first | (simp; done) | split)

@[simp] theorem State.drainLimit_quiet (s : State) (id : Nat) : (State.drainLimit s id).quiet = s.quiet := by
  unfold State.drainLimit
  split <;> simp

@[simp] theorem State.askRepair_quiet (s : State) (e c : Nat) : (State.askRepair s e c).quiet = s.quiet := by
  unfold State.askRepair
  simp

@[simp] theorem State.readStatus_quiet (s : State) (q : Req) (res : RdRes) : (State.readStatus s q res).2.quiet = s.quiet := by
  unfold State.readStatus
  repeat' (first | (simp; done) | split)

@[simp] theorem State.afterReq_quiet (s : State) (q : Req) : (State.afterReq s q).quiet = s.quiet := by
  unfold State.afterReq
  split <;> simp

@[simp] theorem State.endRead_quiet (s : State) (q : Req) (status : Nat) (timeout : Bool) (data : Bytes) : (State.endRead s q status
    timeout data).quiet = s.quiet := by
  unfold State.endRead
  split <;> simp

@[simp] theorem State.flagDone_quiet (s : State) (q : Req) (r pos status : Nat) (timeout : Bool) : (State.flagDone s q r pos status
    timeout).quiet = s.quiet := by
  unfold State.flagDone
  split <;> simp

@[simp] theorem State.endWrite_quiet (s : State) (q : Req) (status : Nat) (timeout : Bool) : (State.endWrite s q status timeout).quiet =
    s.quiet := by
  unfold State.endWrite
  split <;> simp

@[simp] theorem State.endWrites_quiet (s : State) (ids : List Nat) (status : Nat) : (State.endWrites s ids status).quiet = s.quiet := by
  refine each_quiet _ _ _ fun t x => ?_
  repeat' (first | (simp; done) | (simp_all [pair_eq]; done) | split)

@[simp] theorem State.endPush_quiet (s : State) (n status : Nat) : (State.endPush s n status).quiet = s.quiet := by
  unfold State.endPush
  simp

@[simp] theorem State.dataReturned_quiet (s : State) (q : Req) (res : RdRes) : (State.dataReturned s q res).quiet = s.quiet := by
  have he : (State.dataReturned.ended s q res).quiet = s.quiet := by
    unfold State.dataReturned.ended
    repeat' (first | (simp; done) | split)
  unfold State.dataReturned
  repeat' (first | (simp [he]; done) | split)

@[simp] theorem State.performAdds_quiet (s : State) (q : Req) (res : WrRes) : (State.performAdds s q res).quiet = s.quiet := by
  unfold State.performAdds
  split <;> simp

@[simp] theorem State.dataAcked_quiet (s0 : State) (q : Req) (res : WrRes) : (State.dataAcked s0 q res).quiet = s0.quiet := by
  unfold State.dataAcked
  repeat' (first | (simp; done) | split)

@[simp] theorem State.fillReturned_quiet (s : State) (id : Nat) (res : RdRes) : (State.fillReturned s id res).quiet = s.quiet := by
  unfold State.fillReturned
  repeat' (first | (simp; done) | split)

@[simp] theorem State.snoop_quiet (s : State) (module pa : Nat) (invalidate : Bool) : (State.snoop s module pa invalidate).quiet = s.quiet := by
  unfold State.snoop
  dsimp only
  split
  · rw [State.emit_quiet, State.removeLine_quiet, foldl_quiet]
    simp
  · simp

@[simp] theorem State.idleFlush_quiet (s : State) (k : Nat) : (State.idleFlush s k).quiet = s.quiet := by
  unfold State.idleFlush
  simp

end Sys2Proof.Machine
end

