-- ==== Sys2Proof/Laws/QuietLinks.lean ====
section
/-! SUPPORT. Operations whose effects on the management core, the port, the error collector and Tally are background effects alone: ring disable, unit words, link modules, Capo, the error collector, the count path, chords and inbound peer packets. -/

set_option linter.unusedTactic false
set_option linter.unreachableTactic false
set_option linter.unusedSimpArgs false

namespace Sys2Proof.Machine

@[simp] theorem State.dropRingMisses_quiet (s : State) (r : Nat) : (State.dropRingMisses s r).quiet = s.quiet := by
  unfold State.dropRingMisses
  simp

@[simp] theorem State.enableRing_quiet (s : State) (r start : Nat) : (State.enableRing s r start).quiet = s.quiet := by
  unfold State.enableRing
  simp

@[simp] theorem State.stopFetching_quiet (s : State) (r : Nat) : (State.stopFetching s r).quiet = s.quiet := by
  unfold State.stopFetching
  simp

@[simp] theorem State.disableRing_quiet (s : State) (p r : Nat) : (State.disableRing s p r).quiet = s.quiet := by
  unfold State.disableRing
  simp

@[simp] theorem State.drainRing_quiet (s : State) (r : Nat) : (State.drainRing s r).quiet = s.quiet := by
  unfold State.drainRing
  simp

@[simp] theorem State.admissionEvent_quiet (s : State) (u : Nat) : (State.admissionEvent s u).quiet = s.quiet := by
  unfold State.admissionEvent
  simp

@[simp] theorem State.settleUnit_quiet (s : State) (u : Nat) : (State.settleUnit s u).quiet = s.quiet := by
  unfold State.settleUnit
  simp

@[simp] theorem State.endQuarantine_quiet (s : State) (u : Nat) : (State.endQuarantine s u).quiet = s.quiet := by
  unfold State.endQuarantine
  simp

@[simp] theorem State.quarantine_quiet (s : State) (u cause : Nat) : (State.quarantine s u cause).quiet = s.quiet := by
  unfold State.quarantine
  simp

@[simp] theorem State.clearQuarantine_quiet (s : State) (u : Nat) : (State.clearQuarantine s u).quiet = s.quiet := by
  unfold State.clearQuarantine
  simp

theorem State.mcWrite_quiet (s : State) (u level epoch : Nat) : ∀ t, State.mcWrite s u level epoch = some t → t.quiet = s.quiet := by
  unfold State.mcWrite
  dsimp only
  repeat' (first | (simp; done) | split)

@[simp] theorem State.setModState_quiet (s : State) (k st : Nat) : (State.setModState s k st).quiet = s.quiet := by
  unfold State.setModState
  simp

@[simp] theorem State.startTraining_quiet (s : State) (k : Nat) : (State.startTraining s k).quiet = s.quiet := by
  unfold State.startTraining
  simp

@[simp] theorem State.sidebandUp_quiet (s : State) (k : Nat) : (State.sidebandUp s k).quiet = s.quiet := by
  unfold State.sidebandUp
  simp

@[simp] theorem State.sendCtl_quiet (s : State) (m : Nat) (body : Bytes) : (State.sendCtl s m body).quiet = s.quiet := by
  unfold State.sendCtl
  simp

@[simp] theorem State.endPeer_quiet (s : State) (t status : Nat) (timeout : Bool) (data : Bytes) : (State.endPeer s t status timeout
    data).quiet = s.quiet := by
  unfold State.endPeer
  dsimp only
  repeat' (first | (simp; done) | split)

@[simp] theorem State.endOn_quiet (s : State) (m : Nat) : (State.endOn s m).quiet = s.quiet := by
  unfold State.endOn
  simp

@[simp] theorem State.moveIo_quiet (s : State) : (State.moveIo s).quiet = s.quiet := by
  unfold State.moveIo
  simp only [State.report_quiet, quiet_mk]
  simp only [quiet_fold, State.orphan_quiet]
  refine each_quiet _ _ _ fun t x => ?_
  repeat' (first | (simp; done) | (simp_all [pair_eq]; done) | split)

@[simp] theorem State.downMod_quiet (s : State) (k cause : Nat) : (State.downMod s k cause).quiet = s.quiet := by
  unfold State.downMod
  simp

@[simp] theorem State.mainbandTrained_quiet (s : State) (k lo hi : Nat) : (State.mainbandTrained s k lo hi).quiet = s.quiet := by
  unfold State.mainbandTrained
  repeat' (first | (simp; done) | split)

@[simp] theorem State.linkUp_quiet (s : State) (k : Nat) : (State.linkUp s k).quiet = s.quiet := by
  unfold State.linkUp
  simp

@[simp] theorem State.paramReceived_quiet (s : State) (k : Nat) (b : Bytes) : (State.paramReceived s k b).quiet = s.quiet := by
  unfold State.paramReceived
  simp

@[simp] theorem State.trainingLimit_quiet (s : State) (k : Nat) : (State.trainingLimit s k).quiet = s.quiet := by
  unfold State.trainingLimit
  simp

@[simp] theorem State.freeRetry_quiet (s : State) (m seq : Nat) : (State.freeRetry s m seq).quiet = s.quiet := by
  unfold State.freeRetry
  dsimp only
  split
  · rfl
  · rw [State.modMod_quiet, foldl_quiet]
    simp

@[simp] theorem State.takeAck_quiet (s : State) (m : Nat) (b : Bytes) : (State.takeAck s m b).quiet = s.quiet := by
  unfold State.takeAck
  simp

@[simp] theorem State.resend_quiet (s : State) (m : Nat) : (State.resend s m).quiet = s.quiet := by
  unfold State.resend
  simp

@[simp] theorem State.enterRetrain_quiet (s : State) (k : Nat) : (State.enterRetrain s k).quiet = s.quiet := by
  unfold State.enterRetrain
  simp

@[simp] theorem State.replay_quiet (s : State) (k : Nat) : (State.replay s k).quiet = s.quiet := by
  unfold State.replay
  simp

@[simp] theorem State.sendNak_quiet (s : State) (m : Nat) : (State.sendNak s m).quiet = s.quiet := by
  unfold State.sendNak
  simp

@[simp] theorem State.crcError_quiet (s : State) (k : Nat) (b : Bytes) : (State.crcError s k b).quiet = s.quiet := by
  unfold State.crcError
  simp

@[simp] theorem State.outOfOrder_quiet (s : State) (m : Nat) (b : Bytes) : (State.outOfOrder s m b).quiet = s.quiet := by
  unfold State.outOfOrder
  simp

@[simp] theorem State.nakRepeat_quiet (s : State) (m : Nat) : (State.nakRepeat s m).quiet = s.quiet := by
  unfold State.nakRepeat
  simp

@[simp] theorem State.nakReceived_quiet (s : State) (k : Nat) (b : Bytes) : (State.nakReceived s k b).quiet = s.quiet := by
  unfold State.nakReceived
  simp

@[simp] theorem State.replayTimeout_quiet (s : State) (m : Nat) : (State.replayTimeout s m).quiet = s.quiet := by
  unfold State.replayTimeout
  simp

@[simp] theorem State.idleReceived_quiet (s : State) (k : Nat) (b : Bytes) : (State.idleReceived s k b).quiet = s.quiet := by
  unfold State.idleReceived
  simp

@[simp] theorem State.retrainDone_quiet (s : State) (k lo hi : Nat) (param : Bytes) : (State.retrainDone s k lo hi param).quiet = s.quiet := by
  unfold State.retrainDone
  split <;> simp

@[simp] theorem State.enterLp_quiet (s : State) (k : Nat) : (State.enterLp s k).quiet = s.quiet := by
  unfold State.enterLp
  simp

@[simp] theorem State.exitLp_quiet (s : State) (k : Nat) : (State.exitLp s k).quiet = s.quiet := by
  unfold State.exitLp
  simp

@[simp] theorem State.writeTg_quiet (s : State) (k w : Nat) : (State.writeTg s k w).quiet = s.quiet := by
  unfold State.writeTg
  simp

@[simp] theorem State.sendTest_quiet (s : State) (k : Nat) : (State.sendTest s k).quiet = s.quiet := by
  unfold State.sendTest
  simp

@[simp] theorem State.testReceived_quiet (s : State) (k : Nat) (b : Bytes) : (State.testReceived s k b).quiet = s.quiet := by
  unfold State.testReceived
  simp

@[simp] theorem State.modPx_quiet (s : State) (f : Px → Px) (h : ∀ x, (f x).rest = x.rest) : (s.modPx f).quiet = s.quiet := by
  simp [State.modPx, h]

@[simp] theorem State.errorEvent_quiet (s : State) (e : ErrorEv) (kind level : Nat) (second : Bool) : (State.errorEvent s e kind level
    second).quiet = s.quiet := by
  unfold State.errorEvent
  simp

@[simp] theorem State.ecQuarantine_quiet (s : State) (src u cause : Nat) : (State.ecQuarantine s src u cause).quiet = s.quiet := by
  unfold State.ecQuarantine
  simp

@[simp] theorem State.isolate_quiet (s : State) (src : Nat) (l : List Nat) : (State.isolate s src l).quiet = s.quiet := by
  unfold State.isolate
  simp

@[simp] theorem State.freeze_quiet (s : State) (src : Nat) (l : List Nat) : (State.freeze s src l).quiet = s.quiet := by
  unfold State.freeze
  simp

@[simp] theorem State.releaseUnits_quiet (s : State) (src : Nat) : (State.releaseUnits s src).quiet = s.quiet := by
  refine each_quiet _ _ _ fun t x => ?_
  dsimp only
  split
  · simp
  · rw [State.modUnit_quiet]
    cases h : (t.modUnit x fun w => { w with sources := setBits w.sources src 1 0 }).mcWrite x 0
        ((t.modUnit x fun w => { w with sources := setBits w.sources src 1 0 }).unit x).epoch with
    | none => simp
    | some t' => simp [State.mcWrite_quiet _ _ _ _ _ h]

@[simp] theorem State.flushUnits_quiet (s : State) : (State.flushUnits s).quiet = s.quiet := by
  unfold State.flushUnits
  simp

@[simp] theorem State.requestCommit_quiet (s : State) (box : Option Nat) : (State.requestCommit s box).quiet = s.quiet := by
  unfold State.requestCommit
  simp

@[simp] theorem State.accumAge_quiet (s : State) (p k : Nat) : (State.accumAge s p k).quiet = s.quiet := by
  unfold State.accumAge
  simp

@[simp] theorem State.chordDoorbell_quiet (s : State) (p w : Nat) : (State.chordDoorbell s p w).quiet = s.quiet := by
  refine State.checkDoorbell_quiet _ _ _ _ ?_
  repeat' (first | (simp; done) | (simp_all [pair_eq]; done) | split)

@[simp] theorem State.chError_quiet (s : State) (p detail : Nat) : (State.chError s p detail).quiet = s.quiet := by
  unfold State.chError
  simp

@[simp] theorem State.chordFailed_quiet (s : State) (p k : Nat) : (State.chordFailed s p k).quiet = s.quiet := by
  unfold State.chordFailed
  simp

@[simp] theorem State.readHeader_quiet (s : State) (p k : Nat) : (State.readHeader s p k).quiet = s.quiet := by
  unfold State.readHeader
  simp

@[simp] theorem State.fetchChord_quiet (s : State) (p : Nat) : (State.fetchChord s p).quiet = s.quiet := by
  unfold State.fetchChord
  repeat' (first | (simp; done) | split)

@[simp] theorem State.refetchChord_quiet (s : State) (p : Nat) : (State.refetchChord s p).quiet = s.quiet := by
  unfold State.refetchChord
  split <;> simp

@[simp] theorem State.decideChord_quiet (s : State) (p k status failed detail : Nat) : (State.decideChord s p k status failed
    detail).quiet = s.quiet := by
  unfold State.decideChord
  simp

@[simp] theorem State.headerReturned_quiet (s : State) (p : Nat) (res : RdRes) : (State.headerReturned s p res).quiet = s.quiet := by
  unfold State.headerReturned
  split
  · rfl
  · split
    · dsimp only
      repeat' (first | (simp; done) | split)
    · simp
    · rfl

@[simp] theorem State.takeChord_quiet (s : State) (p : Nat) (lines : List RdRes) : (State.takeChord s p lines).quiet = s.quiet := by
  unfold State.takeChord
  dsimp only
  repeat' (first | (simp; done) | split)

theorem State.applyRing_quiet (s : State) (p r : Nat) (launch : Bool) (pi lap : Nat) : ∀ t, State.applyRing s p r launch pi lap = .ok t
    → t.quiet = s.quiet := by
  unfold State.applyRing
  dsimp only
  repeat' (first | (simp; done) | split)

theorem State.applyAction_quiet (s : State) (p k : Nat) (acts : List Action) (a : Action) : ∀ t, State.applyAction s p k acts a = .ok t
    → t.quiet = s.quiet := by
  have hr : ∀ f : Nat → Except (Nat × Nat) State, (∀ r t, f r = .ok t → t.quiet = s.quiet) → ∀ t, State.applyAction.onRing s p a f = .ok t → t.quiet = s.quiet := by
    intro f h t ht
    unfold State.applyAction.onRing at ht
    split at ht
    · exact h _ t ht
    · simp at ht
  have ha : ∀ r l x y t, (State.applyRing s p r l x y).mapError (fun d => (a.ix, d)) = .ok t → t.quiet = s.quiet := by
    intro r l x y t h
    cases hx : State.applyRing s p r l x y with
    | error e => simp [hx, Except.mapError] at h
    | ok u =>
      simp only [hx, Except.mapError, Except.ok.injEq] at h
      exact h ▸ State.applyRing_quiet _ _ _ _ _ _ _ hx
  intro t h
  unfold State.applyAction at h
  dsimp only at h
  split at h
  · exact hr _ (fun r t h => ha _ _ _ _ t h) t h
  · exact hr _ (fun r t h => ha _ _ _ _ t h) t h
  · refine hr _ (fun r t h => ?_) t h
    split at h
    · simp at h
    · split at h
      · simp at h
      · rw [← Except.ok.inj h]
        simp
  · refine hr _ (fun r t h => ?_) t h
    split at h
    · simp at h
    · rw [← Except.ok.inj h]
      simp
  · repeat' (first | contradiction | split at h | (rw [← Except.ok.inj h]; simp; done))
  · split at h
    · rw [← Except.ok.inj h]
      simp
    · rw [← Except.ok.inj h]
  · split at h
    · contradiction
    · rw [← Except.ok.inj h]
      simp

theorem State.applyActions_quiet (s : State) (p k : Nat) (acts : List Action) (x0 : List Action) : ∀ t, State.applyActions s p k acts x0
    = .ok t → t.quiet = s.quiet := by
  induction x0 generalizing s with
  | nil =>
    intro t h
    rw [← Except.ok.inj h]
  | cons a l ih =>
    intro t h
    unfold State.applyActions at h
    split at h
    · rename_i h1
      rw [ih _ t h, State.applyAction_quiet _ _ _ _ _ _ h1]
    · contradiction

@[simp] theorem State.commitChord_quiet (s : State) (p : Nat) : (State.commitChord s p).quiet = s.quiet := by
  unfold State.commitChord
  dsimp only
  split
  · rfl
  · split
    · rfl
    · split
      · simp
      · split
        · simp
        · rename_i h
          simp [State.applyActions_quiet _ _ _ _ _ _ h]

@[simp] theorem State.chordTimeout_quiet (s : State) (k : Nat) : (State.chordTimeout s k).quiet = s.quiet := by
  unfold State.chordTimeout
  simp

@[simp] theorem State.chordWrite_quiet (s : State) (p pa : Nat) (data : Bytes) (pu : Purpose) : (State.chordWrite s p pa data pu).quiet
    = s.quiet := by
  unfold State.chordWrite
  simp

@[simp] theorem State.chordAck_quiet (s : State) (p : Nat) (pu : Purpose) (ack : WrRes) : (State.chordAck s p pu ack).quiet = s.quiet := by
  unfold State.chordAck
  split <;> simp

@[simp] theorem State.chordStatus_quiet (s : State) (k : Nat) : (State.chordStatus s k).quiet = s.quiet := by
  unfold State.chordStatus
  simp

@[simp] theorem State.chordOwn_quiet (s : State) (k : Nat) (ack : WrRes) : (State.chordOwn s k ack).quiet = s.quiet := by
  unfold State.chordOwn
  simp

@[simp] theorem State.chordNote_quiet (s : State) (k : Nat) (ack : WrRes) : (State.chordNote s k ack).quiet = s.quiet := by
  unfold State.chordNote
  simp

@[simp] theorem State.dropChords_quiet (s : State) (p : Nat) : (State.dropChords s p).quiet = s.quiet := by
  unfold State.dropChords
  simp

@[simp] theorem State.freeSlots_quiet (s : State) (m : Nat) (x : Rx) : (State.freeSlots s m x).quiet = s.quiet := by
  unfold State.freeSlots
  simp

@[simp] theorem State.refuseKpp_quiet (s : State) (p : Nat) (x : Rx) (status : Nat) : (State.refuseKpp s p x status).quiet = s.quiet := by
  unfold State.refuseKpp
  simp

@[simp] theorem State.replyKpp_quiet (s : State) (p : Nat) (x : Rx) (status : Nat) : (State.replyKpp s p x status).quiet = s.quiet := by
  unfold State.replyKpp
  simp

@[simp] theorem State.serveKpp_quiet (s : State) (m p : Nat) (x : Rx) : (State.serveKpp s m p x).quiet = s.quiet := by
  unfold State.serveKpp
  dsimp only
  repeat' (first | (simp; done) | split)

@[simp] theorem State.kppDone_quiet (s : State) (id status : Nat) (data : Bytes) : (State.kppDone s id status data).quiet = s.quiet := by
  unfold State.kppDone
  split <;> simp

@[simp] theorem State.inboundAcked_quiet (s : State) (q : Req) (res : WrRes) : (State.inboundAcked s q res).quiet = s.quiet := by
  unfold State.inboundAcked
  split <;> simp

@[simp] theorem State.kppRead_quiet (s : State) (q : Req) (id : Nat) (res : RdRes) : (State.kppRead s q id res).quiet = s.quiet := by
  unfold State.kppRead
  split <;> simp

@[simp] theorem State.takeReport_quiet (s : State) (p : Nat) (b : Bytes) : (State.takeReport s p b).quiet = s.quiet := by
  unfold State.takeReport
  simp

@[simp] theorem State.lostMessage_quiet (s : State) (p dst tag : Nat) : (State.lostMessage s p dst tag).quiet = s.quiet := by
  unfold State.lostMessage
  simp

theorem State.sendMessage_quiet (s : State) (p dst : Nat) (payload : Bytes) : ∀ t, State.sendMessage s p dst payload = some t → t.quiet
    = s.quiet := by
  intro t h
  unfold State.sendMessage at h
  split at h
  · simp at h
  · rename_i h1
    have hf := State.freeTag_quiet _ _ _ h1
    split at h
    · rw [← Option.some.inj h]
      simp [hf]
    · split at h
      · simp at h
      · rw [← Option.some.inj h]
        simp [hf]

@[simp] theorem State.sendReport_quiet (s : State) (p : Nat) : (State.sendReport s p).quiet = s.quiet := by
  unfold State.sendReport
  split
  · rfl
  · dsimp only
    split
    · rfl
    · split
      · rename_i h
        rw [State.sendMessage_quiet _ _ _ _ _ h, quiet_mk, quiet_fold]
      · rfl

@[simp] theorem State.messageTimeout_quiet (s : State) (t : Nat) : (State.messageTimeout s t).quiet = s.quiet := by
  unfold State.messageTimeout
  simp

@[simp] theorem State.takeResponse_quiet (s : State) (x : Rx) (exact : Bool) : (State.takeResponse s x exact).quiet = s.quiet := by
  unfold State.takeResponse
  dsimp only
  repeat' (first | (simp; done) | split)

@[simp] theorem State.forward_quiet (s : State) (m p : Nat) (x : Rx) (resp : Bool) : (State.forward s m p x resp).quiet = s.quiet := by
  unfold State.forward
  dsimp only
  repeat' (first | (simp; done) | split)

@[simp] theorem State.deliver_quiet (s0 : State) (m p : Nat) (x : Rx) : (State.deliver s0 m p x).quiet = s0.quiet := by
  unfold State.deliver
  simp

@[simp] theorem State.acceptSeq_quiet (s : State) (m : Nat) (b : Bytes) : (State.acceptSeq s m b).quiet = s.quiet := by
  unfold State.acceptSeq
  simp

@[simp] theorem State.payloadReceived_quiet (s : State) (m : Nat) (b : Bytes) : (State.payloadReceived s m b).quiet = s.quiet := by
  unfold State.payloadReceived
  dsimp only
  repeat' (first | (simp; done) | split)

@[simp] theorem State.respReceived_quiet (s : State) (m : Nat) (b : Bytes) : (State.respReceived s m b).quiet = s.quiet := by
  unfold State.respReceived
  simp

end Sys2Proof.Machine
end

