-- ==== Sys2Proof/Laws/QuietMc.lean ====
section
/-! SUPPORT. Operations whose effects on the management core, the port, the error collector and Tally are background effects alone: partitions, mailboxes and their commands, firmware, resets, registers, tenants, the port, acknowledgements and the tick. -/

set_option linter.unusedTactic false
set_option linter.unreachableTactic false
set_option linter.unusedSimpArgs false

namespace Sys2Proof.Machine

@[simp] theorem State.forget_quiet (s : State) (pick : Req → Bool) : (State.forget s pick).quiet = s.quiet := by
  unfold State.forget
  simp

@[simp] theorem State.orphanPart_quiet (s : State) (p : Nat) (discard : Bool) : (State.orphanPart s p discard).quiet = s.quiet := by
  unfold State.orphanPart
  simp

@[simp] theorem State.dropPackets_quiet (s : State) (p : Nat) : (State.dropPackets s p).quiet = s.quiet := by
  unfold State.dropPackets
  simp

@[simp] theorem State.dropJobs_quiet (s : State) (p : Nat) : (State.dropJobs s p).quiet = s.quiet := by
  unfold State.dropJobs
  simp

@[simp] theorem State.dropWorks_quiet (s : State) (p : Nat) (f : Ring → Ring) : (State.dropWorks s p f).quiet = s.quiet := by
  unfold State.dropWorks
  simp

@[simp] theorem State.dropWalks_quiet (s : State) (p : Nat) : (State.dropWalks s p).quiet = s.quiet := by
  unfold State.dropWalks
  simp

@[simp] theorem State.dropInvals_quiet (s : State) (p : Nat) : (State.dropInvals s p).quiet = s.quiet := by
  unfold State.dropInvals
  simp

@[simp] theorem State.stopWork_quiet (s : State) (p : Nat) (discard : Bool) (f : Ring → Ring) : (State.stopWork s p discard f).quiet =
    s.quiet := by
  unfold State.stopWork
  simp

@[simp] theorem State.startScrub_quiet (s : State) (p detail : Nat) : (State.startScrub s p detail).quiet = s.quiet := by
  unfold State.startScrub
  dsimp only
  repeat' (first | (simp; done) | split)

@[simp] theorem State.quiesceEnd_quiet (s : State) (p : Nat) : (State.quiesceEnd s p).quiet = s.quiet := by
  unfold State.quiesceEnd
  simp

@[simp] theorem State.close_quiet (s : State) (p : Nat) : (State.close s p).quiet = s.quiet := by
  unfold State.close
  simp

@[simp] theorem State.zeroEnd_quiet (s : State) (p : Nat) : (State.zeroEnd s p).quiet = s.quiet := by
  unfold State.zeroEnd
  simp

@[simp] theorem State.freePart_quiet (s : State) (p : Nat) : (State.freePart s p).quiet = s.quiet := by
  unfold State.freePart
  simp

@[simp] theorem State.closeEnd_quiet (s : State) (p : Nat) : (State.closeEnd s p).quiet = s.quiet := by
  unfold State.closeEnd
  simp

@[simp] theorem State.createPart_quiet (s : State) (c : Create) : (State.createPart s c).quiet = s.quiet := by
  unfold State.createPart
  simp

@[simp] theorem State.activate_quiet (s : State) (p : Nat) : (State.activate s p).2.quiet = s.quiet := by
  unfold State.activate
  simp

@[simp] theorem State.startRekey_quiet (s : State) (p g : Nat) (items : List RekeyItem) : (State.startRekey s p g items).quiet = s.quiet := by
  unfold State.startRekey
  simp

@[simp] theorem State.lockPage_quiet (s : State) (p : Nat) (leaf : Option FoundLeaf) : (State.lockPage s p leaf).quiet = s.quiet := by
  unfold State.lockPage
  split <;> simp

@[simp] theorem State.pagePushed_quiet (s : State) (p : Nat) (old : Bytes) : (State.pagePushed s p old).quiet = s.quiet := by
  unfold State.pagePushed
  dsimp only
  repeat' (first | (simp; done) | split)

@[simp] theorem State.unlockPage_quiet (s : State) (p : Nat) : (State.unlockPage s p).quiet = s.quiet := by
  unfold State.unlockPage
  split <;> simp

@[simp] theorem State.hbmPassEnd_quiet (s : State) (p : Nat) : (State.hbmPassEnd s p).quiet = s.quiet := by
  unfold State.hbmPassEnd
  simp

@[simp] theorem State.retireSlot_quiet (s : State) (p g : Nat) : (State.retireSlot s p g).quiet = s.quiet := by
  unfold State.retireSlot
  dsimp only
  repeat' (first | (simp; done) | split)

@[simp] theorem State.openRepair_quiet (s : State) : (State.openRepair s).quiet = s.quiet := by
  unfold State.openRepair
  split <;> simp

@[simp] theorem State.closeRepair_quiet (s : State) (id : Nat) : (State.closeRepair s id).quiet = s.quiet := by
  unfold State.closeRepair
  simp

@[simp] theorem State.failShared_quiet (s : State) (r : SharedRepair) : (State.failShared s r).quiet = s.quiet := by
  unfold State.failShared
  simp

@[simp] theorem State.originRead_quiet (s : State) (id : Nat) (res : Option (Bytes × Bytes)) : (State.originRead s id res).quiet = s.quiet := by
  unfold State.originRead
  repeat' (first | (simp; done) | split)

@[simp] theorem State.repairClosed_quiet (s : State) (id : Nat) : (State.repairClosed s id).quiet = s.quiet := by
  unfold State.repairClosed
  split <;> simp

@[simp] theorem State.repairTimeout_quiet (s : State) (id : Nat) : (State.repairTimeout s id).quiet = s.quiet := by
  unfold State.repairTimeout
  split <;> simp

@[simp] theorem State.judgeCmd_quiet (s : State) (m : Nat) : (State.judgeCmd s m).quiet = s.quiet := by
  unfold State.judgeCmd
  dsimp only
  repeat' (first | (simp; done) | split)

@[simp] theorem State.submit_quiet (s : State) (m : Nat) (mctp : Bool) : (State.submit s m mctp).quiet = s.quiet := by
  unfold State.submit
  simp

@[simp] theorem State.mailboxGo_quiet (s : State) (m : Nat) : (State.mailboxGo s m).quiet = s.quiet := by
  unfold State.mailboxGo
  simp

@[simp] theorem State.mctpRequest_quiet (s : State) (body : Bytes) : (State.mctpRequest s body).quiet = s.quiet := by
  unfold State.mctpRequest
  simp

@[simp] theorem State.malformed_quiet (s : State) (m : Nat) : (State.malformed s m).quiet = s.quiet := by
  unfold State.malformed
  simp

@[simp] theorem State.state_quiet (s : State) (m d : Nat) : (State.state s m d).quiet = s.quiet := by
  unfold State.state
  simp

@[simp] theorem State.failed_quiet (s : State) (m d : Nat) : (State.failed s m d).quiet = s.quiet := by
  unfold State.failed
  simp

@[simp] theorem State.okIf_quiet (s : State) (m : Nat) (good : Bool) (s' : State) (h : s'.quiet = s.quiet) :
    (s.okIf m good s').quiet = s.quiet := by
  unfold State.okIf
  split <;> simp [h]

@[simp] theorem State.boxInval_quiet (s : State) (p m kind asid va pages : Nat) : (State.boxInval s p m kind asid va pages).quiet = s.quiet := by
  unfold State.boxInval
  simp

@[simp] theorem State.pwrError_quiet (s : State) (source cls detail : Nat) : (State.pwrError s source cls detail).quiet = s.quiet := by
  unfold State.pwrError
  simp

@[simp] theorem State.topologyCheck_quiet (s : State) : (State.topologyCheck s).quiet = s.quiet := by
  unfold State.topologyCheck
  simp

@[simp] theorem State.readyEvent_quiet (s : State) : (State.readyEvent s).quiet = s.quiet := by
  unfold State.readyEvent
  simp

@[simp] theorem State.unplace_quiet (s : State) (p : Nat) : (State.unplace s p).quiet = s.quiet := by
  unfold State.unplace
  simp

@[simp] theorem State.partitionResetEnd_quiet (s : State) (p : Nat) : (State.partitionResetEnd s p).quiet = s.quiet := by
  unfold State.partitionResetEnd
  split <;> simp

@[simp] theorem State.hostLossEnd_quiet (s : State) : (State.hostLossEnd s).quiet = s.quiet := by
  unfold State.hostLossEnd
  simp

@[simp] theorem State.clockLoss_quiet (s : State) (px : Bool) : (State.clockLoss s px).quiet = s.quiet := by
  unfold State.clockLoss
  simp

@[simp] theorem State.channelSize_quiet (s : State) (log2 : Nat) : (State.channelSize s log2).quiet = s.quiet := by
  unfold State.channelSize
  simp

@[simp] theorem State.boxWrite_quiet (s : State) (m o : Nat) (x : RegWrite) : (State.boxWrite s m o x).quiet = s.quiet := by
  unfold State.boxWrite
  simp

@[simp] theorem State.dropBox_quiet (s : State) (m : Nat) : (State.dropBox s m).quiet = s.quiet := by
  unfold State.dropBox
  simp

@[simp] theorem State.claim_quiet (s : State) (p : Nat) (body : Bytes) : (State.claim s p body).2.quiet = s.quiet := by
  unfold State.claim
  simp

@[simp] theorem State.keyLoad_quiet (s : State) (session p g : Nat) (body : Bytes) : (State.keyLoad s session p g body).2.quiet = s.quiet := by
  unfold State.keyLoad
  dsimp only
  repeat' (first | (simp; done) | split)

@[simp] theorem State.setProvision_quiet (s : State) (p k : Nat) (body : Bytes) : (State.setProvision s p k body).2.quiet = s.quiet := by
  unfold State.setProvision
  simp

@[simp] theorem State.tenantAct_quiet (s : State) (session p : Nat) (b : Bytes) : (State.tenantAct s session p b).2.quiet = s.quiet := by
  unfold State.tenantAct
  split <;> simp

@[simp] theorem State.tenantReply_quiet (s : State) (session code result : Nat) : (State.tenantReply s session code result).quiet = s.quiet := by
  unfold State.tenantReply
  simp

@[simp] theorem State.tenantRequest_quiet (s : State) (session : Nat) (b : Bytes) : (State.tenantRequest s session b).quiet = s.quiet := by
  unfold State.tenantRequest
  dsimp only
  repeat' (first | (simp; done) | split)

@[simp] theorem State.spdmError_quiet (s : State) (session : Option Nat) (error code : Nat) : (State.spdmError s session error
    code).quiet = s.quiet := by
  unfold State.spdmError
  simp

@[simp] theorem State.spdmAnswer_quiet (s : State) (session : Option Nat) (c : SpdmCode) (content : Bytes) : (State.spdmAnswer s session
    c content).quiet = s.quiet := by
  unfold State.spdmAnswer
  simp

@[simp] theorem State.cxlCfgWrite_quiet (s : State) (reg : Nat) (x : RegWrite) : (State.cxlCfgWrite s reg x).quiet = s.quiet := by
  unfold State.cxlCfgWrite
  simp

@[simp] theorem State.pageWrite_quiet (s : State) (p off n value : Nat) : (State.pageWrite s p off n value).quiet = s.quiet := by
  unfold State.pageWrite
  repeat' (first | (simp; done) | split)

theorem State.wordsWrite_quiet (s : State) (f : State → Nat → RegWrite → State) (h : ∀ t o x, (f t o x).quiet = t.quiet) (n off : Nat)
    (d : Bytes) : (s.wordsWrite f n off d).quiet = s.quiet := by
  induction n generalizing s off d with
  | zero => rfl
  | succ n ih =>
    unfold State.wordsWrite
    split
    · rfl
    · dsimp only
      rw [ih, h]

@[simp] theorem State.sendInbound_quiet (s : State) (port : Nat) (part : Option Nat) (pa len : Nat) (data : Option Bytes) :
    (State.sendInbound s port part pa len data).quiet = s.quiet := by
  unfold State.sendInbound
  split <;> simp

@[simp] theorem State.deviceInterrupt_quiet (s : State) (p addr value : Nat) : (State.deviceInterrupt s p addr value).quiet = s.quiet := by
  unfold State.deviceInterrupt
  simp

@[simp] theorem State.discardRes_quiet (s : State) (q : Req) : (State.discardRes s q).quiet = s.quiet := by
  unfold State.discardRes
  simp

@[simp] theorem State.kppBack_quiet (s : State) (id : Nat) (res : WrRes) : (State.kppBack s id res).quiet = s.quiet := by
  unfold State.kppBack
  split <;> simp

@[simp] theorem State.endFill_quiet (s : State) (q : Req) (f : Nat) : (State.endFill s q f).quiet = s.quiet := by
  unfold State.endFill
  simp

@[simp] theorem State.countLimit_quiet (s : State) (q : Req) : (State.countLimit s q).quiet = s.quiet := by
  unfold State.countLimit
  simp

@[simp] theorem State.fetchBack_quiet (s : State) (id : Nat) (res : RdRes) : (State.fetchBack s id res).quiet = s.quiet := by
  unfold State.fetchBack
  repeat' (first | (simp; done) | split)

@[simp] theorem State.consumerBack_quiet (s : State) (id : Nat) (res : RdRes) : (State.consumerBack s id res).quiet = s.quiet := by
  unfold State.consumerBack
  repeat' (first | (simp; done) | split)

@[simp] theorem State.normBack_quiet (s : State) (id : Nat) (res : RdRes) : (State.normBack s id res).quiet = s.quiet := by
  unfold State.normBack
  repeat' (first | (simp; done) | split)

@[simp] theorem State.grant_quiet (s : State) (x0 : Requester) : (State.grant s x0).quiet = s.quiet := by
  unfold State.grant
  split <;> simp

@[simp] theorem State.tickArray_quiet (s : State) (a b : Nat) : (State.tickArray s a b).quiet = s.quiet := by
  unfold State.tickArray
  split <;> simp

@[simp] theorem State.tickTier_quiet (s : State) (f : Nat) : (State.tickTier s f).quiet = s.quiet := by
  unfold State.tickTier
  simp

end Sys2Proof.Machine
end

