-- ==== Sys2Proof/Laws/State.lean ====
section
/-! SUPPORT. From "the same outside other units" and "the same but for background effects" to the parts themselves: one lemma per part,
and what a change of one entry leaves of every other part. -/

namespace Sys2Proof.Machine

/-- Every unit but one. -/
def allBut (c : Comp) : List Comp :=
  [.pt, .xl, .qc, .tier, .rk, .ch, .ec, .units, .links, .tally, .mc, .px, .reqs, .nextReq, .free, .outbox].filter fun d => d ≠ c

@[simp] theorem mem_allBut (c d : Comp) : d ∈ allBut c ↔ d ≠ c := by
  cases c <;> cases d <;> decide

theorem pt_eq {s t : State} (h : s.hide (allBut .pt) = t.hide (allBut .pt)) : s.pt = t.pt := by
  have := congrArg State.pt h
  simpa [State.hide] using this

theorem Same.pt {M : List Comp} {s t : State} (h : Same M s t) (hM : Comp.pt ∉ M) : t.pt = s.pt := by
  have := congrArg State.pt h
  simpa [State.hide, hM] using this

theorem xl_eq {s t : State} (h : s.hide (allBut .xl) = t.hide (allBut .xl)) : s.xl = t.xl := by
  have := congrArg State.xl h
  simpa [State.hide] using this

theorem Same.xl {M : List Comp} {s t : State} (h : Same M s t) (hM : Comp.xl ∉ M) : t.xl = s.xl := by
  have := congrArg State.xl h
  simpa [State.hide, hM] using this

theorem qc_eq {s t : State} (h : s.hide (allBut .qc) = t.hide (allBut .qc)) : s.qc = t.qc := by
  have := congrArg State.qc h
  simpa [State.hide] using this

theorem Same.qc {M : List Comp} {s t : State} (h : Same M s t) (hM : Comp.qc ∉ M) : t.qc = s.qc := by
  have := congrArg State.qc h
  simpa [State.hide, hM] using this

theorem tier_eq {s t : State} (h : s.hide (allBut .tier) = t.hide (allBut .tier)) : s.tier = t.tier := by
  have := congrArg State.tier h
  simpa [State.hide] using this

theorem Same.tier {M : List Comp} {s t : State} (h : Same M s t) (hM : Comp.tier ∉ M) : t.tier = s.tier := by
  have := congrArg State.tier h
  simpa [State.hide, hM] using this

theorem rk_eq {s t : State} (h : s.hide (allBut .rk) = t.hide (allBut .rk)) : s.rk = t.rk := by
  have := congrArg State.rk h
  simpa [State.hide] using this

theorem Same.rk {M : List Comp} {s t : State} (h : Same M s t) (hM : Comp.rk ∉ M) : t.rk = s.rk := by
  have := congrArg State.rk h
  simpa [State.hide, hM] using this

theorem ch_eq {s t : State} (h : s.hide (allBut .ch) = t.hide (allBut .ch)) : s.ch = t.ch := by
  have := congrArg State.ch h
  simpa [State.hide] using this

theorem Same.ch {M : List Comp} {s t : State} (h : Same M s t) (hM : Comp.ch ∉ M) : t.ch = s.ch := by
  have := congrArg State.ch h
  simpa [State.hide, hM] using this

theorem ec_eq {s t : State} (h : s.hide (allBut .ec) = t.hide (allBut .ec)) : s.ec = t.ec := by
  have := congrArg State.ec h
  simpa [State.hide] using this

theorem Same.ec {M : List Comp} {s t : State} (h : Same M s t) (hM : Comp.ec ∉ M) : t.ec = s.ec := by
  have := congrArg State.ec h
  simpa [State.hide, hM] using this

theorem units_eq {s t : State} (h : s.hide (allBut .units) = t.hide (allBut .units)) : s.units = t.units := by
  have := congrArg State.units h
  simpa [State.hide] using this

theorem Same.units {M : List Comp} {s t : State} (h : Same M s t) (hM : Comp.units ∉ M) : t.units = s.units := by
  have := congrArg State.units h
  simpa [State.hide, hM] using this

theorem links_eq {s t : State} (h : s.hide (allBut .links) = t.hide (allBut .links)) : s.links = t.links := by
  have := congrArg State.links h
  simpa [State.hide] using this

theorem Same.links {M : List Comp} {s t : State} (h : Same M s t) (hM : Comp.links ∉ M) : t.links = s.links := by
  have := congrArg State.links h
  simpa [State.hide, hM] using this

theorem tally_eq {s t : State} (h : s.hide (allBut .tally) = t.hide (allBut .tally)) : s.tally = t.tally := by
  have := congrArg State.tally h
  simpa [State.hide] using this

theorem Same.tally {M : List Comp} {s t : State} (h : Same M s t) (hM : Comp.tally ∉ M) : t.tally = s.tally := by
  have := congrArg State.tally h
  simpa [State.hide, hM] using this

theorem mc_eq {s t : State} (h : s.hide (allBut .mc) = t.hide (allBut .mc)) : s.mc = t.mc := by
  have := congrArg State.mc h
  simpa [State.hide] using this

theorem Same.mc {M : List Comp} {s t : State} (h : Same M s t) (hM : Comp.mc ∉ M) : t.mc = s.mc := by
  have := congrArg State.mc h
  simpa [State.hide, hM] using this

theorem px_eq {s t : State} (h : s.hide (allBut .px) = t.hide (allBut .px)) : s.px = t.px := by
  have := congrArg State.px h
  simpa [State.hide] using this

theorem Same.px {M : List Comp} {s t : State} (h : Same M s t) (hM : Comp.px ∉ M) : t.px = s.px := by
  have := congrArg State.px h
  simpa [State.hide, hM] using this

theorem reqs_eq {s t : State} (h : s.hide (allBut .reqs) = t.hide (allBut .reqs)) : s.reqs = t.reqs := by
  have := congrArg State.reqs h
  simpa [State.hide] using this

theorem Same.reqs {M : List Comp} {s t : State} (h : Same M s t) (hM : Comp.reqs ∉ M) : t.reqs = s.reqs := by
  have := congrArg State.reqs h
  simpa [State.hide, hM] using this

theorem nextReq_eq {s t : State} (h : s.hide (allBut .nextReq) = t.hide (allBut .nextReq)) : s.nextReq = t.nextReq := by
  have := congrArg State.nextReq h
  simpa [State.hide] using this

theorem Same.nextReq {M : List Comp} {s t : State} (h : Same M s t) (hM : Comp.nextReq ∉ M) : t.nextReq = s.nextReq := by
  have := congrArg State.nextReq h
  simpa [State.hide, hM] using this

theorem free_eq {s t : State} (h : s.hide (allBut .free) = t.hide (allBut .free)) : s.free = t.free := by
  have := congrArg State.free h
  simpa [State.hide] using this

theorem Same.free {M : List Comp} {s t : State} (h : Same M s t) (hM : Comp.free ∉ M) : t.free = s.free := by
  have := congrArg State.free h
  simpa [State.hide, hM] using this

theorem outbox_eq {s t : State} (h : s.hide (allBut .outbox) = t.hide (allBut .outbox)) : s.outbox = t.outbox := by
  have := congrArg State.outbox h
  simpa [State.hide] using this

theorem Same.outbox {M : List Comp} {s t : State} (h : Same M s t) (hM : Comp.outbox ∉ M) : t.outbox = s.outbox := by
  have := congrArg State.outbox h
  simpa [State.hide, hM] using this

theorem Same.pending {M : List Comp} {s t : State} (h : Same M s t) : t.pending = s.pending := by
  have h1 := congrArg State.pending (show t.hide M = s.hide M from h)
  exact h1

theorem Same.clk {M : List Comp} {s t : State} (h : Same M s t) : t.clk = s.clk := by
  have h1 := congrArg State.clk (show t.hide M = s.hide M from h)
  exact h1

theorem Same.pos {M : List Comp} {s t : State} (h : Same M s t) : t.pos = s.pos := by
  have h1 := congrArg State.pos (show t.hide M = s.hide M from h)
  exact h1

theorem Same.fuses {M : List Comp} {s t : State} (h : Same M s t) : t.fuses = s.fuses := by
  have h1 := congrArg State.fuses (show t.hide M = s.hide M from h)
  exact h1

theorem mcRest_eq {s t : State} (h : s.quiet = t.quiet) : s.mc.rest = t.mc.rest := congrArg Quiet.mc h
theorem pxRest_eq {s t : State} (h : s.quiet = t.quiet) : s.px.rest = t.px.rest := congrArg Quiet.px h
theorem ecRest_eq {s t : State} (h : s.quiet = t.quiet) : s.ec.rest = t.ec.rest := congrArg Quiet.ec h
theorem tallyRest_eq {s t : State} (h : s.quiet = t.quiet) : s.tally.rest = t.tally.rest := congrArg Quiet.tally h
theorem rd_eq {s t : State} (h : s.quiet = t.quiet) : s.mc.rd = t.mc.rd := congrArg (fun q => q.mc.rd) h
theorem fw_eq {s t : State} (h : s.quiet = t.quiet) : s.mc.fw = t.mc.fw := congrArg (fun q => q.mc.fw) h
theorem pwr_eq {s t : State} (h : s.quiet = t.quiet) : s.mc.pwr = t.mc.pwr := congrArg (fun q => q.mc.pwr) h
theorem ready_eq {s t : State} (h : s.quiet = t.quiet) : s.mc.ready = t.mc.ready := congrArg (fun q => q.mc.ready) h
theorem mode_eq {s t : State} (h : s.quiet = t.quiet) : s.mc.mode = t.mc.mode := congrArg (fun q => q.mc.mode) h
theorem served_eq {s t : State} (h : s.quiet = t.quiet) : s.mc.served = t.mc.served := congrArg (fun q => q.mc.served) h

@[simp] theorem modPart_part (s : State) (p j : Nat) (f : Part → Part) :
    (s.modPart p f).part j = if j = p then f (s.part p) else s.part j := by
  simp [State.modPart, State.part]

@[simp] theorem modPart_pending (s : State) (p : Nat) (f : Part → Part) : (s.modPart p f).pending = s.pending := rfl
@[simp] theorem modPart_clk (s : State) (p : Nat) (f : Part → Part) : (s.modPart p f).clk = s.clk := rfl
@[simp] theorem modPart_pos (s : State) (p : Nat) (f : Part → Part) : (s.modPart p f).pos = s.pos := rfl
@[simp] theorem modPart_fuses (s : State) (p : Nat) (f : Part → Part) : (s.modPart p f).fuses = s.fuses := rfl
@[simp] theorem modPart_xl (s : State) (p : Nat) (f : Part → Part) : (s.modPart p f).xl = s.xl := rfl
@[simp] theorem modPart_qc (s : State) (p : Nat) (f : Part → Part) : (s.modPart p f).qc = s.qc := rfl
@[simp] theorem modPart_tier (s : State) (p : Nat) (f : Part → Part) : (s.modPart p f).tier = s.tier := rfl
@[simp] theorem modPart_rk (s : State) (p : Nat) (f : Part → Part) : (s.modPart p f).rk = s.rk := rfl
@[simp] theorem modPart_ch (s : State) (p : Nat) (f : Part → Part) : (s.modPart p f).ch = s.ch := rfl
@[simp] theorem modPart_ec (s : State) (p : Nat) (f : Part → Part) : (s.modPart p f).ec = s.ec := rfl
@[simp] theorem modPart_units (s : State) (p : Nat) (f : Part → Part) : (s.modPart p f).units = s.units := rfl
@[simp] theorem modPart_links (s : State) (p : Nat) (f : Part → Part) : (s.modPart p f).links = s.links := rfl
@[simp] theorem modPart_tally (s : State) (p : Nat) (f : Part → Part) : (s.modPart p f).tally = s.tally := rfl
@[simp] theorem modPart_mc (s : State) (p : Nat) (f : Part → Part) : (s.modPart p f).mc = s.mc := rfl
@[simp] theorem modPart_px (s : State) (p : Nat) (f : Part → Part) : (s.modPart p f).px = s.px := rfl
@[simp] theorem modPart_reqs (s : State) (p : Nat) (f : Part → Part) : (s.modPart p f).reqs = s.reqs := rfl
@[simp] theorem modPart_nextReq (s : State) (p : Nat) (f : Part → Part) : (s.modPart p f).nextReq = s.nextReq := rfl
@[simp] theorem modPart_free (s : State) (p : Nat) (f : Part → Part) : (s.modPart p f).free = s.free := rfl
@[simp] theorem modPart_outbox (s : State) (p : Nat) (f : Part → Part) : (s.modPart p f).outbox = s.outbox := rfl

@[simp] theorem modRing_ring (s : State) (r j : Nat) (f : Ring → Ring) :
    (s.modRing r f).ring j = if j = r then f (s.ring r) else s.ring j := by
  simp [State.modRing, State.ring]

@[simp] theorem modRing_pending (s : State) (r : Nat) (f : Ring → Ring) : (s.modRing r f).pending = s.pending := rfl
@[simp] theorem modRing_clk (s : State) (r : Nat) (f : Ring → Ring) : (s.modRing r f).clk = s.clk := rfl
@[simp] theorem modRing_pos (s : State) (r : Nat) (f : Ring → Ring) : (s.modRing r f).pos = s.pos := rfl
@[simp] theorem modRing_fuses (s : State) (r : Nat) (f : Ring → Ring) : (s.modRing r f).fuses = s.fuses := rfl
@[simp] theorem modRing_pt (s : State) (r : Nat) (f : Ring → Ring) : (s.modRing r f).pt = s.pt := rfl
@[simp] theorem modRing_xl (s : State) (r : Nat) (f : Ring → Ring) : (s.modRing r f).xl = s.xl := rfl
@[simp] theorem modRing_tier (s : State) (r : Nat) (f : Ring → Ring) : (s.modRing r f).tier = s.tier := rfl
@[simp] theorem modRing_rk (s : State) (r : Nat) (f : Ring → Ring) : (s.modRing r f).rk = s.rk := rfl
@[simp] theorem modRing_ch (s : State) (r : Nat) (f : Ring → Ring) : (s.modRing r f).ch = s.ch := rfl
@[simp] theorem modRing_ec (s : State) (r : Nat) (f : Ring → Ring) : (s.modRing r f).ec = s.ec := rfl
@[simp] theorem modRing_units (s : State) (r : Nat) (f : Ring → Ring) : (s.modRing r f).units = s.units := rfl
@[simp] theorem modRing_links (s : State) (r : Nat) (f : Ring → Ring) : (s.modRing r f).links = s.links := rfl
@[simp] theorem modRing_tally (s : State) (r : Nat) (f : Ring → Ring) : (s.modRing r f).tally = s.tally := rfl
@[simp] theorem modRing_mc (s : State) (r : Nat) (f : Ring → Ring) : (s.modRing r f).mc = s.mc := rfl
@[simp] theorem modRing_px (s : State) (r : Nat) (f : Ring → Ring) : (s.modRing r f).px = s.px := rfl
@[simp] theorem modRing_reqs (s : State) (r : Nat) (f : Ring → Ring) : (s.modRing r f).reqs = s.reqs := rfl
@[simp] theorem modRing_nextReq (s : State) (r : Nat) (f : Ring → Ring) : (s.modRing r f).nextReq = s.nextReq := rfl
@[simp] theorem modRing_free (s : State) (r : Nat) (f : Ring → Ring) : (s.modRing r f).free = s.free := rfl
@[simp] theorem modRing_outbox (s : State) (r : Nat) (f : Ring → Ring) : (s.modRing r f).outbox = s.outbox := rfl

@[simp] theorem modCell_cell (s : State) (c j : Nat) (f : Cell → Cell) :
    (s.modCell c f).cell j = if j = c then f (s.cell c) else s.cell j := by
  simp [State.modCell, State.cell]

@[simp] theorem modCell_pending (s : State) (c : Nat) (f : Cell → Cell) : (s.modCell c f).pending = s.pending := rfl
@[simp] theorem modCell_clk (s : State) (c : Nat) (f : Cell → Cell) : (s.modCell c f).clk = s.clk := rfl
@[simp] theorem modCell_pos (s : State) (c : Nat) (f : Cell → Cell) : (s.modCell c f).pos = s.pos := rfl
@[simp] theorem modCell_fuses (s : State) (c : Nat) (f : Cell → Cell) : (s.modCell c f).fuses = s.fuses := rfl
@[simp] theorem modCell_pt (s : State) (c : Nat) (f : Cell → Cell) : (s.modCell c f).pt = s.pt := rfl
@[simp] theorem modCell_xl (s : State) (c : Nat) (f : Cell → Cell) : (s.modCell c f).xl = s.xl := rfl
@[simp] theorem modCell_tier (s : State) (c : Nat) (f : Cell → Cell) : (s.modCell c f).tier = s.tier := rfl
@[simp] theorem modCell_rk (s : State) (c : Nat) (f : Cell → Cell) : (s.modCell c f).rk = s.rk := rfl
@[simp] theorem modCell_ch (s : State) (c : Nat) (f : Cell → Cell) : (s.modCell c f).ch = s.ch := rfl
@[simp] theorem modCell_ec (s : State) (c : Nat) (f : Cell → Cell) : (s.modCell c f).ec = s.ec := rfl
@[simp] theorem modCell_units (s : State) (c : Nat) (f : Cell → Cell) : (s.modCell c f).units = s.units := rfl
@[simp] theorem modCell_links (s : State) (c : Nat) (f : Cell → Cell) : (s.modCell c f).links = s.links := rfl
@[simp] theorem modCell_tally (s : State) (c : Nat) (f : Cell → Cell) : (s.modCell c f).tally = s.tally := rfl
@[simp] theorem modCell_mc (s : State) (c : Nat) (f : Cell → Cell) : (s.modCell c f).mc = s.mc := rfl
@[simp] theorem modCell_px (s : State) (c : Nat) (f : Cell → Cell) : (s.modCell c f).px = s.px := rfl
@[simp] theorem modCell_reqs (s : State) (c : Nat) (f : Cell → Cell) : (s.modCell c f).reqs = s.reqs := rfl
@[simp] theorem modCell_nextReq (s : State) (c : Nat) (f : Cell → Cell) : (s.modCell c f).nextReq = s.nextReq := rfl
@[simp] theorem modCell_free (s : State) (c : Nat) (f : Cell → Cell) : (s.modCell c f).free = s.free := rfl
@[simp] theorem modCell_outbox (s : State) (c : Nat) (f : Cell → Cell) : (s.modCell c f).outbox = s.outbox := rfl

@[simp] theorem modSlot_slot (s : State) (k j : Nat) (f : ParkSlot → ParkSlot) :
    (s.modSlot k f).slot j = if j = k then f (s.slot k) else s.slot j := by
  simp [State.modSlot, State.slot]

@[simp] theorem modSlot_pending (s : State) (k : Nat) (f : ParkSlot → ParkSlot) : (s.modSlot k f).pending = s.pending := rfl
@[simp] theorem modSlot_clk (s : State) (k : Nat) (f : ParkSlot → ParkSlot) : (s.modSlot k f).clk = s.clk := rfl
@[simp] theorem modSlot_pos (s : State) (k : Nat) (f : ParkSlot → ParkSlot) : (s.modSlot k f).pos = s.pos := rfl
@[simp] theorem modSlot_fuses (s : State) (k : Nat) (f : ParkSlot → ParkSlot) : (s.modSlot k f).fuses = s.fuses := rfl
@[simp] theorem modSlot_pt (s : State) (k : Nat) (f : ParkSlot → ParkSlot) : (s.modSlot k f).pt = s.pt := rfl
@[simp] theorem modSlot_xl (s : State) (k : Nat) (f : ParkSlot → ParkSlot) : (s.modSlot k f).xl = s.xl := rfl
@[simp] theorem modSlot_tier (s : State) (k : Nat) (f : ParkSlot → ParkSlot) : (s.modSlot k f).tier = s.tier := rfl
@[simp] theorem modSlot_rk (s : State) (k : Nat) (f : ParkSlot → ParkSlot) : (s.modSlot k f).rk = s.rk := rfl
@[simp] theorem modSlot_ch (s : State) (k : Nat) (f : ParkSlot → ParkSlot) : (s.modSlot k f).ch = s.ch := rfl
@[simp] theorem modSlot_ec (s : State) (k : Nat) (f : ParkSlot → ParkSlot) : (s.modSlot k f).ec = s.ec := rfl
@[simp] theorem modSlot_units (s : State) (k : Nat) (f : ParkSlot → ParkSlot) : (s.modSlot k f).units = s.units := rfl
@[simp] theorem modSlot_links (s : State) (k : Nat) (f : ParkSlot → ParkSlot) : (s.modSlot k f).links = s.links := rfl
@[simp] theorem modSlot_tally (s : State) (k : Nat) (f : ParkSlot → ParkSlot) : (s.modSlot k f).tally = s.tally := rfl
@[simp] theorem modSlot_mc (s : State) (k : Nat) (f : ParkSlot → ParkSlot) : (s.modSlot k f).mc = s.mc := rfl
@[simp] theorem modSlot_px (s : State) (k : Nat) (f : ParkSlot → ParkSlot) : (s.modSlot k f).px = s.px := rfl
@[simp] theorem modSlot_reqs (s : State) (k : Nat) (f : ParkSlot → ParkSlot) : (s.modSlot k f).reqs = s.reqs := rfl
@[simp] theorem modSlot_nextReq (s : State) (k : Nat) (f : ParkSlot → ParkSlot) : (s.modSlot k f).nextReq = s.nextReq := rfl
@[simp] theorem modSlot_free (s : State) (k : Nat) (f : ParkSlot → ParkSlot) : (s.modSlot k f).free = s.free := rfl
@[simp] theorem modSlot_outbox (s : State) (k : Nat) (f : ParkSlot → ParkSlot) : (s.modSlot k f).outbox = s.outbox := rfl

@[simp] theorem modFq_fq (s : State) (p j : Nat) (f : FaultQueue → FaultQueue) :
    (s.modFq p f).fq j = if j = p then f (s.fq p) else s.fq j := by
  simp [State.modFq, State.fq]

@[simp] theorem modFq_pending (s : State) (p : Nat) (f : FaultQueue → FaultQueue) : (s.modFq p f).pending = s.pending := rfl
@[simp] theorem modFq_clk (s : State) (p : Nat) (f : FaultQueue → FaultQueue) : (s.modFq p f).clk = s.clk := rfl
@[simp] theorem modFq_pos (s : State) (p : Nat) (f : FaultQueue → FaultQueue) : (s.modFq p f).pos = s.pos := rfl
@[simp] theorem modFq_fuses (s : State) (p : Nat) (f : FaultQueue → FaultQueue) : (s.modFq p f).fuses = s.fuses := rfl
@[simp] theorem modFq_pt (s : State) (p : Nat) (f : FaultQueue → FaultQueue) : (s.modFq p f).pt = s.pt := rfl
@[simp] theorem modFq_xl (s : State) (p : Nat) (f : FaultQueue → FaultQueue) : (s.modFq p f).xl = s.xl := rfl
@[simp] theorem modFq_tier (s : State) (p : Nat) (f : FaultQueue → FaultQueue) : (s.modFq p f).tier = s.tier := rfl
@[simp] theorem modFq_rk (s : State) (p : Nat) (f : FaultQueue → FaultQueue) : (s.modFq p f).rk = s.rk := rfl
@[simp] theorem modFq_ch (s : State) (p : Nat) (f : FaultQueue → FaultQueue) : (s.modFq p f).ch = s.ch := rfl
@[simp] theorem modFq_ec (s : State) (p : Nat) (f : FaultQueue → FaultQueue) : (s.modFq p f).ec = s.ec := rfl
@[simp] theorem modFq_units (s : State) (p : Nat) (f : FaultQueue → FaultQueue) : (s.modFq p f).units = s.units := rfl
@[simp] theorem modFq_links (s : State) (p : Nat) (f : FaultQueue → FaultQueue) : (s.modFq p f).links = s.links := rfl
@[simp] theorem modFq_tally (s : State) (p : Nat) (f : FaultQueue → FaultQueue) : (s.modFq p f).tally = s.tally := rfl
@[simp] theorem modFq_mc (s : State) (p : Nat) (f : FaultQueue → FaultQueue) : (s.modFq p f).mc = s.mc := rfl
@[simp] theorem modFq_px (s : State) (p : Nat) (f : FaultQueue → FaultQueue) : (s.modFq p f).px = s.px := rfl
@[simp] theorem modFq_reqs (s : State) (p : Nat) (f : FaultQueue → FaultQueue) : (s.modFq p f).reqs = s.reqs := rfl
@[simp] theorem modFq_nextReq (s : State) (p : Nat) (f : FaultQueue → FaultQueue) : (s.modFq p f).nextReq = s.nextReq := rfl
@[simp] theorem modFq_free (s : State) (p : Nat) (f : FaultQueue → FaultQueue) : (s.modFq p f).free = s.free := rfl
@[simp] theorem modFq_outbox (s : State) (p : Nat) (f : FaultQueue → FaultQueue) : (s.modFq p f).outbox = s.outbox := rfl

@[simp] theorem modCq_cq (s : State) (k j : Nat) (f : CompRing → CompRing) :
    (s.modCq k f).cq j = if j = k then f (s.cq k) else s.cq j := by
  simp [State.modCq, State.cq]

@[simp] theorem modCq_pending (s : State) (k : Nat) (f : CompRing → CompRing) : (s.modCq k f).pending = s.pending := rfl
@[simp] theorem modCq_clk (s : State) (k : Nat) (f : CompRing → CompRing) : (s.modCq k f).clk = s.clk := rfl
@[simp] theorem modCq_pos (s : State) (k : Nat) (f : CompRing → CompRing) : (s.modCq k f).pos = s.pos := rfl
@[simp] theorem modCq_fuses (s : State) (k : Nat) (f : CompRing → CompRing) : (s.modCq k f).fuses = s.fuses := rfl
@[simp] theorem modCq_pt (s : State) (k : Nat) (f : CompRing → CompRing) : (s.modCq k f).pt = s.pt := rfl
@[simp] theorem modCq_xl (s : State) (k : Nat) (f : CompRing → CompRing) : (s.modCq k f).xl = s.xl := rfl
@[simp] theorem modCq_tier (s : State) (k : Nat) (f : CompRing → CompRing) : (s.modCq k f).tier = s.tier := rfl
@[simp] theorem modCq_rk (s : State) (k : Nat) (f : CompRing → CompRing) : (s.modCq k f).rk = s.rk := rfl
@[simp] theorem modCq_ch (s : State) (k : Nat) (f : CompRing → CompRing) : (s.modCq k f).ch = s.ch := rfl
@[simp] theorem modCq_ec (s : State) (k : Nat) (f : CompRing → CompRing) : (s.modCq k f).ec = s.ec := rfl
@[simp] theorem modCq_units (s : State) (k : Nat) (f : CompRing → CompRing) : (s.modCq k f).units = s.units := rfl
@[simp] theorem modCq_links (s : State) (k : Nat) (f : CompRing → CompRing) : (s.modCq k f).links = s.links := rfl
@[simp] theorem modCq_tally (s : State) (k : Nat) (f : CompRing → CompRing) : (s.modCq k f).tally = s.tally := rfl
@[simp] theorem modCq_mc (s : State) (k : Nat) (f : CompRing → CompRing) : (s.modCq k f).mc = s.mc := rfl
@[simp] theorem modCq_px (s : State) (k : Nat) (f : CompRing → CompRing) : (s.modCq k f).px = s.px := rfl
@[simp] theorem modCq_reqs (s : State) (k : Nat) (f : CompRing → CompRing) : (s.modCq k f).reqs = s.reqs := rfl
@[simp] theorem modCq_nextReq (s : State) (k : Nat) (f : CompRing → CompRing) : (s.modCq k f).nextReq = s.nextReq := rfl
@[simp] theorem modCq_free (s : State) (k : Nat) (f : CompRing → CompRing) : (s.modCq k f).free = s.free := rfl
@[simp] theorem modCq_outbox (s : State) (k : Nat) (f : CompRing → CompRing) : (s.modCq k f).outbox = s.outbox := rfl

@[simp] theorem modInvq_invq (s : State) (p j : Nat) (f : InvQueue → InvQueue) :
    (s.modInvq p f).invq j = if j = p then f (s.invq p) else s.invq j := by
  simp [State.modInvq, State.invq]

@[simp] theorem modInvq_pending (s : State) (p : Nat) (f : InvQueue → InvQueue) : (s.modInvq p f).pending = s.pending := rfl
@[simp] theorem modInvq_clk (s : State) (p : Nat) (f : InvQueue → InvQueue) : (s.modInvq p f).clk = s.clk := rfl
@[simp] theorem modInvq_pos (s : State) (p : Nat) (f : InvQueue → InvQueue) : (s.modInvq p f).pos = s.pos := rfl
@[simp] theorem modInvq_fuses (s : State) (p : Nat) (f : InvQueue → InvQueue) : (s.modInvq p f).fuses = s.fuses := rfl
@[simp] theorem modInvq_pt (s : State) (p : Nat) (f : InvQueue → InvQueue) : (s.modInvq p f).pt = s.pt := rfl
@[simp] theorem modInvq_qc (s : State) (p : Nat) (f : InvQueue → InvQueue) : (s.modInvq p f).qc = s.qc := rfl
@[simp] theorem modInvq_tier (s : State) (p : Nat) (f : InvQueue → InvQueue) : (s.modInvq p f).tier = s.tier := rfl
@[simp] theorem modInvq_rk (s : State) (p : Nat) (f : InvQueue → InvQueue) : (s.modInvq p f).rk = s.rk := rfl
@[simp] theorem modInvq_ch (s : State) (p : Nat) (f : InvQueue → InvQueue) : (s.modInvq p f).ch = s.ch := rfl
@[simp] theorem modInvq_ec (s : State) (p : Nat) (f : InvQueue → InvQueue) : (s.modInvq p f).ec = s.ec := rfl
@[simp] theorem modInvq_units (s : State) (p : Nat) (f : InvQueue → InvQueue) : (s.modInvq p f).units = s.units := rfl
@[simp] theorem modInvq_links (s : State) (p : Nat) (f : InvQueue → InvQueue) : (s.modInvq p f).links = s.links := rfl
@[simp] theorem modInvq_tally (s : State) (p : Nat) (f : InvQueue → InvQueue) : (s.modInvq p f).tally = s.tally := rfl
@[simp] theorem modInvq_mc (s : State) (p : Nat) (f : InvQueue → InvQueue) : (s.modInvq p f).mc = s.mc := rfl
@[simp] theorem modInvq_px (s : State) (p : Nat) (f : InvQueue → InvQueue) : (s.modInvq p f).px = s.px := rfl
@[simp] theorem modInvq_reqs (s : State) (p : Nat) (f : InvQueue → InvQueue) : (s.modInvq p f).reqs = s.reqs := rfl
@[simp] theorem modInvq_nextReq (s : State) (p : Nat) (f : InvQueue → InvQueue) : (s.modInvq p f).nextReq = s.nextReq := rfl
@[simp] theorem modInvq_free (s : State) (p : Nat) (f : InvQueue → InvQueue) : (s.modInvq p f).free = s.free := rfl
@[simp] theorem modInvq_outbox (s : State) (p : Nat) (f : InvQueue → InvQueue) : (s.modInvq p f).outbox = s.outbox := rfl

@[simp] theorem modChq_chq (s : State) (p j : Nat) (f : ChordQueue → ChordQueue) :
    (s.modChq p f).chq j = if j = p then f (s.chq p) else s.chq j := by
  simp [State.modChq, State.chq]

@[simp] theorem modChq_pending (s : State) (p : Nat) (f : ChordQueue → ChordQueue) : (s.modChq p f).pending = s.pending := rfl
@[simp] theorem modChq_clk (s : State) (p : Nat) (f : ChordQueue → ChordQueue) : (s.modChq p f).clk = s.clk := rfl
@[simp] theorem modChq_pos (s : State) (p : Nat) (f : ChordQueue → ChordQueue) : (s.modChq p f).pos = s.pos := rfl
@[simp] theorem modChq_fuses (s : State) (p : Nat) (f : ChordQueue → ChordQueue) : (s.modChq p f).fuses = s.fuses := rfl
@[simp] theorem modChq_pt (s : State) (p : Nat) (f : ChordQueue → ChordQueue) : (s.modChq p f).pt = s.pt := rfl
@[simp] theorem modChq_xl (s : State) (p : Nat) (f : ChordQueue → ChordQueue) : (s.modChq p f).xl = s.xl := rfl
@[simp] theorem modChq_qc (s : State) (p : Nat) (f : ChordQueue → ChordQueue) : (s.modChq p f).qc = s.qc := rfl
@[simp] theorem modChq_tier (s : State) (p : Nat) (f : ChordQueue → ChordQueue) : (s.modChq p f).tier = s.tier := rfl
@[simp] theorem modChq_rk (s : State) (p : Nat) (f : ChordQueue → ChordQueue) : (s.modChq p f).rk = s.rk := rfl
@[simp] theorem modChq_ec (s : State) (p : Nat) (f : ChordQueue → ChordQueue) : (s.modChq p f).ec = s.ec := rfl
@[simp] theorem modChq_units (s : State) (p : Nat) (f : ChordQueue → ChordQueue) : (s.modChq p f).units = s.units := rfl
@[simp] theorem modChq_links (s : State) (p : Nat) (f : ChordQueue → ChordQueue) : (s.modChq p f).links = s.links := rfl
@[simp] theorem modChq_tally (s : State) (p : Nat) (f : ChordQueue → ChordQueue) : (s.modChq p f).tally = s.tally := rfl
@[simp] theorem modChq_mc (s : State) (p : Nat) (f : ChordQueue → ChordQueue) : (s.modChq p f).mc = s.mc := rfl
@[simp] theorem modChq_px (s : State) (p : Nat) (f : ChordQueue → ChordQueue) : (s.modChq p f).px = s.px := rfl
@[simp] theorem modChq_reqs (s : State) (p : Nat) (f : ChordQueue → ChordQueue) : (s.modChq p f).reqs = s.reqs := rfl
@[simp] theorem modChq_nextReq (s : State) (p : Nat) (f : ChordQueue → ChordQueue) : (s.modChq p f).nextReq = s.nextReq := rfl
@[simp] theorem modChq_free (s : State) (p : Nat) (f : ChordQueue → ChordQueue) : (s.modChq p f).free = s.free := rfl
@[simp] theorem modChq_outbox (s : State) (p : Nat) (f : ChordQueue → ChordQueue) : (s.modChq p f).outbox = s.outbox := rfl

@[simp] theorem modChord_chord (s : State) (k j : Nat) (f : ChordSlot → ChordSlot) :
    (s.modChord k f).chord j = if j = k then f (s.chord k) else s.chord j := by
  simp [State.modChord, State.chord]

@[simp] theorem modChord_pending (s : State) (k : Nat) (f : ChordSlot → ChordSlot) : (s.modChord k f).pending = s.pending := rfl
@[simp] theorem modChord_clk (s : State) (k : Nat) (f : ChordSlot → ChordSlot) : (s.modChord k f).clk = s.clk := rfl
@[simp] theorem modChord_pos (s : State) (k : Nat) (f : ChordSlot → ChordSlot) : (s.modChord k f).pos = s.pos := rfl
@[simp] theorem modChord_fuses (s : State) (k : Nat) (f : ChordSlot → ChordSlot) : (s.modChord k f).fuses = s.fuses := rfl
@[simp] theorem modChord_pt (s : State) (k : Nat) (f : ChordSlot → ChordSlot) : (s.modChord k f).pt = s.pt := rfl
@[simp] theorem modChord_xl (s : State) (k : Nat) (f : ChordSlot → ChordSlot) : (s.modChord k f).xl = s.xl := rfl
@[simp] theorem modChord_qc (s : State) (k : Nat) (f : ChordSlot → ChordSlot) : (s.modChord k f).qc = s.qc := rfl
@[simp] theorem modChord_tier (s : State) (k : Nat) (f : ChordSlot → ChordSlot) : (s.modChord k f).tier = s.tier := rfl
@[simp] theorem modChord_rk (s : State) (k : Nat) (f : ChordSlot → ChordSlot) : (s.modChord k f).rk = s.rk := rfl
@[simp] theorem modChord_ec (s : State) (k : Nat) (f : ChordSlot → ChordSlot) : (s.modChord k f).ec = s.ec := rfl
@[simp] theorem modChord_units (s : State) (k : Nat) (f : ChordSlot → ChordSlot) : (s.modChord k f).units = s.units := rfl
@[simp] theorem modChord_links (s : State) (k : Nat) (f : ChordSlot → ChordSlot) : (s.modChord k f).links = s.links := rfl
@[simp] theorem modChord_tally (s : State) (k : Nat) (f : ChordSlot → ChordSlot) : (s.modChord k f).tally = s.tally := rfl
@[simp] theorem modChord_mc (s : State) (k : Nat) (f : ChordSlot → ChordSlot) : (s.modChord k f).mc = s.mc := rfl
@[simp] theorem modChord_px (s : State) (k : Nat) (f : ChordSlot → ChordSlot) : (s.modChord k f).px = s.px := rfl
@[simp] theorem modChord_reqs (s : State) (k : Nat) (f : ChordSlot → ChordSlot) : (s.modChord k f).reqs = s.reqs := rfl
@[simp] theorem modChord_nextReq (s : State) (k : Nat) (f : ChordSlot → ChordSlot) : (s.modChord k f).nextReq = s.nextReq := rfl
@[simp] theorem modChord_free (s : State) (k : Nat) (f : ChordSlot → ChordSlot) : (s.modChord k f).free = s.free := rfl
@[simp] theorem modChord_outbox (s : State) (k : Nat) (f : ChordSlot → ChordSlot) : (s.modChord k f).outbox = s.outbox := rfl

@[simp] theorem modUnit_unit (s : State) (u j : Nat) (f : UnitWord → UnitWord) :
    (s.modUnit u f).unit j = if j = u then f (s.unit u) else s.unit j := by
  simp [State.modUnit, State.unit]

@[simp] theorem modUnit_pending (s : State) (u : Nat) (f : UnitWord → UnitWord) : (s.modUnit u f).pending = s.pending := rfl
@[simp] theorem modUnit_clk (s : State) (u : Nat) (f : UnitWord → UnitWord) : (s.modUnit u f).clk = s.clk := rfl
@[simp] theorem modUnit_pos (s : State) (u : Nat) (f : UnitWord → UnitWord) : (s.modUnit u f).pos = s.pos := rfl
@[simp] theorem modUnit_fuses (s : State) (u : Nat) (f : UnitWord → UnitWord) : (s.modUnit u f).fuses = s.fuses := rfl
@[simp] theorem modUnit_pt (s : State) (u : Nat) (f : UnitWord → UnitWord) : (s.modUnit u f).pt = s.pt := rfl
@[simp] theorem modUnit_xl (s : State) (u : Nat) (f : UnitWord → UnitWord) : (s.modUnit u f).xl = s.xl := rfl
@[simp] theorem modUnit_qc (s : State) (u : Nat) (f : UnitWord → UnitWord) : (s.modUnit u f).qc = s.qc := rfl
@[simp] theorem modUnit_tier (s : State) (u : Nat) (f : UnitWord → UnitWord) : (s.modUnit u f).tier = s.tier := rfl
@[simp] theorem modUnit_rk (s : State) (u : Nat) (f : UnitWord → UnitWord) : (s.modUnit u f).rk = s.rk := rfl
@[simp] theorem modUnit_ch (s : State) (u : Nat) (f : UnitWord → UnitWord) : (s.modUnit u f).ch = s.ch := rfl
@[simp] theorem modUnit_ec (s : State) (u : Nat) (f : UnitWord → UnitWord) : (s.modUnit u f).ec = s.ec := rfl
@[simp] theorem modUnit_links (s : State) (u : Nat) (f : UnitWord → UnitWord) : (s.modUnit u f).links = s.links := rfl
@[simp] theorem modUnit_tally (s : State) (u : Nat) (f : UnitWord → UnitWord) : (s.modUnit u f).tally = s.tally := rfl
@[simp] theorem modUnit_mc (s : State) (u : Nat) (f : UnitWord → UnitWord) : (s.modUnit u f).mc = s.mc := rfl
@[simp] theorem modUnit_px (s : State) (u : Nat) (f : UnitWord → UnitWord) : (s.modUnit u f).px = s.px := rfl
@[simp] theorem modUnit_reqs (s : State) (u : Nat) (f : UnitWord → UnitWord) : (s.modUnit u f).reqs = s.reqs := rfl
@[simp] theorem modUnit_nextReq (s : State) (u : Nat) (f : UnitWord → UnitWord) : (s.modUnit u f).nextReq = s.nextReq := rfl
@[simp] theorem modUnit_free (s : State) (u : Nat) (f : UnitWord → UnitWord) : (s.modUnit u f).free = s.free := rfl
@[simp] theorem modUnit_outbox (s : State) (u : Nat) (f : UnitWord → UnitWord) : (s.modUnit u f).outbox = s.outbox := rfl

@[simp] theorem modSource_source (s : State) (i j : Nat) (f : Source → Source) :
    (s.modSource i f).source j = if j = i then f (s.source i) else s.source j := by
  simp [State.modSource, State.source]

@[simp] theorem modSource_pending (s : State) (i : Nat) (f : Source → Source) : (s.modSource i f).pending = s.pending := rfl
@[simp] theorem modSource_clk (s : State) (i : Nat) (f : Source → Source) : (s.modSource i f).clk = s.clk := rfl
@[simp] theorem modSource_pos (s : State) (i : Nat) (f : Source → Source) : (s.modSource i f).pos = s.pos := rfl
@[simp] theorem modSource_fuses (s : State) (i : Nat) (f : Source → Source) : (s.modSource i f).fuses = s.fuses := rfl
@[simp] theorem modSource_pt (s : State) (i : Nat) (f : Source → Source) : (s.modSource i f).pt = s.pt := rfl
@[simp] theorem modSource_xl (s : State) (i : Nat) (f : Source → Source) : (s.modSource i f).xl = s.xl := rfl
@[simp] theorem modSource_qc (s : State) (i : Nat) (f : Source → Source) : (s.modSource i f).qc = s.qc := rfl
@[simp] theorem modSource_tier (s : State) (i : Nat) (f : Source → Source) : (s.modSource i f).tier = s.tier := rfl
@[simp] theorem modSource_rk (s : State) (i : Nat) (f : Source → Source) : (s.modSource i f).rk = s.rk := rfl
@[simp] theorem modSource_ch (s : State) (i : Nat) (f : Source → Source) : (s.modSource i f).ch = s.ch := rfl
@[simp] theorem modSource_units (s : State) (i : Nat) (f : Source → Source) : (s.modSource i f).units = s.units := rfl
@[simp] theorem modSource_links (s : State) (i : Nat) (f : Source → Source) : (s.modSource i f).links = s.links := rfl
@[simp] theorem modSource_tally (s : State) (i : Nat) (f : Source → Source) : (s.modSource i f).tally = s.tally := rfl
@[simp] theorem modSource_mc (s : State) (i : Nat) (f : Source → Source) : (s.modSource i f).mc = s.mc := rfl
@[simp] theorem modSource_px (s : State) (i : Nat) (f : Source → Source) : (s.modSource i f).px = s.px := rfl
@[simp] theorem modSource_reqs (s : State) (i : Nat) (f : Source → Source) : (s.modSource i f).reqs = s.reqs := rfl
@[simp] theorem modSource_nextReq (s : State) (i : Nat) (f : Source → Source) : (s.modSource i f).nextReq = s.nextReq := rfl
@[simp] theorem modSource_free (s : State) (i : Nat) (f : Source → Source) : (s.modSource i f).free = s.free := rfl
@[simp] theorem modSource_outbox (s : State) (i : Nat) (f : Source → Source) : (s.modSource i f).outbox = s.outbox := rfl

@[simp] theorem modBox_box (s : State) (m j : Nat) (f : Mailbox → Mailbox) :
    (s.modBox m f).box j = if j = m then f (s.box m) else s.box j := by
  simp [State.modBox, State.box]

@[simp] theorem modBox_pending (s : State) (m : Nat) (f : Mailbox → Mailbox) : (s.modBox m f).pending = s.pending := rfl
@[simp] theorem modBox_clk (s : State) (m : Nat) (f : Mailbox → Mailbox) : (s.modBox m f).clk = s.clk := rfl
@[simp] theorem modBox_pos (s : State) (m : Nat) (f : Mailbox → Mailbox) : (s.modBox m f).pos = s.pos := rfl
@[simp] theorem modBox_fuses (s : State) (m : Nat) (f : Mailbox → Mailbox) : (s.modBox m f).fuses = s.fuses := rfl
@[simp] theorem modBox_pt (s : State) (m : Nat) (f : Mailbox → Mailbox) : (s.modBox m f).pt = s.pt := rfl
@[simp] theorem modBox_xl (s : State) (m : Nat) (f : Mailbox → Mailbox) : (s.modBox m f).xl = s.xl := rfl
@[simp] theorem modBox_qc (s : State) (m : Nat) (f : Mailbox → Mailbox) : (s.modBox m f).qc = s.qc := rfl
@[simp] theorem modBox_tier (s : State) (m : Nat) (f : Mailbox → Mailbox) : (s.modBox m f).tier = s.tier := rfl
@[simp] theorem modBox_rk (s : State) (m : Nat) (f : Mailbox → Mailbox) : (s.modBox m f).rk = s.rk := rfl
@[simp] theorem modBox_ch (s : State) (m : Nat) (f : Mailbox → Mailbox) : (s.modBox m f).ch = s.ch := rfl
@[simp] theorem modBox_ec (s : State) (m : Nat) (f : Mailbox → Mailbox) : (s.modBox m f).ec = s.ec := rfl
@[simp] theorem modBox_units (s : State) (m : Nat) (f : Mailbox → Mailbox) : (s.modBox m f).units = s.units := rfl
@[simp] theorem modBox_links (s : State) (m : Nat) (f : Mailbox → Mailbox) : (s.modBox m f).links = s.links := rfl
@[simp] theorem modBox_tally (s : State) (m : Nat) (f : Mailbox → Mailbox) : (s.modBox m f).tally = s.tally := rfl
@[simp] theorem modBox_px (s : State) (m : Nat) (f : Mailbox → Mailbox) : (s.modBox m f).px = s.px := rfl
@[simp] theorem modBox_reqs (s : State) (m : Nat) (f : Mailbox → Mailbox) : (s.modBox m f).reqs = s.reqs := rfl
@[simp] theorem modBox_nextReq (s : State) (m : Nat) (f : Mailbox → Mailbox) : (s.modBox m f).nextReq = s.nextReq := rfl
@[simp] theorem modBox_free (s : State) (m : Nat) (f : Mailbox → Mailbox) : (s.modBox m f).free = s.free := rfl
@[simp] theorem modBox_outbox (s : State) (m : Nat) (f : Mailbox → Mailbox) : (s.modBox m f).outbox = s.outbox := rfl

@[simp] theorem modMod_mod (s : State) (k j : Nat) (f : Module → Module) :
    (s.modMod k f).mod j = if j = k then f (s.mod k) else s.mod j := by
  simp [State.modMod, State.mod]

@[simp] theorem modMod_pending (s : State) (k : Nat) (f : Module → Module) : (s.modMod k f).pending = s.pending := rfl
@[simp] theorem modMod_clk (s : State) (k : Nat) (f : Module → Module) : (s.modMod k f).clk = s.clk := rfl
@[simp] theorem modMod_pos (s : State) (k : Nat) (f : Module → Module) : (s.modMod k f).pos = s.pos := rfl
@[simp] theorem modMod_fuses (s : State) (k : Nat) (f : Module → Module) : (s.modMod k f).fuses = s.fuses := rfl
@[simp] theorem modMod_pt (s : State) (k : Nat) (f : Module → Module) : (s.modMod k f).pt = s.pt := rfl
@[simp] theorem modMod_xl (s : State) (k : Nat) (f : Module → Module) : (s.modMod k f).xl = s.xl := rfl
@[simp] theorem modMod_qc (s : State) (k : Nat) (f : Module → Module) : (s.modMod k f).qc = s.qc := rfl
@[simp] theorem modMod_tier (s : State) (k : Nat) (f : Module → Module) : (s.modMod k f).tier = s.tier := rfl
@[simp] theorem modMod_rk (s : State) (k : Nat) (f : Module → Module) : (s.modMod k f).rk = s.rk := rfl
@[simp] theorem modMod_ch (s : State) (k : Nat) (f : Module → Module) : (s.modMod k f).ch = s.ch := rfl
@[simp] theorem modMod_ec (s : State) (k : Nat) (f : Module → Module) : (s.modMod k f).ec = s.ec := rfl
@[simp] theorem modMod_units (s : State) (k : Nat) (f : Module → Module) : (s.modMod k f).units = s.units := rfl
@[simp] theorem modMod_tally (s : State) (k : Nat) (f : Module → Module) : (s.modMod k f).tally = s.tally := rfl
@[simp] theorem modMod_mc (s : State) (k : Nat) (f : Module → Module) : (s.modMod k f).mc = s.mc := rfl
@[simp] theorem modMod_px (s : State) (k : Nat) (f : Module → Module) : (s.modMod k f).px = s.px := rfl
@[simp] theorem modMod_reqs (s : State) (k : Nat) (f : Module → Module) : (s.modMod k f).reqs = s.reqs := rfl
@[simp] theorem modMod_nextReq (s : State) (k : Nat) (f : Module → Module) : (s.modMod k f).nextReq = s.nextReq := rfl
@[simp] theorem modMod_free (s : State) (k : Nat) (f : Module → Module) : (s.modMod k f).free = s.free := rfl
@[simp] theorem modMod_outbox (s : State) (k : Nat) (f : Module → Module) : (s.modMod k f).outbox = s.outbox := rfl

@[simp] theorem report_pending (s : State) (e : ErrorEv) : (s.report e).pending = s.pending := rfl
@[simp] theorem report_clk (s : State) (e : ErrorEv) : (s.report e).clk = s.clk := rfl
@[simp] theorem report_pos (s : State) (e : ErrorEv) : (s.report e).pos = s.pos := rfl
@[simp] theorem report_fuses (s : State) (e : ErrorEv) : (s.report e).fuses = s.fuses := rfl
@[simp] theorem report_pt (s : State) (e : ErrorEv) : (s.report e).pt = s.pt := rfl
@[simp] theorem report_xl (s : State) (e : ErrorEv) : (s.report e).xl = s.xl := rfl
@[simp] theorem report_qc (s : State) (e : ErrorEv) : (s.report e).qc = s.qc := rfl
@[simp] theorem report_tier (s : State) (e : ErrorEv) : (s.report e).tier = s.tier := rfl
@[simp] theorem report_rk (s : State) (e : ErrorEv) : (s.report e).rk = s.rk := rfl
@[simp] theorem report_ch (s : State) (e : ErrorEv) : (s.report e).ch = s.ch := rfl
@[simp] theorem report_units (s : State) (e : ErrorEv) : (s.report e).units = s.units := rfl
@[simp] theorem report_links (s : State) (e : ErrorEv) : (s.report e).links = s.links := rfl
@[simp] theorem report_tally (s : State) (e : ErrorEv) : (s.report e).tally = s.tally := rfl
@[simp] theorem report_mc (s : State) (e : ErrorEv) : (s.report e).mc = s.mc := rfl
@[simp] theorem report_px (s : State) (e : ErrorEv) : (s.report e).px = s.px := rfl
@[simp] theorem report_reqs (s : State) (e : ErrorEv) : (s.report e).reqs = s.reqs := rfl
@[simp] theorem report_nextReq (s : State) (e : ErrorEv) : (s.report e).nextReq = s.nextReq := rfl
@[simp] theorem report_free (s : State) (e : ErrorEv) : (s.report e).free = s.free := rfl
@[simp] theorem report_outbox (s : State) (e : ErrorEv) : (s.report e).outbox = s.outbox := rfl

@[simp] theorem emit_pending (s : State) (e : Emission) : (s.emit e).pending = s.pending := rfl
@[simp] theorem emit_clk (s : State) (e : Emission) : (s.emit e).clk = s.clk := rfl
@[simp] theorem emit_pos (s : State) (e : Emission) : (s.emit e).pos = s.pos := rfl
@[simp] theorem emit_fuses (s : State) (e : Emission) : (s.emit e).fuses = s.fuses := rfl
@[simp] theorem emit_pt (s : State) (e : Emission) : (s.emit e).pt = s.pt := rfl
@[simp] theorem emit_xl (s : State) (e : Emission) : (s.emit e).xl = s.xl := rfl
@[simp] theorem emit_qc (s : State) (e : Emission) : (s.emit e).qc = s.qc := rfl
@[simp] theorem emit_tier (s : State) (e : Emission) : (s.emit e).tier = s.tier := rfl
@[simp] theorem emit_rk (s : State) (e : Emission) : (s.emit e).rk = s.rk := rfl
@[simp] theorem emit_ch (s : State) (e : Emission) : (s.emit e).ch = s.ch := rfl
@[simp] theorem emit_ec (s : State) (e : Emission) : (s.emit e).ec = s.ec := rfl
@[simp] theorem emit_units (s : State) (e : Emission) : (s.emit e).units = s.units := rfl
@[simp] theorem emit_links (s : State) (e : Emission) : (s.emit e).links = s.links := rfl
@[simp] theorem emit_tally (s : State) (e : Emission) : (s.emit e).tally = s.tally := rfl
@[simp] theorem emit_mc (s : State) (e : Emission) : (s.emit e).mc = s.mc := rfl
@[simp] theorem emit_px (s : State) (e : Emission) : (s.emit e).px = s.px := rfl
@[simp] theorem emit_reqs (s : State) (e : Emission) : (s.emit e).reqs = s.reqs := rfl
@[simp] theorem emit_nextReq (s : State) (e : Emission) : (s.emit e).nextReq = s.nextReq := rfl
@[simp] theorem emit_free (s : State) (e : Emission) : (s.emit e).free = s.free := rfl

@[simp] theorem dropReq_pending (s : State) (id : Nat) : (s.dropReq id).pending = s.pending := rfl
@[simp] theorem dropReq_clk (s : State) (id : Nat) : (s.dropReq id).clk = s.clk := rfl
@[simp] theorem dropReq_pos (s : State) (id : Nat) : (s.dropReq id).pos = s.pos := rfl
@[simp] theorem dropReq_fuses (s : State) (id : Nat) : (s.dropReq id).fuses = s.fuses := rfl
@[simp] theorem dropReq_pt (s : State) (id : Nat) : (s.dropReq id).pt = s.pt := rfl
@[simp] theorem dropReq_xl (s : State) (id : Nat) : (s.dropReq id).xl = s.xl := rfl
@[simp] theorem dropReq_qc (s : State) (id : Nat) : (s.dropReq id).qc = s.qc := rfl
@[simp] theorem dropReq_tier (s : State) (id : Nat) : (s.dropReq id).tier = s.tier := rfl
@[simp] theorem dropReq_rk (s : State) (id : Nat) : (s.dropReq id).rk = s.rk := rfl
@[simp] theorem dropReq_ch (s : State) (id : Nat) : (s.dropReq id).ch = s.ch := rfl
@[simp] theorem dropReq_ec (s : State) (id : Nat) : (s.dropReq id).ec = s.ec := rfl
@[simp] theorem dropReq_units (s : State) (id : Nat) : (s.dropReq id).units = s.units := rfl
@[simp] theorem dropReq_links (s : State) (id : Nat) : (s.dropReq id).links = s.links := rfl
@[simp] theorem dropReq_tally (s : State) (id : Nat) : (s.dropReq id).tally = s.tally := rfl
@[simp] theorem dropReq_mc (s : State) (id : Nat) : (s.dropReq id).mc = s.mc := rfl
@[simp] theorem dropReq_px (s : State) (id : Nat) : (s.dropReq id).px = s.px := rfl
@[simp] theorem dropReq_nextReq (s : State) (id : Nat) : (s.dropReq id).nextReq = s.nextReq := rfl
@[simp] theorem dropReq_free (s : State) (id : Nat) : (s.dropReq id).free = s.free := rfl
@[simp] theorem dropReq_outbox (s : State) (id : Nat) : (s.dropReq id).outbox = s.outbox := rfl

@[simp] theorem report_lines (s : State) (e : ErrorEv) : (s.report e).ec.lines = s.ec.lines ++ [e] := rfl
@[simp] theorem emit_outbox (s : State) (e : Emission) : (s.emit e).outbox = s.outbox ++ [e] := rfl

/-- After a change over a list, by what each step leaves alone. -/
theorem each_same {α : Type} {M : List Comp} {s u : State} {l : List α} {f : State → α → State} (hu : s.each l f = u)
    (h : ∀ t x, (f t x).hide M = t.hide M) : Same M s u := by
  rw [← hu]
  exact each_hide M s l f h

theorem each_same_quiet {α : Type} {s u : State} {l : List α} {f : State → α → State} (hu : s.each l f = u)
    (h : ∀ t x, (f t x).quiet = t.quiet) : u.quiet = s.quiet := by
  rw [← hu]
  exact each_quiet s l f h

theorem Same.trans {M : List Comp} {s t u : State} (h : Same M s t) (h' : Same M t u) : Same M s u :=
  show u.hide M = s.hide M from Eq.trans h' h

/-- What a response leaves in the management core: the mailbox alone changes (R402 to R404). -/
theorem respond_mc (s : State) (m result detail : Nat) (payload : Bytes) :
    ∃ ram, (s.respond m result detail payload).mc = (s.modBox m fun b =>
      { b with ram := ram, respTag := (s.box m).tag, result := result, detail := detail, busy := false, done := true, taken := false
               commands := wrapAdd 32 b.commands 1 }).mc := by
  refine ⟨Tab.writeBytes (s.box m).ram 0x5000 (responseHeader (s.box m).opcode (s.box m).tag result detail payload.length s.clk.mgt s.mc.seq ++ payload), ?_⟩
  unfold State.respond
  dsimp only
  refine (mc_eq (State.signalBox_hide (by simp) _ _)).trans ?_
  split <;> rfl

/-- The answered mailbox: DONE set, BUSY clear, with RESULT and DETAIL. -/
theorem respond_box (s : State) (m result detail : Nat) (payload : Bytes) :
    ((s.respond m result detail payload).box m).done = true ∧ ((s.respond m result detail payload).box m).busy = false ∧
      ((s.respond m result detail payload).box m).result = result ∧ ((s.respond m result detail payload).box m).detail = detail ∧
      ((s.respond m result detail payload).box m).respTag = (s.box m).tag := by
  obtain ⟨ram, h⟩ := respond_mc s m result detail payload
  simp only [State.box, h]
  simp [State.modBox]

/-- The other mailboxes stay. -/
theorem respond_box_ne (s : State) (m result detail : Nat) (payload : Bytes) (j : Nat) (hj : j ≠ m) :
    (s.respond m result detail payload).box j = s.box j := by
  obtain ⟨ram, h⟩ := respond_mc s m result detail payload
  simp only [State.box, h]
  simp [State.modBox, hj]

end Sys2Proof.Machine
end

