-- ==== Sys2Proof/Laws/Entries.lean ====
section
/-! SUPPORT. What a change of one entry leaves of every other kind of entry. -/

namespace Sys2Proof.Machine

@[simp] theorem modPart_ring_of (s : State) (p : Nat) (f : Part → Part) (j : Nat) : (s.modPart p f).ring j = s.ring j := rfl
@[simp] theorem modPart_cell_of (s : State) (p : Nat) (f : Part → Part) (j : Nat) : (s.modPart p f).cell j = s.cell j := rfl
@[simp] theorem modPart_slot_of (s : State) (p : Nat) (f : Part → Part) (j : Nat) : (s.modPart p f).slot j = s.slot j := rfl
@[simp] theorem modPart_fq_of (s : State) (p : Nat) (f : Part → Part) (j : Nat) : (s.modPart p f).fq j = s.fq j := rfl
@[simp] theorem modPart_cq_of (s : State) (p : Nat) (f : Part → Part) (j : Nat) : (s.modPart p f).cq j = s.cq j := rfl
@[simp] theorem modPart_invq_of (s : State) (p : Nat) (f : Part → Part) (j : Nat) : (s.modPart p f).invq j = s.invq j := rfl
@[simp] theorem modPart_chq_of (s : State) (p : Nat) (f : Part → Part) (j : Nat) : (s.modPart p f).chq j = s.chq j := rfl
@[simp] theorem modPart_chord_of (s : State) (p : Nat) (f : Part → Part) (j : Nat) : (s.modPart p f).chord j = s.chord j := rfl
@[simp] theorem modPart_unit_of (s : State) (p : Nat) (f : Part → Part) (j : Nat) : (s.modPart p f).unit j = s.unit j := rfl
@[simp] theorem modPart_source_of (s : State) (p : Nat) (f : Part → Part) (j : Nat) : (s.modPart p f).source j = s.source j := rfl
@[simp] theorem modPart_box_of (s : State) (p : Nat) (f : Part → Part) (j : Nat) : (s.modPart p f).box j = s.box j := rfl
@[simp] theorem modPart_mod_of (s : State) (p : Nat) (f : Part → Part) (j : Nat) : (s.modPart p f).mod j = s.mod j := rfl

@[simp] theorem modRing_part_of (s : State) (r : Nat) (f : Ring → Ring) (j : Nat) : (s.modRing r f).part j = s.part j := rfl
@[simp] theorem modRing_cell_of (s : State) (r : Nat) (f : Ring → Ring) (j : Nat) : (s.modRing r f).cell j = s.cell j := rfl
@[simp] theorem modRing_slot_of (s : State) (r : Nat) (f : Ring → Ring) (j : Nat) : (s.modRing r f).slot j = s.slot j := rfl
@[simp] theorem modRing_fq_of (s : State) (r : Nat) (f : Ring → Ring) (j : Nat) : (s.modRing r f).fq j = s.fq j := rfl
@[simp] theorem modRing_cq_of (s : State) (r : Nat) (f : Ring → Ring) (j : Nat) : (s.modRing r f).cq j = s.cq j := rfl
@[simp] theorem modRing_invq_of (s : State) (r : Nat) (f : Ring → Ring) (j : Nat) : (s.modRing r f).invq j = s.invq j := rfl
@[simp] theorem modRing_chq_of (s : State) (r : Nat) (f : Ring → Ring) (j : Nat) : (s.modRing r f).chq j = s.chq j := rfl
@[simp] theorem modRing_chord_of (s : State) (r : Nat) (f : Ring → Ring) (j : Nat) : (s.modRing r f).chord j = s.chord j := rfl
@[simp] theorem modRing_unit_of (s : State) (r : Nat) (f : Ring → Ring) (j : Nat) : (s.modRing r f).unit j = s.unit j := rfl
@[simp] theorem modRing_source_of (s : State) (r : Nat) (f : Ring → Ring) (j : Nat) : (s.modRing r f).source j = s.source j := rfl
@[simp] theorem modRing_box_of (s : State) (r : Nat) (f : Ring → Ring) (j : Nat) : (s.modRing r f).box j = s.box j := rfl
@[simp] theorem modRing_mod_of (s : State) (r : Nat) (f : Ring → Ring) (j : Nat) : (s.modRing r f).mod j = s.mod j := rfl

@[simp] theorem modCell_part_of (s : State) (c : Nat) (f : Cell → Cell) (j : Nat) : (s.modCell c f).part j = s.part j := rfl
@[simp] theorem modCell_ring_of (s : State) (c : Nat) (f : Cell → Cell) (j : Nat) : (s.modCell c f).ring j = s.ring j := rfl
@[simp] theorem modCell_slot_of (s : State) (c : Nat) (f : Cell → Cell) (j : Nat) : (s.modCell c f).slot j = s.slot j := rfl
@[simp] theorem modCell_fq_of (s : State) (c : Nat) (f : Cell → Cell) (j : Nat) : (s.modCell c f).fq j = s.fq j := rfl
@[simp] theorem modCell_cq_of (s : State) (c : Nat) (f : Cell → Cell) (j : Nat) : (s.modCell c f).cq j = s.cq j := rfl
@[simp] theorem modCell_invq_of (s : State) (c : Nat) (f : Cell → Cell) (j : Nat) : (s.modCell c f).invq j = s.invq j := rfl
@[simp] theorem modCell_chq_of (s : State) (c : Nat) (f : Cell → Cell) (j : Nat) : (s.modCell c f).chq j = s.chq j := rfl
@[simp] theorem modCell_chord_of (s : State) (c : Nat) (f : Cell → Cell) (j : Nat) : (s.modCell c f).chord j = s.chord j := rfl
@[simp] theorem modCell_unit_of (s : State) (c : Nat) (f : Cell → Cell) (j : Nat) : (s.modCell c f).unit j = s.unit j := rfl
@[simp] theorem modCell_source_of (s : State) (c : Nat) (f : Cell → Cell) (j : Nat) : (s.modCell c f).source j = s.source j := rfl
@[simp] theorem modCell_box_of (s : State) (c : Nat) (f : Cell → Cell) (j : Nat) : (s.modCell c f).box j = s.box j := rfl
@[simp] theorem modCell_mod_of (s : State) (c : Nat) (f : Cell → Cell) (j : Nat) : (s.modCell c f).mod j = s.mod j := rfl

@[simp] theorem modSlot_part_of (s : State) (k : Nat) (f : ParkSlot → ParkSlot) (j : Nat) : (s.modSlot k f).part j = s.part j := rfl
@[simp] theorem modSlot_ring_of (s : State) (k : Nat) (f : ParkSlot → ParkSlot) (j : Nat) : (s.modSlot k f).ring j = s.ring j := rfl
@[simp] theorem modSlot_cell_of (s : State) (k : Nat) (f : ParkSlot → ParkSlot) (j : Nat) : (s.modSlot k f).cell j = s.cell j := rfl
@[simp] theorem modSlot_fq_of (s : State) (k : Nat) (f : ParkSlot → ParkSlot) (j : Nat) : (s.modSlot k f).fq j = s.fq j := rfl
@[simp] theorem modSlot_cq_of (s : State) (k : Nat) (f : ParkSlot → ParkSlot) (j : Nat) : (s.modSlot k f).cq j = s.cq j := rfl
@[simp] theorem modSlot_invq_of (s : State) (k : Nat) (f : ParkSlot → ParkSlot) (j : Nat) : (s.modSlot k f).invq j = s.invq j := rfl
@[simp] theorem modSlot_chq_of (s : State) (k : Nat) (f : ParkSlot → ParkSlot) (j : Nat) : (s.modSlot k f).chq j = s.chq j := rfl
@[simp] theorem modSlot_chord_of (s : State) (k : Nat) (f : ParkSlot → ParkSlot) (j : Nat) : (s.modSlot k f).chord j = s.chord j := rfl
@[simp] theorem modSlot_unit_of (s : State) (k : Nat) (f : ParkSlot → ParkSlot) (j : Nat) : (s.modSlot k f).unit j = s.unit j := rfl
@[simp] theorem modSlot_source_of (s : State) (k : Nat) (f : ParkSlot → ParkSlot) (j : Nat) : (s.modSlot k f).source j = s.source j := rfl
@[simp] theorem modSlot_box_of (s : State) (k : Nat) (f : ParkSlot → ParkSlot) (j : Nat) : (s.modSlot k f).box j = s.box j := rfl
@[simp] theorem modSlot_mod_of (s : State) (k : Nat) (f : ParkSlot → ParkSlot) (j : Nat) : (s.modSlot k f).mod j = s.mod j := rfl

@[simp] theorem modFq_part_of (s : State) (p : Nat) (f : FaultQueue → FaultQueue) (j : Nat) : (s.modFq p f).part j = s.part j := rfl
@[simp] theorem modFq_ring_of (s : State) (p : Nat) (f : FaultQueue → FaultQueue) (j : Nat) : (s.modFq p f).ring j = s.ring j := rfl
@[simp] theorem modFq_cell_of (s : State) (p : Nat) (f : FaultQueue → FaultQueue) (j : Nat) : (s.modFq p f).cell j = s.cell j := rfl
@[simp] theorem modFq_slot_of (s : State) (p : Nat) (f : FaultQueue → FaultQueue) (j : Nat) : (s.modFq p f).slot j = s.slot j := rfl
@[simp] theorem modFq_cq_of (s : State) (p : Nat) (f : FaultQueue → FaultQueue) (j : Nat) : (s.modFq p f).cq j = s.cq j := rfl
@[simp] theorem modFq_invq_of (s : State) (p : Nat) (f : FaultQueue → FaultQueue) (j : Nat) : (s.modFq p f).invq j = s.invq j := rfl
@[simp] theorem modFq_chq_of (s : State) (p : Nat) (f : FaultQueue → FaultQueue) (j : Nat) : (s.modFq p f).chq j = s.chq j := rfl
@[simp] theorem modFq_chord_of (s : State) (p : Nat) (f : FaultQueue → FaultQueue) (j : Nat) : (s.modFq p f).chord j = s.chord j := rfl
@[simp] theorem modFq_unit_of (s : State) (p : Nat) (f : FaultQueue → FaultQueue) (j : Nat) : (s.modFq p f).unit j = s.unit j := rfl
@[simp] theorem modFq_source_of (s : State) (p : Nat) (f : FaultQueue → FaultQueue) (j : Nat) : (s.modFq p f).source j = s.source j := rfl
@[simp] theorem modFq_box_of (s : State) (p : Nat) (f : FaultQueue → FaultQueue) (j : Nat) : (s.modFq p f).box j = s.box j := rfl
@[simp] theorem modFq_mod_of (s : State) (p : Nat) (f : FaultQueue → FaultQueue) (j : Nat) : (s.modFq p f).mod j = s.mod j := rfl

@[simp] theorem modCq_part_of (s : State) (k : Nat) (f : CompRing → CompRing) (j : Nat) : (s.modCq k f).part j = s.part j := rfl
@[simp] theorem modCq_ring_of (s : State) (k : Nat) (f : CompRing → CompRing) (j : Nat) : (s.modCq k f).ring j = s.ring j := rfl
@[simp] theorem modCq_cell_of (s : State) (k : Nat) (f : CompRing → CompRing) (j : Nat) : (s.modCq k f).cell j = s.cell j := rfl
@[simp] theorem modCq_slot_of (s : State) (k : Nat) (f : CompRing → CompRing) (j : Nat) : (s.modCq k f).slot j = s.slot j := rfl
@[simp] theorem modCq_fq_of (s : State) (k : Nat) (f : CompRing → CompRing) (j : Nat) : (s.modCq k f).fq j = s.fq j := rfl
@[simp] theorem modCq_invq_of (s : State) (k : Nat) (f : CompRing → CompRing) (j : Nat) : (s.modCq k f).invq j = s.invq j := rfl
@[simp] theorem modCq_chq_of (s : State) (k : Nat) (f : CompRing → CompRing) (j : Nat) : (s.modCq k f).chq j = s.chq j := rfl
@[simp] theorem modCq_chord_of (s : State) (k : Nat) (f : CompRing → CompRing) (j : Nat) : (s.modCq k f).chord j = s.chord j := rfl
@[simp] theorem modCq_unit_of (s : State) (k : Nat) (f : CompRing → CompRing) (j : Nat) : (s.modCq k f).unit j = s.unit j := rfl
@[simp] theorem modCq_source_of (s : State) (k : Nat) (f : CompRing → CompRing) (j : Nat) : (s.modCq k f).source j = s.source j := rfl
@[simp] theorem modCq_box_of (s : State) (k : Nat) (f : CompRing → CompRing) (j : Nat) : (s.modCq k f).box j = s.box j := rfl
@[simp] theorem modCq_mod_of (s : State) (k : Nat) (f : CompRing → CompRing) (j : Nat) : (s.modCq k f).mod j = s.mod j := rfl

@[simp] theorem modInvq_part_of (s : State) (p : Nat) (f : InvQueue → InvQueue) (j : Nat) : (s.modInvq p f).part j = s.part j := rfl
@[simp] theorem modInvq_ring_of (s : State) (p : Nat) (f : InvQueue → InvQueue) (j : Nat) : (s.modInvq p f).ring j = s.ring j := rfl
@[simp] theorem modInvq_cell_of (s : State) (p : Nat) (f : InvQueue → InvQueue) (j : Nat) : (s.modInvq p f).cell j = s.cell j := rfl
@[simp] theorem modInvq_slot_of (s : State) (p : Nat) (f : InvQueue → InvQueue) (j : Nat) : (s.modInvq p f).slot j = s.slot j := rfl
@[simp] theorem modInvq_fq_of (s : State) (p : Nat) (f : InvQueue → InvQueue) (j : Nat) : (s.modInvq p f).fq j = s.fq j := rfl
@[simp] theorem modInvq_cq_of (s : State) (p : Nat) (f : InvQueue → InvQueue) (j : Nat) : (s.modInvq p f).cq j = s.cq j := rfl
@[simp] theorem modInvq_chq_of (s : State) (p : Nat) (f : InvQueue → InvQueue) (j : Nat) : (s.modInvq p f).chq j = s.chq j := rfl
@[simp] theorem modInvq_chord_of (s : State) (p : Nat) (f : InvQueue → InvQueue) (j : Nat) : (s.modInvq p f).chord j = s.chord j := rfl
@[simp] theorem modInvq_unit_of (s : State) (p : Nat) (f : InvQueue → InvQueue) (j : Nat) : (s.modInvq p f).unit j = s.unit j := rfl
@[simp] theorem modInvq_source_of (s : State) (p : Nat) (f : InvQueue → InvQueue) (j : Nat) : (s.modInvq p f).source j = s.source j := rfl
@[simp] theorem modInvq_box_of (s : State) (p : Nat) (f : InvQueue → InvQueue) (j : Nat) : (s.modInvq p f).box j = s.box j := rfl
@[simp] theorem modInvq_mod_of (s : State) (p : Nat) (f : InvQueue → InvQueue) (j : Nat) : (s.modInvq p f).mod j = s.mod j := rfl

@[simp] theorem modChq_part_of (s : State) (p : Nat) (f : ChordQueue → ChordQueue) (j : Nat) : (s.modChq p f).part j = s.part j := rfl
@[simp] theorem modChq_ring_of (s : State) (p : Nat) (f : ChordQueue → ChordQueue) (j : Nat) : (s.modChq p f).ring j = s.ring j := rfl
@[simp] theorem modChq_cell_of (s : State) (p : Nat) (f : ChordQueue → ChordQueue) (j : Nat) : (s.modChq p f).cell j = s.cell j := rfl
@[simp] theorem modChq_slot_of (s : State) (p : Nat) (f : ChordQueue → ChordQueue) (j : Nat) : (s.modChq p f).slot j = s.slot j := rfl
@[simp] theorem modChq_fq_of (s : State) (p : Nat) (f : ChordQueue → ChordQueue) (j : Nat) : (s.modChq p f).fq j = s.fq j := rfl
@[simp] theorem modChq_cq_of (s : State) (p : Nat) (f : ChordQueue → ChordQueue) (j : Nat) : (s.modChq p f).cq j = s.cq j := rfl
@[simp] theorem modChq_invq_of (s : State) (p : Nat) (f : ChordQueue → ChordQueue) (j : Nat) : (s.modChq p f).invq j = s.invq j := rfl
@[simp] theorem modChq_chord_of (s : State) (p : Nat) (f : ChordQueue → ChordQueue) (j : Nat) : (s.modChq p f).chord j = s.chord j := rfl
@[simp] theorem modChq_unit_of (s : State) (p : Nat) (f : ChordQueue → ChordQueue) (j : Nat) : (s.modChq p f).unit j = s.unit j := rfl
@[simp] theorem modChq_source_of (s : State) (p : Nat) (f : ChordQueue → ChordQueue) (j : Nat) : (s.modChq p f).source j = s.source j := rfl
@[simp] theorem modChq_box_of (s : State) (p : Nat) (f : ChordQueue → ChordQueue) (j : Nat) : (s.modChq p f).box j = s.box j := rfl
@[simp] theorem modChq_mod_of (s : State) (p : Nat) (f : ChordQueue → ChordQueue) (j : Nat) : (s.modChq p f).mod j = s.mod j := rfl

@[simp] theorem modChord_part_of (s : State) (k : Nat) (f : ChordSlot → ChordSlot) (j : Nat) : (s.modChord k f).part j = s.part j := rfl
@[simp] theorem modChord_ring_of (s : State) (k : Nat) (f : ChordSlot → ChordSlot) (j : Nat) : (s.modChord k f).ring j = s.ring j := rfl
@[simp] theorem modChord_cell_of (s : State) (k : Nat) (f : ChordSlot → ChordSlot) (j : Nat) : (s.modChord k f).cell j = s.cell j := rfl
@[simp] theorem modChord_slot_of (s : State) (k : Nat) (f : ChordSlot → ChordSlot) (j : Nat) : (s.modChord k f).slot j = s.slot j := rfl
@[simp] theorem modChord_fq_of (s : State) (k : Nat) (f : ChordSlot → ChordSlot) (j : Nat) : (s.modChord k f).fq j = s.fq j := rfl
@[simp] theorem modChord_cq_of (s : State) (k : Nat) (f : ChordSlot → ChordSlot) (j : Nat) : (s.modChord k f).cq j = s.cq j := rfl
@[simp] theorem modChord_invq_of (s : State) (k : Nat) (f : ChordSlot → ChordSlot) (j : Nat) : (s.modChord k f).invq j = s.invq j := rfl
@[simp] theorem modChord_chq_of (s : State) (k : Nat) (f : ChordSlot → ChordSlot) (j : Nat) : (s.modChord k f).chq j = s.chq j := rfl
@[simp] theorem modChord_unit_of (s : State) (k : Nat) (f : ChordSlot → ChordSlot) (j : Nat) : (s.modChord k f).unit j = s.unit j := rfl
@[simp] theorem modChord_source_of (s : State) (k : Nat) (f : ChordSlot → ChordSlot) (j : Nat) : (s.modChord k f).source j = s.source j := rfl
@[simp] theorem modChord_box_of (s : State) (k : Nat) (f : ChordSlot → ChordSlot) (j : Nat) : (s.modChord k f).box j = s.box j := rfl
@[simp] theorem modChord_mod_of (s : State) (k : Nat) (f : ChordSlot → ChordSlot) (j : Nat) : (s.modChord k f).mod j = s.mod j := rfl

@[simp] theorem modUnit_part_of (s : State) (u : Nat) (f : UnitWord → UnitWord) (j : Nat) : (s.modUnit u f).part j = s.part j := rfl
@[simp] theorem modUnit_ring_of (s : State) (u : Nat) (f : UnitWord → UnitWord) (j : Nat) : (s.modUnit u f).ring j = s.ring j := rfl
@[simp] theorem modUnit_cell_of (s : State) (u : Nat) (f : UnitWord → UnitWord) (j : Nat) : (s.modUnit u f).cell j = s.cell j := rfl
@[simp] theorem modUnit_slot_of (s : State) (u : Nat) (f : UnitWord → UnitWord) (j : Nat) : (s.modUnit u f).slot j = s.slot j := rfl
@[simp] theorem modUnit_fq_of (s : State) (u : Nat) (f : UnitWord → UnitWord) (j : Nat) : (s.modUnit u f).fq j = s.fq j := rfl
@[simp] theorem modUnit_cq_of (s : State) (u : Nat) (f : UnitWord → UnitWord) (j : Nat) : (s.modUnit u f).cq j = s.cq j := rfl
@[simp] theorem modUnit_invq_of (s : State) (u : Nat) (f : UnitWord → UnitWord) (j : Nat) : (s.modUnit u f).invq j = s.invq j := rfl
@[simp] theorem modUnit_chq_of (s : State) (u : Nat) (f : UnitWord → UnitWord) (j : Nat) : (s.modUnit u f).chq j = s.chq j := rfl
@[simp] theorem modUnit_chord_of (s : State) (u : Nat) (f : UnitWord → UnitWord) (j : Nat) : (s.modUnit u f).chord j = s.chord j := rfl
@[simp] theorem modUnit_source_of (s : State) (u : Nat) (f : UnitWord → UnitWord) (j : Nat) : (s.modUnit u f).source j = s.source j := rfl
@[simp] theorem modUnit_box_of (s : State) (u : Nat) (f : UnitWord → UnitWord) (j : Nat) : (s.modUnit u f).box j = s.box j := rfl
@[simp] theorem modUnit_mod_of (s : State) (u : Nat) (f : UnitWord → UnitWord) (j : Nat) : (s.modUnit u f).mod j = s.mod j := rfl

@[simp] theorem modSource_part_of (s : State) (i : Nat) (f : Source → Source) (j : Nat) : (s.modSource i f).part j = s.part j := rfl
@[simp] theorem modSource_ring_of (s : State) (i : Nat) (f : Source → Source) (j : Nat) : (s.modSource i f).ring j = s.ring j := rfl
@[simp] theorem modSource_cell_of (s : State) (i : Nat) (f : Source → Source) (j : Nat) : (s.modSource i f).cell j = s.cell j := rfl
@[simp] theorem modSource_slot_of (s : State) (i : Nat) (f : Source → Source) (j : Nat) : (s.modSource i f).slot j = s.slot j := rfl
@[simp] theorem modSource_fq_of (s : State) (i : Nat) (f : Source → Source) (j : Nat) : (s.modSource i f).fq j = s.fq j := rfl
@[simp] theorem modSource_cq_of (s : State) (i : Nat) (f : Source → Source) (j : Nat) : (s.modSource i f).cq j = s.cq j := rfl
@[simp] theorem modSource_invq_of (s : State) (i : Nat) (f : Source → Source) (j : Nat) : (s.modSource i f).invq j = s.invq j := rfl
@[simp] theorem modSource_chq_of (s : State) (i : Nat) (f : Source → Source) (j : Nat) : (s.modSource i f).chq j = s.chq j := rfl
@[simp] theorem modSource_chord_of (s : State) (i : Nat) (f : Source → Source) (j : Nat) : (s.modSource i f).chord j = s.chord j := rfl
@[simp] theorem modSource_unit_of (s : State) (i : Nat) (f : Source → Source) (j : Nat) : (s.modSource i f).unit j = s.unit j := rfl
@[simp] theorem modSource_box_of (s : State) (i : Nat) (f : Source → Source) (j : Nat) : (s.modSource i f).box j = s.box j := rfl
@[simp] theorem modSource_mod_of (s : State) (i : Nat) (f : Source → Source) (j : Nat) : (s.modSource i f).mod j = s.mod j := rfl

@[simp] theorem modBox_part_of (s : State) (m : Nat) (f : Mailbox → Mailbox) (j : Nat) : (s.modBox m f).part j = s.part j := rfl
@[simp] theorem modBox_ring_of (s : State) (m : Nat) (f : Mailbox → Mailbox) (j : Nat) : (s.modBox m f).ring j = s.ring j := rfl
@[simp] theorem modBox_cell_of (s : State) (m : Nat) (f : Mailbox → Mailbox) (j : Nat) : (s.modBox m f).cell j = s.cell j := rfl
@[simp] theorem modBox_slot_of (s : State) (m : Nat) (f : Mailbox → Mailbox) (j : Nat) : (s.modBox m f).slot j = s.slot j := rfl
@[simp] theorem modBox_fq_of (s : State) (m : Nat) (f : Mailbox → Mailbox) (j : Nat) : (s.modBox m f).fq j = s.fq j := rfl
@[simp] theorem modBox_cq_of (s : State) (m : Nat) (f : Mailbox → Mailbox) (j : Nat) : (s.modBox m f).cq j = s.cq j := rfl
@[simp] theorem modBox_invq_of (s : State) (m : Nat) (f : Mailbox → Mailbox) (j : Nat) : (s.modBox m f).invq j = s.invq j := rfl
@[simp] theorem modBox_chq_of (s : State) (m : Nat) (f : Mailbox → Mailbox) (j : Nat) : (s.modBox m f).chq j = s.chq j := rfl
@[simp] theorem modBox_chord_of (s : State) (m : Nat) (f : Mailbox → Mailbox) (j : Nat) : (s.modBox m f).chord j = s.chord j := rfl
@[simp] theorem modBox_unit_of (s : State) (m : Nat) (f : Mailbox → Mailbox) (j : Nat) : (s.modBox m f).unit j = s.unit j := rfl
@[simp] theorem modBox_source_of (s : State) (m : Nat) (f : Mailbox → Mailbox) (j : Nat) : (s.modBox m f).source j = s.source j := rfl
@[simp] theorem modBox_mod_of (s : State) (m : Nat) (f : Mailbox → Mailbox) (j : Nat) : (s.modBox m f).mod j = s.mod j := rfl

@[simp] theorem modMod_part_of (s : State) (k : Nat) (f : Module → Module) (j : Nat) : (s.modMod k f).part j = s.part j := rfl
@[simp] theorem modMod_ring_of (s : State) (k : Nat) (f : Module → Module) (j : Nat) : (s.modMod k f).ring j = s.ring j := rfl
@[simp] theorem modMod_cell_of (s : State) (k : Nat) (f : Module → Module) (j : Nat) : (s.modMod k f).cell j = s.cell j := rfl
@[simp] theorem modMod_slot_of (s : State) (k : Nat) (f : Module → Module) (j : Nat) : (s.modMod k f).slot j = s.slot j := rfl
@[simp] theorem modMod_fq_of (s : State) (k : Nat) (f : Module → Module) (j : Nat) : (s.modMod k f).fq j = s.fq j := rfl
@[simp] theorem modMod_cq_of (s : State) (k : Nat) (f : Module → Module) (j : Nat) : (s.modMod k f).cq j = s.cq j := rfl
@[simp] theorem modMod_invq_of (s : State) (k : Nat) (f : Module → Module) (j : Nat) : (s.modMod k f).invq j = s.invq j := rfl
@[simp] theorem modMod_chq_of (s : State) (k : Nat) (f : Module → Module) (j : Nat) : (s.modMod k f).chq j = s.chq j := rfl
@[simp] theorem modMod_chord_of (s : State) (k : Nat) (f : Module → Module) (j : Nat) : (s.modMod k f).chord j = s.chord j := rfl
@[simp] theorem modMod_unit_of (s : State) (k : Nat) (f : Module → Module) (j : Nat) : (s.modMod k f).unit j = s.unit j := rfl
@[simp] theorem modMod_source_of (s : State) (k : Nat) (f : Module → Module) (j : Nat) : (s.modMod k f).source j = s.source j := rfl
@[simp] theorem modMod_box_of (s : State) (k : Nat) (f : Module → Module) (j : Nat) : (s.modMod k f).box j = s.box j := rfl

@[simp] theorem report_part_of (s : State) (e : ErrorEv) (j : Nat) : (s.report e).part j = s.part j := rfl
@[simp] theorem report_ring_of (s : State) (e : ErrorEv) (j : Nat) : (s.report e).ring j = s.ring j := rfl
@[simp] theorem report_cell_of (s : State) (e : ErrorEv) (j : Nat) : (s.report e).cell j = s.cell j := rfl
@[simp] theorem report_slot_of (s : State) (e : ErrorEv) (j : Nat) : (s.report e).slot j = s.slot j := rfl
@[simp] theorem report_fq_of (s : State) (e : ErrorEv) (j : Nat) : (s.report e).fq j = s.fq j := rfl
@[simp] theorem report_cq_of (s : State) (e : ErrorEv) (j : Nat) : (s.report e).cq j = s.cq j := rfl
@[simp] theorem report_invq_of (s : State) (e : ErrorEv) (j : Nat) : (s.report e).invq j = s.invq j := rfl
@[simp] theorem report_chq_of (s : State) (e : ErrorEv) (j : Nat) : (s.report e).chq j = s.chq j := rfl
@[simp] theorem report_chord_of (s : State) (e : ErrorEv) (j : Nat) : (s.report e).chord j = s.chord j := rfl
@[simp] theorem report_unit_of (s : State) (e : ErrorEv) (j : Nat) : (s.report e).unit j = s.unit j := rfl
@[simp] theorem report_source_of (s : State) (e : ErrorEv) (j : Nat) : (s.report e).source j = s.source j := rfl
@[simp] theorem report_box_of (s : State) (e : ErrorEv) (j : Nat) : (s.report e).box j = s.box j := rfl
@[simp] theorem report_mod_of (s : State) (e : ErrorEv) (j : Nat) : (s.report e).mod j = s.mod j := rfl

@[simp] theorem emit_part_of (s : State) (e : Emission) (j : Nat) : (s.emit e).part j = s.part j := rfl
@[simp] theorem emit_ring_of (s : State) (e : Emission) (j : Nat) : (s.emit e).ring j = s.ring j := rfl
@[simp] theorem emit_cell_of (s : State) (e : Emission) (j : Nat) : (s.emit e).cell j = s.cell j := rfl
@[simp] theorem emit_slot_of (s : State) (e : Emission) (j : Nat) : (s.emit e).slot j = s.slot j := rfl
@[simp] theorem emit_fq_of (s : State) (e : Emission) (j : Nat) : (s.emit e).fq j = s.fq j := rfl
@[simp] theorem emit_cq_of (s : State) (e : Emission) (j : Nat) : (s.emit e).cq j = s.cq j := rfl
@[simp] theorem emit_invq_of (s : State) (e : Emission) (j : Nat) : (s.emit e).invq j = s.invq j := rfl
@[simp] theorem emit_chq_of (s : State) (e : Emission) (j : Nat) : (s.emit e).chq j = s.chq j := rfl
@[simp] theorem emit_chord_of (s : State) (e : Emission) (j : Nat) : (s.emit e).chord j = s.chord j := rfl
@[simp] theorem emit_unit_of (s : State) (e : Emission) (j : Nat) : (s.emit e).unit j = s.unit j := rfl
@[simp] theorem emit_source_of (s : State) (e : Emission) (j : Nat) : (s.emit e).source j = s.source j := rfl
@[simp] theorem emit_box_of (s : State) (e : Emission) (j : Nat) : (s.emit e).box j = s.box j := rfl
@[simp] theorem emit_mod_of (s : State) (e : Emission) (j : Nat) : (s.emit e).mod j = s.mod j := rfl

@[simp] theorem dropReq_part_of (s : State) (id : Nat) (j : Nat) : (s.dropReq id).part j = s.part j := rfl
@[simp] theorem dropReq_ring_of (s : State) (id : Nat) (j : Nat) : (s.dropReq id).ring j = s.ring j := rfl
@[simp] theorem dropReq_cell_of (s : State) (id : Nat) (j : Nat) : (s.dropReq id).cell j = s.cell j := rfl
@[simp] theorem dropReq_slot_of (s : State) (id : Nat) (j : Nat) : (s.dropReq id).slot j = s.slot j := rfl
@[simp] theorem dropReq_fq_of (s : State) (id : Nat) (j : Nat) : (s.dropReq id).fq j = s.fq j := rfl
@[simp] theorem dropReq_cq_of (s : State) (id : Nat) (j : Nat) : (s.dropReq id).cq j = s.cq j := rfl
@[simp] theorem dropReq_invq_of (s : State) (id : Nat) (j : Nat) : (s.dropReq id).invq j = s.invq j := rfl
@[simp] theorem dropReq_chq_of (s : State) (id : Nat) (j : Nat) : (s.dropReq id).chq j = s.chq j := rfl
@[simp] theorem dropReq_chord_of (s : State) (id : Nat) (j : Nat) : (s.dropReq id).chord j = s.chord j := rfl
@[simp] theorem dropReq_unit_of (s : State) (id : Nat) (j : Nat) : (s.dropReq id).unit j = s.unit j := rfl
@[simp] theorem dropReq_source_of (s : State) (id : Nat) (j : Nat) : (s.dropReq id).source j = s.source j := rfl
@[simp] theorem dropReq_box_of (s : State) (id : Nat) (j : Nat) : (s.dropReq id).box j = s.box j := rfl
@[simp] theorem dropReq_mod_of (s : State) (id : Nat) (j : Nat) : (s.dropReq id).mod j = s.mod j := rfl

@[simp] theorem send_part_of (s : State) (q : Req) (j : Nat) : (s.send q).part j = s.part j := rfl
@[simp] theorem send_ring_of (s : State) (q : Req) (j : Nat) : (s.send q).ring j = s.ring j := rfl
@[simp] theorem send_cell_of (s : State) (q : Req) (j : Nat) : (s.send q).cell j = s.cell j := rfl
@[simp] theorem send_slot_of (s : State) (q : Req) (j : Nat) : (s.send q).slot j = s.slot j := rfl
@[simp] theorem send_fq_of (s : State) (q : Req) (j : Nat) : (s.send q).fq j = s.fq j := rfl
@[simp] theorem send_cq_of (s : State) (q : Req) (j : Nat) : (s.send q).cq j = s.cq j := rfl
@[simp] theorem send_invq_of (s : State) (q : Req) (j : Nat) : (s.send q).invq j = s.invq j := rfl
@[simp] theorem send_chq_of (s : State) (q : Req) (j : Nat) : (s.send q).chq j = s.chq j := rfl
@[simp] theorem send_chord_of (s : State) (q : Req) (j : Nat) : (s.send q).chord j = s.chord j := rfl
@[simp] theorem send_unit_of (s : State) (q : Req) (j : Nat) : (s.send q).unit j = s.unit j := rfl
@[simp] theorem send_source_of (s : State) (q : Req) (j : Nat) : (s.send q).source j = s.source j := rfl
@[simp] theorem send_box_of (s : State) (q : Req) (j : Nat) : (s.send q).box j = s.box j := rfl
@[simp] theorem send_mod_of (s : State) (q : Req) (j : Nat) : (s.send q).mod j = s.mod j := rfl

@[simp] theorem modReq_part_of (s : State) (id : Nat) (f : Req → Req) (j : Nat) : (s.modReq id f).part j = s.part j := rfl
@[simp] theorem modReq_ring_of (s : State) (id : Nat) (f : Req → Req) (j : Nat) : (s.modReq id f).ring j = s.ring j := rfl
@[simp] theorem modReq_cell_of (s : State) (id : Nat) (f : Req → Req) (j : Nat) : (s.modReq id f).cell j = s.cell j := rfl
@[simp] theorem modReq_slot_of (s : State) (id : Nat) (f : Req → Req) (j : Nat) : (s.modReq id f).slot j = s.slot j := rfl
@[simp] theorem modReq_fq_of (s : State) (id : Nat) (f : Req → Req) (j : Nat) : (s.modReq id f).fq j = s.fq j := rfl
@[simp] theorem modReq_cq_of (s : State) (id : Nat) (f : Req → Req) (j : Nat) : (s.modReq id f).cq j = s.cq j := rfl
@[simp] theorem modReq_invq_of (s : State) (id : Nat) (f : Req → Req) (j : Nat) : (s.modReq id f).invq j = s.invq j := rfl
@[simp] theorem modReq_chq_of (s : State) (id : Nat) (f : Req → Req) (j : Nat) : (s.modReq id f).chq j = s.chq j := rfl
@[simp] theorem modReq_chord_of (s : State) (id : Nat) (f : Req → Req) (j : Nat) : (s.modReq id f).chord j = s.chord j := rfl
@[simp] theorem modReq_unit_of (s : State) (id : Nat) (f : Req → Req) (j : Nat) : (s.modReq id f).unit j = s.unit j := rfl
@[simp] theorem modReq_source_of (s : State) (id : Nat) (f : Req → Req) (j : Nat) : (s.modReq id f).source j = s.source j := rfl
@[simp] theorem modReq_box_of (s : State) (id : Nat) (f : Req → Req) (j : Nat) : (s.modReq id f).box j = s.box j := rfl
@[simp] theorem modReq_mod_of (s : State) (id : Nat) (f : Req → Req) (j : Nat) : (s.modReq id f).mod j = s.mod j := rfl

@[simp] theorem send_pending (s : State) (q : Req) : (s.send q).pending = s.pending := rfl
@[simp] theorem send_clk (s : State) (q : Req) : (s.send q).clk = s.clk := rfl
@[simp] theorem send_pos (s : State) (q : Req) : (s.send q).pos = s.pos := rfl
@[simp] theorem send_fuses (s : State) (q : Req) : (s.send q).fuses = s.fuses := rfl
@[simp] theorem send_pt (s : State) (q : Req) : (s.send q).pt = s.pt := rfl
@[simp] theorem send_xl (s : State) (q : Req) : (s.send q).xl = s.xl := rfl
@[simp] theorem send_qc (s : State) (q : Req) : (s.send q).qc = s.qc := rfl
@[simp] theorem send_tier (s : State) (q : Req) : (s.send q).tier = s.tier := rfl
@[simp] theorem send_rk (s : State) (q : Req) : (s.send q).rk = s.rk := rfl
@[simp] theorem send_ch (s : State) (q : Req) : (s.send q).ch = s.ch := rfl
@[simp] theorem send_ec (s : State) (q : Req) : (s.send q).ec = s.ec := rfl
@[simp] theorem send_units (s : State) (q : Req) : (s.send q).units = s.units := rfl
@[simp] theorem send_links (s : State) (q : Req) : (s.send q).links = s.links := rfl
@[simp] theorem send_tally (s : State) (q : Req) : (s.send q).tally = s.tally := rfl
@[simp] theorem send_mc (s : State) (q : Req) : (s.send q).mc = s.mc := rfl
@[simp] theorem send_px (s : State) (q : Req) : (s.send q).px = s.px := rfl
@[simp] theorem send_free (s : State) (q : Req) : (s.send q).free = s.free := rfl
@[simp] theorem send_outbox (s : State) (q : Req) : (s.send q).outbox = s.outbox := rfl

@[simp] theorem modReq_pending (s : State) (id : Nat) (f : Req → Req) : (s.modReq id f).pending = s.pending := rfl
@[simp] theorem modReq_clk (s : State) (id : Nat) (f : Req → Req) : (s.modReq id f).clk = s.clk := rfl
@[simp] theorem modReq_pos (s : State) (id : Nat) (f : Req → Req) : (s.modReq id f).pos = s.pos := rfl
@[simp] theorem modReq_fuses (s : State) (id : Nat) (f : Req → Req) : (s.modReq id f).fuses = s.fuses := rfl
@[simp] theorem modReq_pt (s : State) (id : Nat) (f : Req → Req) : (s.modReq id f).pt = s.pt := rfl
@[simp] theorem modReq_xl (s : State) (id : Nat) (f : Req → Req) : (s.modReq id f).xl = s.xl := rfl
@[simp] theorem modReq_qc (s : State) (id : Nat) (f : Req → Req) : (s.modReq id f).qc = s.qc := rfl
@[simp] theorem modReq_tier (s : State) (id : Nat) (f : Req → Req) : (s.modReq id f).tier = s.tier := rfl
@[simp] theorem modReq_rk (s : State) (id : Nat) (f : Req → Req) : (s.modReq id f).rk = s.rk := rfl
@[simp] theorem modReq_ch (s : State) (id : Nat) (f : Req → Req) : (s.modReq id f).ch = s.ch := rfl
@[simp] theorem modReq_ec (s : State) (id : Nat) (f : Req → Req) : (s.modReq id f).ec = s.ec := rfl
@[simp] theorem modReq_units (s : State) (id : Nat) (f : Req → Req) : (s.modReq id f).units = s.units := rfl
@[simp] theorem modReq_links (s : State) (id : Nat) (f : Req → Req) : (s.modReq id f).links = s.links := rfl
@[simp] theorem modReq_tally (s : State) (id : Nat) (f : Req → Req) : (s.modReq id f).tally = s.tally := rfl
@[simp] theorem modReq_mc (s : State) (id : Nat) (f : Req → Req) : (s.modReq id f).mc = s.mc := rfl
@[simp] theorem modReq_px (s : State) (id : Nat) (f : Req → Req) : (s.modReq id f).px = s.px := rfl
@[simp] theorem modReq_free (s : State) (id : Nat) (f : Req → Req) : (s.modReq id f).free = s.free := rfl
@[simp] theorem modReq_outbox (s : State) (id : Nat) (f : Req → Req) : (s.modReq id f).outbox = s.outbox := rfl
@[simp] theorem modReq_nextReq (s : State) (id : Nat) (f : Req → Req) : (s.modReq id f).nextReq = s.nextReq := rfl

@[simp] theorem modWork_part_of (s : State) (r pos : Nat) (f : Work → Work) (j : Nat) : (s.modWork r pos f).part j = s.part j := rfl
@[simp] theorem modWork_cell_of (s : State) (r pos : Nat) (f : Work → Work) (j : Nat) : (s.modWork r pos f).cell j = s.cell j := rfl
@[simp] theorem modWork_slot_of (s : State) (r pos : Nat) (f : Work → Work) (j : Nat) : (s.modWork r pos f).slot j = s.slot j := rfl
@[simp] theorem modWork_fq_of (s : State) (r pos : Nat) (f : Work → Work) (j : Nat) : (s.modWork r pos f).fq j = s.fq j := rfl
@[simp] theorem modWork_cq_of (s : State) (r pos : Nat) (f : Work → Work) (j : Nat) : (s.modWork r pos f).cq j = s.cq j := rfl
@[simp] theorem modWork_invq_of (s : State) (r pos : Nat) (f : Work → Work) (j : Nat) : (s.modWork r pos f).invq j = s.invq j := rfl
@[simp] theorem modWork_chq_of (s : State) (r pos : Nat) (f : Work → Work) (j : Nat) : (s.modWork r pos f).chq j = s.chq j := rfl
@[simp] theorem modWork_chord_of (s : State) (r pos : Nat) (f : Work → Work) (j : Nat) : (s.modWork r pos f).chord j = s.chord j := rfl
@[simp] theorem modWork_unit_of (s : State) (r pos : Nat) (f : Work → Work) (j : Nat) : (s.modWork r pos f).unit j = s.unit j := rfl
@[simp] theorem modWork_source_of (s : State) (r pos : Nat) (f : Work → Work) (j : Nat) : (s.modWork r pos f).source j = s.source j := rfl
@[simp] theorem modWork_box_of (s : State) (r pos : Nat) (f : Work → Work) (j : Nat) : (s.modWork r pos f).box j = s.box j := rfl
@[simp] theorem modWork_mod_of (s : State) (r pos : Nat) (f : Work → Work) (j : Nat) : (s.modWork r pos f).mod j = s.mod j := rfl
@[simp] theorem modWork_pending (s : State) (r pos : Nat) (f : Work → Work) : (s.modWork r pos f).pending = s.pending := rfl
@[simp] theorem modWork_clk (s : State) (r pos : Nat) (f : Work → Work) : (s.modWork r pos f).clk = s.clk := rfl
@[simp] theorem modWork_pos (s : State) (r pos : Nat) (f : Work → Work) : (s.modWork r pos f).pos = s.pos := rfl
@[simp] theorem modWork_fuses (s : State) (r pos : Nat) (f : Work → Work) : (s.modWork r pos f).fuses = s.fuses := rfl
@[simp] theorem modWork_pt (s : State) (r pos : Nat) (f : Work → Work) : (s.modWork r pos f).pt = s.pt := rfl
@[simp] theorem modWork_xl (s : State) (r pos : Nat) (f : Work → Work) : (s.modWork r pos f).xl = s.xl := rfl
@[simp] theorem modWork_tier (s : State) (r pos : Nat) (f : Work → Work) : (s.modWork r pos f).tier = s.tier := rfl
@[simp] theorem modWork_rk (s : State) (r pos : Nat) (f : Work → Work) : (s.modWork r pos f).rk = s.rk := rfl
@[simp] theorem modWork_ch (s : State) (r pos : Nat) (f : Work → Work) : (s.modWork r pos f).ch = s.ch := rfl
@[simp] theorem modWork_ec (s : State) (r pos : Nat) (f : Work → Work) : (s.modWork r pos f).ec = s.ec := rfl
@[simp] theorem modWork_units (s : State) (r pos : Nat) (f : Work → Work) : (s.modWork r pos f).units = s.units := rfl
@[simp] theorem modWork_links (s : State) (r pos : Nat) (f : Work → Work) : (s.modWork r pos f).links = s.links := rfl
@[simp] theorem modWork_tally (s : State) (r pos : Nat) (f : Work → Work) : (s.modWork r pos f).tally = s.tally := rfl
@[simp] theorem modWork_mc (s : State) (r pos : Nat) (f : Work → Work) : (s.modWork r pos f).mc = s.mc := rfl
@[simp] theorem modWork_px (s : State) (r pos : Nat) (f : Work → Work) : (s.modWork r pos f).px = s.px := rfl
@[simp] theorem modWork_reqs (s : State) (r pos : Nat) (f : Work → Work) : (s.modWork r pos f).reqs = s.reqs := rfl
@[simp] theorem modWork_nextReq (s : State) (r pos : Nat) (f : Work → Work) : (s.modWork r pos f).nextReq = s.nextReq := rfl
@[simp] theorem modWork_free (s : State) (r pos : Nat) (f : Work → Work) : (s.modWork r pos f).free = s.free := rfl
@[simp] theorem modWork_outbox (s : State) (r pos : Nat) (f : Work → Work) : (s.modWork r pos f).outbox = s.outbox := rfl

@[simp] theorem send_reqs (s : State) (q : Req) : (s.send q).reqs = s.reqs ++ [{ q with id := s.nextReq, start := s.clk.fab }] := rfl
@[simp] theorem send_nextReq (s : State) (q : Req) : (s.send q).nextReq = s.nextReq + 1 := rfl

end Sys2Proof.Machine
end

