-- ==== Sys2Proof/Laws/Ring.lean ====
section
/-! SUPPORT. Rings: what judging, fetching and finishing leave of a ring's context, and lookups of descriptors and requests. -/

namespace Sys2Proof.Machine

/-- The part of a ring context that only doorbells and the operator's commands change. -/
def Ring.front (g : Ring) : Ring :=
  { g with st := 0, c := 0, refetch := 0, fetched := [], stale := false, exhausted := false, backoff := none, again := false
           fetchErr := none, works := [] }

/-- The part of a queue cell's registers that judging and finishing leave alone. -/
def Cell.front (c : Cell) : Cell :=
  { c with dbStale := 0, errMalformed := 0, errBus := 0, errPoison := 0, fenceGlobal := 0, fenceRing := 0, cvtSat := 0, cvtNan := 0 }

/-- What judging, fetching and finishing leave of the queue cells' state. -/
structure Fronts where
  rings : Nat → Ring
  cells : Nat → Cell
  park : Tab ParkSlot
  fq : Tab FaultQueue
  cqs : Tab CompRing
  areas : Tab CounterArea

/-- What judging, fetching and finishing leave of the queue cells' state. -/
def State.fronts (s : State) : Fronts :=
  ⟨fun r => (s.ring r).front, fun c => (s.cell c).front, s.qc.park, s.qc.fq, s.qc.cqs, s.qc.areas⟩

theorem fronts_of_qc {s t : State} (h : s.hide (allBut .qc) = t.hide (allBut .qc)) : s.fronts = t.fronts := by
  unfold State.fronts State.ring State.cell
  rw [qc_eq h]

theorem modRing_fronts {s : State} {r : Nat} {f : Ring → Ring} (h : (f (s.ring r)).front = (s.ring r).front) :
    (s.modRing r f).fronts = s.fronts := by
  unfold State.fronts
  congr 1
  funext j
  rw [modRing_ring]
  split
  · subst_vars; exact h
  · rfl

theorem modCell_fronts {s : State} {c : Nat} {f : Cell → Cell} (h : (f (s.cell c)).front = (s.cell c).front) :
    (s.modCell c f).fronts = s.fronts := by
  unfold State.fronts
  congr 1
  funext j
  rw [modCell_cell]
  split
  · subst_vars; exact h
  · rfl

@[simp] theorem report_fronts (s : State) (e : ErrorEv) : (s.report e).fronts = s.fronts := rfl

@[simp] theorem settleRing_fronts (s : State) (r : Nat) : (s.settleRing r).fronts = s.fronts := by
  unfold State.settleRing
  refine modRing_fronts ?_
  split <;> rfl

@[simp] theorem modWork_fronts (s : State) (r pos : Nat) (f : Work → Work) : (s.modWork r pos f).fronts = s.fronts := modRing_fronts rfl

@[simp] theorem discardFetches_fronts (s : State) (r : Nat) (f : Nat → Bool) : (s.discardFetches r f).fronts = s.fronts := modRing_fronts rfl

@[simp] theorem fetchFailed_fronts (s : State) (p r x : Nat) : (s.fetchFailed p r x).fronts = s.fronts := by
  unfold State.fetchFailed
  dsimp only
  rw [settleRing_fronts, report_fronts, modRing_fronts (by rfl), discardFetches_fronts]

@[simp] theorem physRead_fronts (s : State) (p unit pa len : Nat) (pu : Purpose) : (s.physRead p unit pa len pu).2.fronts = s.fronts :=
  fronts_of_qc (by simp)

@[simp] theorem physWrite_fronts (s : State) (p unit pa : Nat) (d : Bytes) (pu : Purpose) (b : Bool) :
    (s.physWrite p unit pa d pu b).2.fronts = s.fronts := fronts_of_qc (by simp)

@[simp] theorem issueFetch_fronts (s : State) (p r x : Nat) : (s.issueFetch p r x).fronts = s.fronts := by
  unfold State.issueFetch
  dsimp only
  split <;> simp

@[simp] theorem staleHead_fronts (s : State) (p r t : Nat) : (s.staleHead p r t).fronts = s.fronts := by
  unfold State.staleHead
  dsimp only
  split
  · rw [modRing_fronts (by rfl), modRing_fronts (by rfl), discardFetches_fronts]
  split
  · rw [modRing_fronts (by rfl), discardFetches_fronts]
  split
  · rw [fronts_of_qc (State.fabEvent_hide (by simp) _ _ _ _ _), modCell_fronts (by rfl), modRing_fronts (by rfl), modRing_fronts (by rfl), discardFetches_fronts]
  · rw [modRing_fronts (by rfl), modRing_fronts (by rfl), discardFetches_fronts]

@[simp] theorem consumeHead_fronts (s : State) (r : Nat) (b : Bytes) : (s.consumeHead r b).fronts = s.fronts := modRing_fronts rfl

@[simp] theorem judgeHead_fronts (p r : Nat) : ∀ (n : Nat) (s : State), (s.judgeHead p r n).fronts = s.fronts
  | 0, _ => rfl
  | n + 1, s => by
    unfold State.judgeHead
    dsimp only
    split
    · rfl
    split
    · simp
    split
    · exact modRing_fronts rfl
    · rw [judgeHead_fronts p r n, consumeHead_fronts, modRing_fronts (by rfl)]

@[simp] theorem judgeRing_fronts (s : State) (p r : Nat) : (s.judgeRing p r).fronts = s.fronts := by
  simp [State.judgeRing]

@[simp] theorem beginWork_fronts (s : State) (p r : Nat) (w : Work) : (s.beginWork p r w).fronts = s.fronts := by
  unfold State.beginWork
  dsimp only
  split <;> simp

@[simp] theorem startWork_fronts (s : State) (r : Nat) : (s.startWork r).fronts = s.fronts := by
  unfold State.startWork
  split
  · rfl
  split
  · rfl
  dsimp only
  split <;> simp

@[simp] theorem popWork_fronts (s : State) (r pos : Nat) : (s.popWork r pos).fronts = s.fronts := by
  unfold State.popWork
  rw [settleRing_fronts, modRing_fronts (by rfl)]

@[simp] theorem dropFinish_fronts (s : State) (p r : Nat) : (s.dropFinish p r).fronts = s.fronts := rfl

@[simp] theorem countOutcome_fronts (s : State) (p r : Nat) (w : Work) : (s.countOutcome p r w).fronts = s.fronts := by
  have hc : (s.modCell (cellOfRing r) fun c =>
    if w.status.1 = 1 then { c with errMalformed := satAdd 16 c.errMalformed 1 }
    else if w.status.1 = 8 then { c with errBus := satAdd 16 c.errBus 1 }
    else if w.status.1 = 9 then { c with errPoison := satAdd 16 c.errPoison 1 }
    else c).fronts = s.fronts := modCell_fronts (by (repeat' split) <;> rfl)
  unfold State.countOutcome
  dsimp only
  split <;> split <;> exact hc

@[simp] theorem writeCounter_fronts (s : State) (p r pos g : Nat) : (s.writeCounter p r pos g).2.fronts = s.fronts := by
  unfold State.writeCounter
  split
  · rfl
  · dsimp only
    split <;> simp

@[simp] theorem advanceHead_fronts (s : State) (p r : Nat) (w : Work) : (s.advanceHead p r w).fronts = s.fronts := by
  unfold State.advanceHead
  dsimp only
  split
  · rfl
  split
  · split
    · rfl
    · rw [modCell_fronts (by rfl), modWork_fronts]
  split <;> simp

@[simp] theorem advance_fronts (p r : Nat) : ∀ (n : Nat) (s : State), (s.advance p r n).fronts = s.fronts
  | 0, _ => rfl
  | n + 1, s => by
    unfold State.advance
    split
    · rfl
    split
    · split
      · split
        · rfl
        · rw [advance_fronts p r n]; simp
      · dsimp only
        split
        · split
          · rw [advance_fronts p r n]; split <;> simp
          · split <;> simp
        · split <;> simp
    · split <;> simp
    · rfl

theorem each_fronts {α : Type} (f : State → α → State) (h : ∀ s x, (f s x).fronts = s.fronts) (l : List α) (s : State) :
    (s.each l f).fronts = s.fronts := by
  unfold State.each
  induction l generalizing s with
  | nil => rfl
  | cons a l ih => rw [List.foldl_cons, ih, h]

@[simp] theorem advanceAll_fronts (s : State) (p : Nat) : (s.advanceAll p).fronts = s.fronts := each_fronts _ (by simp) _ _

@[simp] theorem advanceOwner_fronts (s : State) (r : Nat) : (s.advanceOwner r).fronts = s.fronts := by
  unfold State.advanceOwner
  split <;> simp

theorem afterDoorbell_fronts (s : State) (p r : Nat) : (s.afterDoorbell p r).fronts = s.fronts := by
  unfold State.afterDoorbell
  dsimp only
  rw [judgeRing_fronts]
  split
  · exact modRing_fronts rfl
  · rfl

/-! ## Facts from equal fronts -/

theorem front_eq {s t : State} (h : s.fronts = t.fronts) (r : Nat) : (s.ring r).front = (t.ring r).front := congrFun (congrArg Fronts.rings h) r
theorem p_eq {s t : State} (h : s.fronts = t.fronts) (r : Nat) : (s.ring r).p = (t.ring r).p := by
  have := congrArg Ring.p (front_eq h r); exact this
theorem staged_eq {s t : State} (h : s.fronts = t.fronts) (r : Nat) : (s.ring r).staged = (t.ring r).staged := by
  have := congrArg Ring.staged (front_eq h r); exact this
theorem cellFront_eq {s t : State} (h : s.fronts = t.fronts) (c : Nat) : (s.cell c).front = (t.cell c).front := congrFun (congrArg Fronts.cells h) c
theorem accepted_eq {s t : State} (h : s.fronts = t.fronts) (c : Nat) : (s.cell c).dbAccepted = (t.cell c).dbAccepted := by
  have := congrArg Cell.dbAccepted (cellFront_eq h c); exact this
theorem xferBytes_eq {s t : State} (h : s.fronts = t.fronts) (c : Nat) : (s.cell c).xferBytes = (t.cell c).xferBytes := by
  have := congrArg Cell.xferBytes (cellFront_eq h c); exact this
theorem errTimeout_eq {s t : State} (h : s.fronts = t.fronts) (c : Nat) : (s.cell c).errTimeout = (t.cell c).errTimeout := by
  have := congrArg Cell.errTimeout (cellFront_eq h c); exact this
theorem slot_eq {s t : State} (h : s.fronts = t.fronts) (k : Nat) : s.slot k = t.slot k := by
  unfold State.slot; rw [show s.qc.park = t.qc.park from congrArg Fronts.park h]
theorem fq_eq {s t : State} (h : s.fronts = t.fronts) (k : Nat) : s.fq k = t.fq k := by
  unfold State.fq; rw [show s.qc.fq = t.qc.fq from congrArg Fronts.fq h]
theorem cq_eq {s t : State} (h : s.fronts = t.fronts) (k : Nat) : s.cq k = t.cq k := by
  unfold State.cq; rw [show s.qc.cqs = t.qc.cqs from congrArg Fronts.cqs h]

/-! ## Fault responses -/

theorem endParkedRing_fronts (s : State) (r status : Nat) :
    (s.endParkedRing r status).fronts = if (s.ringOwner r).isSome then (s.freeSlot r).fronts else s.fronts := by
  unfold State.endParkedRing
  split
  · simp [*]
  · dsimp only
    rw [advanceAll_fronts, settleRing_fronts, modRing_fronts (by rfl)]
    simp [*]

theorem resumeRing_fronts (s : State) (r : Nat) : (s.resumeRing r).fronts = (s.freeSlot r).fronts := by
  unfold State.resumeRing
  dsimp only
  rw [settleRing_fronts, modRing_fronts (by rfl)]

theorem endParkedJob_fronts (s : State) (p status : Nat) : (s.endParkedJob p status).fronts = (s.freeSlot (16384 + p)).fronts := by
  unfold State.endParkedJob
  dsimp only
  split
  · rfl
  · exact fronts_of_qc (by simp)

theorem resumeJob_fronts (s : State) (p : Nat) : (s.resumeJob p).fronts = (s.freeSlot (16384 + p)).fronts := by
  unfold State.resumeJob
  dsimp only
  split
  · rfl
  · exact fronts_of_qc (by simp)

theorem freeSlot_slot (s : State) (k j : Nat) : (s.freeSlot k).slot j = if j = k then { gen := (s.slot k).gen, expired := (s.slot k).expired } else s.slot j := by
  simp [State.freeSlot]

@[simp] theorem freeSlot_fq (s : State) (k p : Nat) : (s.freeSlot k).fq p = s.fq p := rfl

theorem endParked_fq (s : State) (k status p : Nat) : (s.endParked k status).fq p = s.fq p := by
  unfold State.endParked
  split
  · have h := endParkedRing_fronts s k status
    split at h <;> (rw [fq_eq h]; try rfl)
  · rw [fq_eq (endParkedJob_fronts _ _ _)]; rfl

/-- A slot whose occupant ended is free; the others stay. -/
theorem endParked_slot (s : State) (k status j : Nat) (h : k < 16384 → (s.ringOwner k).isSome) (hk : k < 16400) :
    (s.endParked k status).slot j = if j = k then { gen := (s.slot k).gen, expired := (s.slot k).expired } else s.slot j := by
  unfold State.endParked
  split
  · rename_i h1
    have h2 := endParkedRing_fronts s k status
    rw [if_pos (h h1)] at h2
    rw [slot_eq h2, freeSlot_slot]
  · rw [slot_eq (endParkedJob_fronts _ _ _), freeSlot_slot, show 16384 + (k - 16384) = k by omega]

theorem resumeParked_slot (s : State) (k j : Nat) (hk : k < 16400) :
    (s.resumeParked k).slot j = if j = k then { gen := (s.slot k).gen, expired := (s.slot k).expired } else s.slot j := by
  unfold State.resumeParked
  split
  · rw [slot_eq (resumeRing_fronts _ _), freeSlot_slot]
  · rw [slot_eq (resumeJob_fronts _ _), freeSlot_slot, show 16384 + (k - 16384) = k by omega]

theorem resumeParked_fq (s : State) (k p : Nat) : (s.resumeParked k).fq p = s.fq p := by
  unfold State.resumeParked
  split
  · rw [fq_eq (resumeRing_fronts _ _)]; rfl
  · rw [fq_eq (resumeJob_fronts _ _)]; rfl

/-- Ending an occupant never fills a slot. -/
theorem endParked_free (s : State) (k status j : Nat) (h : (s.slot j).valid = false) : ((s.endParked k status).slot j).valid = false := by
  have hf : ∀ m, ((s.freeSlot m).slot j).valid = false := fun m => by rw [freeSlot_slot]; split <;> simp [*]
  unfold State.endParked
  split
  · have h2 := endParkedRing_fronts s k status
    split at h2 <;> rw [slot_eq h2] <;> simp [*]
  · rw [slot_eq (endParkedJob_fronts _ _ _)]; exact hf _

theorem issueRecord_slot (s : State) (p k j : Nat) : (((s.issueRecord p k).2).slot j).valid = (s.slot j).valid := by
  unfold State.issueRecord
  dsimp only
  have h : ∀ x y z w v, (s.physWrite p 66 x y z w).2.slot v = s.slot v := fun _ _ _ _ v => slot_eq (physWrite_fronts ..) v
  rw [modSlot_slot, modFq_slot_of]
  split
  · subst_vars; simp [h]
  · simp [h]

theorem slotOfId_lt (p : Fin 16) (id k : Nat) (h : slotOfId p id = some k) : k < 16400 := by
  have h10 := p.isLt
  unfold slotOfId at h
  split at h
  · have h2 : bits id 8 8 < 256 := Nat.mod_lt _ (by decide)
    simp only [Option.some.injEq] at h
    omega
  · split at h
    · simp only [Option.some.injEq] at h; omega
    · simp at h

theorem issueRecord_cons (s : State) (p k j : Nat) : (((s.issueRecord p k).2).fq j).cons = (s.fq j).cons := by
  unfold State.issueRecord
  dsimp only
  have h : ∀ x y z w v, (s.physWrite p 66 x y z w).2.fq v = s.fq v := fun _ _ _ _ v => fq_eq (physWrite_fronts ..) v
  rw [modSlot_fq_of, modFq_fq]
  split
  · subst_vars; simp [h]
  · simp [h]

/-- Writing held records leaves every consumer count, and fills no slot. -/
theorem writeHeld_keeps (p : Nat) : ∀ (n : Nat) (s : State) (j : Nat), ((s.writeHeld p n).fq j).cons = (s.fq j).cons ∧
    ((s.slot j).valid = false → ((s.writeHeld p n).slot j).valid = false)
  | 0, _, _ => ⟨rfl, id⟩
  | n + 1, s, j => by
    unfold State.writeHeld
    split
    · exact ⟨rfl, id⟩
    split
    · exact ⟨rfl, id⟩
    · rename_i k _
      dsimp only
      obtain ⟨h1, h2⟩ := writeHeld_keeps p n (if (s.issueRecord p k).1 = true then (s.issueRecord p k).2
        else State.endParked ((s.issueRecord p k).2.reportRecord p) k 5) j
      refine ⟨h1.trans ?_, fun h => h2 ?_⟩
      · split
        · exact issueRecord_cons s p k j
        · rw [endParked_fq]; exact issueRecord_cons s p k j
      · have h3 : ((s.issueRecord p k).2.slot j).valid = false := by rw [issueRecord_slot]; exact h
        split
        · exact h3
        · exact endParked_free _ _ _ _ h3

/-! ## Lookups -/

theorem work_modWork (s : State) (r pos : Nat) (f : Work → Work) (hf : ∀ w, (f w).pos = w.pos) :
    (s.modWork r pos f).work r pos = (s.work r pos).map f := by
  unfold State.modWork State.work
  rw [modRing_ring, if_pos rfl]
  induction (s.ring r).works with
  | nil => rfl
  | cons w l ih =>
    rw [List.map_cons, List.find?_cons, List.find?_cons]
    by_cases h : w.pos = pos
    · simp [h, hf]
    · have hb : (w.pos == pos) = false := by simpa using h
      rw [if_neg h, hb]
      exact ih

theorem work_head {s : State} {r : Nat} {w : Work} {l : List Work} (h : (s.ring r).works = w :: l) : s.work r w.pos = some w := by
  simp [State.work, h]

theorem work_of_qc {s t : State} (h : s.hide (allBut .qc) = t.hide (allBut .qc)) (r pos : Nat) : s.work r pos = t.work r pos := by
  unfold State.work State.ring
  rw [qc_eq h]

theorem ring_of_qc {s t : State} (h : s.hide (allBut .qc) = t.hide (allBut .qc)) (r : Nat) : s.ring r = t.ring r := by
  unfold State.ring
  rw [qc_eq h]

theorem cell_of_qc {s t : State} (h : s.hide (allBut .qc) = t.hide (allBut .qc)) (c : Nat) : s.cell c = t.cell c := by
  unfold State.cell
  rw [qc_eq h]

theorem cq_of_qc {s t : State} (h : s.hide (allBut .qc) = t.hide (allBut .qc)) (k : Nat) : s.cq k = t.cq k := by
  unfold State.cq
  rw [qc_eq h]

theorem part_of_pt {s t : State} (h : s.hide (allBut .pt) = t.hide (allBut .pt)) (p : Nat) : s.part p = t.part p := by
  unfold State.part
  rw [pt_eq h]

end Sys2Proof.Machine
end

