-- ==== Sys2Proof/Laws/Reqs.lean ====
section
/-! SUPPORT. Requests only join the outstanding list, under fresh numbers, wherever a unit issues; so what an operation sent stays sent, and
a number that has ended does not come back. -/

namespace Sys2Proof.Machine

/-- Every request outstanding in `s` is so in `t`, and what `t` adds carries numbers that `s` had not used. -/
structure Grows (s t : State) : Prop where
  keeps : ∀ q ∈ s.reqs, q ∈ t.reqs
  fresh : ∀ q ∈ t.reqs, q ∈ s.reqs ∨ s.nextReq ≤ q.id
  next : s.nextReq ≤ t.nextReq

theorem Grows.refl (s : State) : Grows s s := ⟨fun _ h => h, fun _ h => .inl h, Nat.le_refl _⟩

theorem Grows.trans {s t u : State} (h : Grows s t) (h' : Grows t u) : Grows s u :=
  ⟨fun q hq => h'.keeps q (h.keeps q hq),
    fun q hq => (h'.fresh q hq).elim (fun h1 => h.fresh q h1) fun h1 => .inr (Nat.le_trans h.next h1), Nat.le_trans h.next h'.next⟩

theorem Grows.of_eq {s t : State} (h : t.reqs = s.reqs) (h' : t.nextReq = s.nextReq) : Grows s t :=
  ⟨fun _ hq => h ▸ hq, fun _ hq => .inl (h ▸ hq), Nat.le_of_eq h'.symm⟩

/-- What leaves the requests and their numbers alone. -/
theorem Grows.of_hide {s t : State} (h : t.hide ((allBut .reqs).filter fun d => d ≠ Comp.nextReq) = s.hide ((allBut .reqs).filter fun d => d ≠ Comp.nextReq)) :
    Grows s t := by
  refine .of_eq ?_ ?_
  · have := congrArg State.reqs h
    simpa [State.hide, mem_allBut] using this
  · have := congrArg State.nextReq h
    simpa [State.hide, mem_allBut] using this

theorem Grows.send (s : State) (q : Req) : Grows s (s.send q) := by
  refine ⟨?_, ?_, ?_⟩
  · intro x hx; simp [hx]
  · intro x hx
    simp only [send_reqs, List.mem_append, List.mem_singleton] at hx
    rcases hx with h | h
    · exact .inl h
    · subst h; exact .inr (Nat.le_refl _)
  · simp

theorem Grows.each {α : Type} {f : State → α → State} (h : ∀ s x, Grows s (f s x)) (l : List α) (s : State) : Grows s (s.each l f) := by
  unfold State.each
  induction l generalizing s with
  | nil => exact .refl s
  | cons a l ih => exact (h s a).trans (ih (f s a))

/-- A number that has ended stays out. -/
theorem Grows.gone {s t : State} (h : Grows s t) {id : Nat} (hid : id < s.nextReq) (hn : ∀ q ∈ s.reqs, q.id ≠ id) : ∀ q ∈ t.reqs, q.id ≠ id := by
  intro q hq
  rcases h.fresh q hq with h1 | h1
  · exact hn q h1
  · omega

theorem req_none {s : State} {id : Nat} (h : ∀ q ∈ s.reqs, q.id ≠ id) : s.req id = none := by
  simpa [State.req] using h

@[simp] theorem keyTake_reqs (s : State) (k : Option (Nat × Nat)) : (s.keyTake k).reqs = s.reqs := by cases k <;> rfl
@[simp] theorem keyTake_nextReq (s : State) (k : Option (Nat × Nat)) : (s.keyTake k).nextReq = s.nextReq := by cases k <;> rfl
@[simp] theorem keyGive_reqs (s : State) (k : Option (Nat × Nat)) : (s.keyGive k).reqs = s.reqs := by cases k <;> rfl
@[simp] theorem keyGive_nextReq (s : State) (k : Option (Nat × Nat)) : (s.keyGive k).nextReq = s.nextReq := by cases k <;> rfl
@[simp] theorem drainSpan_reqs (s : State) (x : Nat × Nat × Nat) : (s.drainSpan x).reqs = s.reqs := by unfold State.drainSpan; split <;> rfl
@[simp] theorem drainSpan_nextReq (s : State) (x : Nat × Nat × Nat) : (s.drainSpan x).nextReq = s.nextReq := by unfold State.drainSpan; split <;> rfl

/-- A finished request has left the list. -/
theorem finishReq_reqs (s : State) (q : Req) : (s.finishReq q).reqs = s.reqs.filter fun r => r.id != q.id := by
  unfold State.finishReq
  dsimp only
  split <;> simp [State.dropReq]

@[simp] theorem finishReq_nextReq (s : State) (q : Req) : (s.finishReq q).nextReq = s.nextReq := by
  unfold State.finishReq
  dsimp only
  split <;> simp

theorem finishReq_gone (s : State) (q : Req) : ∀ r ∈ (s.finishReq q).reqs, r.id ≠ q.id := by
  intro r hr
  rw [finishReq_reqs] at hr
  simpa using (List.mem_filter.mp hr).2

theorem Grows.sendHost (s : State) (q : Req) : Grows s (s.sendHost q) := by
  unfold State.sendHost
  exact (Grows.of_hide (by simp [mem_allBut])).trans (.send _ q)

theorem Grows.keyTake (s : State) (k : Option (Nat × Nat)) : Grows s (s.keyTake k) := .of_eq (by simp) (by simp)

theorem Grows.pushEntry (s : State) (n : Nat) (e : WcEntry) : Grows s (s.pushEntry n e) := by
  unfold State.pushEntry
  refine Grows.trans ?_ (.sendHost _ _)
  refine Grows.trans ?_ (.keyTake _ _)
  exact .of_hide (by simp [mem_allBut])

theorem Grows.flushEntry (s : State) (k : Nat) : Grows s (s.flushEntry k) := by
  unfold State.flushEntry
  dsimp only
  split
  · exact .refl s
  split
  · refine Grows.trans ?_ (.sendHost _ _)
    refine Grows.trans ?_ (.keyTake _ _)
    exact .of_eq rfl rfl
  · refine Grows.trans ?_ (.pushEntry _ _ _)
    exact .of_eq rfl rfl

theorem Grows.flushAll (s : State) (l : List Nat) : Grows s (s.flushAll l) := .each (fun s k => .flushEntry s k) l s
theorem Grows.flushLine (s : State) (p pa : Nat) : Grows s (s.flushLine p pa) := .flushAll _ _
theorem Grows.flushOf (s : State) (p : Nat) (f : Purpose → Bool) : Grows s (s.flushOf p f) := .flushAll _ _
theorem Grows.flushWork (s : State) (p r pos : Nat) : Grows s (s.flushWork p r pos) := .flushOf _ _ _
theorem Grows.removeLine (s : State) (pa : Nat) : Grows s (s.removeLine pa) := .of_eq rfl rfl

theorem Grows.mergeWc (s : State) (k id : Nat) (r : Req) : Grows s (s.mergeWc k id r) := by
  unfold State.mergeWc
  extract_lets e base e1 t1 s1
  have h : Grows s s1 := .of_eq rfl rfl
  split
  · exact h.trans (.flushEntry _ _)
  · exact h

theorem Grows.combine (s : State) (r : Req) : Grows s (s.combine r) := by
  unfold State.combine
  extract_lets id s1 l
  have h : Grows s s1 := (Grows.keyTake s r.key).trans (.send _ _)
  refine h.trans ?_
  split
  · exact .mergeWc _ _ _ _
  · refine (Grows.flushLine s1 r.part r.pa).trans ?_
    split
    · exact .mergeWc _ _ _ _
    · exact (Grows.flushEntry _ _).trans (.mergeWc _ _ _ _)

theorem Grows.bulkWrite (s : State) (r : Req) : Grows s (s.bulkWrite r) := by
  unfold State.bulkWrite
  split
  · exact (((Grows.flushLine _ _ _).trans (.removeLine _ _)).trans (.keyTake _ _)).trans (.sendHost _ _)
  · exact .combine s r

theorem Grows.narrowWrite (s : State) (r : Req) : Grows s (s.narrowWrite r) := by
  unfold State.narrowWrite
  extract_lets s1 id s2
  have h : Grows s s2 := ((Grows.flushLine _ _ _).trans (.removeLine _ _)).trans ((Grows.keyTake _ _).trans (.sendHost _ _))
  refine h.trans ?_
  split
  · exact (Grows.keyTake _ _).trans (.sendHost _ _)
  · exact .refl _

theorem Grows.narrowRead (s : State) (r : Req) : Grows s (s.narrowRead r) := (Grows.keyTake _ _).trans (.sendHost _ _)

theorem Grows.bulkRead (s : State) (r : Req) (hint : Nat) : Grows s (s.bulkRead r hint) := by
  unfold State.bulkRead
  dsimp only
  split
  · refine Grows.trans ?_ (.send _ _)
    exact .of_hide (by simp [mem_allBut])
  · refine Grows.trans ?_ (t := (s.tierPerf r.part fun t => { t with misses := State.bulkRead.inc t.misses }).send { r with path := .bulk, key := none }) ?_
    · refine Grows.trans ?_ (.send _ _)
      exact .of_hide (by simp [mem_allBut])
    · split
      · exact .of_eq rfl rfl
      · refine Grows.trans ?_ (.sendHost _ _)
        refine Grows.trans ?_ (.keyTake _ _)
        exact .of_eq rfl rfl

theorem Grows.physWrite (s : State) (p unit pa : Nat) (d : Bytes) (pu : Purpose) (b : Bool) : Grows s (s.physWrite p unit pa d pu b).2 := by
  unfold State.physWrite
  dsimp only
  split <;> dsimp only
  · exact .narrowWrite _ _
  · refine Grows.trans ?_ (.send _ _)
    exact .of_hide (by simp [mem_allBut])
  · exact .of_eq rfl rfl
  · exact .of_eq rfl rfl

theorem Grows.physRead (s : State) (p unit pa len : Nat) (pu : Purpose) : Grows s (s.physRead p unit pa len pu).2 := by
  unfold State.physRead
  split <;> dsimp only
  · exact .narrowRead _ _
  all_goals exact .of_eq rfl rfl

theorem Grows.modWork (s : State) (r pos : Nat) (f : Work → Work) : Grows s (s.modWork r pos f) := .of_eq rfl rfl

theorem Grows.dropFinish (s : State) (p r : Nat) : Grows s (s.dropFinish p r) := .of_eq rfl rfl

theorem Grows.countOutcome (s : State) (p r : Nat) (w : Work) : Grows s (s.countOutcome p r w) := by
  unfold State.countOutcome
  dsimp only
  split <;> split <;> exact .of_eq rfl rfl

theorem Grows.writeCounter (s : State) (p r pos g : Nat) : Grows s (s.writeCounter p r pos g).2 := by
  unfold State.writeCounter
  split
  · exact .refl s
  · dsimp only
    split
    · exact (Grows.physWrite ..).trans (.modWork ..)
    · exact ((Grows.physWrite ..).trans (.modWork ..)).trans (.dropFinish ..)

theorem Grows.growCounter (s : State) (p r pos : Nat) : Grows s (s.growCounter p r pos) := by
  unfold State.growCounter
  split
  · exact .refl s
  · dsimp only
    split
    · exact .writeCounter ..
    · exact .refl s

theorem Grows.advanceHead (s : State) (p r : Nat) (w : Work) : Grows s (s.advanceHead p r w) := by
  unfold State.advanceHead
  dsimp only
  split
  · exact .refl s
  split
  · split
    · exact .refl s
    · exact .of_eq rfl rfl
  split
  · exact ((Grows.countOutcome ..).trans (.writeCounter ..)).trans (.modWork ..)
  · exact (Grows.countOutcome ..).trans (.modWork ..)

theorem Grows.settleRing (s : State) (r : Nat) : Grows s (s.settleRing r) := .of_eq rfl rfl
theorem Grows.popWork (s : State) (r pos : Nat) : Grows s (s.popWork r pos) := .of_eq rfl rfl

theorem Grows.advance (p r : Nat) : ∀ (n : Nat) (s : State), Grows s (s.advance p r n)
  | 0, s => .refl s
  | n + 1, s => by
    unfold State.advance
    split
    · exact .refl s
    split
    · split
      · split
        · exact .refl s
        · exact (Grows.popWork ..).trans (advance p r n _)
      · extract_lets s1
        have h1 : Grows s s1 := by
          show Grows s (ite _ _ _)
          split
          · exact .modWork ..
          · exact .advanceHead ..
        refine h1.trans ?_
        split
        · split
          · exact advance p r n s1
          · exact .refl s1
        · exact .refl s1
    · split
      · exact .refl s
      · exact .modWork ..
    · exact .refl s

theorem Grows.advanceAll (s : State) (p : Nat) : Grows s (s.advanceAll p) := .each (fun s r => .advance p r 4 s) _ s
theorem Grows.advanceOwner (s : State) (r : Nat) : Grows s (s.advanceOwner r) := by
  unfold State.advanceOwner
  split
  · exact .advanceAll ..
  · exact .refl s

theorem Grows.settleWork (s : State) (p r pos : Nat) : Grows s (s.settleWork p r pos) := by
  unfold State.settleWork
  split
  · exact .refl s
  split
  · exact .refl s
  · extract_lets readsOut done
    split
    · exact (Grows.modWork ..).trans (.flushWork ..)
    · exact .modWork ..

theorem Grows.dropReadMisses (s : State) (r : Nat) : Grows s (s.dropReadMisses r) := .of_eq rfl rfl

theorem Grows.markBad (s : State) (p r pos : Nat) (e : BadEv) : Grows s (s.markBad p r pos e) :=
  ((Grows.modWork ..).trans (.dropReadMisses ..)).trans (.flushWork ..)

theorem Grows.markFault (s : State) (p r pos : Nat) (e : FaultEv) : Grows s (s.markFault p r pos e) := by
  unfold State.markFault
  split
  · exact ((Grows.modWork ..).trans (.dropReadMisses ..)).trans (.flushWork ..)
  · exact .markBad ..

theorem Grows.onVerdict (s : State) (p r pos off : Nat) (d : Bool) (a : Access) (v : Verdict) : Grows s (s.onVerdict p r pos off d a v) := by
  unfold State.onVerdict
  split
  · exact .markBad ..
  · exact .markFault ..
  · exact .refl s

/-! ## What was sent -/

theorem Grows.sent {s t : State} (h : Grows s t) {pu : Purpose} {k : ReqKind} {pa len : Nat} {d : Bytes} (hs : Sent s pu k pa len d) :
    Sent t pu k pa len d := by
  obtain ⟨q, hq, hr⟩ := hs
  exact ⟨q, h.keeps q hq, hr⟩

theorem send_sent (s : State) (q : Req) : Sent (s.send q) q.purpose q.kind q.pa q.len q.data :=
  ⟨_, List.mem_append_right _ (List.mem_singleton.mpr rfl), rfl, rfl, rfl, rfl, rfl⟩

theorem narrowRead_sent (s : State) (r : Req) : Sent (s.narrowRead r) r.purpose r.kind r.pa r.len r.data := send_sent _ _

theorem narrowWrite_sent (s : State) (r : Req) : Sent (s.narrowWrite r) r.purpose r.kind r.pa r.len r.data := by
  unfold State.narrowWrite
  dsimp only
  split
  · exact ((Grows.keyTake _ _).trans (.sendHost _ _)).sent (send_sent _ _)
  · exact send_sent _ _

theorem physRead_sent {s : State} {p unit pa len pa' : Nat} {pu : Purpose} (h : s.route p pa len false false = .go .host pa') :
    (s.physRead p unit pa len pu).1 = true ∧ Sent (s.physRead p unit pa len pu).2 pu .read pa' len [] := by
  unfold State.physRead
  rw [h]
  exact ⟨rfl, narrowRead_sent _ _⟩

theorem physWrite_sent {s : State} {p unit pa pa' : Nat} {ro : Route} {d : Bytes} {pu : Purpose} {b : Bool}
    (h : s.route p pa d.length true false = .go ro pa') :
    (s.physWrite p unit pa d pu b).1 = true ∧ Sent (s.physWrite p unit pa d pu b).2 pu .write pa' d.length d := by
  unfold State.physWrite
  dsimp only
  rw [h]
  cases ro with
  | host => exact ⟨rfl, narrowWrite_sent _ _⟩
  | fabric c => exact ⟨rfl, send_sent _ _⟩
  | peer d => exact ⟨rfl, send_sent _ _⟩

/-! ## Accesses -/

theorem Grows.sendPeer (s t : State) (r : Req) (vc : Nat) (h : s.sendPeer r vc = some (some t)) : Grows s t := by
  unfold State.sendPeer at h
  split at h
  · simp at h
  split at h
  · simp at h
  split at h
  · simp at h
  · rename_i m _ _ tg s1 hf
    have h1 : Grows s s1 := by
      simp only [State.freeTag, State.choose] at hf
      split at hf
      · simp at hf
      · simp only [Option.some.injEq, Prod.mk.injEq] at hf
        obtain ⟨_, rfl⟩ := hf
        exact .of_eq rfl rfl
    rcases hk : r.kind with _ | _ | a <;> simp only [hk, Option.some.injEq] at h <;> subst h <;> refine h1.trans ?_ <;>
      refine Grows.trans ?_ (.of_hide (State.queuePacket_hide (by simp [mem_allBut]) _ _ _)) <;> refine Grows.trans ?_ (.send _ _) <;>
      exact .of_eq rfl rfl

theorem Grows.takeTokens (s : State) (p b n : Nat) : Grows s (s.takeTokens p b n) := .of_eq rfl rfl

theorem Grows.accessHost (s : State) (a : Access) (pa : Nat) (k : Option (Nat × Nat)) : Grows s (s.accessHost a pa k).2 := by
  unfold State.accessHost
  extract_lets r emptySlot b n s1
  split
  · exact .refl s
  split
  · exact .of_eq rfl rfl
  split
  · dsimp only
    split
    · exact .narrowWrite ..
    · exact .narrowRead ..
  split
  · exact .of_eq rfl rfl
  · dsimp only
    split
    · exact (Grows.takeTokens ..).trans (.bulkWrite ..)
    · exact (Grows.takeTokens ..).trans (.bulkRead ..)

theorem Grows.accessFabric (s : State) (a : Access) (pa : Nat) : Grows s (s.accessFabric a pa).2 := by
  unfold State.accessFabric
  extract_lets b n
  split
  · exact .of_eq rfl rfl
  · refine Grows.trans ?_ (.send _ _)
    exact .of_hide (by simp [mem_allBut])

theorem Grows.accessPeer (s : State) (a : Access) (pa : Nat) : Grows s (s.accessPeer a pa).2 := by
  unfold State.accessPeer
  extract_lets n
  split
  · exact .refl s
  split
  · exact .of_eq rfl rfl
  split
  · exact .refl s
  · exact .refl s
  · rename_i h
    exact (Grows.sendPeer _ _ _ _ h).trans (.takeTokens ..)

theorem Grows.accessPhys (s : State) (a : Access) (pa : Nat) (k : Option (Nat × Nat)) : Grows s (s.accessPhys a pa k).2 := by
  unfold State.accessPhys
  extract_lets isAcc misplaced
  split
  · exact .of_eq rfl rfl
  split
  · exact .of_eq rfl rfl
  · exact .of_eq rfl rfl
  · split
    · exact .refl s
    split
    · exact .accessHost ..
    · exact .accessFabric ..
    · exact .accessPeer ..

theorem Grows.fileMiss (s : State) (m : Miss) : Grows s (s.fileMiss m) := .of_hide (by simp [mem_allBut])

theorem Grows.access (s : State) (a : Access) : Grows s (s.access a).2 := by
  have ht : Grows s (s.translate a.part a.l1 a.asid a.va).2 := .of_hide (by simp [mem_allBut])
  unfold State.access
  dsimp only
  split
  · exact .accessPhys ..
  split
  · exact .refl s
  split
  · rename_i h; rw [h] at ht; exact ht
  · rename_i h; rw [h] at ht; exact ht
  · rename_i h; rw [h] at ht; exact ht.trans (.fileMiss ..)
  · rename_i h
    rw [h] at ht
    split
    · exact ht.trans (.of_eq rfl rfl)
    · exact ht
    · exact ht.trans (.of_eq rfl rfl)
    · exact ht.trans (.fileMiss ..)
    · split
      · exact ht
      · exact ht.trans (.accessPhys ..)

theorem Grows.issueDst (s : State) (p r pos o n : Nat) : Grows s (s.issueDst p r pos o n) := by
  unfold State.issueDst
  split
  · exact .refl s
  · dsimp only
    split
    · exact (Grows.access ..).trans (.of_eq rfl rfl)
    · exact ((Grows.access ..).trans (.modWork ..)).trans (.onVerdict ..)
    · exact ((Grows.access ..).trans (.modWork ..)).trans (.onVerdict ..)
    · exact .access ..

theorem Grows.feedDst (s : State) (p r pos a b : Nat) : Grows s (s.feedDst p r pos a b) := by
  unfold State.feedDst
  split
  · exact .refl s
  split
  · exact .refl s
  · refine .each (fun s x => ?_) _ s
    split
    · split
      · exact .issueDst ..
      · exact .refl s
    · exact .refl s

theorem Grows.feedRest (s : State) (p r pos : Nat) : Grows s (s.feedRest p r pos) := by
  unfold State.feedRest
  split
  · exact .refl s
  split
  · exact .each (fun s i => .feedDst ..) _ s
  · exact .refl s

theorem Grows.srcDone (s : State) (q : Req) (r pos off len status : Nat) (b : Bool) (d : Bytes) :
    Grows s (s.srcDone q r pos off len status b d) := by
  unfold State.srcDone
  split
  · exact .refl s
  · dsimp only
    refine Grows.trans ?_ ((Grows.feedRest ..).trans (.settleWork ..))
    split
    · exact (Grows.modWork ..).trans (.feedDst ..)
    · exact .markBad ..

theorem Grows.dstDone (s : State) (q : Req) (r pos off len status : Nat) (b : Bool) : Grows s (s.dstDone q r pos off len status b) := by
  unfold State.dstDone
  split
  · exact .refl s
  split
  · refine Grows.trans ?_ (.settleWork ..)
    refine Grows.trans ?_ (.growCounter ..)
    exact .of_eq rfl rfl
  · exact (Grows.markBad ..).trans (.settleWork ..)

theorem Grows.flagDone (s : State) (q : Req) (r pos status : Nat) (b : Bool) : Grows s (s.flagDone q r pos status b) := by
  unfold State.flagDone
  split
  · exact .refl s
  split
  · exact .of_eq rfl rfl
  · exact (Grows.markBad ..).trans (.settleWork ..)

theorem Grows.afterReq (s : State) (q : Req) : Grows s (s.afterReq q) := by
  unfold State.afterReq
  dsimp only
  split
  · exact (Grows.advanceAll ..).trans (.settleRing ..)
  · exact (Grows.advanceAll ..).trans (.settleRing ..)
  · exact (Grows.advanceAll ..).trans (.settleRing ..)
  · exact .advanceAll ..

/-! ## The issuing descriptor -/

/-- Position `pos` of ring r is being issued. -/
def State.Busy (s : State) (r pos : Nat) (w : Work) : Prop := s.work r pos = some w ∧ w.phase = .issuing

theorem State.Busy.of_works {s t : State} {r pos : Nat} {w : Work} (h : s.Busy r pos w) (ht : (t.ring r).works = (s.ring r).works) : t.Busy r pos w := by
  unfold State.Busy State.work at *
  rw [ht]
  exact h

end Sys2Proof.Machine
end

