-- ==== Sys2Proof/Laws/Work.lean ====
section
/-! SUPPORT. The descriptor that a ring is issuing stays as it is while other descriptors finish. -/

namespace Sys2Proof.Machine

theorem find_map_ne {l : List Work} {pos pos' : Nat} {f : Work → Work} (hf : ∀ w, (f w).pos = w.pos) (hne : pos' ≠ pos) :
    (l.map fun w => if w.pos = pos' then f w else w).find? (fun w => w.pos == pos) = l.find? fun w => w.pos == pos := by
  induction l with
  | nil => rfl
  | cons w l ih =>
    rw [List.map_cons, List.find?_cons, List.find?_cons]
    by_cases h : w.pos = pos'
    · have h2 : (w.pos == pos) = false := by simpa [h] using hne
      have h3 : ((f w).pos == pos) = false := by rw [hf]; exact h2
      rw [if_pos h, h2, h3]; exact ih
    · rw [if_neg h, ih]

theorem modWork_work_ne (s : State) (r r' pos pos' : Nat) (f : Work → Work) (hf : ∀ w, (f w).pos = w.pos) (hne : r' = r → pos' ≠ pos) :
    (s.modWork r' pos' f).work r pos = s.work r pos := by
  unfold State.modWork State.work
  rw [modRing_ring]
  split
  · rename_i h; subst h; exact find_map_ne hf (hne rfl)
  · rfl

theorem modWork_busy {s : State} {r r' pos pos' : Nat} {f : Work → Work} {w : Work} (hf : ∀ w, (f w).pos = w.pos)
    (hne : r' = r → pos' ≠ pos) (h : s.Busy r pos w) : (s.modWork r' pos' f).Busy r pos w := by
  unfold State.Busy
  rw [modWork_work_ne _ _ _ _ _ _ hf hne]
  exact h

theorem modWork_busy_self {s : State} {r pos : Nat} {f : Work → Work} {w : Work} (h : s.work r pos = some w) (hf : ∀ w, (f w).pos = w.pos)
    (hp : (f w).phase = .issuing) : (s.modWork r pos f).Busy r pos (f w) := by
  refine ⟨?_, hp⟩
  rw [work_modWork _ _ _ _ hf, h]
  rfl

theorem busy_of_qc {s t : State} {r pos : Nat} {w : Work} (h : s.hide (allBut .qc) = t.hide (allBut .qc)) (hb : t.Busy r pos w) : s.Busy r pos w := by
  unfold State.Busy
  rw [work_of_qc h]
  exact hb

theorem settleRing_busy {s : State} {r r' pos : Nat} {w : Work} (h : s.Busy r pos w) : (s.settleRing r').Busy r pos w := by
  refine h.of_works ?_
  unfold State.settleRing
  rw [modRing_ring]
  split
  · rename_i h1; subst h1; split <;> rfl
  · rfl

theorem popWork_busy {s : State} {r r' pos pos' : Nat} {w : Work} (hne : r' = r → pos' ≠ pos) (h : s.Busy r pos w) :
    (s.popWork r' pos').Busy r pos w := by
  unfold State.popWork
  refine settleRing_busy ?_
  unfold State.Busy State.work at *
  rw [modRing_ring]
  split
  · rename_i h1; subst h1
    refine ⟨?_, h.2⟩
    rw [← h.1]
    dsimp only
    induction (s.ring r).works with
    | nil => rfl
    | cons x l ih =>
      rw [List.filter_cons, List.find?_cons]
      by_cases hx : x.pos = pos'
      · have h2 : (x.pos == pos) = false := by rw [hx]; simpa using hne rfl
        rw [h2]; simp [hx]; simpa using ih
      · have h3 : (x.pos != pos') = true := by simpa using hx
        rw [h3]; simp only [if_true, List.find?_cons]
        rw [ih]
  · exact h

/-- The head of a ring's descriptors that is not being issued is not the one that is. -/
theorem head_ne {s : State} {r r' pos : Nat} {w x : Work} {l : List Work} (h : s.Busy r pos w) (hx : (s.ring r').works = x :: l)
    (hp : x.phase ≠ .issuing) : r' = r → x.pos ≠ pos := by
  intro hr he
  subst hr
  have h1 := h.1
  unfold State.work at h1
  rw [hx, List.find?_cons] at h1
  rw [he] at h1
  simp at h1
  exact hp (h1 ▸ h.2)

theorem countOutcome_busy {s : State} {p r r' pos : Nat} {w x : Work} (h : s.Busy r pos w) : (s.countOutcome p r' x).Busy r pos w := by
  refine h.of_works ?_
  unfold State.countOutcome
  dsimp only
  split <;> split <;> rfl

theorem writeCounter_busy {s : State} {p r r' pos pos' g : Nat} {w : Work} (hne : r' = r → pos' ≠ pos) (h : s.Busy r pos w) :
    (s.writeCounter p r' pos' g).2.Busy r pos w := by
  unfold State.writeCounter
  split
  · exact h
  · dsimp only
    have h1 : ∀ a b c d, (s.physWrite p a b c d true).2.Busy r pos w := fun _ _ _ _ => busy_of_qc (by simp) h
    split
    · exact modWork_busy (fun _ => rfl) hne (h1 ..)
    · refine State.Busy.of_works (s := State.modWork _ r' pos' _) ?_ rfl
      exact modWork_busy (fun _ => rfl) hne (h1 ..)

theorem advanceHead_busy {s : State} {p r r' pos : Nat} {w x : Work} (hne : r' = r → x.pos ≠ pos) (h : s.Busy r pos w) :
    (s.advanceHead p r' x).Busy r pos w := by
  unfold State.advanceHead
  extract_lets s1 gr
  have h1 : s1.Busy r pos w := countOutcome_busy h
  split
  · exact h
  split
  · split
    · exact h
    · refine State.Busy.of_works (s := s.modWork r' x.pos fun w => { w with fenceWaited := true }) ?_ rfl
      exact modWork_busy (fun _ => rfl) hne h
  split
  · exact modWork_busy (fun _ => rfl) hne (writeCounter_busy hne h1)
  · exact modWork_busy (fun _ => rfl) hne h1

theorem advance_busy {p r r' pos : Nat} {w : Work} : ∀ (n : Nat) (s : State), s.Busy r pos w → (s.advance p r' n).Busy r pos w
  | 0, _, h => h
  | n + 1, s, h => by
    unfold State.advance
    split
    · exact h
    rename_i x l hx
    split
    · rename_i hp
      have hne := head_ne h hx (by rw [hp]; simp)
      split
      · split
        · exact h
        · exact advance_busy n _ (popWork_busy hne h)
      · extract_lets s1
        have h1 : s1.Busy r pos w := by
          show State.Busy (ite _ _ _) r pos w
          split
          · exact modWork_busy (fun _ => rfl) hne h
          · exact advanceHead_busy hne h
        split
        · split
          · exact advance_busy n s1 h1
          · exact h1
        · exact h1
    · rename_i hp
      have hne := head_ne h hx (by rw [hp]; simp)
      split
      · exact h
      · exact modWork_busy (fun _ => rfl) hne h
    · exact h

theorem each_busy {α : Type} {f : State → α → State} {r pos : Nat} {w : Work} (hf : ∀ s x, State.Busy s r pos w → (f s x).Busy r pos w)
    (l : List α) : ∀ s : State, s.Busy r pos w → (s.each l f).Busy r pos w := by
  unfold State.each
  induction l with
  | nil => exact fun _ h => h
  | cons a l ih => exact fun s h => ih _ (hf s a h)

theorem advanceAll_busy {s : State} {p r pos : Nat} {w : Work} (h : s.Busy r pos w) : (s.advanceAll p).Busy r pos w :=
  each_busy (fun s _ h => advance_busy 4 s h) _ s h

theorem advanceOwner_busy {s : State} {r r' pos : Nat} {w : Work} (h : s.Busy r pos w) : (s.advanceOwner r').Busy r pos w := by
  unfold State.advanceOwner
  split
  · exact advanceAll_busy h
  · exact h

theorem staleHead_busy {s : State} {p r t pos : Nat} {w : Work} (h : s.Busy r pos w) : (s.staleHead p r t).Busy r pos w := by
  have hr : ∀ (u : State) (f : Ring → Ring), (f (u.ring r)).works = (u.ring r).works → u.Busy r pos w → (u.modRing r f).Busy r pos w := by
    intro u f hf hu
    refine hu.of_works ?_
    rw [modRing_ring, if_pos rfl, hf]
  have hd : (s.discardFetches r fun a => decide (0 < (s.ring r).dist a)).Busy r pos w := by
    unfold State.discardFetches
    refine hr _ _ rfl ?_
    exact h.of_works rfl
  unfold State.staleHead
  extract_lets g s1 s2 s3
  have h1 : s1.Busy r pos w := hr _ _ rfl hd
  have h2 : s2.Busy r pos w := hr _ _ rfl h1
  split
  · exact hr _ _ rfl h1
  split
  · exact h1
  split
  · exact busy_of_qc (State.fabEvent_hide (by simp) _ _ _ _ _) (h2.of_works rfl)
  · exact hr _ _ rfl h1

/-- Judging may consume a head behind a busy descriptor; the busy one stays. -/
theorem judgeHead_busy {p r pos : Nat} {w : Work} : ∀ (n : Nat) (s : State), s.Busy r pos w → (s.judgeHead p r n).Busy r pos w
  | 0, _, h => h
  | n + 1, s, h => by
    have hr : ∀ (u : State) (f : Ring → Ring), (f (u.ring r)).works = (u.ring r).works → u.Busy r pos w → (u.modRing r f).Busy r pos w := by
      intro u f hf hu
      refine hu.of_works ?_
      rw [modRing_ring, if_pos rfl, hf]
    unfold State.judgeHead
    extract_lets g s1
    split
    · exact h
    split
    · exact staleHead_busy h
    · have h1 : s1.Busy r pos w := hr _ _ rfl h
      split
      · exact h1
      · refine judgeHead_busy n _ ?_
        unfold State.consumeHead State.Busy State.work
        rw [modRing_ring, if_pos rfl]
        dsimp only
        rw [List.find?_append, show (s1.ring r).works.find? (fun w => w.pos == pos) = some w from h1.1]
        exact ⟨rfl, h1.2⟩

theorem judgeRing_busy {s : State} {p r pos : Nat} {w : Work} (h : s.Busy r pos w) : (s.judgeRing p r).Busy r pos w :=
  settleRing_busy (judgeHead_busy 2 s h)

end Sys2Proof.Machine
end

