-- ==== Sys2Proof/Laws/Done.lean ====
section
/-! SUPPORT. What the end of a request leaves alone: routes, owners, keys, counts of the queue cells; and that ended numbers stay out. -/

namespace Sys2Proof.Machine

/-! ## What ending a request leaves of the partition unit -/

theorem finishReq_pt (s : State) (q : Req) : (s.finishReq q).pt = (s.keyGive q.key).pt := by
  unfold State.finishReq
  dsimp only
  split
  · cases q.key <;> rfl
  · unfold State.drainSpan
    split <;> cases q.key <;> rfl

@[simp] theorem finishReq_qc (s : State) (q : Req) : (s.finishReq q).qc = s.qc := qc_eq (by simp)
@[simp] theorem finishReq_clk (s : State) (q : Req) : (s.finishReq q).clk = s.clk := by
  unfold State.finishReq
  dsimp only
  split
  · cases q.key <;> rfl
  · unfold State.drainSpan
    split <;> cases q.key <;> rfl
@[simp] theorem finishReq_pos (s : State) (q : Req) : (s.finishReq q).pos = s.pos := by
  have := (State.finishReq_fixed s q)
  exact congrArg Fixed.pos this
@[simp] theorem finishReq_units (s : State) (q : Req) : (s.finishReq q).units = s.units := units_eq (by simp)
@[simp] theorem finishReq_ring (s : State) (q : Req) (r : Nat) : (s.finishReq q).ring r = s.ring r := by simp [State.ring]
@[simp] theorem finishReq_cell (s : State) (q : Req) (r : Nat) : (s.finishReq q).cell r = s.cell r := by simp [State.cell]
@[simp] theorem finishReq_slot (s : State) (q : Req) (r : Nat) : (s.finishReq q).slot r = s.slot r := by simp [State.slot]
@[simp] theorem finishReq_fq (s : State) (q : Req) (r : Nat) : (s.finishReq q).fq r = s.fq r := by simp [State.fq]
@[simp] theorem finishReq_cq (s : State) (q : Req) (r : Nat) : (s.finishReq q).cq r = s.cq r := by simp [State.cq]
@[simp] theorem finishReq_work (s : State) (q : Req) (r pos : Nat) : (s.finishReq q).work r pos = s.work r pos := by simp [State.work]
@[simp] theorem finishReq_tier (s : State) (q : Req) : (s.finishReq q).tier = s.tier := tier_eq (by simp)
@[simp] theorem finishReq_rk (s : State) (q : Req) : (s.finishReq q).rk = s.rk := rk_eq (by simp)
@[simp] theorem finishReq_ch (s : State) (q : Req) : (s.finishReq q).ch = s.ch := ch_eq (by simp)
@[simp] theorem finishReq_ec (s : State) (q : Req) : (s.finishReq q).ec = s.ec := ec_eq (by simp)
@[simp] theorem finishReq_links (s : State) (q : Req) : (s.finishReq q).links = s.links := links_eq (by simp)
@[simp] theorem finishReq_tally (s : State) (q : Req) : (s.finishReq q).tally = s.tally := tally_eq (by simp)
@[simp] theorem finishReq_mc (s : State) (q : Req) : (s.finishReq q).mc = s.mc := mc_eq (by simp)
@[simp] theorem finishReq_px (s : State) (q : Req) : (s.finishReq q).px = s.px := px_eq (by simp)
@[simp] theorem finishReq_outbox (s : State) (q : Req) : (s.finishReq q).outbox = s.outbox := outbox_eq (by simp)
@[simp] theorem finishReq_free (s : State) (q : Req) : (s.finishReq q).free = s.free := free_eq (by simp)

/-- A partition without the in-flight counts of its key slots (R366). -/
def Part.idle (x : Part) : Part := { x with slot0 := { x.slot0 with inflight := 0 }, slot1 := { x.slot1 with inflight := 0 } }

theorem keyGive_idle (s : State) (k : Option (Nat × Nat)) (p : Nat) : ((s.keyGive k).part p).idle = (s.part p).idle := by
  rcases k with _ | ⟨a, g⟩
  · rfl
  · simp only [State.keyGive, modPart_part]
    split
    · subst_vars
      unfold Part.modSlot
      split <;> rfl
    · rfl

theorem finishReq_idle (s : State) (q : Req) (p : Nat) : ((s.finishReq q).part p).idle = (s.part p).idle := by
  rw [← keyGive_idle s q.key p]
  simp only [State.part, finishReq_pt]

@[simp] theorem finishReq_st (s : State) (q : Req) (p : Nat) : ((s.finishReq q).part p).st = (s.part p).st := by
  have := congrArg Part.st (finishReq_idle s q p); exact this
@[simp] theorem finishReq_groups (s : State) (q : Req) (p : Nat) : ((s.finishReq q).part p).groups = (s.part p).groups := by
  have := congrArg Part.groups (finishReq_idle s q p); exact this
@[simp] theorem finishReq_modules (s : State) (q : Req) (p : Nat) : ((s.finishReq q).part p).modules = (s.part p).modules := by
  have := congrArg Part.modules (finishReq_idle s q p); exact this
@[simp] theorem finishReq_tag (s : State) (q : Req) (p : Nat) : ((s.finishReq q).part p).checkTag = (s.part p).checkTag := by
  have := congrArg Part.checkTag (finishReq_idle s q p); exact this
@[simp] theorem finishReq_flr (s : State) (q : Req) (p : Nat) : ((s.finishReq q).part p).flr = (s.part p).flr := by
  have := congrArg Part.flr (finishReq_idle s q p); exact this
@[simp] theorem finishReq_rekey (s : State) (q : Req) (p : Nat) : ((s.finishReq q).part p).rekey = (s.part p).rekey := by
  have := congrArg Part.rekey (finishReq_idle s q p); exact this

@[simp] theorem finishReq_hostKey (s : State) (q : Req) (t : Nat × Nat) : (s.finishReq q).hostKey t = s.hostKey t := by
  unfold State.hostKey Part.slot
  have h0 := congrArg (fun x => x.slot0.hostKey) (finishReq_idle s q t.1)
  have h1 := congrArg (fun x => x.slot1.hostKey) (finishReq_idle s q t.1)
  split
  · exact h0
  · exact h1

@[simp] theorem finishReq_unseal (s : State) (q : Req) (k : Option (Nat × Nat)) (pa : Nat) (b : Bytes) :
    (s.finishReq q).unseal k pa b = s.unseal k pa b := by
  cases k <;> simp [State.unseal]

theorem groupOwner_congr {s t : State} (h : ∀ p, (t.part p).st = (s.part p).st ∧ (t.part p).groups = (s.part p).groups) (k : Nat) :
    t.groupOwner k = s.groupOwner k := by
  unfold State.groupOwner
  congr 1
  funext p
  rw [(h p).1, (h p).2]

@[simp] theorem finishReq_ringOwner (s : State) (q : Req) (r : Nat) : (s.finishReq q).ringOwner r = s.ringOwner r :=
  groupOwner_congr (fun p => ⟨finishReq_st s q p, finishReq_groups s q p⟩) _

@[simp] theorem finishReq_workOf (s : State) (q : Req) (r pos : Nat) : (s.finishReq q).workOf r pos = s.workOf r pos := by
  simp [State.workOf]

@[simp] theorem finishReq_headOf (s : State) (q : Req) (r : Nat) : (s.finishReq q).headOf r = s.headOf r := by
  simp [State.headOf]

/-- The route of an access rests on the fret table and the die's position alone (R29). -/
theorem route_congr {s t : State} (hr : t.pt.ranges = s.pt.ranges) (hw : t.pt.windows = s.pt.windows) (hc : t.pt.channels = s.pt.channels)
    (hm : t.pt.mapValid = s.pt.mapValid) (hz : t.pt.chSizeLog2 = s.pt.chSizeLog2) (hp : t.pos = s.pos) (p pa len : Nat) (w b : Bool) :
    t.route p pa len w b = s.route p pa len w b := by
  have hv : ∀ a q, t.viaWindow p a len w q = s.viaWindow p a len w q := fun a q => by
    have h1 : t.windowAt p a len = s.windowAt p a len := by unfold State.windowAt; rw [hw]
    have h2 : t.populated = s.populated := by funext x; unfold State.populated; rw [hm, show t.chSize = s.chSize by unfold State.chSize; rw [hz]]
    have h3 : t.chanOwner = s.chanOwner := by funext x; simp only [State.chanOwner, hc]
    have h4 : t.chanOf = s.chanOf := by funext x; simp only [State.chanOf, State.chSize, hz]
    have h5 : t.dieId = s.dieId := by simp only [State.dieId, hp]
    unfold State.viaWindow
    rw [h1, h2, h3, h4, h5]
  have h0 : t.hostRangeOk p pa len w = s.hostRangeOk p pa len w := by unfold State.hostRangeOk; rw [hr]
  have h2 : t.populated = s.populated := by funext x; unfold State.populated; rw [hm, show t.chSize = s.chSize by unfold State.chSize; rw [hz]]
  have h3 : t.chanOwner = s.chanOwner := by funext x; simp only [State.chanOwner, hc]
  have h4 : t.chanOf = s.chanOf := by funext x; simp only [State.chanOf, State.chSize, hz]
  have h5 : t.dieId = s.dieId := by simp only [State.dieId, hp]
  unfold State.route
  rw [h0, h2, h3, h4, h5]
  simp only [hv]

@[simp] theorem finishReq_route (s : State) (q : Req) (p pa len : Nat) (w b : Bool) : (s.finishReq q).route p pa len w b = s.route p pa len w b := by
  have h : ∀ k, (s.keyGive k).pt.ranges = s.pt.ranges ∧ (s.keyGive k).pt.windows = s.pt.windows ∧ (s.keyGive k).pt.channels = s.pt.channels ∧
      (s.keyGive k).pt.mapValid = s.pt.mapValid ∧ (s.keyGive k).pt.chSizeLog2 = s.pt.chSizeLog2 := by
    intro k; cases k <;> exact ⟨rfl, rfl, rfl, rfl, rfl⟩
  obtain ⟨h1, h2, h3, h4, h5⟩ := h q.key
  rw [← finishReq_pt] at h1 h2 h3 h4 h5
  exact route_congr h1 h2 h3 h4 h5 (finishReq_pos s q) ..

theorem discardFetches_ring (s : State) (r j : Nat) (f : Nat → Bool) :
    (s.discardFetches r f).ring j = if j = r then { s.ring r with fetched := (s.ring r).fetched.filter fun x => !f x.1 } else s.ring j := by
  unfold State.discardFetches
  rw [modRing_ring]
  rfl

/-! ## Counts of the queue cells through a descriptor's progress -/

@[simp] theorem markBad_fronts (s : State) (p r pos : Nat) (e : BadEv) : (s.markBad p r pos e).fronts = s.fronts := by
  have h : ∀ u : State, ((u.dropReadMisses r).flushWork p r pos).fronts = u.fronts := fun u => fronts_of_qc (by simp)
  unfold State.markBad
  rw [h, modWork_fronts]

@[simp] theorem markFault_fronts (s : State) (p r pos : Nat) (e : FaultEv) : (s.markFault p r pos e).fronts = s.fronts := by
  have h : ∀ u : State, ((u.dropReadMisses r).flushWork p r pos).fronts = u.fronts := fun u => fronts_of_qc (by simp)
  unfold State.markFault
  split
  · rw [h, modWork_fronts]
  · simp

@[simp] theorem onVerdict_fronts (s : State) (p r pos off : Nat) (d : Bool) (a : Access) (v : Verdict) :
    (s.onVerdict p r pos off d a v).fronts = s.fronts := by
  unfold State.onVerdict
  split <;> simp

@[simp] theorem settleWork_fronts (s : State) (p r pos : Nat) : (s.settleWork p r pos).fronts = s.fronts := by
  have h : ∀ u : State, (u.flushWork p r pos).fronts = u.fronts := fun u => fronts_of_qc (by simp)
  unfold State.settleWork
  split
  · rfl
  split
  · rfl
  · extract_lets a b
    split
    · rw [h, modWork_fronts]
    · simp

@[simp] theorem access_fronts (s : State) (a : Access) : (s.access a).2.fronts = s.fronts := fronts_of_qc (by simp)

@[simp] theorem issueDst_fronts (s : State) (p r pos o n : Nat) : (s.issueDst p r pos o n).fronts = s.fronts := by
  unfold State.issueDst
  split
  · rfl
  · dsimp only
    split
    · rw [modCell_fronts (by rfl)]; simp
    · simp
    · simp
    · simp

@[simp] theorem feedDst_fronts (s : State) (p r pos a b : Nat) : (s.feedDst p r pos a b).fronts = s.fronts := by
  unfold State.feedDst
  split
  · rfl
  split
  · rfl
  · refine each_fronts _ (fun s x => ?_) _ s
    split
    · split <;> simp
    · rfl

@[simp] theorem feedRest_fronts (s : State) (p r pos : Nat) : (s.feedRest p r pos).fronts = s.fronts := by
  unfold State.feedRest
  split
  · rfl
  split
  · exact each_fronts _ (by simp) _ s
  · rfl

@[simp] theorem srcDone_fronts (s : State) (q : Req) (r pos off len status : Nat) (b : Bool) (d : Bytes) :
    (s.srcDone q r pos off len status b d).fronts = s.fronts := by
  unfold State.srcDone
  split
  · rfl
  · dsimp only
    rw [settleWork_fronts, feedRest_fronts]
    split <;> simp

@[simp] theorem growCounter_fronts (s : State) (p r pos : Nat) : (s.growCounter p r pos).fronts = s.fronts := by
  unfold State.growCounter
  split
  · rfl
  · dsimp only
    split <;> simp

@[simp] theorem afterReq_fronts (s : State) (q : Req) : (s.afterReq q).fronts = s.fronts := by
  unfold State.afterReq
  dsimp only
  split <;> simp

/-! ## A write over the die fabric -/

theorem accessFabric_sent {s : State} {a : Access} {pa : Nat} (hk : a.kind = .write) (hm : a.mask ≠ 0)
    (ht : s.tokensOk a.part 4 (popCount 64 a.mask) = true) :
    (s.accessFabric a pa).1 = .sent ∧ Sent (s.accessFabric a pa).2 a.purpose .write pa a.len a.data := by
  unfold State.accessFabric
  have hw : a.write = true := by simp [Access.write, hk]
  extract_lets b n
  have hb : b = 4 := by show ite _ _ _ = 4; rw [hw]; rfl
  have hn : n = popCount 64 a.mask := by show ite _ _ _ = _; rw [hw]; simp [hm]
  rw [hb, hn, ht]
  refine ⟨rfl, ?_⟩
  rw [← hk]
  exact send_sent ((State.fabricPort (s.takeTokens a.part 4 (popCount 64 a.mask)) a).2.count a.part 3 (popCount 64 a.mask))
    { a.req pa none with path := .fabric (State.fabricPort (s.takeTokens a.part 4 (popCount 64 a.mask)) a).1 }

/-- A physical write that a fret route leads over the die fabric, with tokens to pay it, goes out. -/
theorem access_fabric_sent {s : State} {a : Access} {ch pa : Nat} (hp : a.phys = true) (hk : a.kind = .write) (hw : a.want = 0)
    (hr : s.route a.part (a.va % 2 ^ 52) a.len true (s.peerUp a.part) = .go (.fabric ch) pa) (hm : a.mask ≠ 0)
    (ht : s.tokensOk a.part 4 (popCount 64 a.mask) = true) :
    (s.access a).1 = .sent ∧ Sent (s.access a).2 a.purpose .write pa a.len a.data := by
  have h : s.access a = s.accessFabric a pa := by
    unfold State.access
    simp only [hp, if_true]
    have hwr : a.write = true := by simp [Access.write, hk]
    have hr2 : s.route a.part (a.va % 4503599627370496) a.len true (s.peerUp a.part) = .go (.fabric ch) pa := hr
    simp [State.accessPhys, hk, hw, hwr, hr2]
  rw [h]
  exact accessFabric_sent hk hm ht

/-! ## Ended numbers -/

/-- What `t` has outstanding was so in `s`, or carries a number that `s` had not used. -/
structure Fresh (s t : State) : Prop where
  fresh : ∀ q ∈ t.reqs, q ∈ s.reqs ∨ s.nextReq ≤ q.id
  next : s.nextReq ≤ t.nextReq

theorem Grows.fresh' {s t : State} (h : Grows s t) : Fresh s t := ⟨h.fresh, h.next⟩

theorem Fresh.trans {s t u : State} (h : Fresh s t) (h' : Fresh t u) : Fresh s u :=
  ⟨fun q hq => (h'.fresh q hq).elim (fun h1 => h.fresh q h1) fun h1 => .inr (Nat.le_trans h.next h1), Nat.le_trans h.next h'.next⟩

theorem Fresh.finishReq (s : State) (q : Req) : Fresh s (s.finishReq q) :=
  ⟨fun r hr => .inl (by rw [finishReq_reqs] at hr; exact (List.mem_filter.mp hr).1), by simp⟩

/-- Number `id` was given out and is no longer outstanding. -/
def State.ended (s : State) (id : Nat) : Prop := id < s.nextReq ∧ ∀ q ∈ s.reqs, q.id ≠ id

theorem Fresh.ended {s t : State} (h : Fresh s t) {id : Nat} (he : s.ended id) : t.ended id := by
  refine ⟨Nat.lt_of_lt_of_le he.1 h.next, fun q hq => ?_⟩
  rcases h.fresh q hq with h1 | h1
  · exact he.2 q h1
  · have := he.1; omega

theorem ended_req {s : State} {id : Nat} (h : s.ended id) : s.req id = none := req_none h.2

theorem finishReq_ended {s : State} {q : Req} (h : q.id < s.nextReq) : (s.finishReq q).ended q.id := ⟨by simpa using h, finishReq_gone s q⟩

theorem req_id {s : State} {id : Nat} {q : Req} (h : s.req id = some q) : q.id = id := by
  unfold State.req at h
  simpa using List.find?_some h

/-! ## Finishing writes -/

theorem finishWrite_sent {s : State} {p r pos off pa : Nat} {ro : Route} {d : Bytes} {pu : Purpose}
    (h : s.route p ((s.ring r).descPa pos + off) d.length true false = .go ro pa) :
    Sent (s.finishWrite p r pos off d pu) pu .write pa d.length d := by
  have hs := physWrite_sent (unit := cellOfRing r) (pu := pu) (b := false) h
  unfold State.finishWrite
  simp only [hs.1, if_true]
  exact hs.2

theorem finishWrite_work (s : State) (p r pos off : Nat) (d : Bytes) (pu : Purpose) (r' pos' : Nat) :
    (s.finishWrite p r pos off d pu).work r' pos' = s.work r' pos' := by
  unfold State.finishWrite
  have h : ∀ a b c e, (s.physWrite p a b c e false).2.work r' pos' = s.work r' pos' := fun _ _ _ _ => work_of_qc (by simp) _ _
  dsimp only
  split
  · exact h ..
  · exact h ..

theorem headOf_work {s : State} {r p : Nat} {w : Work} (h : s.headOf r = some (p, w)) : s.ringOwner r = some p ∧ s.work r w.pos = some w := by
  unfold State.headOf at h
  split at h
  · rename_i q x l h1 h2
    simp only [Option.some.injEq, Prod.mk.injEq] at h
    obtain ⟨rfl, rfl⟩ := h
    exact ⟨h1, work_head h2⟩
  · simp at h

theorem endFinish_ok {s : State} {p r : Nat} {pu : Purpose} {q : Req} (h : s.reqFor pu = some q) : s.endFinish p r pu .ok = s.finishReq q := by
  simp [State.endFinish, h]

theorem reqFor_mem {s : State} {pu : Purpose} {q : Req} (h : s.reqFor pu = some q) : q ∈ s.reqs := List.mem_of_find?_eq_some h

theorem putEntry_cached (s : State) (p r : Nat) (w : Work) (j : Nat) : ((s.putEntry p r w).cq j).cached = (s.cq j).cached := by
  have h : ∀ a b c e, (s.physWrite p a b c e false).2.cq j = s.cq j := fun _ _ _ _ => cq_of_qc (by simp) _
  have hm : ∀ (u : State) (k : Nat), (((u.modCq k fun q => { q with n := wrapAdd 32 q.n 1 }).cq j).cached) = (u.cq j).cached := by
    intro u k; rw [modCq_cq]; split <;> simp [*]
  unfold State.putEntry
  dsimp only
  split
  · rw [modWork_cq_of, hm, h]
  · show (State.cq (State.modWork _ _ _ _) j).cached = _
    rw [modWork_cq_of, hm, h]

/-- Releasing entries leaves every cached consumer count. -/
theorem releaseEntries_cached (k j : Nat) : ∀ (n : Nat) (s : State), ((s.releaseEntries k n).cq j).cached = (s.cq j).cached
  | 0, _ => rfl
  | n + 1, s => by
    have hm : ∀ l, (((s.modCq k fun q => { q with waiters := l }).cq j).cached) = (s.cq j).cached := by
      intro l; rw [modCq_cq]; split <;> simp [*]
    unfold State.releaseEntries
    extract_lets q
    split
    · rfl
    split
    · rfl
    · extract_lets s1
      have h1 : ∀ x, s1 = x → (x.cq j).cached = (s.cq j).cached := fun x hx => hx ▸ hm _
      split
      · split
        · rw [releaseEntries_cached k j n, putEntry_cached]; exact h1 _ rfl
        · rw [releaseEntries_cached k j n]; exact h1 _ rfl
      · rw [releaseEntries_cached k j n]; exact h1 _ rfl

/-! ## Pushes and snoops -/

theorem pushEntry_does (s : State) (n : Nat) (e : WcEntry) :
    (s.pushEntry n e).tier.wc = s.tier.wc ∧ (s.pushEntry n e).tier.pushes = s.tier.pushes ∧
      Sent (s.pushEntry n e) (.wcPush n) .write e.pa 64 e.data := by
  have h : ∀ (u : State) (q : Req), (u.sendHost q).tier = u.tier := fun u q => tier_eq (by simp)
  have hk : ∀ u : State, (u.keyTake e.key).tier = u.tier := fun u => tier_eq (by simp)
  unfold State.pushEntry
  dsimp only
  refine ⟨?_, ?_, send_sent _ _⟩
  · rw [h, hk]
    unfold State.tierPerf
    split
    · simp only [State.removeLine]
      generalize (if e.key.isSome = true then unitMask e.mask else e.mask) = m
      cases m == maskRange 0 64 <;> rfl
    · rfl
  · rw [h, hk]
    unfold State.tierPerf
    split
    · simp only [State.removeLine]
      generalize (if e.key.isSome = true then unitMask e.mask else e.mask) = m
      cases m == maskRange 0 64 <;> rfl
    · rfl

/-- Whatever its representation, no entry of the table holds the line any longer. -/
theorem removeLine_gone (s : State) (pa k : Nat) (h : (Tab.at (s.removeLine pa).tier.lines k).valid = true) :
    (Tab.at (s.removeLine pa).tier.lines k).pa ≠ lineOf pa := by
  intro he
  unfold State.removeLine at h he
  dsimp only at h he
  rw [Tab.at_mapV] at h he
  by_cases hm : k ∈ Tab.ixs s.tier.lines
  · rw [if_pos hm] at h he
    by_cases hc : ((Tab.at s.tier.lines k).valid && (Tab.at s.tier.lines k).pa == lineOf pa) = true
    · rw [if_pos hc] at h
      exact absurd h (by decide)
    · rw [if_neg hc] at h he
      rw [h, he] at hc
      simp at hc
  · rw [if_neg hm] at h
    exact absurd h (by decide)

end Sys2Proof.Machine
end

