-- ==== Sys2Proof/Laws/Walk.lean ====
section
/-! SUPPORT. Walks: what installing a translation and ending the requests that waited leave of XL. -/

namespace Sys2Proof.Machine

/-- Only the TLBs differ. -/
def Xl.tables (x : Xl) : Xl := { x with l1 := [], l2 := [] }

theorem l1Install_tables (s : State) (t : Nat) (l : Leaf) : (s.l1Install t l).xl.tables = s.xl.tables := by
  unfold State.l1Install
  dsimp only
  split <;> rfl

theorem l2Install_tables (s : State) (p : Nat) (l : Leaf) : (s.l2Install p l).xl.tables = s.xl.tables := by
  unfold State.l2Install
  extract_lets base ways same empty
  split <;> rfl

/-- Installing a leaf frees the walk's walker and takes the misses it serves. -/
theorem installLeaf_does (s : State) (w : Walk) (l : Leaf) :
    (s.installLeaf w l).xl.walks = (s.xl.walks.filter fun x => x.id != w.id) ∧
      (s.installLeaf w l).xl.misses = s.xl.misses.filter fun m => !(w.serves m && (!m.dirty || l.d)) := by
  unfold State.installLeaf
  extract_lets s1 fresh l1 t1 s2 done t2
  have h : s2.xl.tables = s1.xl.tables := by
    show (State.l1Install _ _ _).xl.tables = _
    rw [l1Install_tables, l2Install_tables]
    rfl
  have h1 := congrArg Xl.walks h
  have h2 := congrArg Xl.misses h
  exact ⟨h1, by show List.filter _ s2.xl.misses = _; rw [show s2.xl.misses = s.xl.misses from h2]⟩

/-- XL but for the misses. -/
def State.xlRest (s : State) : Xl := { s.xl with misses := [] }

theorem xlRest_of_xl {s t : State} (h : s.hide (allBut .xl) = t.hide (allBut .xl)) : s.xlRest = t.xlRest := by
  unfold State.xlRest
  rw [xl_eq h]

/-- The end of a source read's miss leaves XL but for the misses. -/
theorem endMiss_read (s : State) (m : Miss) (x : WalkEnd) (r off : Nat) (h : m.who = .cellRead r off) : (s.endMiss m x).xlRest = s.xlRest := by
  have h1 : ∀ (u : State) (p r pos : Nat), (((u.settleWork p r pos).advanceAll p).settleRing r).xlRest = u.xlRest := fun u p r pos => xlRest_of_xl (by simp)
  have hm : ∀ (u : State) (p r pos : Nat) (e : BadEv), (u.markBad p r pos e).xlRest = u.xlRest := by
    intro u p r pos e
    unfold State.markBad
    rw [xlRest_of_xl (t := ((u.modWork r pos fun w => w.markBad e).dropReadMisses r)) (State.flushWork_hide (by simp) _ _ _ _)]
    rfl
  unfold State.endMiss
  rw [h]
  dsimp only
  split
  · rfl
  · rw [h1]
    split
    · exact hm ..
    · unfold State.markFault
      split
      · rw [xlRest_of_xl (State.flushWork_hide (by simp) _ _ _ _)]
        rfl
      · exact hm ..

theorem endMisses_read (pick : Miss → Bool) (x : WalkEnd) (s : State)
    (h : ∀ m ∈ s.xl.misses, pick m = true → ∃ r off, m.who = .cellRead r off) : (s.endMisses pick x).xlRest = s.xlRest := by
  unfold State.endMisses State.each
  extract_lets l t1 s1
  have hl : ∀ m ∈ l, ∃ r off, m.who = .cellRead r off := by
    intro m hm
    have := List.mem_filter.mp hm
    exact h m this.1 this.2
  have hs : s1.xlRest = s.xlRest := rfl
  rw [← hs]
  clear_value s1 l
  clear hs
  induction l generalizing s1 with
  | nil => rfl
  | cons a l ih =>
    obtain ⟨r, off, ha⟩ := hl a (List.mem_cons_self ..)
    rw [List.foldl_cons, ih _ (fun m hm => hl m (List.mem_cons_of_mem _ hm)), endMiss_read _ _ _ _ _ ha]

theorem walkRead_sent {s : State} {i table : Nat} {w : Walk} (hw : s.walk i = some w) (ht : dieOf table < 4) :
    Sent (s.walkRead i table) (.walkRead i) .read (table + 8 * levelIx w.level w.va) 8 [] := by
  unfold State.walkRead
  rw [hw]
  dsimp only
  rw [if_neg (by omega)]
  exact narrowRead_sent _ _

theorem physNote_keeps (s : State) (p unit pa : Nat) (d : Bytes) (pu : Purpose) : (s.physNote p unit pa d pu).2.xl = s.xl := xl_eq (by simp)

end Sys2Proof.Machine
end

