-- ==== Sys2Proof/Laws/Chord.lean ====
section
/-! SUPPORT. Chords: what their reads and writes issue, and what applying a doorbell action leaves of a ring. -/

namespace Sys2Proof.Machine

theorem physNote_sent {s : State} {p unit pa pa' : Nat} {ro : Route} {d : Bytes} {pu : Purpose} (hd : dieOf pa < 4)
    (h : s.route p pa d.length true false = .go ro pa') :
    (s.physNote p unit pa d pu).1 = true ∧ Sent (s.physNote p unit pa d pu).2 pu .write pa' d.length d := by
  unfold State.physNote
  rw [if_neg (by omega)]
  exact physWrite_sent h

@[simp] theorem physNote_ch (s : State) (p unit pa : Nat) (d : Bytes) (pu : Purpose) : (s.physNote p unit pa d pu).2.ch = s.ch := ch_eq (by simp)
@[simp] theorem physRead_ch (s : State) (p unit pa len : Nat) (pu : Purpose) : (s.physRead p unit pa len pu).2.ch = s.ch := ch_eq (by simp)

@[simp] theorem physNote_chord (s : State) (p unit pa : Nat) (d : Bytes) (pu : Purpose) (k : Nat) :
    (s.physNote p unit pa d pu).2.chord k = s.chord k := by unfold State.chord; rw [physNote_ch]
@[simp] theorem physRead_chord (s : State) (p unit pa len : Nat) (pu : Purpose) (k : Nat) :
    (s.physRead p unit pa len pu).2.chord k = s.chord k := by unfold State.chord; rw [physRead_ch]
@[simp] theorem physRead_chq (s : State) (p unit pa len : Nat) (pu : Purpose) (k : Nat) :
    (s.physRead p unit pa len pu).2.chq k = s.chq k := by unfold State.chq; rw [physRead_ch]
@[simp] theorem finishReq_chord (s : State) (q : Req) (k : Nat) : (s.finishReq q).chord k = s.chord k := by unfold State.chord; rw [finishReq_ch]
@[simp] theorem finishReq_chq (s : State) (q : Req) (k : Nat) : (s.finishReq q).chq k = s.chq k := by unfold State.chq; rw [finishReq_ch]
@[simp] theorem finishReq_globalRing (s : State) (q : Req) (p j : Nat) : (s.finishReq q).globalRing p j = s.globalRing p j := by
  unfold State.globalRing; rw [finishReq_groups]

theorem chordWrite_sent {s : State} {p pa pa' : Nat} {ro : Route} {d : Bytes} {pu : Purpose} (hd : dieOf pa < 4)
    (h : s.route p pa d.length true false = .go ro pa') : Sent (s.chordWrite p pa d pu) pu .write pa' d.length d := by
  have hs := physNote_sent (unit := 67) (pu := pu) hd h
  unfold State.chordWrite
  simp only [hs.1, if_true]
  exact hs.2

@[simp] theorem chordWrite_chord (s : State) (p pa : Nat) (d : Bytes) (pu : Purpose) (k : Nat) :
    (s.chordWrite p pa d pu).chord k = s.chord k := by
  unfold State.chordWrite
  dsimp only
  split
  · simp
  · unfold State.chError; simp

theorem sendHost_pt (s : State) (r : Req) : (s.sendHost r).pt = s.pt := pt_eq (by simp)

/-- Issuing a read changes no table that routes an address. -/
theorem narrowRead_route (s : State) (r : Req) (p pa len : Nat) (w b : Bool) : (s.narrowRead r).route p pa len w b = s.route p pa len w b := by
  have hp : ∀ (u : State) (x : Req), (u.sendHost x).pos = u.pos := fun u x => congrArg Fixed.pos (State.sendHost_fixed u x)
  unfold State.narrowRead
  apply route_congr <;> first | (rw [hp]; unfold State.keyTake; split <;> rfl) | (rw [sendHost_pt]; unfold State.keyTake; split <;> rfl)

end Sys2Proof.Machine
end

