-- ==== Sys2Proof/Laws/Jobs.lean ====
section
/-! SUPPORT. Jobs: what issuing a job's requests, ending it and parking it leave of the job and of the Reckoner. -/

namespace Sys2Proof.Machine

theorem job_of_jobs {s t : State} (h : t.rk.jobs = s.rk.jobs) (e : Nat) : t.job e = s.job e := by unfold State.job; rw [h]

theorem job_of_rk {s t : State} (h : t.rk = s.rk) (e : Nat) : t.job e = s.job e := by unfold State.job; rw [h]

@[simp] theorem modJob_job (s : State) (e x : Nat) (f : Job → Job) : (s.modJob e f).job x = if x = e then f (s.job e) else s.job x := by
  simp [State.modJob, State.job]

@[simp] theorem modJob_at (s : State) (e : Nat) (f : Job → Job) : (s.modJob e f).job e = f (s.job e) := by simp

@[simp] theorem dropJobMisses_job (s : State) (e x : Nat) : (s.dropJobMisses e).job x = s.job x := rfl

@[simp] theorem flushOf_rk (s : State) (p : Nat) (f : Purpose → Bool) : (s.flushOf p f).rk = s.rk := rk_eq (by simp)

@[simp] theorem flushJob_job (s : State) (e x : Nat) : (s.flushJob e).job x = s.job x := by
  unfold State.flushJob
  rw [job_of_rk (flushOf_rk ..)]
  rfl

/-- What a job keeps while it issues requests, ends or faults: all but its phase, its outcome and the work it has queued. -/
def Job.core (j : Job) : Job :=
  { j with phase := .waiting, bad := none, fault := none, more := false, tiles := [], fps := [], buf := [], rd := [] }

/-- The part of the Reckoner that no request of a job touches. -/
def Reck.rest (k : Reck) : Reck := { k with jobs := [], array := none, bufs := [] }

/-- What issuing requests of a job leaves of the Reckoner. -/
structure Cores where
  jobs : Nat → Job
  rest : Reck

/-- What issuing requests of a job leaves of the Reckoner. -/
def State.cores (s : State) : Cores := ⟨fun e => (s.job e).core, s.rk.rest⟩

theorem cores_of_rk {s t : State} (h : t.rk = s.rk) : t.cores = s.cores := by unfold State.cores State.job; rw [h]

theorem core_of {s t : State} (h : t.cores = s.cores) (e : Nat) : (t.job e).core = (s.job e).core := congrFun (congrArg Cores.jobs h) e

theorem tile_of {s t : State} (h : t.cores = s.cores) (e : Nat) : (t.job e).tile = (s.job e).tile :=
  have h2 : (t.job e).core.tile = (s.job e).core.tile := congrArg Job.tile (core_of h e)
  h2
theorem sub_of {s t : State} (h : t.cores = s.cores) (e : Nat) : (t.job e).sub = (s.job e).sub :=
  have h2 : (t.job e).core.sub = (s.job e).core.sub := congrArg Job.sub (core_of h e)
  h2
theorem live_of {s t : State} (h : t.cores = s.cores) (e : Nat) : (t.job e).live = (s.job e).live :=
  have h2 : (t.job e).core.live = (s.job e).core.live := congrArg Job.live (core_of h e)
  h2
theorem repair_of {s t : State} (h : t.cores = s.cores) (e : Nat) : (t.job e).repair = (s.job e).repair :=
  have h2 : (t.job e).core.repair = (s.job e).core.repair := congrArg Job.repair (core_of h e)
  h2
theorem raw_of {s t : State} (h : t.cores = s.cores) (e : Nat) : (t.job e).raw = (s.job e).raw :=
  have h2 : (t.job e).core.raw = (s.job e).core.raw := congrArg Job.raw (core_of h e)
  h2
theorem queue_of {s t : State} (h : t.cores = s.cores) : t.rk.queue = s.rk.queue := congrArg (fun c => c.rest.queue) h

theorem modJob_cores {s : State} {e : Nat} {f : Job → Job} (h : ∀ j, (f j).core = j.core) : (s.modJob e f).cores = s.cores := by
  unfold State.cores
  congr 1
  funext x
  rw [modJob_job]
  split
  · rename_i hx; subst hx; exact h _
  · rfl

@[simp] theorem flushJob_cores (s : State) (e : Nat) : (s.flushJob e).cores = s.cores := by
  unfold State.flushJob
  rw [cores_of_rk (flushOf_rk ..)]
  rfl

@[simp] theorem jobBad_cores (s : State) (e : Nat) (ev : BadEv) : (s.jobBad e ev).cores = s.cores := by
  unfold State.jobBad
  dsimp only
  rw [flushJob_cores, cores_of_rk rfl]
  exact modJob_cores fun _ => rfl

@[simp] theorem jobFault_cores (s : State) (e : Nat) (ev : FaultEv) : (s.jobFault e ev).cores = s.cores := by
  unfold State.jobFault
  split
  · dsimp only
    rw [flushJob_cores, cores_of_rk rfl]
    refine modJob_cores fun j => ?_
    (repeat' split) <;> rfl
  · simp

@[simp] theorem onJobVerdict_cores (s : State) (e el : Nat) (d : Bool) (a : Access) (v : Verdict) : (s.onJobVerdict e el d a v).cores = s.cores := by
  unfold State.onJobVerdict
  split <;> simp

@[simp] theorem access_cores (s : State) (a : Access) : (s.access a).2.cores = s.cores := cores_of_rk (rk_eq (by simp))
@[simp] theorem access_job (s : State) (a : Access) (e : Nat) : (s.access a).2.job e = s.job e := job_of_rk (rk_eq (by simp)) e

@[simp] theorem jobWriteOne_cores (s : State) (e : Nat) : (s.jobWriteOne e).2.cores = s.cores := by
  unfold State.jobWriteOne
  dsimp only
  split
  · rfl
  · split
    · rfl
    · split
      · refine (modJob_cores fun j => ?_).trans (access_cores ..)
        unfold Job.wrote
        split <;> rfl
      · simp

@[simp] theorem jobWrites_cores (e : Nat) : ∀ (n : Nat) (s : State), (s.jobWrites e n).cores = s.cores
  | 0, _ => rfl
  | n + 1, s => by
    unfold State.jobWrites
    have h := jobWriteOne_cores s e
    split
    · rename_i s1 h1; rw [h1] at h; rw [jobWrites_cores e n s1]; exact h
    · rename_i s1 h1; rw [h1] at h; exact h

@[simp] theorem jobDrain_cores (s : State) (e : Nat) : (s.jobDrain e).cores = s.cores := jobWrites_cores ..

@[simp] theorem jobReadIn_cores (s : State) (e st o n : Nat) (l : Needs) : (s.jobReadIn e st o n l).cores = s.cores := by
  unfold State.jobReadIn
  dsimp only
  split
  · rfl
  · split
    · refine Eq.trans (modJob_cores ?_) (access_cores ..)
      intro j; rfl
    · simp

@[simp] theorem grantJobRead_cores (s : State) (e st o n : Nat) : (s.grantJobRead e st o n).cores = s.cores := by
  unfold State.grantJobRead
  split <;> simp

/-- Finished tiles only leave the accumulator buffers while a job issues. -/
def State.Thins (t s : State) : Prop := ∀ b ∈ t.rk.bufs, b ∈ s.rk.bufs

theorem thins_of_rk {s t : State} (h : t.rk = s.rk) : t.Thins s := fun b hb => by rw [← h]; exact hb
theorem State.Thins.trans {a b c : State} (h : a.Thins b) (h' : b.Thins c) : a.Thins c := fun x hx => h' x (h x hx)

theorem flushJob_thins (s : State) (e : Nat) : (s.flushJob e).Thins s := fun b hb => by
  unfold State.flushJob at hb
  rw [flushOf_rk] at hb
  exact (List.mem_filter.mp hb).1

theorem jobBad_thins (s : State) (e : Nat) (ev : BadEv) : (s.jobBad e ev).Thins s := by
  unfold State.jobBad
  exact (flushJob_thins _ _).trans fun b hb => hb

theorem onJobVerdict_thins (s : State) (e el : Nat) (d : Bool) (a : Access) (v : Verdict) : (s.onJobVerdict e el d a v).Thins s := by
  unfold State.onJobVerdict
  split
  · exact jobBad_thins _ _ _
  · unfold State.jobFault
    split
    · exact (flushJob_thins _ _).trans fun b hb => hb
    · exact jobBad_thins _ _ _
  · exact fun b hb => hb

theorem access_thins (s : State) (a : Access) : (s.access a).2.Thins s := thins_of_rk (rk_eq (by simp))

theorem jobWriteOne_thins (s : State) (e : Nat) : (s.jobWriteOne e).2.Thins s := by
  unfold State.jobWriteOne
  dsimp only
  split
  · exact fun b hb => hb
  · split
    · exact fun b hb => hb
    · split
      · exact State.Thins.trans (b := (s.access _).2) (fun b hb => hb) (access_thins _ _)
      · exact (onJobVerdict_thins _ _ _ _ _ _).trans (access_thins _ _)

theorem jobWrites_thins (e : Nat) : ∀ (n : Nat) (s : State), (s.jobWrites e n).Thins s
  | 0, _ => fun b hb => hb
  | n + 1, s => by
    unfold State.jobWrites
    have h := jobWriteOne_thins s e
    split
    · rename_i s1 h1; rw [h1] at h; exact (jobWrites_thins e n s1).trans h
    · rename_i s1 h1; rw [h1] at h; exact h

theorem jobDrain_thins (s : State) (e : Nat) : (s.jobDrain e).Thins s := jobWrites_thins _ _ _

/-! ## Reads over the die fabric -/

/-- A physical read that a fret route leads over the die fabric, with tokens to pay it and no write of its unit to the line
outstanding, goes out. -/
theorem access_fabric_read {s : State} {a : Access} {ch pa : Nat} (hp : a.phys = true) (hk : a.kind = .read)
    (hw : a.want = 2 → dieOf (a.va % 2 ^ 52) = s.dieId) (hw1 : a.want = 0 ∨ a.want = 2)
    (hr : s.route a.part (a.va % 2 ^ 52) a.len false (s.peerUp a.part) = .go (.fabric ch) pa) (hl : s.lineHeld a.unit pa = false)
    (ht : s.tokensOk a.part 3 a.len = true) :
    (s.access a).1 = .sent ∧ Sent (s.access a).2 a.purpose .read pa a.len a.data := by
  have hwr : a.write = false := by simp [Access.write, hk]
  have h : s.access a = s.accessFabric a pa := by
    unfold State.access
    simp only [hp, if_true]
    have hr2 : s.route a.part (a.va % 4503599627370496) a.len false (s.peerUp a.part) = .go (.fabric ch) pa := hr
    rcases hw1 with h | h
    · simp [State.accessPhys, h, hk, hwr, hr2, hl]
    · have h2 : dieOf (a.va % 4503599627370496) = s.dieId := hw h
      simp [State.accessPhys, h, h2, hk, hwr, hr2, hl]
  rw [h]
  unfold State.accessFabric
  simp only [hwr, ht, Bool.false_and, Bool.false_eq_true, if_false, Bool.not_true]
  refine ⟨trivial, ?_⟩
  rw [← hk]
  exact send_sent _ { a.req pa none with path := .fabric (State.fabricPort (s.takeTokens a.part 3 a.len) a).1 }

/-- The same of a write to this die. -/
theorem access_own_write {s : State} {a : Access} {ch pa : Nat} (hp : a.phys = true) (hk : a.kind = .write)
    (hw : a.want = 2 → dieOf (a.va % 2 ^ 52) = s.dieId) (hw1 : a.want = 0 ∨ a.want = 2)
    (hr : s.route a.part (a.va % 2 ^ 52) a.len true (s.peerUp a.part) = .go (.fabric ch) pa) (hm : a.mask ≠ 0)
    (ht : s.tokensOk a.part 4 (popCount 64 a.mask) = true) :
    (s.access a).1 = .sent ∧ Sent (s.access a).2 a.purpose .write pa a.len a.data := by
  have h : s.access a = s.accessFabric a pa := by
    unfold State.access
    simp only [hp, if_true]
    have hwr : a.write = true := by simp [Access.write, hk]
    have hr2 : s.route a.part (a.va % 4503599627370496) a.len true (s.peerUp a.part) = .go (.fabric ch) pa := hr
    rcases hw1 with h | h
    · simp [State.accessPhys, h, hk, hwr, hr2]
    · have h2 : dieOf (a.va % 4503599627370496) = s.dieId := hw h
      simp [State.accessPhys, h, h2, hk, hwr, hr2]
  rw [h]
  exact accessFabric_sent hk hm ht

/-! ## Passes -/

theorem nextPass_tiles (j : Job) : j.nextPass.tiles = j.tiles := by
  unfold Job.nextPass
  split
  · rfl
  · dsimp only
    split
    · rfl
    · split <;> rfl

theorem nextPass_fps (j : Job) : j.nextPass.fps = j.fps := by
  unfold Job.nextPass
  split
  · rfl
  · dsimp only
    split
    · rfl
    · split <;> rfl

theorem nextStep_tiles (j : Job) (h : Bool) : (j.nextStep h).tiles = j.tiles := by
  unfold Job.nextStep
  extract_lets done
  (repeat' split) <;> rfl

theorem nextPass_same {j : Job} (h : j.tile ≠ j.tileCount) : j.nextPass = j := by
  unfold Job.nextPass
  rw [if_pos (by simp [h])]

/-! ## Computing a tile leaves what the job is -/

/-- What a job is: whether its entry is taken, and its descriptor. -/
def Job.what (j : Job) : Bool × Bytes := (j.live, j.raw)

theorem foldl_what {α : Type} {f : Job → α → Job} (h : ∀ j x, (f j x).what = j.what) (l : List α) (j : Job) : (l.foldl f j).what = j.what := by
  induction l generalizing j with
  | nil => rfl
  | cons a l ih => exact (ih _).trans (h _ _)

theorem sumTile_what (j : Job) (k : Nat) : (j.sumTile k).what = j.what := by
  unfold Job.sumTile
  refine foldl_what (fun j x => ?_) _ _
  dsimp only
  split <;> rfl

theorem addCopy_what (j : Job) (k : Nat) (b : Bytes) : (j.addCopy k b).what = j.what := rfl

theorem passBTile_what (j : Job) (k d : Nat) : (j.passBTile k d).1.what = j.what := by
  unfold Job.passBTile
  extract_lets b op a l stored mom moms master bad j1
  split
  · exact (addCopy_what j1 _ _).trans rfl
  · rfl

theorem endRegion_what (j : Job) (r a n : Nat) : (j.endRegion r a n).1.what = j.what := by
  unfold Job.endRegion
  extract_lets
  split
  · rfl
  · split <;> rfl

theorem endRegions_what (stop : Nat) (final : Bool) : ∀ (n : Nat) (j : Job), (j.endRegions stop final n).1.what = j.what
  | 0, _ => rfl
  | n + 1, j => by
    unfold Job.endRegions
    extract_lets start len
    split
    · exact (endRegions_what stop final n _).trans (endRegion_what ..)
    · rfl

theorem compute_what (j : Job) (d : Nat) : (j.compute d).1.what = j.what := by
  unfold Job.compute
  extract_lets k last
  split
  · exact sumTile_what ..
  · exact sumTile_what ..
  · split
    · split
      · exact sumTile_what ..
      · exact sumTile_what ..
    · unfold Job.passATile
      extract_lets
      split <;> rfl
  · rfl
  · exact passBTile_what ..
  · unfold Job.passCTile
    extract_lets
    exact (endRegions_what ..).trans rfl

end Sys2Proof.Machine
end

