-- ==== Sys2Proof/Laws/Links.lean ====
section
/-! SUPPORT. Link modules: what sending flits and handling packets leave of a module, and what a state change is. -/

namespace Sys2Proof.Machine

@[simp] theorem modMod_at (s : State) (k : Nat) (f : Module → Module) : (s.modMod k f).mod k = f (s.mod k) := by simp

theorem mod_of_links {s t : State} (h : t.links = s.links) (k : Nat) : t.mod k = s.mod k := by unfold State.mod; rw [h]
theorem mod_of_mods {s t : State} (h : t.links.mods = s.links.mods) (k : Nat) : t.mod k = s.mod k := by unfold State.mod; rw [h]

/-! ## What sending leaves -/

/-- What a module keeps while it sends flits and takes packets: its state, its training and its errors, its receiver, its generator. -/
def Module.still (m : Module) : Module :=
  { m with q0 := [], q1 := [], q2 := [], q3 := [], lastOwn := [], since1 := 0, since3 := 0, retry := [], nextSeq := 0, cr0 := 0, cr1 := 0
           cr2 := 0, cr3 := 0, fr0 := 0, fr1 := 0, fr2 := 0, fr3 := 0, flitsTx := 0, ivTx := [], ackDue := false, idleFrom := 0, ackAt := 0
           malformed := 0, deniedSent := 0, noRouteSent := 0 }

/-- What every module keeps. -/
def State.stills (s : State) : Nat → Module := fun k => (s.mod k).still

theorem stills_of_links {s t : State} (h : t.links = s.links) : t.stills = s.stills := by unfold State.stills State.mod; rw [h]
theorem stills_of_mods {s t : State} (h : t.links.mods = s.links.mods) : t.stills = s.stills := by unfold State.stills State.mod; rw [h]
theorem still_of {s t : State} (h : t.stills = s.stills) (k : Nat) : (t.mod k).still = (s.mod k).still := congrFun h k

theorem modMod_stills {s : State} {k : Nat} {f : Module → Module} (h : ∀ m, (f m).still = m.still) : (s.modMod k f).stills = s.stills := by
  funext x
  show ((s.modMod k f).mod x).still = (s.mod x).still
  rw [modMod_mod]
  split
  · rename_i hx; subst hx; exact h _
  · rfl

theorem modMod_set_stills {s : State} {k : Nat} {m : Module} (h : m.still = (s.mod k).still) : (s.modMod k fun _ => m).stills = s.stills := by
  funext x
  show ((s.modMod k fun _ => m).mod x).still = (s.mod x).still
  rw [modMod_mod]
  split
  · rename_i hx; subst hx; exact h
  · rfl

theorem each_stills {α : Type} {f : State → α → State} (h : ∀ s x, (f s x).stills = s.stills) (l : List α) (s : State) :
    (s.each l f).stills = s.stills := by
  unfold State.each
  induction l generalizing s with
  | nil => rfl
  | cons a l ih => exact (ih _).trans (h _ _)

@[simp] theorem setQueue_still (m : Module) (vc : Nat) (l : List Packet) : (m.setQueue vc l).still = m.still := by
  unfold Module.setQueue; split <;> rfl
@[simp] theorem addCredit_still (m : Module) (vc n : Nat) (b : Bool) : (m.addCredit vc n b).still = m.still := by
  unfold Module.addCredit; dsimp only; split <;> rfl
@[simp] theorem take_still (m : Module) (vc : Nat) (p : Packet) : (m.take vc p).still = m.still := by
  unfold Module.take
  have h := addCredit_still (m.setQueue vc ((m.queue vc).erase p)) vc p.cost true
  rw [setQueue_still] at h
  exact h

theorem gather_still (idle : Bool) (part : Nat) (resp : Bool) : ∀ (n : Nat) (m : Module) (acc : List Packet),
    (Module.gather idle part resp n m acc).1.still = m.still
  | 0, _, _ => rfl
  | n + 1, m, acc => by
    unfold Module.gather
    split
    · split
      · rw [gather_still idle part resp n]; simp
      · rfl
    · rfl

theorem fr0_still (m : Module) (n : Nat) : ({ m with fr0 := n } : Module).still = m.still := rfl
theorem fr1_still (m : Module) (n : Nat) : ({ m with fr1 := n } : Module).still = m.still := rfl
theorem fr2_still (m : Module) (n : Nat) : ({ m with fr2 := n } : Module).still = m.still := rfl
theorem fr3_still (m : Module) (n : Nat) : ({ m with fr3 := n } : Module).still = m.still := rfl

@[simp] theorem ackFields_still (m : Module) : m.ackFields.2.still = m.still := by
  unfold Module.ackFields
  dsimp only
  split
  · exact fr2_still ..
  split
  · exact fr0_still ..
  split
  · exact fr1_still ..
  split
  · exact fr3_still ..
  · rfl

@[simp] theorem sendFlit_stills (s : State) (m h : Nat) (b : Bytes) : (s.sendFlit m h b).stills = s.stills := by
  unfold State.sendFlit
  have he : ∀ (u : State) e, (u.emit e).stills = u.stills := fun _ _ => rfl
  have hx := ackFields_still (s.mod (4 + m))
  generalize (s.mod (4 + m)).ackFields = y at hx
  dsimp only
  rw [he]
  exact modMod_set_stills hx

@[simp] theorem sendCtl_stills (s : State) (m : Nat) (b : Bytes) : (s.sendCtl m b).stills = s.stills := by
  unfold State.sendCtl
  exact sendFlit_stills ..

@[simp] theorem sendPackets_stills (s : State) (m : Nat) (l : List Packet) : (s.sendPackets m l).stills = s.stills := by
  unfold State.sendPackets
  split
  · rfl
  · dsimp only
    split
    · rw [sendFlit_stills]; exact modMod_stills fun _ => rfl
    · rw [sendFlit_stills]
      have hh : ∀ (u : State) k a b c, ((u.keyTake k).count a b c).stills = u.stills := fun u k a b c => stills_of_links (links_eq (by simp))
      exact (hh _ _ _ _ _).trans (modMod_stills fun _ => rfl)

theorem pumpOne_stills {s t : State} {m : Nat} (h : s.pumpOne m = some t) : t.stills = s.stills := by
  unfold State.pumpOne at h
  dsimp only at h
  split at h
  · simp at h
  · split at h
    · simp at h
    · simp only [Option.some.injEq] at h
      rw [← h, sendPackets_stills]
      refine modMod_set_stills ?_
      refine Eq.trans (b := (Module.gather _ _ _ _ _ _).1.still) rfl ?_
      rw [gather_still, take_still]

theorem pumpN_stills (m : Nat) : ∀ (n : Nat) (s : State), (s.pumpN m n).stills = s.stills
  | 0, _ => rfl
  | n + 1, s => by
    unfold State.pumpN
    split
    · rename_i h; rw [pumpN_stills m n, pumpOne_stills h]
    · rfl

@[simp] theorem pump_stills (s : State) (m : Nat) : (s.pump m).stills = s.stills := pumpN_stills ..

@[simp] theorem queuePacket_stills (s : State) (m : Nat) (p : Packet) : (s.queuePacket m p).stills = s.stills := by
  unfold State.queuePacket
  rw [pump_stills]
  exact modMod_stills fun _ => setQueue_still ..

theorem sendIdle_stills (m : Nat) : ∀ (n : Nat) (s : State), (s.sendIdle m n).stills = s.stills
  | 0, _ => rfl
  | n + 1, s => by
    unfold State.sendIdle
    split
    · rw [sendIdle_stills m n, sendFlit_stills]
    · rfl

/-! ## What handling a packet leaves -/

@[simp] theorem sendResponse_stills (s : State) (p d t : Nat) (b : Bytes) (r : Bool) : (s.sendResponse p d t b r).stills = s.stills := by
  unfold State.sendResponse; split <;> simp

theorem freeTag_links {s t : State} {k : Nat} (h : s.freeTag = some (k, t)) : t.links = s.links :=
  links_eq (State.freeTag_hide (by simp) s k t h)

theorem sendPeer_stills {s t : State} {r : Req} {vc : Nat} (h : s.sendPeer r vc = some (some t)) : t.stills = s.stills := by
  unfold State.sendPeer at h
  split at h
  · simp at h
  · split at h
    · simp at h
    · split at h
      · simp at h
      · rename_i h1
        rw [← Option.some.inj (Option.some.inj h), queuePacket_stills]
        exact stills_of_mods (by rw [← freeTag_links h1]; rfl)

theorem stills_of_other {s t : State} (h : t.hide (allBut .links) = s.hide (allBut .links)) : t.stills = s.stills := stills_of_links (links_eq h)

theorem accessPeer_stills (s : State) (a : Access) (pa : Nat) : (s.accessPeer a pa).2.stills = s.stills := by
  unfold State.accessPeer
  extract_lets n
  split
  · rfl
  split
  · rfl
  split
  · rfl
  · rfl
  · rename_i h
    have h2 := sendPeer_stills h
    exact h2

theorem accessPhys_stills (s : State) (a : Access) (pa : Nat) (k : Option (Nat × Nat)) : (s.accessPhys a pa k).2.stills = s.stills := by
  unfold State.accessPhys
  extract_lets isAcc misplaced
  split
  · rfl
  split
  · rfl
  · rfl
  · split
    · rfl
    split
    · exact stills_of_other (by simp)
    · exact stills_of_other (by simp)
    · exact accessPeer_stills ..

@[simp] theorem access_stills (s : State) (a : Access) : (s.access a).2.stills = s.stills := by
  have ht : (s.translate a.part a.l1 a.asid a.va).2.stills = s.stills := stills_of_other (by simp)
  have hf : ∀ (u : State) m, (u.fileMiss m).stills = u.stills := fun u m => stills_of_other (by simp)
  unfold State.access
  dsimp only
  split
  · exact accessPhys_stills ..
  split
  · rfl
  split
  · rename_i h; rw [h] at ht; exact ht
  · rename_i h; rw [h] at ht; exact ht
  · rename_i h; rw [h] at ht; exact (hf ..).trans ht
  · rename_i h
    rw [h] at ht
    split
    · exact (stills_of_other (by simp)).trans ht
    · exact ht
    · exact (stills_of_other (by simp)).trans ht
    · exact (hf ..).trans ht
    · split
      · exact ht
      · exact (accessPhys_stills ..).trans ht

@[simp] theorem issueDst_stills (s : State) (p r pos o n : Nat) : (s.issueDst p r pos o n).stills = s.stills := by
  have hv : ∀ (u : State) f o d a v, ((u.modWork r pos f).onVerdict p r pos o d a v).stills = u.stills :=
    fun u f o d a v => stills_of_other (by simp)
  unfold State.issueDst
  split
  · rfl
  · dsimp only
    split
    · exact (stills_of_links rfl).trans (access_stills ..)
    · exact (hv ..).trans (access_stills ..)
    · exact (hv ..).trans (access_stills ..)
    · exact access_stills ..

@[simp] theorem feedDst_stills (s : State) (p r pos a b : Nat) : (s.feedDst p r pos a b).stills = s.stills := by
  unfold State.feedDst
  split
  · rfl
  split
  · rfl
  · refine each_stills (fun s x => ?_) _ s
    split
    · split
      · exact issueDst_stills ..
      · rfl
    · rfl

@[simp] theorem feedRest_stills (s : State) (p r pos : Nat) : (s.feedRest p r pos).stills = s.stills := by
  unfold State.feedRest
  split
  · rfl
  split
  · exact each_stills (fun s i => feedDst_stills ..) _ s
  · rfl

@[simp] theorem srcDone_stills (s : State) (q : Req) (r pos off len status : Nat) (b : Bool) (d : Bytes) :
    (s.srcDone q r pos off len status b d).stills = s.stills := by
  unfold State.srcDone
  split
  · rfl
  · have hs : ∀ (u : State) a b c, (u.settleWork a b c).stills = u.stills := fun u a b c => stills_of_other (by simp)
    dsimp only
    rw [hs, feedRest_stills]
    split
    · exact (feedDst_stills ..).trans (stills_of_links rfl)
    · exact stills_of_other (by simp)

@[simp] theorem endRead_stills (s : State) (q : Req) (status : Nat) (b : Bool) (d : Bytes) : (s.endRead q status b d).stills = s.stills := by
  have hf : (s.finishReq q).stills = s.stills := stills_of_other (by simp)
  have ha : ∀ u : State, (u.afterReq q).stills = u.stills := fun u => stills_of_other (by simp)
  unfold State.endRead
  dsimp only
  rw [ha]
  split
  · rw [srcDone_stills, hf]
  · exact (stills_of_other (by simp)).trans hf
  · exact (stills_of_other (by simp)).trans hf
  · exact hf

@[simp] theorem endPeer_stills (s : State) (t status : Nat) (b : Bool) (d : Bytes) : (s.endPeer t status b d).stills = s.stills := by
  have hw : ∀ (u : State) q, (u.endWrite q status b).stills = u.stills := fun u q => stills_of_other (by simp)
  unfold State.endPeer
  split
  · rfl
  · dsimp only
    split
    · rfl
    · split
      · exact (endRead_stills ..).trans (stills_of_mods rfl)
      · exact (hw ..).trans (stills_of_mods rfl)

theorem takeResponse_stills (s : State) (x : Rx) (b : Bool) : (s.takeResponse x b).stills = s.stills := by
  have hl : ∀ (u : State) a b c, (u.lostMessage a b c).stills = u.stills := fun u a b c => stills_of_other (by simp)
  unfold State.takeResponse
  dsimp only
  split
  · rfl
  split
  · split
    · split
      · rfl
      · exact (hl ..).trans rfl
    · rfl
  · split
    · rfl
    · split
      · rfl
      · exact endPeer_stills ..

theorem forward_stills (s : State) (m p : Nat) (x : Rx) (b : Bool) : (s.forward m p x b).stills = s.stills := by
  unfold State.forward
  extract_lets isReq port h
  split
  · exact queuePacket_stills ..
  · split
    · exact (sendResponse_stills ..).trans (modMod_stills fun _ => rfl)
    · rfl

theorem freeSlots_stills (s : State) (m : Nat) (x : Rx) : (s.freeSlots m x).stills = s.stills := by
  unfold State.freeSlots
  refine modMod_stills fun y => ?_
  split <;> rfl

theorem serveKpp_stills (s : State) (m p : Nat) (x : Rx) : (s.serveKpp m p x).stills = s.stills := by
  unfold State.serveKpp
  extract_lets w
  split
  · refine (sendResponse_stills ..).trans (Eq.trans (modMod_stills ?_) (stills_of_links (s := s) rfl))
    intro y; rfl
  · have hc : ∀ (u : State) a b c r, ((u.count a b c).send r).stills = u.stills := fun u a b c r => stills_of_other (by simp)
    exact (hc ..).trans (stills_of_mods rfl)

theorem takeReport_stills (s : State) (p : Nat) (b : Bytes) : (s.takeReport p b).stills = s.stills := stills_of_other (by simp)

theorem deliver_stills (s : State) (m p : Nat) (x : Rx) : (s.deliver m p x).stills = s.stills := by
  rw [← freeSlots_stills s m x]
  unfold State.deliver
  generalize s.freeSlots m x = u
  dsimp only
  split
  · split
    · exact sendResponse_stills ..
    · rfl
  split
  · split
    · exact (sendResponse_stills ..).trans (modMod_stills fun _ => rfl)
    · exact modMod_stills fun _ => rfl
  split
  · exact forward_stills ..
  split
  · exact serveKpp_stills ..
  split
  · exact (sendResponse_stills ..).trans (takeReport_stills ..)
  · exact takeResponse_stills ..

/-! ## State changes -/

/-- A module that enters a state is in it; no module changes otherwise. -/
theorem setModState_mod (s : State) (k st j : Nat) : (s.setModState k st).mod j = if j = k then { s.mod k with st := st } else s.mod j := by
  rw [← modMod_mod s k j fun m => { m with st := st }]
  unfold State.setModState
  dsimp only
  have h : ((s.modMod k fun m => { m with st := st }).settleUnit (64 + k)).links = (s.modMod k fun m => { m with st := st }).links := links_eq (by simp)
  split
  · exact mod_of_mods (congrArg Links.mods h) j
  · exact mod_of_mods (congrArg Links.mods h) j

theorem setModState_at (s : State) (k st : Nat) : (s.setModState k st).mod k = { s.mod k with st := st } := by rw [setModState_mod]; simp

/-- A module that comes up is in LINK_UP, with no attempt counted. -/
theorem linkUp_at (s : State) (k : Nat) : ((s.linkUp k).mod k).still = { (s.mod k).still with st := 5, attempts := 0, downCause := 0 } := by
  have hm : ∀ (u : State) (l : Nat), ({ u with links := { u.links with ioModule := l } } : State).mod k = u.mod k := fun _ _ => rfl
  unfold State.linkUp
  extract_lets s1 l1 s2
  have h1 : (s1.mod k).still = { (s.mod k).still with st := 5, attempts := 0, downCause := 0 } := by
    show ((State.setModState _ k 5).mod k).still = _
    rw [setModState_at, modMod_at]; rfl
  have h2 : s2.mod k = s1.mod k := by
    show State.mod (ite _ _ _) k = _
    split
    · exact hm ..
    · rfl
  split
  · rw [h2, h1]
  · rw [still_of (pump_stills ..), h2, h1]

/-! ## Flits -/

theorem crcBits_lt : ∀ (n c : Nat), c < 2 ^ 64 → crcBits n c < 2 ^ 64
  | 0, _, h => h
  | n + 1, c, h => by
    unfold crcBits
    apply crcBits_lt n
    split
    · omega
    · exact Nat.xor_lt_two_pow (by omega) (by decide)

theorem crc64_lt : ∀ (b : Bytes) (c : Nat), c < 2 ^ 64 → crc64 c b < 2 ^ 64
  | [], _, h => h
  | x :: b, c, h => by
    unfold crc64
    apply crc64_lt b
    apply crcBits_lt
    apply Nat.xor_lt_two_pow h
    rw [Nat.shiftLeft_eq]
    have := x.isLt
    omega

theorem leBytes_length : ∀ (n v : Nat), (leBytes n v).length = n
  | 0, _ => rfl
  | n + 1, v => by unfold leBytes; rw [List.length_cons, leBytes_length n]

theorem leNat_leBytes : ∀ (n v : Nat), leNat (leBytes n v) = v % 256 ^ n
  | 0, v => by simp [leBytes, leNat, Nat.mod_one]
  | n + 1, v => by
    unfold leBytes leNat
    have h : 256 ^ (n + 1) = 256 * 256 ^ n := by rw [Nat.pow_succ, Nat.mul_comm]
    rw [leNat_leBytes n, BitVec.toNat_ofNat, h, Nat.mod_mul]

theorem padTo_length (n : Nat) (b : Bytes) : (padTo n b).length = n := by
  unfold padTo zeros
  rw [List.length_take, List.length_append, List.length_replicate]
  omega

/-- A flit as it is sent has a good CRC. -/
theorem flitBytes_good (h : Nat) (b : Bytes) : flitGood (flitBytes h b) = true := by
  unfold flitGood flitBytes
  have hl : (leBytes 8 h ++ padTo 240 b).length = 248 := by rw [List.length_append, leBytes_length, padTo_length]
  have h1 : (leBytes 8 h ++ padTo 240 b ++ leBytes 8 (crc64 0 (leBytes 8 h ++ padTo 240 b))).length = 256 := by
    rw [List.length_append, hl, leBytes_length]
  have h2 : List.take 248 (leBytes 8 h ++ padTo 240 b ++ leBytes 8 (crc64 0 (leBytes 8 h ++ padTo 240 b))) = leBytes 8 h ++ padTo 240 b := by
    rw [List.take_append_of_le_length (by rw [hl]), ← hl, List.take_length]
  have h3 : fieldAt (leBytes 8 h ++ padTo 240 b ++ leBytes 8 (crc64 0 (leBytes 8 h ++ padTo 240 b))) 248 8 = crc64 0 (leBytes 8 h ++ padTo 240 b) := by
    unfold fieldAt
    rw [List.drop_append_of_le_length (by rw [hl]), ← hl, List.drop_length, List.nil_append, List.take_of_length_le (by rw [leBytes_length]), leNat_leBytes]
    exact Nat.mod_eq_of_lt (crc64_lt _ _ (by decide))
  simp only [h1, h2, h3, beq_self_eq_true, Bool.and_self]

theorem flitBytes_length (h : Nat) (b : Bytes) : (flitBytes h b).length = 256 := by
  unfold flitBytes
  simp only [List.length_append, leBytes_length, padTo_length]

theorem flitBytes_hdr (h : Nat) (b : Bytes) : hdr (flitBytes h b) = h % 2 ^ 64 := by
  unfold hdr fieldAt flitBytes
  rw [List.drop_zero, List.append_assoc, List.take_append_of_le_length (by rw [leBytes_length]),
    List.take_of_length_le (by rw [leBytes_length]), leNat_leBytes]
  rfl

/-- What a module keeps while acknowledgements and replays are handled. -/
def Module.calm (m : Module) : Module := { m.still with replaysHere := 0, replays := 0 }

theorem foldl_keyGive_stills (l : List TxFlit) (u : State) : (l.foldl (fun s f => s.keyGive f.key) u).stills = u.stills := by
  induction l generalizing u with
  | nil => rfl
  | cons a l ih => rw [List.foldl_cons, ih]; exact stills_of_other (by simp)

theorem freeRetry_calm (s : State) (m j k : Nat) : ((s.freeRetry m j).mod k).calm = (s.mod k).calm := by
  unfold State.freeRetry
  dsimp only
  split
  · rfl
  · rename_i i _
    have h := still_of (foldl_keyGive_stills (List.take (i + 1) (s.mod (4 + m)).retry) s)
    rw [modMod_mod]
    split
    · rename_i hk
      subst hk
      have h2 := h (4 + m)
      generalize (List.foldl _ s _).mod (4 + m) = x at h2
      exact (congrArg (fun y : Module => { y with replaysHere := 0, replays := 0 }) h2 : _)
    · exact (congrArg (fun y : Module => { y with replaysHere := 0, replays := 0 }) (h k) : _)

theorem calm_of_still {a b : Module} (h : a.still = b.still) : a.calm = b.calm := congrArg (fun y : Module => { y with replaysHere := 0, replays := 0 }) h

/-- Taking a flit's acknowledgement and credits leaves the receiver, the state and the errors. -/
theorem takeAck_calm (s : State) (m : Nat) (b : Bytes) (k : Nat) : ((s.takeAck m b).mod k).calm = (s.mod k).calm := by
  unfold State.takeAck
  dsimp only
  rw [calm_of_still (still_of (pump_stills ..) k)]
  have hm : ∀ (u : State) a c, ((u.modMod (4 + m) fun x => x.addCredit a c false).mod k).calm = (u.mod k).calm := fun u a c =>
    calm_of_still (still_of (modMod_stills fun _ => addCredit_still ..) k)
  rw [hm]
  split
  · exact freeRetry_calm ..
  · rfl

theorem resend_stills (s : State) (m : Nat) : (s.resend m).stills = s.stills := each_stills (fun _ _ => sendFlit_stills ..) _ s

/-- A replay that is not the fifth without progress counts one. -/
theorem replay_at {s : State} {k : Nat} (h : (s.mod k).replaysHere < 4) :
    ((s.replay k).mod k).still = { (s.mod k).still with replays := satAdd 16 (s.mod k).replays 1, replaysHere := (s.mod k).replaysHere + 1 } := by
  unfold State.replay
  rw [if_neg (by omega)]
  extract_lets s1
  split
  · show ((State.modMod _ _ _).mod k).still = _
    rw [modMod_at]; rfl
  · rw [still_of (resend_stills ..)]
    show ((State.modMod _ _ _).mod k).still = _
    rw [modMod_at]; rfl

/-- Freeing retry entries never brings a module nearer to RETRAIN. -/
theorem freeRetry_few (s : State) (m j k : Nat) (h : (s.mod k).replaysHere < 4) : ((s.freeRetry m j).mod k).replaysHere < 4 ∧
    ((s.freeRetry m j).mod k).replays = (s.mod k).replays ∧ ((s.freeRetry m j).mod k).st = (s.mod k).st := by
  unfold State.freeRetry
  dsimp only
  split
  · exact ⟨h, rfl, rfl⟩
  · rename_i i _
    have hx := foldl_keyGive_stills (List.take (i + 1) (s.mod (4 + m)).retry) s
    generalize List.foldl _ s _ = u at hx
    have hk := still_of hx k
    rw [modMod_mod]
    split
    · rename_i e
      subst e
      exact ⟨Nat.zero_lt_succ _, (congrArg Module.replays hk : (u.mod (4 + m)).still.replays = _), (congrArg Module.st hk : (u.mod (4 + m)).still.st = _)⟩
    · have h1 : (u.mod k).replaysHere = (s.mod k).replaysHere := (congrArg Module.replaysHere hk : (u.mod k).still.replaysHere = _)
      exact ⟨by rw [h1]; exact h, (congrArg Module.replays hk : (u.mod k).still.replays = _), (congrArg Module.st hk : (u.mod k).still.st = _)⟩

/-- Nor does taking an acknowledgement. -/
theorem takeAck_few (s : State) (m : Nat) (b : Bytes) (k : Nat) (h : (s.mod k).replaysHere < 4) : ((s.takeAck m b).mod k).replaysHere < 4 ∧
    ((s.takeAck m b).mod k).replays = (s.mod k).replays ∧ ((s.takeAck m b).mod k).st = (s.mod k).st := by
  unfold State.takeAck
  extract_lets w s1
  have h1 : (s1.mod k).replaysHere < 4 ∧ (s1.mod k).replays = (s.mod k).replays ∧ (s1.mod k).st = (s.mod k).st := by
    have : ∀ c : Bool, ((if c then s.freeRetry m (bits w 36 10) else s).mod k).replaysHere < 4 ∧
        ((if c then s.freeRetry m (bits w 36 10) else s).mod k).replays = (s.mod k).replays ∧
        ((if c then s.freeRetry m (bits w 36 10) else s).mod k).st = (s.mod k).st := by
      intro c
      cases c
      · exact ⟨h, rfl, rfl⟩
      · exact freeRetry_few s m _ k h
    exact this _
  have h2 : ((s1.modMod (4 + m) fun x => x.addCredit (bits w 33 2) (bits w 20 13) false).pump m).stills = s1.stills :=
    (pump_stills ..).trans (modMod_stills fun _ => addCredit_still ..)
  generalize (s1.modMod (4 + m) fun x => x.addCredit (bits w 33 2) (bits w 20 13) false).pump m = u at h2
  have hk := still_of h2 k
  have e : (u.mod k).replaysHere = (s1.mod k).replaysHere := (congrArg Module.replaysHere hk : (u.mod k).still.replaysHere = _)
  exact ⟨by rw [e]; exact h1.1, (congrArg Module.replays hk : (u.mod k).still.replays = _).trans h1.2.1,
    (congrArg Module.st hk : (u.mod k).still.st = _).trans h1.2.2⟩

/-- A replay below the limit counts one. -/
theorem replay_few (s : State) (k : Nat) (h : (s.mod k).replaysHere < 4) : ((s.replay k).mod k).replays = satAdd 16 (s.mod k).replays 1 ∧
    ((s.replay k).mod k).st = (s.mod k).st ∧ 0 < ((s.replay k).mod k).replaysHere := by
  have hr := replay_at h
  generalize (s.replay k).mod k = x at hr
  have e : x.replaysHere = (s.mod k).replaysHere + 1 := (congrArg Module.replaysHere hr : x.still.replaysHere = _)
  exact ⟨(congrArg Module.replays hr : x.still.replays = _), (congrArg Module.st hr : x.still.st = _), by omega⟩

theorem pump_few (s : State) (m k : Nat) : ((s.pump m).mod k).replays = (s.mod k).replays ∧ ((s.pump m).mod k).st = (s.mod k).st ∧
    ((s.pump m).mod k).replaysHere = (s.mod k).replaysHere := by
  have hk := still_of (pump_stills s m) k
  generalize (s.pump m).mod k = x at hk
  exact ⟨(congrArg Module.replays hk : x.still.replays = _), (congrArg Module.st hk : x.still.st = _),
    (congrArg Module.replaysHere hk : x.still.replaysHere = _)⟩

/-! ## What sending leaves of the links but the modules -/

/-- The links without the modules. -/
def State.wires (s : State) : Links := { s.links with mods := [] }

@[simp] theorem modMod_wires (s : State) (k : Nat) (f : Module → Module) : (s.modMod k f).wires = s.wires := rfl

theorem sendFlit_wires (s : State) (m h : Nat) (b : Bytes) : (s.sendFlit m h b).wires = s.wires := by
  unfold State.sendFlit
  generalize (s.mod (4 + m)).ackFields = y
  rfl

theorem sendPackets_wires (s : State) (m : Nat) (l : List Packet) : (s.sendPackets m l).wires = s.wires := by
  have hh : ∀ (u : State) k a b c, ((u.keyTake k).count a b c).wires = u.wires := fun u k a b c => by
    unfold State.wires; rw [links_eq (t := u) (by simp)]
  unfold State.sendPackets
  split
  · rfl
  · dsimp only
    split
    · rw [sendFlit_wires]; rfl
    · rw [sendFlit_wires, hh]; rfl

theorem pumpN_wires (m : Nat) : ∀ (n : Nat) (s : State), (s.pumpN m n).wires = s.wires
  | 0, _ => rfl
  | n + 1, s => by
    unfold State.pumpN
    split
    · rename_i t h
      rw [pumpN_wires m n]
      unfold State.pumpOne at h
      dsimp only at h
      split at h
      · simp at h
      · split at h
        · simp at h
        · simp only [Option.some.injEq] at h
          rw [← h, sendPackets_wires]
          rfl
    · rfl

theorem pump_wires (s : State) (m : Nat) : (s.pump m).wires = s.wires := pumpN_wires ..

theorem sendResponse_wires (s : State) (p d t : Nat) (b : Bytes) (r : Bool) : (s.sendResponse p d t b r).wires = s.wires := by
  unfold State.sendResponse
  split
  · unfold State.queuePacket; rw [pump_wires]; rfl
  · rfl

end Sys2Proof.Machine
end

