-- ==== Sys2Proof/Laws/Ports.lean ====
section
/-! SUPPORT. The two inbound ports, Capo, events and answers. -/

namespace Sys2Proof.Machine

/-! ## Events -/

theorem notify_log (s : State) (m : Nat) (e : EventRec) : (s.notify m e).mc.log = s.mc.log := by
  unfold State.notify
  dsimp only
  split
  · rfl
  · rw [mc_eq (State.signalBox_hide (by simp) _ _)]; rfl

theorem notifyAll_log (s : State) (l : List Nat) (e : EventRec) : (s.each l fun s m => s.notify m e).mc.log = s.mc.log := by
  unfold State.each
  induction l generalizing s with
  | nil => rfl
  | cons x xs ih => rw [List.foldl_cons, ih, notify_log]

/-- What logging an event makes of the log. -/
theorem event_log (s : State) (code domain cycle : Nat) (unit part : Option Nat) (data : Nat) :
    ∃ e : EventRec, (e.code = code ∧ e.unit = unit ∧ e.part = part ∧ e.data = data % 2 ^ 64) ∧
      (s.event code domain cycle unit part data).mc.log = (s.mc.log ++ [e]).drop ((s.mc.log ++ [e]).length - 4096) := by
  refine ⟨{ seq := s.mc.seq, cycle := cycle % 2 ^ 48, domain := domain, code := code, part := part, unit := unit, data := data % 2 ^ 64 },
    ⟨rfl, rfl, rfl, rfl⟩, ?_⟩
  unfold State.event
  dsimp only
  rw [notifyAll_log]

theorem event_logged (s : State) (code domain cycle : Nat) (unit part : Option Nat) (data : Nat) :
    Logged (s.event code domain cycle unit part data) code unit part data := by
  obtain ⟨e, he, h⟩ := event_log s code domain cycle unit part data
  refine ⟨e, ?_, he⟩
  rw [h, List.drop_append_of_le_length]
  · simp
  · simp

/-- A later change that leaves the log alone keeps the record. -/
theorem Logged.keep {s t : State} {code : Nat} {unit part : Option Nat} {data : Nat} (h : Logged s code unit part data)
    (e : t.mc.log = s.mc.log) : Logged t code unit part data := by
  obtain ⟨x, hx, h⟩ := h
  exact ⟨x, e ▸ hx, h⟩

@[simp] theorem tlp_mc (s : State) : s.tlp.mc = s.mc := rfl
@[simp] theorem tlp_outbox (s : State) : s.tlp.outbox = s.outbox := rfl
@[simp] theorem tlp_pt (s : State) : s.tlp.pt = s.pt := rfl
@[simp] theorem tlp_nextReq (s : State) : s.tlp.nextReq = s.nextReq := rfl

/-! ## The queue of a port -/

@[simp] theorem setItems_items (s : State) (port : Nat) (l : List InItem) : (s.setItems port l).inItems port = l := by
  unfold State.setItems State.inItems
  by_cases h : port = 0
  · rw [if_pos h, if_pos h]
  · rw [if_neg h, if_neg h]; rfl

@[simp] theorem setItems_outbox (s : State) (port : Nat) (l : List InItem) : (s.setItems port l).outbox = s.outbox := by
  unfold State.setItems; split <;> rfl
@[simp] theorem setItems_nextReq (s : State) (port : Nat) (l : List InItem) : (s.setItems port l).nextReq = s.nextReq := by
  unfold State.setItems; split <;> rfl

theorem pumpPort_empty (s : State) (port n : Nat) (h : s.inItems port = []) : s.pumpPort port n = s := by
  cases n with
  | zero => rfl
  | succ n => simp [State.pumpPort, h, State.pumpStep]

theorem splitData_short {lo n : Nat} {d : Bytes} (h : d.length ≤ 512 - lo) (hn : 0 < n) : splitData lo n d = [d] := by
  cases n with
  | zero => omega
  | succ n => simp [splitData, h]

/-- A completion leaves the queues of inbound requests alone, but where it freezes the port. -/
theorem complete_items (s : State) (port txn lo status : Nat) (p : Bool) (d : Bytes) (h : status ≠ 4) :
    (s.complete port txn lo status p d).inItems port = s.inItems port := by
  have key : ∀ (t : State) (l : List Bytes), (t.each l fun s d => s.emit (.completion (port == 0) txn 0 p d)).links = t.links ∧
      (t.each l fun s d => s.emit (.completion (port == 0) txn 0 p d)).px = t.px := by
    intro t l
    unfold State.each
    induction l generalizing t with
    | nil => exact ⟨rfl, rfl⟩
    | cons x xs ih => exact ih _
  have h4 : (decide (port = 1) && decide (status = 4)) = false := by simp [h]
  unfold State.complete State.inItems
  dsimp only
  rw [h4]
  by_cases h0 : status = 0
  · rw [if_neg (not_not_intro h0), (key ..).1, (key ..).2]
    by_cases hp : port = 1
    · subst hp; rfl
    · rw [if_neg hp]
  · rw [if_pos h0]
    by_cases hp : port = 1
    · subst hp; rfl
    · rw [if_neg hp]; rfl

/-- A request answered at once, on a port with nothing before it, completes at once. -/
theorem take_answered (s : State) (port txn lo status : Nat) (p c : Bool) (d : Bytes) (h : s.inItems port = []) (h4 : status ≠ 4) :
    s.take port (.answered txn lo status p c d) =
      ((s.setItems port [.answered txn lo status p c d]).setItems port []).complete port txn lo status p d := by
  unfold State.take
  rw [h]
  show State.pumpPort _ port 3 = _
  unfold State.pumpPort
  rw [setItems_items]
  show State.pumpPort _ port 2 = _
  rw [pumpPort_empty]
  · rfl
  · rw [complete_items _ _ _ _ _ _ _ h4]; exact setItems_items ..

/-- The one completion of a short answer. -/
theorem complete_outbox (s : State) (port txn lo status : Nat) (p : Bool) (d : Bytes) (h : d.length ≤ 512 - lo % 64) (h4 : status ≠ 4) :
    (s.complete port txn lo status p d).outbox = s.outbox ++ [.completion (port == 0) txn status p (if status = 0 then d else [])] := by
  unfold State.complete
  dsimp only
  by_cases h0 : status = 0
  · subst h0
    rw [if_neg (by simp), splitData_short h (by omega), if_pos rfl]
    simp only [State.each, List.foldl_cons, List.foldl_nil]
    split <;> rfl
  · rw [if_pos h0, if_neg h0]
    have h4' : (decide (port = 1) && decide (status = 4)) = false := by simp [h4]
    rw [h4']
    simp only [Bool.false_eq_true, if_false]
    split <;> rfl

theorem take_answered_outbox (s : State) (port txn lo status : Nat) (p c : Bool) (d : Bytes) (h : s.inItems port = []) (h4 : status ≠ 4)
    (hd : d.length ≤ 512 - lo % 64) :
    (s.take port (.answered txn lo status p c d)).outbox = s.outbox ++ [.completion (port == 0) txn status p (if status = 0 then d else [])] := by
  rw [take_answered _ _ _ _ _ _ _ _ h h4, complete_outbox _ _ _ _ _ _ _ hd h4]
  simp

/-- The die-fabric request of an inbound access. -/
theorem sendInbound_sent (s : State) (port : Nat) (part : Option Nat) (pa len : Nat) (data : Option Bytes) :
    Sent (s.sendInbound port part pa len data) (.inboundWrite port s.nextReq) (if data.isSome then .write else .read) pa len (data.getD []) := by
  unfold State.sendInbound
  dsimp only
  exact send_sent _ _

/-- A read of memory with nothing before it issues at once. -/
theorem take_read_sent (s : State) (port txn lo len : Nat) (part : Option Nat) (pa : Nat) (h : s.inItems port = []) :
    Sent (s.take port (.read txn lo len (.memory part pa))) (.inboundWrite port s.nextReq) .read pa len [] := by
  unfold State.take
  rw [h]
  show Sent (State.pumpPort _ port 3) _ _ _ _ _
  unfold State.pumpPort
  rw [setItems_items]
  show Sent (State.pumpPort _ port 2) _ _ _ _ _
  generalize hu : State.sendInbound _ _ _ _ _ _ = u
  have hs : Sent u (.inboundWrite port s.nextReq) .read pa len [] := by
    rw [← hu]
    have := sendInbound_sent ((s.setItems port [.read txn lo len (.memory part pa)]).setItems port ([] ++ [InItem.reading txn lo (s.setItems port [.read txn lo len (.memory part pa)]).nextReq] ++ []))
      port part pa len none
    simpa using this
  have hi : u.pumpStep port false false [] (u.inItems port) = none := by
    have : u.inItems port = [.reading txn lo s.nextReq] := by
      rw [← hu]
      unfold State.sendInbound
      dsimp only
      generalize hv : State.setItems _ port ([] ++ _ ++ _) = v
      have hv' : v.inItems port = [.reading txn lo s.nextReq] := by rw [← hv, setItems_items]; simp
      rw [← hv']
      have hl : ∀ (x : State) p a b, (x.count p a b).links = x.links ∧ (x.count p a b).px = x.px := fun x p a b => ⟨links_eq (by simp), px_eq (by simp)⟩
      unfold State.inItems State.send
      dsimp only
      cases part with
      | none => rfl
      | some p => dsimp only; rw [(hl ..).1, (hl ..).2]
    rw [this]
    rfl
  unfold State.pumpPort
  rw [hi]
  exact hs

/-! ## Capo -/

/-- What Capo, its logging and the end of inbound requests may change of the port. -/
def Px.calm (x : Px) : Px :=
  { x.rest with frozen := false, cause := 0, triggerErr := 0, triggers := 0, trigAt := none, frozenAt := none, releaseAt := none
                refusedReleases := 0, refusedAt := none, linkUp := false, linkWidth := 0, linkRate := 0, wasDown := false
                frozenDiscards := 0, inbound := [] }

theorem each_discards {f : State → InItem → State} (h : ∀ t i, ∃ d, (f t i).px = { t.px with frozenDiscards := d }) (l : List InItem) (t : State) :
    ∃ d, (t.each l f).px = { t.px with frozenDiscards := d } := by
  unfold State.each
  induction l generalizing t with
  | nil => exact ⟨t.px.frozenDiscards, rfl⟩
  | cons i is ih =>
    obtain ⟨d, hd⟩ := ih (f t i)
    obtain ⟨e, he⟩ := h t i
    exact ⟨d, by rw [List.foldl_cons, hd, he]⟩

theorem abortReads_px (s : State) : ∃ d l, s.abortReads.px = { s.px with frozenDiscards := d, inbound := l } := by
  unfold State.abortReads
  dsimp only
  generalize hs : State.mk _ _ _ _ _ _ _ _ _ _ _ _ _ _ _ _ _ _ _ _ = t
  have ht : t.px = s.px := by rw [← hs]
  generalize hu : t.each s.px.inbound _ = u
  have key : ∃ d, u.px = { t.px with frozenDiscards := d } := by
    rw [← hu]
    refine each_discards (fun t i => ?_) _ _
    cases i with
    | answered txn lo st p c data =>
      cases c
      · exact ⟨_, rfl⟩
      · dsimp only
        split
        · exact ⟨_, rfl⟩
        · exact ⟨_, rfl⟩
    | _ => exact ⟨_, rfl⟩
  obtain ⟨d, hd⟩ := key
  have hp : ∀ f : Px → List InItem, (u.modPx fun x => { x with inbound := f x }).px = { s.px with frozenDiscards := d, inbound := f u.px } := by
    intro f
    unfold State.modPx
    dsimp only
    rw [hd, ht]
  exact ⟨d, _, hp _⟩

theorem event_rest (s : State) (code domain cycle : Nat) (unit part : Option Nat) (data : Nat) :
    (s.event code domain cycle unit part data).px.rest = s.px.rest := pxRest_eq (by simp)

/-- A trigger of a port that runs freezes it. -/
theorem capo_fresh (s : State) (cause err : Nat) (h : s.px.frozen = false) :
    (s.capoTrigger cause err).px.frozen = true ∧ (s.capoTrigger cause err).px.cause = cause ∧ (s.capoTrigger cause err).px.triggerErr = err ∧
      (s.capoTrigger cause err).px.frozenAt = some s.clk.px ∧ (s.capoTrigger cause err).px.triggers = satAdd 16 s.px.triggers 1 ∧
      (s.capoTrigger cause err).px.linkUp = (s.px.linkUp && !(s.px.rootPort && cause != 5)) ∧
      (s.capoTrigger cause err).px.calm = s.px.calm ∧
      ∃ st, Logged (s.capoTrigger cause err) 0x42 none none st := by
  unfold State.capoTrigger
  dsimp only
  rw [h]
  simp only [Bool.false_eq_true, if_false]
  generalize hu : State.holdLink _ = u
  have hpx : u.px.frozen = true ∧ u.px.cause = cause ∧ u.px.triggerErr = err ∧ u.px.frozenAt = some s.clk.px ∧
      u.px.triggers = satAdd 16 s.px.triggers 1 ∧ u.px.linkUp = (s.px.linkUp && !(s.px.rootPort && cause != 5)) ∧ u.px.calm = s.px.calm := by
    rw [← hu]
    unfold State.holdLink State.modPx
    dsimp only
    split <;> rename_i hb
    · rw [hb]; exact ⟨rfl, rfl, rfl, rfl, rfl, by simp, rfl⟩
    · rw [Bool.not_eq_true] at hb
      rw [hb]; exact ⟨rfl, rfl, rfl, rfl, rfl, by simp, rfl⟩
  obtain ⟨d, l, hd⟩ := abortReads_px u
  generalize u.abortReads = v at hd
  obtain ⟨h1, h2, h3, h4, h5, h6, h7⟩ := hpx
  generalize hc : u.px.capoStatus = c
  have he := event_rest v 0x42 4 s.clk.px none none (bits c 0 16)
  have hg := event_logged v 0x42 4 s.clk.px none none (bits c 0 16)
  generalize State.event v _ _ _ _ _ _ = w at he hg
  have hf : ∀ {α : Type} (f : Px → α), (∀ x, f x.rest = f x) → f w.px = f v.px := fun f hx => by rw [← hx, he, hx]
  refine ⟨?_, ?_, ?_, ?_, ?_, ?_, ?_, _, hg⟩
  · rw [hf Px.frozen fun _ => rfl, hd]; exact h1
  · rw [hf Px.cause fun _ => rfl, hd]; exact h2
  · rw [hf Px.triggerErr fun _ => rfl, hd]; exact h3
  · rw [hf Px.frozenAt fun _ => rfl, hd]; exact h4
  · rw [hf Px.triggers fun _ => rfl, hd]; exact h5
  · rw [hf Px.linkUp fun _ => rfl, hd]; exact h6
  · rw [hf Px.calm fun _ => rfl, hd]; exact h7

/-- A trigger of no higher precedence in the cycle of the freeze changes no cause. -/
theorem capo_again (s : State) (cause err : Nat) (h : s.px.frozen = true) (hr : capoRank s.px.cause ≤ capoRank cause) :
    (s.capoTrigger cause err).px.frozen = true ∧ (s.capoTrigger cause err).px.cause = s.px.cause ∧
      (s.capoTrigger cause err).px.linkUp = s.px.linkUp ∧ (s.capoTrigger cause err).mc = s.mc := by
  unfold State.capoTrigger
  dsimp only
  rw [h]
  rw [if_pos rfl]
  have hn : decide (capoRank cause < capoRank s.px.cause) = false := by simpa using hr
  rw [hn, Bool.and_false]
  simp only [Bool.false_eq_true, if_false]
  split <;> exact ⟨h, rfl, rfl, rfl⟩

/-- What is logged of an uncorrectable error touches the port's AER registers only. -/
theorem aerUncorrectable_px (s : State) (b : Nat) (hd : Bytes) :
    ∃ c f l, (s.aerUncorrectable b hd).px = { s.px with uncStatus := s.px.uncStatus ||| 2 ^ b, corStatus := c, firstErr := f, headerLog := l } := by
  unfold State.aerUncorrectable State.aerCorrectable
  dsimp only
  split
  · exact ⟨_, _, _, rfl⟩
  · split
    · exact ⟨_, _, _, rfl⟩
    · split <;> exact ⟨_, _, _, rfl⟩

theorem aerUncorrectable_clk (s : State) (b : Nat) (hd : Bytes) : (s.aerUncorrectable b hd).clk = s.clk := by
  unfold State.aerUncorrectable State.aerCorrectable
  dsimp only
  split
  · rfl
  · split
    · rfl
    · split <;> rfl

theorem aerUncorrectable_mc (s : State) (b : Nat) (hd : Bytes) : (s.aerUncorrectable b hd).mc = s.mc := by
  unfold State.aerUncorrectable State.aerCorrectable
  dsimp only
  split
  · rfl
  · split
    · rfl
    · split <;> rfl

theorem holdLink_unc (s : State) : s.holdLink.px.uncStatus = s.px.uncStatus := by unfold State.holdLink; split <;> rfl

/-- A trigger of Capo leaves AER Uncorrectable Status alone. -/
theorem capo_unc (s : State) (cause err : Nat) : (s.capoTrigger cause err).px.uncStatus = s.px.uncStatus := by
  by_cases h : s.px.frozen = true
  · unfold State.capoTrigger
    dsimp only
    rw [h, if_pos rfl]
    split
    · rw [holdLink_unc]; unfold State.modPx; dsimp only; split <;> rfl
    · split <;> rfl
  · have := (capo_fresh s cause err (by simpa using h)).2.2.2.2.2.2.1
    exact (congrArg Px.uncStatus this : Px.uncStatus (Px.calm _) = Px.uncStatus (Px.calm _))

theorem bit_testBit (w i : Nat) : bit w i = w.testBit i := by
  unfold bit bits
  rw [Nat.testBit_eq_decide_div_mod_eq, pow_one, beq_eq_decide, Nat.shiftRight_eq_div_pow]

theorem bit_lor (a b i : Nat) : bit (a ||| b) i = (bit a i || bit b i) := by
  rw [bit_testBit, bit_testBit, bit_testBit, Nat.testBit_or]

/-- The record of the event before stays. -/
theorem event_keeps {s : State} {l : List EventRec} {x : EventRec} (h : s.mc.log = l ++ [x]) (code domain cycle : Nat) (unit part : Option Nat)
    (data : Nat) : x ∈ (s.event code domain cycle unit part data).mc.log := by
  obtain ⟨e, -, he⟩ := event_log s code domain cycle unit part data
  rw [he, h, List.append_assoc, List.drop_append_of_le_length]
  · simp
  · simp

theorem abortReads_mc (s : State) : s.abortReads.mc = s.mc := mc_eq (by simp)

/-- The record of the event before a trigger of Capo stays. -/
theorem capo_keeps {s : State} {l : List EventRec} {x : EventRec} (h : s.mc.log = l ++ [x]) (cause err : Nat) :
    x ∈ (s.capoTrigger cause err).mc.log := by
  by_cases hf : s.px.frozen = true
  · have hk : ∀ u : State, u.holdLink.mc = u.mc := fun u => by unfold State.holdLink; split <;> rfl
    have : (s.capoTrigger cause err).mc = s.mc := by
      unfold State.capoTrigger
      dsimp only
      rw [hf, if_pos rfl]
      split
      · rw [hk]; unfold State.modPx; dsimp only; split <;> rfl
      · split <;> rfl
    rw [this, h]; simp
  · rw [Bool.not_eq_true] at hf
    unfold State.capoTrigger
    dsimp only
    rw [hf]
    simp only [Bool.false_eq_true, if_false]
    refine event_keeps (l := l) ?_ ..
    rw [abortReads_mc]
    unfold State.holdLink
    split <;> exact h

end Sys2Proof.Machine
end

