-- ==== Sys2Proof/Laws/Errors.lean ====
section
/-! SUPPORT. The error collector's levels and the reconcile pass. -/

namespace Sys2Proof.Machine

theorem errorEvent_ec (s : State) (e : ErrorEv) (kind level : Nat) (second : Bool) : (s.errorEvent e kind level second).ec = s.ec := ec_eq (by simp)
theorem levelAction_ec (s : State) (src : Nat) (l : List Nat) (level : Nat) : (s.levelAction src l level).ec = s.ec := ec_eq (by simp)
theorem isolate_ec (s : State) (src : Nat) (l : List Nat) : (s.isolate src l).ec = s.ec := ec_eq (by simp)
theorem freeze_ec (s : State) (src : Nat) (l : List Nat) : (s.freeze src l).ec = s.ec := ec_eq (by simp)
theorem releaseUnits_ec (s : State) (src : Nat) : (s.releaseUnits src).ec = s.ec := ec_eq (by simp)

theorem each_ec {α : Type} {f : State → α → State} (h : ∀ s x, (f s x).ec = s.ec) (l : List α) (s : State) : (s.each l f).ec = s.ec := by
  unfold State.each
  induction l generalizing s with
  | nil => rfl
  | cons x xs ih => rw [List.foldl_cons, ih, h]

theorem source_of_ec {s t : State} (h : t.ec = s.ec) (j : Nat) : t.source j = s.source j := by unfold State.source; rw [h]

/-- Raising a source to a level changes that source's level and timers only. -/
theorem raiseTo_source (s : State) (e : ErrorEv) (level : Nat) (step : Bool) (j : Nat) :
    (s.raiseTo e level step).source j =
      if j = e.source then
        (if step then { s.source j with level := level, grace := some s.clk.mgt, stepAt := some s.clk.mgt } else { s.source j with level := level })
      else s.source j := by
  unfold State.raiseTo
  dsimp only
  rw [source_of_ec (each_ec (fun _ _ => levelAction_ec ..) _ _)]
  cases step
  · simp only [Bool.false_eq_true, if_false]
    rw [modSource_source]
    split
    · rename_i h; rw [h]
    · rfl
  · simp only [if_true]
    rw [source_of_ec (errorEvent_ec ..)]
    have hst : ∀ (u : State) n j, State.source { u with ec := { u.ec with steps := n } } j = u.source j := fun _ _ _ => rfl
    rw [hst]
    rw [modSource_source, modSource_source, modSource_source, if_pos rfl]
    split
    · rename_i h; rw [h]
    · rfl

theorem raiseTo_steps (s : State) (e : ErrorEv) (level : Nat) : (s.raiseTo e level true).ec.steps = satAdd 32 s.ec.steps 1 := by
  unfold State.raiseTo
  dsimp only
  rw [each_ec (fun _ _ => levelAction_ec ..), if_pos rfl, errorEvent_ec]
  rfl

theorem Source.setStatus_status (x : Source) (k : Nat) (h : k < 3) : (x.setStatus k).status k = true := by
  unfold Source.setStatus Source.status
  match k, h with
  | 0, _ => rfl
  | 1, _ => rfl
  | 2, _ => rfl

/-- What latching an error does to its source. -/
theorem latch_source (s : State) (e : ErrorEv) (h : e.cls < 3) :
    ((s.latch e).source e.source).status e.cls = true ∧
      (e.cls = 0 → ((s.latch e).source e.source).corrected = satAdd 16 (s.source e.source).corrected 1) ∧
      (e.cls ≠ 0 → ((s.latch e).source e.source).uncorrected = satAdd 16 (s.source e.source).uncorrected 1) ∧
      (e.cls ≠ 0 → (s.source e.source).masked e.cls = false → (s.source e.source).level ≤ 4 →
        (s.source e.source).severity e.source e.cls ≤ ((s.latch e).source e.source).level ∧
        (s.source e.source).level ≤ ((s.latch e).source e.source).level) := by
  unfold State.latch
  dsimp only
  split
  · rename_i h0
    have key : ∀ x : Bool, (if x = true then s.modSource e.source fun x => { (x.setStatus 0) with corrected := satAdd 16 x.corrected 1 }
        else State.errorEvent (s.modSource e.source fun x => { (x.setStatus 0) with corrected := satAdd 16 x.corrected 1 }) e 0 (s.source e.source).level false).source e.source =
        { ((s.source e.source).setStatus 0) with corrected := satAdd 16 (s.source e.source).corrected 1 } := by
      intro x
      cases x
      · rw [if_neg (by simp), source_of_ec (errorEvent_ec ..), modSource_source, if_pos rfl]
      · rw [if_pos rfl, modSource_source, if_pos rfl]
    rw [key, h0]
    exact ⟨rfl, fun _ => rfl, fun h => absurd rfl h, fun h => absurd rfl h⟩
  · rename_i h0
    split
    · rename_i hm
      rw [source_of_ec (errorEvent_ec ..), modSource_source, if_pos rfl]
      refine ⟨?_, fun h => absurd h h0, fun _ => rfl, fun _ hn => by rw [hn] at hm; exact absurd hm (by decide)⟩
      exact Source.setStatus_status (s.source e.source) e.cls h
    · unfold State.latchUnmasked
      extract_lets src x second first mine s1 step level s2
      generalize hz : s1.source src = z
      have hz1 : z.status e.cls = true ∧ z.uncorrected = satAdd 16 x.uncorrected 1 ∧ z.level = x.level := by
        rw [← hz]
        simp only [s1]
        rw [modSource_source, if_pos rfl]
        have hw : (x.setStatus e.cls).status e.cls = true := Source.setStatus_status x e.cls h
        have hl : (x.setStatus e.cls).level = x.level := by unfold Source.setStatus; split <;> (try split) <;> rfl
        cases first
        · exact ⟨hw, rfl, hl⟩
        · exact ⟨hw, rfl, hl⟩
      have hs2 : s2.source src = z := by rw [← hz]; exact source_of_ec (errorEvent_ec ..) _
      split
      · rename_i hlt
        have hr := raiseTo_source s2 e level step e.source
        rw [if_pos rfl] at hr
        have hsrc : s2.source e.source = z := hs2
        rw [hsrc] at hr
        refine ⟨?_, fun h => absurd h h0, fun _ => ?_, fun _ _ _ => ⟨?_, ?_⟩⟩
        · rw [hr]; split <;> exact hz1.1
        · rw [hr]; split <;> exact hz1.2.1
        · have : ((s2.raiseTo e level step).source e.source).level = level := by rw [hr]; split <;> rfl
          rw [this]
          simp only [level]
          have : x.severity src e.cls ≤ 4 := by unfold Source.severity; omega
          show x.severity src e.cls ≤ _
          omega
        · have : ((s2.raiseTo e level step).source e.source).level = level := by rw [hr]; split <;> rfl
          rw [this]
          exact Nat.le_of_lt hlt
      · rename_i hlt
        generalize hu : (if 1 ≤ x.level then (if 2 ≤ x.level then (s2.isolate src mine).freeze src mine else s2.isolate src mine) else s2) = u
        have hue : u.source e.source = z := by
          rw [← hu]
          split
          · split
            · rw [source_of_ec (freeze_ec ..), source_of_ec (isolate_ec ..)]; exact hs2
            · rw [source_of_ec (isolate_ec ..)]; exact hs2
          · exact hs2
        rw [hue]
        refine ⟨hz1.1, fun h => absurd h h0, fun _ => hz1.2.1, fun _ _ h4 => ⟨?_, ?_⟩⟩
        · rw [hz1.2.2]
          simp only [level] at hlt
          have : x.severity src e.cls ≤ 4 := by unfold Source.severity; omega
          show x.severity src e.cls ≤ _
          omega
        · rw [hz1.2.2]

/-! ## Acknowledging -/

theorem clearQuarantine_ec (s : State) (u : Nat) : (s.clearQuarantine u).ec = s.ec := ec_eq (by simp)

theorem acknowledge_source (s : State) (src j : Nat) : (s.acknowledge src).source j =
    if j = src then { s.source j with grace := none, targets := [], quiet := some s.clk.mgt } else s.source j := by
  unfold State.acknowledge
  dsimp only
  rw [source_of_ec (errorEvent_ec ..)]
  have : ∀ b : Bool, ∀ l : List Nat, (if b = true then s.modSource src fun x => { x with grace := none, targets := [], quiet := some s.clk.mgt }
      else (s.modSource src fun x => { x with grace := none, targets := [], quiet := some s.clk.mgt }).each l fun s u => s.clearQuarantine u).source j =
      (s.modSource src fun x => { x with grace := none, targets := [], quiet := some s.clk.mgt }).source j := by
    intro b l
    cases b
    · exact source_of_ec (each_ec (fun _ _ => clearQuarantine_ec ..) _ _) j
    · rfl
  rw [this, modSource_source]
  split
  · rename_i h; rw [h]
  · rfl

/-- Changing a source's bits or masks changes its timers besides, and no other source. -/
theorem changeSource_source (s : State) (src : Nat) (f : Source → Source) (j : Nat) :
    ∃ g q l, (s.changeSource src f).source j = if j = src then { f (s.source src) with grace := g, quiet := q, targets := l } else s.source j := by
  unfold State.changeSource
  dsimp only
  generalize hu : s.modSource src f = u
  have hj : u.source j = if j = src then f (s.source src) else s.source j := by rw [← hu, modSource_source]
  split
  · rw [acknowledge_source]
    refine ⟨none, some u.clk.mgt, [], ?_⟩
    rw [hj]
    split <;> rfl
  · split
    · rw [modSource_source]
      have hs : u.source src = f (s.source src) := by rw [← hu, modSource_source, if_pos rfl]
      refine ⟨some s.clk.mgt, none, (f (s.source src)).targets, ?_⟩
      rw [hs, hj]
      split <;> rfl
    · refine ⟨(f (s.source src)).grace, (f (s.source src)).quiet, (f (s.source src)).targets, ?_⟩
      rw [hj]

/-- A write of ones to status bits clears exactly those bits. -/
theorem clearStatus_status (s : State) (w j : Nat) (hj : j < 16) :
    ((s.clearStatus w).source j).s0 = ((s.source j).s0 && !bit w (3 * j)) ∧ ((s.clearStatus w).source j).s1 = ((s.source j).s1 && !bit w (3 * j + 1)) ∧
      ((s.clearStatus w).source j).s2 = ((s.source j).s2 && !bit w (3 * j + 2)) := by
  have hz : ∀ k, bits w (3 * k) 3 = 0 → bit w (3 * k) = false ∧ bit w (3 * k + 1) = false ∧ bit w (3 * k + 2) = false := by
    intro k h
    have h0 : ∀ i < 3, (bits w (3 * k) 3).testBit i = w.testBit (3 * k + i) := by
      intro i hi
      unfold bits
      rw [Nat.testBit_mod_two_pow, Nat.testBit_shiftRight]
      simp [hi]
    rw [bit_testBit, bit_testBit, bit_testBit]
    refine ⟨?_, ?_, ?_⟩
    · have := h0 0 (by omega); rw [h] at this; simpa using this.symm
    · have := h0 1 (by omega); rw [h] at this; simpa using this.symm
    · have := h0 2 (by omega); rw [h] at this; simpa using this.symm
  have key : ∀ n, ((s.each (List.range n) fun s src =>
      if bits w (3 * src) 3 = 0 then s
      else s.changeSource src fun x =>
        { x with s0 := x.s0 && !bit w (3 * src), s1 := x.s1 && !bit w (3 * src + 1), s2 := x.s2 && !bit w (3 * src + 2) }).source j).s0 =
        ((s.source j).s0 && !(decide (j < n) && bit w (3 * j))) ∧
      ((s.each (List.range n) fun s src =>
      if bits w (3 * src) 3 = 0 then s
      else s.changeSource src fun x =>
        { x with s0 := x.s0 && !bit w (3 * src), s1 := x.s1 && !bit w (3 * src + 1), s2 := x.s2 && !bit w (3 * src + 2) }).source j).s1 =
        ((s.source j).s1 && !(decide (j < n) && bit w (3 * j + 1))) ∧
      ((s.each (List.range n) fun s src =>
      if bits w (3 * src) 3 = 0 then s
      else s.changeSource src fun x =>
        { x with s0 := x.s0 && !bit w (3 * src), s1 := x.s1 && !bit w (3 * src + 1), s2 := x.s2 && !bit w (3 * src + 2) }).source j).s2 =
        ((s.source j).s2 && !(decide (j < n) && bit w (3 * j + 2))) := by
    intro n
    unfold State.each
    induction n with
    | zero => simp
    | succ n ih =>
      rw [List.range_succ, List.foldl_append, List.foldl_cons, List.foldl_nil]
      generalize List.foldl _ s (List.range n) = u at ih
      have hlt : j ≠ n → decide (j < n + 1) = decide (j < n) := fun h => by rw [decide_eq_decide]; omega
      split
      · rename_i h
        by_cases hn : j = n
        · obtain ⟨z0, z1, z2⟩ := hz n h
          subst hn
          rw [ih.1, ih.2.1, ih.2.2, z0, z1, z2]
          simp
        · rw [hlt hn]; exact ih
      · obtain ⟨g, q, l, hc⟩ := changeSource_source u n (fun x =>
          { x with s0 := x.s0 && !bit w (3 * n), s1 := x.s1 && !bit w (3 * n + 1), s2 := x.s2 && !bit w (3 * n + 2) }) j
        rw [hc]
        by_cases hn : j = n
        · subst hn
          simp only [if_true, ih.1, ih.2.1, ih.2.2]
          simp
        · rw [if_neg hn, hlt hn]; exact ih
  have := key 16
  simp only [hj, decide_true, Bool.true_and] at this
  exact this

theorem raiseTo_lines (s : State) (e : ErrorEv) (level : Nat) (step : Bool) : (s.raiseTo e level step).ec.lines = s.ec.lines := by
  unfold State.raiseTo
  dsimp only
  rw [each_ec (fun _ _ => levelAction_ec ..)]
  cases step
  · rfl
  · rw [if_pos rfl, errorEvent_ec]; rfl

/-- Latching an error reports none. -/
theorem latch_lines (s : State) (e : ErrorEv) : (s.latch e).ec.lines = s.ec.lines := by
  unfold State.latch
  dsimp only
  split
  · split
    · rfl
    · rw [errorEvent_ec]; rfl
  · split
    · rw [errorEvent_ec]; rfl
    · unfold State.latchUnmasked
      extract_lets src x second first mine s1 step level s2 s3
      have h2 : s2.ec.lines = s.ec.lines := by simp only [s2]; rw [errorEvent_ec]; rfl
      split
      · rw [raiseTo_lines]; exact h2
      · split
        · split
          · rw [freeze_ec, isolate_ec]; exact h2
          · rw [isolate_ec]; exact h2
        · exact h2

/-! ## The reconcile pass -/

theorem mgtEvent_unit (s : State) (a : Nat) (b c : Option Nat) (d j : Nat) : (s.mgtEvent a b c d).unit j = s.unit j := by
  unfold State.unit
  rw [units_eq (s := s.mgtEvent a b c d) (t := s) (by simp)]

theorem reconcileUnit_unit (s : State) (u j : Nat) :
    (j ≠ u → (s.reconcileUnit u).unit j = s.unit j) ∧ ((s.reconcileUnit u).unit u).intended = ((s.reconcileUnit u).unit u).mcAdmit := by
  unfold State.reconcileUnit
  dsimp only
  split
  · rename_i h
    refine ⟨fun _ => rfl, ?_⟩
    simp only [Bool.and_eq_true, beq_iff_eq] at h
    exact h.2
  · have hm : ∀ (v : State) n i, State.unit { v with mc := { v.mc with skews := n } } i = v.unit i := fun _ _ _ => rfl
    rw [mgtEvent_unit, hm]
    simp only [mgtEvent_unit, hm]
    split
    · rename_i hlt
      unfold State.mcWrite
      dsimp only
      split
      · rename_i h3
        simp only [Option.getD_some]
        simp only [modUnit_unit, if_true]
        exact ⟨fun hj => by rw [if_neg hj, if_neg hj], h3⟩
      · rw [if_pos (by simpa using hlt)]
        simp only [Option.getD_some]
        simp only [modUnit_unit, if_true]
        exact ⟨fun hj => by rw [if_neg hj, if_neg hj], trivial⟩
    · simp only [modUnit_unit, if_true]
      exact ⟨fun hj => by rw [if_neg hj, if_neg hj], trivial⟩

theorem reconcileUnit_at (s : State) (u : Nat) : (s.reconcileUnit u).mc.reconcileAt = s.mc.reconcileAt := by
  have hq : ∀ (v : State) a b c d, (v.mgtEvent a b c d).mc.reconcileAt = v.mc.reconcileAt := fun v a b c d =>
    (congrArg (fun q => q.mc.reconcileAt) (by simp : (v.mgtEvent a b c d).quiet = v.quiet) :)
  have hw : ∀ (v : State) a b c x, v.mcWrite a b c = some x → x.mc.reconcileAt = v.mc.reconcileAt := fun v a b c x h =>
    (congrArg (fun q => q.mc.reconcileAt) (State.mcWrite_quiet v a b c x h) :)
  unfold State.reconcileUnit
  dsimp only
  split
  · rfl
  · rw [hq]
    dsimp only
    split
    · generalize hx : State.mcWrite _ _ _ _ = x
      cases x with
      | none => rfl
      | some x => exact (hw _ _ _ _ _ hx : x.mc.reconcileAt = _)
    · rfl

theorem reconcileAll (s : State) : (s.each (Tab.ixs s.units) State.reconcileUnit).mc.reconcileAt = s.mc.reconcileAt ∧
    ∀ u, ((s.each (Tab.ixs s.units) State.reconcileUnit).unit u).intended = ((s.each (Tab.ixs s.units) State.reconcileUnit).unit u).mcAdmit := by
  have key : ∀ (l : List Nat) (t : State), (t.each l State.reconcileUnit).mc.reconcileAt = t.mc.reconcileAt ∧
      ∀ u, (u ∈ l ∨ (t.unit u).intended = (t.unit u).mcAdmit) →
        ((t.each l State.reconcileUnit).unit u).intended = ((t.each l State.reconcileUnit).unit u).mcAdmit := by
    intro l
    unfold State.each
    induction l with
    | nil => exact fun t => ⟨rfl, fun u h => h.elim (fun h => nomatch h) id⟩
    | cons x xs ih =>
      intro t
      rw [List.foldl_cons]
      refine ⟨(ih _).1.trans (reconcileUnit_at t x), fun u h => (ih _).2 u ?_⟩
      by_cases hu : u = x
      · right; rw [hu]; exact (reconcileUnit_unit t x x).2
      · rcases h with h | h
        · exact .inl ((List.mem_cons.mp h).resolve_left hu)
        · right; rw [(reconcileUnit_unit t x u).1 hu]; exact h
  refine ⟨(key _ s).1, fun u => (key _ s).2 u ?_⟩
  by_cases h : u ∈ Tab.ixs s.units
  · exact .inl h
  · right
    unfold State.unit
    rw [Tab.at_of_not_mem _ _ fun e he hk => h (List.mem_map.mpr ⟨e, he, hk⟩)]
    rfl

end Sys2Proof.Machine
end

