-- ==== Sys2Proof/Laws/Keying.lean ====
section
/-! SUPPORT. Scrub, re-key and tenant requests. -/

namespace Sys2Proof.Machine

theorem finishReq_sub (s : State) (q r : Req) (h : r ∈ (s.finishReq q).reqs) : r ∈ s.reqs := by
  rw [finishReq_reqs] at h; exact (List.mem_filter.mp h).1

/-- What is forgotten is gone, and nothing is added. -/
theorem forget_reqs (s : State) (pick : Req → Bool) (q : Req) (h : q ∈ (s.forget pick).reqs) : q ∈ s.reqs ∧ pick q = false := by
  have key : ∀ (l : List Req) (u : State), q ∈ (u.each l fun s q => s.finishReq q).reqs → q ∈ u.reqs ∧ ∀ r ∈ l, q.id ≠ r.id := by
    intro l
    unfold State.each
    induction l with
    | nil => exact fun u h => ⟨h, fun r hr => nomatch hr⟩
    | cons x xs ih =>
      intro u h
      rw [List.foldl_cons] at h
      obtain ⟨h1, h2⟩ := ih _ h
      refine ⟨finishReq_sub u x q h1, fun r hr => ?_⟩
      rcases List.mem_cons.mp hr with hr | hr
      · rw [hr]; exact finishReq_gone u x q h1
      · exact h2 r hr
  obtain ⟨h1, h2⟩ := key _ _ h
  refine ⟨h1, ?_⟩
  by_contra hp
  exact h2 q (List.mem_filter.mpr ⟨h1, by simpa using hp⟩) rfl

theorem cut_next (s : State) (p : Nat) (k : InvKind) : ((s.removeEntries p k).discardWalks p).xl.next = s.xl.next := rfl

theorem respond_qc (s : State) (m a b : Nat) (c : Bytes) : (s.respond m a b c).qc = s.qc := qc_eq (by simp)
theorem respond_reqs (s : State) (m a b : Nat) (c : Bytes) : (s.respond m a b c).reqs = s.reqs := reqs_eq (by simp)
theorem respond_pt (s : State) (m a b : Nat) (c : Bytes) : (s.respond m a b c).pt = s.pt := pt_eq (by simp)

/-- The last loop of QUIESCE: every ring of the list is DISABLED, and what is not a ring or a mailbox stays. -/
theorem closeRings_facts (l : List Nat) (s : State) :
    (∀ r, (r ∈ l ∨ (s.ring r).st = 0) → ((s.each l fun s r => (s.modRing r fun g => { g with st := 0, waiters := [] }).each (s.ring r).waiters fun s m => s.ok m).ring r).st = 0) ∧
      (s.each l fun s r => (s.modRing r fun g => { g with st := 0, waiters := [] }).each (s.ring r).waiters fun s m => s.ok m).pt = s.pt ∧
      (s.each l fun s r => (s.modRing r fun g => { g with st := 0, waiters := [] }).each (s.ring r).waiters fun s m => s.ok m).reqs = s.reqs := by
  have hin : ∀ (w : List Nat) (u : State), (u.each w fun s m => s.ok m).qc = u.qc ∧ (u.each w fun s m => s.ok m).pt = u.pt ∧
      (u.each w fun s m => s.ok m).reqs = u.reqs := by
    intro w
    unfold State.each
    induction w with
    | nil => exact fun u => ⟨rfl, rfl, rfl⟩
    | cons x xs ih =>
      intro u
      rw [List.foldl_cons]
      obtain ⟨a, b, c⟩ := ih (u.ok x)
      exact ⟨a.trans (respond_qc ..), b.trans (respond_pt ..), c.trans (respond_reqs ..)⟩
  induction l generalizing s with
  | nil => exact ⟨fun r h => h.elim (fun h => nomatch h) id, rfl, rfl⟩
  | cons x xs ih =>
    unfold State.each at ih ⊢
    rw [List.foldl_cons]
    generalize hu : List.foldl _ (State.modRing s x _) _ = u
    have hq : u.qc = (s.modRing x fun g => { g with st := 0, waiters := [] }).qc ∧ u.pt = s.pt ∧ u.reqs = s.reqs := by
      rw [← hu]
      exact hin _ _
    have hr : ∀ r, (u.ring r).st = if r = x then 0 else (s.ring r).st := by
      intro r
      have : u.ring r = (s.modRing x fun g => { g with st := 0, waiters := [] }).ring r := by unfold State.ring; rw [hq.1]
      rw [this, modRing_ring]
      split <;> rfl
    obtain ⟨a, b, c⟩ := ih u
    refine ⟨fun r h => a r ?_, b.trans hq.2.1, c.trans hq.2.2⟩
    rw [hr]
    by_cases hx : r = x
    · right; rw [if_pos hx]
    · rw [if_neg hx]
      exact h.imp (fun h => (List.mem_cons.mp h).resolve_left hx) id

theorem quiesce_facts (s : State) (p : Nat) (h : (s.part p).st = 3) :
    let t := (fun (s4 : State) => s4.each (s4.ringsOf p) fun s r => (s.modRing r fun g => { g with st := 0, waiters := [] }).each (s.ring r).waiters fun s m => s.ok m)
    ∀ s3 : State, s3.qc = s.qc → s3.pt = (s.forget fun q => q.part == p && !q.inbound).pt →
      s3.reqs = (s.forget fun q => q.part == p && !q.inbound).reqs →
      ((t (s3.modPart p fun x => { x with scrubPhase := 2 })).part p).st = 3 ∧
        ((t (s3.modPart p fun x => { x with scrubPhase := 2 })).part p).scrubPhase = 2 ∧
        (∀ q ∈ (t (s3.modPart p fun x => { x with scrubPhase := 2 })).reqs, q.part = p → q.inbound = true) ∧
        ∀ r ∈ s.ringsOf p, ((t (s3.modPart p fun x => { x with scrubPhase := 2 })).ring r).st = 0 := by
  intro t s3 hq hp hr
  generalize hu : (s3.modPart p fun x => { x with scrubPhase := 2 }) = u
  have hsh : (s3.part p).share = (s.part p).share := by
    have := part_share_of_fixed (State.forget_fixed s fun q => q.part == p && !q.inbound) p
    rw [← this]; unfold State.part; rw [hp]
  have hup : u.part p = { s3.part p with scrubPhase := 2 } := by rw [← hu, modPart_part, if_pos rfl]
  have hur : u.reqs = s3.reqs := by rw [← hu]; rfl
  have huq : u.qc = s.qc := by rw [← hu]; exact hq
  obtain ⟨a, b, c⟩ := closeRings_facts (u.ringsOf p) u
  have hb : ((t u).part p) = u.part p := by unfold State.part; rw [b]
  refine ⟨?_, ?_, ?_, ?_⟩
  · rw [hb, hup]; exact (congrArg Share.st hsh).trans h
  · rw [hb, hup]
  · intro q hq' hpart
    rw [c, hur, hr] at hq'
    have := (forget_reqs s _ q hq').2
    rw [hpart] at this
    simpa using this
  · intro r hr'
    refine a r (.inl ?_)
    unfold State.ringsOf at hr' ⊢
    rw [huq, hup]
    have : (s3.part p).groups = (s.part p).groups := congrArg Share.groups hsh
    show r ∈ List.filter (fun r => bit (s3.part p).groups (groupOfRing r)) _
    rw [this]; exact hr'

/-- A signed request in a session: its signature decides. -/
theorem tenantRequest_signed (s : State) (session : Nat) (b : Bytes) (p : Nat) (h1 : s.spdmMay = true)
    (h2 : s.mc.spdm.sessions.contains session = true) (h3 : tenantShape b = true) (h4 : byteAt b 0 ≠ 1) (h5 : byteAt b 1 % 16 = p)
    (h6 : (s.part p).st = 1 ∨ (s.part p).st = 2) (h7 : (s.part p).claimed = true) (h8 : (s.part p).counter < fieldAt b 8 8) :
    s.tenantRequest session b =
      if Config.ecdsaVerify (s.part p).tenantKey (slice b 0 (16 + fieldAt b 4 4)) (slice b (16 + fieldAt b 4 4) 96) = true then
        match ((s.modPart p fun x => { x with counter := fieldAt b 8 8 }).tenantAct session p b).1 with
        | some c => ((s.modPart p fun x => { x with counter := fieldAt b 8 8 }).tenantAct session p b).2.tenantReply session (byteAt b 0) c
        | none => ((s.modPart p fun x => { x with counter := fieldAt b 8 8 }).tenantAct session p b).2
      else s.tenantReply session (byteAt b 0) 3 := by
  have hc : s.tenantCheck p b =
      if Config.ecdsaVerify (s.part p).tenantKey (slice b 0 (16 + fieldAt b 4 4)) (slice b (16 + fieldAt b 4 4) 96) = true then 0 else 3 := by
    unfold State.tenantCheck
    dsimp only
    have h6' : (decide ((s.part p).st ≠ 1) && decide ((s.part p).st ≠ 2) || !(s.part p).claimed) = false := by
      rw [h7]; rcases h6 with h | h <;> simp [h]
    rw [h6', if_neg (by decide), if_neg (by omega : ¬fieldAt b 8 8 ≤ (s.part p).counter)]
    generalize Config.ecdsaVerify _ _ _ = v
    cases v <;> rfl
  unfold State.tenantRequest
  dsimp only
  rw [h1, h2, h3, h5, hc, if_neg (by decide), if_neg (by decide), if_neg h4]
  generalize Config.ecdsaVerify _ _ _ = v
  cases v <;> rfl

end Sys2Proof.Machine
end

