-- ==== Sys2Proof/Laws/Resets.lean ====
section
/-! SUPPORT. Resets, bring-up and readiness. -/

namespace Sys2Proof.Machine

theorem endOn_stills (s : State) (m : Nat) : (s.endOn m).stills = s.stills := by
  unfold State.endOn
  dsimp only
  generalize List.map _ _ = l
  unfold State.each
  induction l generalizing s with
  | nil => rfl
  | cons x xs ih => rw [List.foldl_cons, ih, endPeer_stills]

theorem keyGives_links (l : List TxFlit) (s : State) : (l.foldl (fun s f => s.keyGive f.key) s).links = s.links := by
  induction l generalizing s with
  | nil => rfl
  | cons x xs ih => rw [List.foldl_cons, ih]; exact links_eq (by simp)

/-- A module that goes down: it is in DOWN with its cause, and the lasting state of the others stays. -/
theorem downMod_still (s : State) (k cause j : Nat) :
    (j = k → ((s.downMod k cause).mod k).st = 8 ∧ ((s.downMod k cause).mod k).downCause = cause) ∧
      (j ≠ k → ((s.downMod k cause).mod j).still = (s.mod j).still) := by
  unfold State.downMod
  extract_lets x s1 s2 s3 s4
  have h2 : ∀ i, (s2.mod i).still = if i = k then ({ s.mod k with st := 8, downCause := cause, width := 0, nakFor := none } : Module).still else (s.mod i).still := by
    intro i
    have h1 : s1.links = s.links := keyGives_links _ _
    have h1m : ∀ i, s1.mod i = s.mod i := fun i => mod_of_mods (congrArg Links.mods h1) i
    simp only [s2]
    rw [setModState_mod]
    split
    · rename_i h
      rw [modMod_mod, if_pos rfl, h1m]; rfl
    · rename_i h
      rw [modMod_mod, if_neg h, h1m]
  have h4 : s4.stills = s2.stills := (stills_of_other (by simp [s4, s3]) : s4.stills = s2.stills)
  have hf : ∀ u : State, u.stills = s4.stills → (j = k → (u.mod k).st = 8 ∧ (u.mod k).downCause = cause) ∧ (j ≠ k → (u.mod j).still = (s.mod j).still) := by
    intro u hu
    have h := fun i => (still_of (hu.trans h4) i).trans (h2 i)
    refine ⟨fun _ => ?_, fun hj => by rw [h j, if_neg hj]⟩
    have hk := h k
    rw [if_pos rfl] at hk
    generalize u.mod k = y at hk
    exact ⟨(congrArg Module.st hk : y.still.st = _), (congrArg Module.downCause hk : y.still.downCause = _)⟩
  split
  · exact hf _ (endOn_stills ..)
  · split
    · refine hf _ ?_
      refine stills_of_mods ?_
      unfold State.moveIo
      dsimp only
      have : ∀ (u : State) (l : List InItem), (u.each l fun s i => match i.txn with
          | some txn => s.emit (.completion true txn 4 false [])
          | none => s).links = u.links := by
        intro u l
        unfold State.each
        induction l generalizing u with
        | nil => rfl
        | cons a as ih =>
          rw [List.foldl_cons, ih]
          cases a.txn <;> rfl
      have ho : ∀ (u : State) f, (u.orphan f).links = u.links := fun _ _ => rfl
      simp only [State.report, ho]
      exact congrArg Links.mods (this _ _)
    · exact hf _ rfl

/-- What training leaves of the link state. -/
def Links.fix (l : Links) : Links := { l with mods := [], everUp := false, outFrom := none }

theorem setModState_fix (s : State) (k st : Nat) : (s.setModState k st).links.fix = s.links.fix := by
  unfold State.setModState
  dsimp only
  have h : ((s.modMod k fun m => { m with st := st }).settleUnit (64 + k)).links = (s.modMod k fun m => { m with st := st }).links := links_eq (by simp)
  split
  · rw [h]; rfl
  · dsimp only
    rw [h]; rfl

theorem startTraining_fix (s : State) (k : Nat) : (s.startTraining k).links.fix = s.links.fix := by
  unfold State.startTraining
  rw [setModState_fix]
  rfl

theorem startTraining_st (s : State) (k j : Nat) : ((s.startTraining k).mod j).st = if j = k then 2 else (s.mod j).st := by
  unfold State.startTraining
  rw [setModState_mod]
  split
  · rfl
  · rename_i h; rw [modMod_mod, if_neg h]

theorem startAll (l : List Nat) (s : State) : (s.each l fun s k => s.startTraining k).links.fix = s.links.fix ∧
    ∀ j, ((s.each l fun s k => s.startTraining k).mod j).st = if j ∈ l then 2 else (s.mod j).st := by
  unfold State.each
  induction l generalizing s with
  | nil => exact ⟨rfl, fun j => by simp⟩
  | cons x xs ih =>
    rw [List.foldl_cons]
    refine ⟨(ih _).1.trans (startTraining_fix s x), fun j => ?_⟩
    rw [(ih _).2 j, startTraining_st]
    by_cases h : j ∈ xs
    · rw [if_pos h, if_pos (List.mem_cons_of_mem _ h)]
    · rw [if_neg h]
      by_cases hx : j = x
      · rw [if_pos hx, if_pos (by rw [hx]; exact List.mem_cons_self)]
      · rw [if_neg hx, if_neg (fun hc => (List.mem_cons.mp hc).elim hx h)]

/-- What the declaration of host-link loss does. -/
theorem hostLoss_facts (s : State) (cause : Nat) (h : s.links.lossReset = false) :
    (s.hostLoss cause).links.lossReset = true ∧ (s.hostLoss cause).links.lossCount = satAdd 16 s.links.lossCount 1 ∧
      (s.hostLoss cause).links.lastCause = cause ∧ (s.hostLoss cause).links.io = [] ∧ (s.hostLoss cause).links.everUp = false ∧
      ∀ k < 4, ((s.hostLoss cause).mod k).st = if (s.mod k).st = 1 then 1 else 2 := by
  unfold State.hostLoss
  dsimp only
  rw [h]
  simp only [Bool.false_eq_true, if_false]
  generalize hu : State.mgtEvent _ 0x21 none none cause = u
  have hl : u.links = { s.links with lossCount := satAdd 16 s.links.lossCount 1, lastCause := cause, lossReset := true, io := [] } := by
    have h1 : ∀ (v : State) a b c d, (v.mgtEvent a b c d).links = v.links := fun v a b c d => links_eq (by simp)
    have h2 : ∀ (v : State) f, (v.forgetHost.modRd f).links = v.links := fun v f => by
      show v.forgetHost.links = v.links
      exact links_eq (by simp)
    rw [← hu, h1, h2]
    rfl
  have hm : ∀ j, u.mod j = s.mod j := fun j => mod_of_mods (by rw [hl]) j
  obtain ⟨a, b⟩ := startAll ((List.range 4).filter fun k => (u.mod k).st != 1) u
  generalize State.each u _ _ = v at a b
  rw [hl] at a
  refine ⟨(congrArg Links.lossReset a : v.links.fix.lossReset = _), (congrArg Links.lossCount a : v.links.fix.lossCount = _),
    (congrArg Links.lastCause a : v.links.fix.lastCause = _), (congrArg Links.io a : v.links.fix.io = _), trivial, fun k hk => ?_⟩
  have hmk : ∀ (x : State) (e : Bool) (o : Option Nat), State.mod { x with links := { x.links with everUp := e, outFrom := o } } k = x.mod k := fun _ _ _ => rfl
  rw [hmk, b k, hm]
  by_cases h1 : (s.mod k).st = 1
  · rw [if_pos h1, if_neg (by simp [hm, h1])]; exact h1
  · rw [if_neg h1, if_pos (by simp [hm, h1, hk])]

/-! ## Miswired modules -/

theorem downMod_expected (s : State) (k c n : Nat) : (s.downMod k c).expected n = s.expected n := by
  have hq := State.downMod_quiet s k c
  have h1 := fw_eq hq
  have h2 : (s.downMod k c).pos = s.pos := congrArg Fixed.pos (State.downMod_fixed s k c)
  unfold State.expected State.dieId
  rw [h1, h2]

theorem topologyAll (s : State) (n : Nat) (hn : n ≤ 20) :
    let t := s.each (List.range n) fun s m =>
      let e := s.expected (m / 5)
      let x := s.mod (4 + m)
      if x.carries && e != 0x1F && x.partnerDie != e then s.downMod (4 + m) 3 else s
    (∀ m < n, s.miswired m = true → (t.mod (4 + m)).st = 8 ∧ (t.mod (4 + m)).downCause = 3) ∧
      (∀ m, (n ≤ m ∨ s.miswired m = false) → (t.mod (4 + m)).still = (s.mod (4 + m)).still) ∧ ∀ i, t.expected i = s.expected i := by
  intro t
  induction n with
  | zero => exact ⟨fun m h => absurd h (Nat.not_lt_zero m), fun _ _ => rfl, fun _ => rfl⟩
  | succ n ih =>
    have ih := ih (by omega)
    simp only [t]
    unfold State.each at ih ⊢
    rw [List.range_succ, List.foldl_append, List.foldl_cons, List.foldl_nil]
    dsimp only at ih ⊢
    generalize List.foldl _ s (List.range n) = u at ih
    obtain ⟨h1, h2, h3⟩ := ih
    have hs := h2 n (.inl (Nat.le_refl n))
    have hbad : ((u.mod (4 + n)).carries && u.expected (n / 5) != 0x1F && (u.mod (4 + n)).partnerDie != u.expected (n / 5)) = s.miswired n := by
      unfold State.miswired Module.carries
      rw [h3]
      generalize u.mod (4 + n) = y at hs
      have e1 : y.st = (s.mod (4 + n)).st := (congrArg Module.st hs : y.still.st = (s.mod (4 + n)).still.st)
      have e2 : y.partnerDie = (s.mod (4 + n)).partnerDie := (congrArg Module.partnerDie hs : y.still.partnerDie = (s.mod (4 + n)).still.partnerDie)
      rw [e1, e2]
    rw [hbad]
    by_cases hm : s.miswired n = true
    · rw [if_pos hm]
      refine ⟨fun m hlt hw => ?_, fun m hw => ?_, fun i => (downMod_expected ..).trans (h3 i)⟩
      · by_cases hmn : m = n
        · rw [hmn]; exact (downMod_still u (4 + n) 3 (4 + n)).1 rfl
        · have h := (downMod_still u (4 + n) 3 (4 + m)).2 (by omega)
          have hu := h1 m (by omega) hw
          generalize (u.downMod (4 + n) 3).mod (4 + m) = y at h
          exact ⟨(congrArg Module.st h : y.still.st = _).trans hu.1, (congrArg Module.downCause h : y.still.downCause = _).trans hu.2⟩
      · have hmn : m ≠ n := by
          rintro rfl
          rcases hw with hw | hw
          · omega
          · rw [hm] at hw; exact absurd hw (by decide)
        exact ((downMod_still u (4 + n) 3 (4 + m)).2 (by omega)).trans (h2 m (hw.imp (fun h => by omega) id))
    · rw [if_neg hm]
      refine ⟨fun m hlt hw => ?_, fun m hw => h2 m ?_, h3⟩
      · have hmn : m ≠ n := by rintro rfl; exact hm hw
        exact h1 m (by omega) hw
      · exact hw.imp (fun h => by omega) id

/-- A compute-part reset scrubs the partitions that hold resources. -/
theorem scrubAll_st (s : State) (p : Nat) (hp : p < 16) :
    ((s.each (partIxs.filter fun p => (s.part p).st == 1 || (s.part p).st == 2) fun s p => s.startScrub p 5).part p).st =
      if (s.part p).st = 1 ∨ (s.part p).st = 2 then 3 else (s.part p).st := by
  have key : ∀ (l : List Nat) (u : State), ((u.each l fun s p => s.startScrub p 5).part p).st = if p ∈ l then 3 else (u.part p).st := by
    intro l
    unfold State.each
    induction l with
    | nil => exact fun u => by simp
    | cons x xs ih =>
      intro u
      rw [List.foldl_cons, ih]
      have hx : ((u.startScrub x 5).part p).st = if p = x then 3 else (u.part p).st := by
        have h := congrArg (fun f : Fixed => (f.shares p).st) (State.startScrub_fixed u x 5)
        refine Eq.trans h ?_
        unfold Fixed.setShare
        dsimp only
        split
        · rfl
        · rfl
      rw [hx]
      by_cases h1 : p ∈ xs
      · rw [if_pos h1, if_pos (List.mem_cons_of_mem _ h1)]
      · rw [if_neg h1]
        by_cases h2 : p = x
        · rw [if_pos h2, if_pos (by rw [h2]; exact List.mem_cons_self)]
        · rw [if_neg h2, if_neg (fun hc => (List.mem_cons.mp hc).elim h2 h1)]
  rw [key]
  have hm : (p ∈ partIxs.filter fun p => (s.part p).st == 1 || (s.part p).st == 2) ↔ ((s.part p).st = 1 ∨ (s.part p).st = 2) := by
    simp [partIxs, hp]
  by_cases h : (s.part p).st = 1 ∨ (s.part p).st = 2
  · rw [if_pos h, if_pos (hm.mpr h)]
  · rw [if_neg h, if_neg (fun hc => h (hm.mp hc))]

/-- What the start of a partition function-level reset does. -/
theorem partitionReset_facts (s : State) (p : Nat) (h2 : (s.part p).st ≠ 3) (h3 : (s.part p).flr = none) :
    ((s.partitionReset p).part p).flr = some s.clk.fab ∧ (s.partitionReset p).fn p = {} ∧ (s.partitionReset p).mc.rd.last = 2 ∧
      (s.partitionReset p).mc.rd.lastPart = p ∧ (s.partitionReset p).mc.rd.flrs = satAdd 16 s.mc.rd.flrs 1 := by
  unfold State.partitionReset
  extract_lets s1 waiters s2 s3
  rw [if_neg (by simp [h2, h3])]
  generalize hu : State.each _ _ (fun s m => s.ok m) = u
  have hs := each_same (M := [.mc, .px, .outbox]) hu (by intro t x; unfold State.ok; simp)
  have hq := each_same_quiet hu (by intro t x; unfold State.ok; simp)
  have h3p : s3.part p = { s2.part p with flr := some s.clk.fab } := by
    have hse : ∀ (v : State) k, (v.settleUnit k).part p = v.part p := fun v k => by unfold State.part; rw [pt_eq (s := v.settleUnit k) (t := v) (by simp)]
    simp only [s3]
    rw [hse, modPart_part, if_pos rfl]
  have hq3 : s3.quiet = s1.quiet := by simp [s3, s2]
  refine ⟨?_, ?_, ?_, ?_, ?_⟩
  · unfold State.part
    rw [hs.pt (by decide)]
    exact congrArg Part.flr h3p
  · have h : u.px.fns = s1.px.fns := (congrArg (fun q => q.px.fns) (hq.trans hq3) :)
    unfold State.fn
    rw [h]
    exact (Tab.at_put s.px.fns p p default).trans (if_pos rfl)
  · rw [rd_eq (hq.trans hq3)]; rfl
  · rw [rd_eq (hq.trans hq3)]; rfl
  · rw [rd_eq (hq.trans hq3)]; rfl

end Sys2Proof.Machine
end

