-- ==== Sys2Proof/Laws/Mail.lean ====
section
/-! SUPPORT. Mailbox commands: taking one, answering it, and the bytes of an answer. -/

namespace Sys2Proof.Machine

/-- A command whose operands are checked takes effect when it answers a next state. -/
theorem checked_next {i : Instr} {n : String} {s t : State} (h : checked i n s = .next t) : s = t := by
  unfold checked at h
  split at h
  · exact Host.Outcome.next.inj h
  · contradiction

/-- The state in which the body of mailbox m's command runs. -/
def State.taking (s : State) (m : Nat) : State :=
  { s with mc := { s.mc with served := m } }.modBox m fun b => { b with taken := true }

theorem command_taken {s : State} {m op : Nat} (h : Takes s m op) (body : State → Bytes → State) :
    s.command m op body = body (s.taking m) (s.box m).payload := by
  obtain ⟨h1, h2, h3, h4⟩ := h
  unfold State.command
  dsimp only
  rw [if_neg (by simp [h1, h2, h3]), h4]
  rfl

@[simp] theorem taking_pt (s : State) (m : Nat) : (s.taking m).pt = s.pt := rfl
@[simp] theorem taking_xl (s : State) (m : Nat) : (s.taking m).xl = s.xl := rfl
@[simp] theorem taking_qc (s : State) (m : Nat) : (s.taking m).qc = s.qc := rfl
@[simp] theorem taking_rk (s : State) (m : Nat) : (s.taking m).rk = s.rk := rfl
@[simp] theorem taking_ch (s : State) (m : Nat) : (s.taking m).ch = s.ch := rfl
@[simp] theorem taking_tier (s : State) (m : Nat) : (s.taking m).tier = s.tier := rfl
@[simp] theorem taking_px (s : State) (m : Nat) : (s.taking m).px = s.px := rfl
@[simp] theorem taking_links (s : State) (m : Nat) : (s.taking m).links = s.links := rfl
@[simp] theorem taking_outbox (s : State) (m : Nat) : (s.taking m).outbox = s.outbox := rfl
@[simp] theorem taking_clk (s : State) (m : Nat) : (s.taking m).clk = s.clk := rfl
@[simp] theorem taking_pos (s : State) (m : Nat) : (s.taking m).pos = s.pos := rfl
@[simp] theorem taking_part (s : State) (m p : Nat) : (s.taking m).part p = s.part p := rfl
@[simp] theorem taking_ring (s : State) (m p : Nat) : (s.taking m).ring p = s.ring p := rfl
@[simp] theorem taking_unit (s : State) (m p : Nat) : (s.taking m).unit p = s.unit p := rfl
@[simp] theorem taking_mod (s : State) (m p : Nat) : (s.taking m).mod p = s.mod p := rfl
@[simp] theorem taking_fw (s : State) (m : Nat) : (s.taking m).mc.fw = s.mc.fw := rfl

theorem respond_answers (s : State) (m r d : Nat) (b : Bytes) : Answers (s.respond m r d b) m r d := by
  obtain ⟨a, b, c, d, -⟩ := respond_box s m r d b
  exact ⟨a, b, c, d⟩

theorem ok_answers (s : State) (m : Nat) : Answers (s.ok m) m 0 0 := respond_answers ..

theorem ok_pt (s : State) (m : Nat) : (s.ok m).pt = s.pt := respond_pt ..
theorem ok_qc (s : State) (m : Nat) : (s.ok m).qc = s.qc := respond_qc ..
theorem ok_xl (s : State) (m : Nat) : (s.ok m).xl = s.xl := by unfold State.ok; exact xl_eq (by simp)
theorem ok_rk (s : State) (m : Nat) : (s.ok m).rk = s.rk := by unfold State.ok; exact rk_eq (by simp)
theorem ok_ch (s : State) (m : Nat) : (s.ok m).ch = s.ch := by unfold State.ok; exact ch_eq (by simp)
theorem ok_tier (s : State) (m : Nat) : (s.ok m).tier = s.tier := by unfold State.ok; exact tier_eq (by simp)
theorem ok_links (s : State) (m : Nat) : (s.ok m).links = s.links := by unfold State.ok; exact links_eq (by simp)
theorem ok_units (s : State) (m : Nat) : (s.ok m).units = s.units := by unfold State.ok; exact units_eq (by simp)
theorem ok_px (s : State) (m : Nat) : (s.ok m).px.rest = s.px.rest := by unfold State.ok; exact pxRest_eq (by simp)
theorem ok_mode (s : State) (m : Nat) : (s.ok m).mc.mode = s.mc.mode := by unfold State.ok; exact mode_eq (by simp)
theorem ok_fw (s : State) (m : Nat) : (s.ok m).mc.fw = s.mc.fw := by unfold State.ok; exact fw_eq (by simp)
theorem ok_part (s : State) (m p : Nat) : (s.ok m).part p = s.part p := by unfold State.part; rw [ok_pt]
theorem ok_ring (s : State) (m p : Nat) : (s.ok m).ring p = s.ring p := by unfold State.ring; rw [ok_qc]
theorem respond_units (s : State) (m r d : Nat) (b : Bytes) : (s.respond m r d b).units = s.units := units_eq (by simp)

/-- A good command takes effect and answers OK. -/
theorem okIf_good (s t : State) (m : Nat) (g : Bool) (h : g = true) : s.okIf m g t = t.ok m := by
  unfold State.okIf; rw [h, if_pos rfl]

/-! ## What was sent before stays sent -/

theorem signalBox_outbox (s : State) (m : Nat) : ∃ l, (s.signalBox m).outbox = s.outbox ++ l := by
  unfold State.signalBox
  split
  · exact ⟨_, rfl⟩
  · unfold State.signalVector
    dsimp only
    split
    · split
      · exact ⟨[], (List.append_nil _).symm⟩
      · split
        · exact ⟨[], (List.append_nil _).symm⟩
        · exact ⟨_, rfl⟩
    · split
      · exact ⟨_, rfl⟩
      · exact ⟨[], (List.append_nil _).symm⟩

theorem respond_outbox (s : State) (m r d : Nat) (b : Bytes) : ∃ l, (s.respond m r d b).outbox = s.outbox ++ l := by
  unfold State.respond
  dsimp only
  split
  · obtain ⟨l, h⟩ := signalBox_outbox (State.emit _ _) m
    exact ⟨_, h.trans (List.append_assoc ..)⟩
  · exact signalBox_outbox _ m

/-- What the block has sent it has sent. -/
theorem respond_emitted {s : State} {m r d : Nat} {b : Bytes} {e : Emission} (h : e ∈ s.outbox) : e ∈ (s.respond m r d b).outbox := by
  obtain ⟨l, hl⟩ := respond_outbox s m r d b
  rw [hl]; exact List.mem_append_left _ h

/-! ## The bytes of an answer -/

theorem readBytes_writeBytes (t : Tab Byte) (a : Nat) (h b : Bytes) : Tab.readBytes (Tab.writeBytes t a (h ++ b)) (a + h.length) b.length = b := by
  unfold Tab.readBytes
  apply List.ext_getElem
  · simp
  · intro i h1 h2
    rw [List.getElem_map, List.getElem_range, Tab.at_writeBytes]
    have hi : i < b.length := by simpa using h1
    rw [if_pos (by rw [List.length_append]; omega)]
    have : a + h.length + i - a = h.length + i := by omega
    rw [this]
    simp [List.getD_eq_getElem?_getD, hi]

theorem responseHeader_length (op tag r d len cycle seq : Nat) : (responseHeader op tag r d len cycle seq).length = 32 := by
  unfold responseHeader zeros
  simp only [List.length_append, leBytes_length, List.length_replicate]

/-- The payload stands behind the header in the response area (R402, R403). -/
theorem respond_payload (s : State) (m r d : Nat) (b : Bytes) :
    Tab.readBytes (((s.respond m r d b).box m).ram) 0x5020 b.length = b := by
  have key : ∃ h : Bytes, h.length = 32 ∧ ((s.respond m r d b).box m).ram = Tab.writeBytes (s.box m).ram 0x5000 (h ++ b) := by
    refine ⟨_, responseHeader_length (s.box m).opcode (s.box m).tag r d b.length s.clk.mgt s.mc.seq, ?_⟩
    unfold State.respond
    dsimp only
    unfold State.box
    rw [mc_eq (State.signalBox_hide (by simp) _ _)]
    split
    · simp [State.modBox, State.emit]
    · simp [State.modBox]
  obtain ⟨h, hl, he⟩ := key
  rw [he]
  have := readBytes_writeBytes (s.box m).ram 0x5000 h b
  rw [hl] at this
  exact this

/-- The same with the payload's length given. -/
theorem respond_read (s : State) (m r d : Nat) (b : Bytes) (n : Nat) (h : b.length = n) :
    Tab.readBytes (((s.respond m r d b).box m).ram) 0x5020 n = b := h ▸ respond_payload s m r d b

/-- A submission whose first checks pass waits to be taken (R404, R486). -/
theorem submit_facts (s : State) (m : Nat) (mctp : Bool) (head cmd : Bytes) (h2 : head = Tab.readBytes (s.box m).ram 0x1000 32)
    (h3 : cmd = head ++ Tab.readBytes (s.box m).ram 0x1020 (min (fieldAt head 4 4) 16352)) (h4 : payloadSize cmd = some (fieldAt cmd 4 4))
    (h5 : allowedOn (fieldAt cmd 0 2) (boxClass m) = true) (h6 : fieldAt cmd 4 4 ≤ 16352) :
    ((s.submit m mctp).box m).cmd = cmd ∧ ((s.submit m mctp).box m).busy = true ∧ ((s.submit m mctp).box m).done = false ∧
      ((s.submit m mctp).box m).taken = false := by
  unfold State.submit
  dsimp only
  rw [← h2, ← h3]
  generalize hu : State.modBox s m _ = u
  have hb : u.box m = { s.box m with busy := true, done := false, taken := false, mctp := mctp, cmd := cmd } := by
    rw [← hu, modBox_box, if_pos rfl]
  have hj : u.judgeCmd m = u := by
    unfold State.judgeCmd Mailbox.opcode Mailbox.length
    dsimp only
    rw [hb]
    dsimp only
    rw [h4]
    dsimp only
    rw [h5, if_neg (by decide), if_neg (by simp; omega)]
  have hf : ∀ b : Bool, (if b = true then u.judgeCmd m else u) = u := by
    intro b; rw [hj]; cases b <;> rfl
  rw [hf, hb]
  exact ⟨rfl, rfl, rfl, rfl⟩

/-! ## Tables that a command writes -/

theorem Tab.at_put_same {α : Type} [Inhabited α] [DecidableEq α] (t : Tab α) (i : Nat) (v : α) : Tab.at (Tab.put t i v) i = v := by simp
theorem Tab.at_upd_same {α : Type} [Inhabited α] [DecidableEq α] (t : Tab α) (i : Nat) (f : α → α) :
    Tab.at (Tab.upd t i f) i = f (Tab.at t i) := by simp

theorem modPart_part_same (s : State) (p : Nat) (f : Part → Part) : (s.modPart p f).part p = f (s.part p) := Tab.at_upd_same s.pt.parts p f
theorem ok_assigns (s : State) (m : Nat) : (s.ok m).px.assigns = s.px.assigns := by
  have h := congrArg Px.assigns (ok_px s m)
  exact h

/-- A table listed over a range. -/
theorem Tab.at_ofRange {α : Type} [Inhabited α] [DecidableEq α] (f : Nat → α) (n j : Nat) :
    Tab.at (Tab.ofList ((List.range n).map fun k => (k, f k))) j = if j < n then f j else default := by
  induction n with
  | zero => rfl
  | succ n ih =>
    rw [List.range_succ, List.map_append, List.map_cons, List.map_nil, Tab.ofList_append, Tab.at_put, ih]
    by_cases h : j = n
    · subst h; simp
    · rw [if_neg h]
      by_cases h1 : j < n
      · rw [if_pos h1, if_pos (by omega)]
      · rw [if_neg h1, if_neg (by omega)]

/-- A scrub begins in SCRUBBING (R355, R378). -/
theorem startScrub_st (s : State) (p detail : Nat) : ((s.startScrub p detail).part p).st = 3 := by
  have h := congrArg (fun f : Fixed => (f.shares p).st) (State.startScrub_fixed s p detail)
  refine Eq.trans h ?_
  unfold Fixed.setShare
  dsimp only
  rw [if_pos rfl]

/-- A range cut out of another leaves none of its IDs (R347). -/
theorem RpAssign.without_free (x : RpAssign) (a z rid : Nat) (h1 : a ≤ rid) (h2 : rid ≤ z) :
    ∀ y ∈ x.without a z, (decide (y.first ≤ rid) && decide (rid ≤ y.last)) = false := by
  intro y hy
  unfold RpAssign.without at hy
  rcases List.mem_append.mp hy with hy | hy
  · split at hy
    · rcases List.mem_singleton.mp hy with rfl
      simp only [Bool.and_eq_false_iff, decide_eq_false_iff_not]
      omega
    · simp at hy
  · split at hy
    · rcases List.mem_singleton.mp hy with rfl
      simp only [Bool.and_eq_false_iff, decide_eq_false_iff_not]
      omega
    · simp at hy

/-- With every range cut, an ID belongs to what is put behind (R347). -/
theorem assigned_after (l new : List RpAssign) (a z rid : Nat) (h1 : a ≤ rid) (h2 : rid ≤ z) :
    ((l.flatMap fun x => x.without a z) ++ new).find? (fun y => decide (y.first ≤ rid) && decide (rid ≤ y.last)) =
      new.find? fun y => decide (y.first ≤ rid) && decide (rid ≤ y.last) := by
  rw [List.find?_append, List.find?_eq_none.mpr]
  · rfl
  · intro y hy
    obtain ⟨x, _, hx⟩ := List.mem_flatMap.mp hy
    rw [RpAssign.without_free x a z rid h1 h2 y hx]
    decide

/-! ## Mailbox invalidations (R69) -/

theorem boxInval_waits (s : State) (p m k a v n : Nat) (h : 8 ≤ s.invPending p) : ∃ w ∈ ((s.boxInval p m k a v n).invq p).waiting, w.2.1 = m := by
  unfold State.boxInval
  dsimp only
  rw [decide_eq_false (by omega : ¬s.invPending p < 8)]
  simp only [Bool.false_and, Bool.false_eq_true, if_false]
  have hq : ∀ (u : State) (f : InvQueue → InvQueue), (u.modInvq p f).invq p = f (u.invq p) := fun u f => Tab.at_upd_same u.xl.invq p f
  rw [hq]
  exact ⟨_, List.mem_append_right _ (List.mem_singleton.mpr rfl), rfl⟩

/-- With room and nothing before it, a mailbox invalidation is cut at once, with the binding change of its command. -/
theorem boxInval_now (s : State) (p m k a v n : Nat) (h1 : s.invPending p < 8) (h2 : (s.invq p).waiting = []) (h3 : (s.invq p).st ≠ 4) :
    (∃ i ∈ (s.boxInval p m k a v n).xl.invals, i.part = p ∧ i.mailbox = some m ∧ i.cut = s.clk.fab) ∧
      (s.boxInval p m k a v n).xl.asids = match Tab.at s.xl.binds m with
        | some (x, b) => Tab.put s.xl.asids x b
        | none => s.xl.asids := by
  unfold State.boxInval
  dsimp only
  rw [decide_eq_true h1, h2]
  have hst : ((s.invq p).st != 4) = true := by simpa using h3
  rw [hst]
  simp only [List.isEmpty_nil, Bool.true_and, if_true]
  unfold State.cutWaiting
  have hq : ∀ (u : State) (f : InvQueue → InvQueue), (u.modInvq p f).invq p = f (u.invq p) := fun u f => Tab.at_upd_same u.xl.invq p f
  rw [hq]
  have hw : (State.invq { s with xl := { s.xl with next := s.xl.next + 1 } } p).waiting = [] := h2
  dsimp only
  rw [hw]
  dsimp only [List.nil_append]
  have hb : ∀ (u : State) (f : InvQueue → InvQueue), Tab.at (u.modInvq p f).xl.binds m = Tab.at u.xl.binds m := fun _ _ => rfl
  unfold State.applyBind
  rw [hb]
  dsimp only
  cases Tab.at s.xl.binds m with
  | none => exact ⟨⟨_, List.mem_append_right _ (List.mem_singleton.mpr rfl), rfl, rfl, rfl⟩, rfl⟩
  | some x => exact ⟨⟨_, List.mem_append_right _ (List.mem_singleton.mpr rfl), rfl, rfl, rfl⟩, rfl⟩

theorem boxInval_cut (s : State) (p m k a v n : Nat) (h1 : s.invPending p < 8) (h2 : (s.invq p).waiting = []) (h3 : (s.invq p).st ≠ 4) :
    ∃ i ∈ (s.boxInval p m k a v n).xl.invals, i.part = p ∧ i.mailbox = some m ∧ i.cut = s.clk.fab := (boxInval_now s p m k a v n h1 h2 h3).1

theorem boxInval_bind (s : State) (m a : Nat) (w : AddrSpace) (h1 : s.invPending m < 8) (h2 : (s.invq m).waiting = []) (h3 : (s.invq m).st ≠ 4) :
    Tab.at (({ s with xl := { s.xl with binds := Tab.put s.xl.binds m (some (a, w)) } } : State).boxInval m m 2 a 0 0).xl.asids a = w ∧
      ∃ i ∈ (({ s with xl := { s.xl with binds := Tab.put s.xl.binds m (some (a, w)) } } : State).boxInval m m 2 a 0 0).xl.invals,
        i.part = m ∧ i.mailbox = some m ∧ i.cut = s.clk.fab := by
  have h := boxInval_now { s with xl := { s.xl with binds := Tab.put s.xl.binds m (some (a, w)) } } m m 2 a 0 0 h1 h2 h3
  refine ⟨?_, h.1⟩
  rw [h.2]
  dsimp only
  rw [Tab.at_put_same]
  dsimp only
  exact Tab.at_put_same ..

/-- The disable cycle of a ring outside TC2 drops what is staged and frees the ring's park slot (R124). -/
theorem disableRing_facts (s : State) (p r : Nat) (h : (s.ring r).tc ≠ 2) :
    ((s.disableRing p r).ring r).waiters = (s.ring r).waiters ∧ ((s.disableRing p r).ring r).staged = none ∧ ((s.disableRing p r).slot r).valid = false := by
  unfold State.disableRing
  dsimp only
  rw [if_neg h]
  generalize hu : (((s.stopFetching r).dropRingMisses r).flushOf p fun u => match u with
    | .dstWrite a _ _ _ => a == r
    | _ => false) = u
  have hq : u.qc = (s.stopFetching r).qc := by rw [← hu]; exact qc_eq (by simp)
  have hr : (u.ring r).waiters = (s.ring r).waiters ∧ (u.ring r).staged = none := by
    unfold State.ring; rw [hq]
    unfold State.stopFetching
    have hm : ∀ (v : State) (f : Ring → Ring), Tab.at (v.modRing r f).qc.rings r = f (Tab.at v.qc.rings r) := fun v f => Tab.at_upd_same v.qc.rings r f
    rw [hm]
    dsimp only
    unfold State.discardFetches
    dsimp only
    rw [hm]
    exact ⟨rfl, rfl⟩
  generalize hv : (if (u.slot r).valid = true then u.freeSlot r else u) = v
  have hvr : v.ring r = u.ring r := by rw [← hv]; split <;> rfl
  have hvs : (v.slot r).valid = false := by
    rw [← hv]
    split
    · rw [freeSlot_slot, if_pos rfl]
    · rename_i hn
      simpa using hn
  have hf := advanceAll_fronts (v.modRing r fun g => { g with works := g.works.map Work.abort }) p
  have hfr := front_eq hf r
  rw [modRing_ring, if_pos rfl] at hfr
  refine ⟨?_, ?_, ?_⟩
  · have h1 := congrArg Ring.waiters hfr
    refine Eq.trans h1 ?_
    show (v.ring r).waiters = _
    rw [hvr]; exact hr.1
  · have h1 := congrArg Ring.staged hfr
    refine Eq.trans h1 ?_
    show (v.ring r).staged = _
    rw [hvr]; exact hr.2
  · rw [slot_eq hf]
    exact hvs

theorem sendPulse_acc (s : State) (x j : Nat) : (s.sendPulse (x / 8) (x % 8)).tally.asks = s.tally.asks ∧
    ((Tab.at (s.sendPulse (x / 8) (x % 8)).tally.acc j).amount = 0 ∨
      j ≠ x ∧ Tab.at (s.sendPulse (x / 8) (x % 8)).tally.acc j = Tab.at s.tally.acc j) := by
  unfold State.sendPulse
  have hx : 8 * (x / 8) + x % 8 = x := Nat.div_add_mod ..
  dsimp only
  rw [hx]
  split
  · rename_i h
    refine ⟨rfl, ?_⟩
    by_cases hj : j = x
    · exact .inl (by rw [hj]; exact h)
    · exact .inr ⟨hj, rfl⟩
  · refine ⟨rfl, ?_⟩
    dsimp only
    rw [Tab.at_put]
    by_cases hj : j = x
    · exact .inl (by rw [if_pos hj]; rfl)
    · exact .inr ⟨hj, if_neg hj⟩

/-- A flush of the counting units leaves nothing in an accumulator (R390). -/
theorem flushUnits_facts (s : State) : s.flushUnits.tally.asks = s.tally.asks ∧ ∀ j, (Tab.at s.flushUnits.tally.acc j).amount = 0 := by
  have key : ∀ (l : List Nat) (u : State), (u.each l fun s k => s.sendPulse (k / 8) (k % 8)).tally.asks = u.tally.asks ∧
      ∀ j, (j ∈ l ∨ (Tab.at u.tally.acc j).amount = 0) → (Tab.at (u.each l fun s k => s.sendPulse (k / 8) (k % 8)).tally.acc j).amount = 0 := by
    intro l
    unfold State.each
    induction l with
    | nil => exact fun u => ⟨rfl, fun j h => h.elim (fun h => by cases h) id⟩
    | cons x xs ih =>
      intro u
      rw [List.foldl_cons]
      obtain ⟨h1, h2⟩ := ih (u.sendPulse (x / 8) (x % 8))
      refine ⟨by rw [h1, (sendPulse_acc u x 0).1], fun j hj => h2 j ?_⟩
      rcases (sendPulse_acc u x j).2 with h3 | ⟨h3, h4⟩
      · exact .inr h3
      · rcases hj with hj | hj
        · rcases List.mem_cons.mp hj with hj | hj
          · exact absurd hj h3
          · exact .inl hj
        · exact .inr (by rw [h4]; exact hj)
  have h := key (Tab.ixs s.tally.acc) s
  refine ⟨h.1, fun j => h.2 j ?_⟩
  by_cases hj : j ∈ Tab.ixs s.tally.acc
  · exact .inl hj
  · refine .inr ?_
    rw [Tab.at_of_not_mem _ _ fun e he h => hj (by rw [← h]; exact List.mem_map_of_mem he)]
    rfl

/-- With nothing before it, a downstream request leaves at once (R350). -/
theorem rpQueue_sends (s : State) (m rid : Nat) (r : RpReq) (h1 : s.px.rootPort = true) (h2 : m < 16 → s.assignedTo rid = some m)
    (h3 : s.px.frozen = false) (h4 : s.px.rpNow = none) (h5 : s.px.rpWait = []) :
    Emission.downstream r.config r.write r.target r.reg r.size r.value ∈ (s.rpQueue m rid r).outbox ∧
      (s.rpQueue m rid r).px.rpNow = some { r with mailbox := m, start := s.clk.px } := by
  unfold State.rpQueue
  have hc : (decide (m < 16) && decide (s.assignedTo rid ≠ some m)) = false := by
    by_cases h : m < 16
    · rw [decide_eq_true h, h2 h]; simp
    · rw [decide_eq_false h]; rfl
  rw [h1, hc, h5]
  simp only [Bool.not_true, Bool.false_eq_true, if_false]
  unfold State.rpPump
  have e1 : ∀ f, (s.modPx f).px = f s.px := fun _ => rfl
  rw [e1]
  dsimp only
  rw [h4, h5]
  dsimp only [List.nil_append]
  have hf : ∀ b, (s.modPx fun x => { x with rpWait := x.rpWait ++ [{ r with mailbox := m }] }).rpFrozen b = false := by
    intro b
    unfold State.rpFrozen
    show (s.px.frozen && _) = false
    rw [h3]; rfl
  rw [hf]
  simp only [Bool.false_eq_true, if_false]
  exact ⟨List.mem_append_right _ (List.mem_singleton.mpr rfl), rfl⟩

end Sys2Proof.Machine
end

