-- ==== Sys2Proof/Laws/PerInstr.lean ====
section
/-! SUPPORT. One lemma per command for the family `Shape`: the operands alone make a command well formed, but for the commands that
carry bytes or a list whose size is fixed. -/

namespace Sys2Proof.Laws.Shape

/-- Does the command carry operands that `Instr.wf` checks? -/
def carries : Instr → Bool
  | .romBoot .. => true
  | .sensorSample .. => true
  | .doorbellPageBadWrite .. => true
  | .paramFlitReceive .. => true
  | .retrainComplete .. => true
  | .payloadFlitReceive .. => true
  | .flitCrcError .. => true
  | .nakReceive .. => true
  | .respFlitReceive .. => true
  | .testFlitReceive .. => true
  | .cxlIoPostedWrite .. => true
  | .cxlIoRead .. => true
  | .pcieMemoryRequest .. => true
  | .dlUpInsert .. => true
  | .mctpRequest .. => true
  | .errorLatch .. => true
  | .idleFlitReceive .. => true
  | .outOfOrderFlit .. => true
  | .pcieLinkUp .. => true
  | _ => false

/-- A command that is not well formed carries checked operands. -/
def Statement (i : Instr) : Prop := i.wf = false → carries i = true

theorem coldReset (x : Straps) : Statement (.coldReset x) := fun h => nomatch h
theorem romBoot (b0 : Bank) (b1 : Bank) : Statement (.romBoot b0 b1) := fun _ => rfl
theorem computeCellFirmwareBroadcast (image : Bytes) : Statement (.computeCellFirmwareBroadcast image) := fun h => nomatch h
theorem cellDigestReturn (cell : Nat) (digest : Bytes) : Statement (.cellDigestReturn cell digest) := fun h => nomatch h
theorem cellDigestTimeout (cell : Nat) : Statement (.cellDigestTimeout cell) := fun h => nomatch h
theorem topologyCheck : Statement .topologyCheck := fun h => nomatch h
theorem readinessDecision : Statement .readinessDecision := fun h => nomatch h
theorem computePartReset : Statement .computePartReset := fun h => nomatch h
theorem computePartResetRestore : Statement .computePartResetRestore := fun h => nomatch h
theorem partitionFunctionLevelReset (p : Fin 16) : Statement (.partitionFunctionLevelReset p) := fun h => nomatch h
theorem pfFunctionLevelReset : Statement .pfFunctionLevelReset := fun h => nomatch h
theorem partitionResetEnd (p : Fin 16) : Statement (.partitionResetEnd p) := fun h => nomatch h
theorem hostLinkLossReset (sideband : Bool) : Statement (.hostLinkLossReset sideband) := fun h => nomatch h
theorem hostLinkOutTimerExpiry : Statement .hostLinkOutTimerExpiry := fun h => nomatch h
theorem hostLinkLossResetEnd : Statement .hostLinkLossResetEnd := fun h => nomatch h
theorem portReset (disable : Bool) : Statement (.portReset disable) := fun h => nomatch h
theorem powerWarn : Statement .powerWarn := fun h => nomatch h
theorem powerWarnWaitExpiry (low : Bool) : Statement (.powerWarnWaitExpiry low) := fun h => nomatch h
theorem clockMonitorLoss (px : Bool) : Statement (.clockMonitorLoss px) := fun h => nomatch h
theorem sensorSample (v : List (BitVec 16)) : Statement (.sensorSample v) := fun _ => rfl
theorem ckArrStepDone : Statement .ckArrStepDone := fun h => nomatch h
theorem ckArrStepTimeout : Statement .ckArrStepTimeout := fun h => nomatch h
theorem mcPwrCtrlWrite (w : Word) : Statement (.mcPwrCtrlWrite w) := fun h => nomatch h
theorem arrFreqMaxStepDown : Statement .arrFreqMaxStepDown := fun h => nomatch h
theorem ringDoorbell (p : Fin 16) (j : Fin 16384) (w : Word) : Statement (.ringDoorbell p j w) := fun h => nomatch h
theorem stagedDoorbell (p : Fin 16) (j : Fin 16384) (w : Word) : Statement (.stagedDoorbell p j w) := fun h => nomatch h
theorem invalidationDoorbell (p : Fin 16) (w : Word) : Statement (.invalidationDoorbell p w) := fun h => nomatch h
theorem chordDoorbell (p : Fin 16) (w : Word) : Statement (.chordDoorbell p w) := fun h => nomatch h
theorem doorbellPageBadWrite (p : Fin 16) (off : Fin 1048576) (n : Nat) : Statement (.doorbellPageBadWrite p off n) := fun _ => rfl
theorem faultResponseConsume (p : Fin 16) (w : Word) : Statement (.faultResponseConsume p w) := fun h => nomatch h
theorem faultResponseResume (p : Fin 16) (w : Word) : Statement (.faultResponseResume p w) := fun h => nomatch h
theorem faultResponseAbort (p : Fin 16) (w : Word) : Statement (.faultResponseAbort p w) := fun h => nomatch h
theorem descriptorFetch (r : Fin 16384) : Statement (.descriptorFetch r) := fun h => nomatch h
theorem descriptorFetchReturn (id : Nat) (res : RdRes) : Statement (.descriptorFetchReturn id res) := fun h => nomatch h
theorem descriptorRefetchBackoffExpiry (r : Fin 16384) : Statement (.descriptorRefetchBackoffExpiry r) := fun h => nomatch h
theorem descriptorStart (r : Fin 16384) : Statement (.descriptorStart r) := fun h => nomatch h
theorem requestIssue (q : Requester) : Statement (.requestIssue q) := fun h => nomatch h
theorem dataReadReturn (id : Nat) (res : RdRes) : Statement (.dataReadReturn id res) := fun h => nomatch h
theorem dataWriteAck (id : Nat) (res : WrRes) : Statement (.dataWriteAck id res) := fun h => nomatch h
theorem requestTimeout (id : Nat) : Statement (.requestTimeout id) := fun h => nomatch h
theorem flagWriteIssue (r : Fin 16384) : Statement (.flagWriteIssue r) := fun h => nomatch h
theorem statusBlockWrite (r : Fin 16384) : Statement (.statusBlockWrite r) := fun h => nomatch h
theorem ownClearWrite (r : Fin 16384) (ack : WrRes) : Statement (.ownClearWrite r ack) := fun h => nomatch h
theorem completionEntryWrite (r : Fin 16384) (ack : WrRes) : Statement (.completionEntryWrite r ack) := fun h => nomatch h
theorem completionEntryAck (r : Fin 16384) (ack : WrRes) : Statement (.completionEntryAck r ack) := fun h => nomatch h
theorem consumerWordPoll (k : Fin 4096) : Statement (.consumerWordPoll k) := fun h => nomatch h
theorem consumerWordReturn (id : Nat) (res : RdRes) : Statement (.consumerWordReturn id res) := fun h => nomatch h
theorem wcEntryIdleFlush (k : Fin 64) : Statement (.wcEntryIdleFlush k) := fun h => nomatch h
theorem tierCacheFillReturn (fill : Nat) (res : RdRes) : Statement (.tierCacheFillReturn fill res) := fun h => nomatch h
theorem hostSnoop (module : Fin 4) (pa : BitVec 52) (invalidate : Bool) : Statement (.hostSnoop module pa invalidate) := fun h => nomatch h
theorem parkDrainComplete (r : Fin 16384) : Statement (.parkDrainComplete r) := fun h => nomatch h
theorem faultRecordAck (slot : Fin 16400) (gen : Fin 256) (ack : WrRes) : Statement (.faultRecordAck slot gen ack) := fun h => nomatch h
theorem parkTimerExpiry (slot : Fin 16400) : Statement (.parkTimerExpiry slot) := fun h => nomatch h
theorem walkStart (p : Fin 16) : Statement (.walkStart p) := fun h => nomatch h
theorem walkReadReturn (walk : Nat) (res : RdRes) : Statement (.walkReadReturn walk res) := fun h => nomatch h
theorem walkReadTimeout (walk : Nat) : Statement (.walkReadTimeout walk) := fun h => nomatch h
theorem adUpdateOwnedReadReturn (walk : Nat) (res : RdRes) : Statement (.adUpdateOwnedReadReturn walk res) := fun h => nomatch h
theorem invalidationEntryFetch (p : Fin 16) : Statement (.invalidationEntryFetch p) := fun h => nomatch h
theorem invalidationEntryReturn (p : Fin 16) (res : RdRes) : Statement (.invalidationEntryReturn p res) := fun h => nomatch h
theorem invalidationRefetchBackoffExpiry (p : Fin 16) : Statement (.invalidationRefetchBackoffExpiry p) := fun h => nomatch h
theorem invalidationCut (p : Fin 16) : Statement (.invalidationCut p) := fun h => nomatch h
theorem invalidationAcknowledge (inval : Nat) : Statement (.invalidationAcknowledge inval) := fun h => nomatch h
theorem invalidationDrainLimitExpiry (inval : Nat) : Statement (.invalidationDrainLimitExpiry inval) := fun h => nomatch h
theorem chordHeaderFetch (p : Fin 16) : Statement (.chordHeaderFetch p) := fun h => nomatch h
theorem chordHeaderReturn (p : Fin 16) (res : RdRes) : Statement (.chordHeaderReturn p res) := fun h => nomatch h
theorem chordBackoffExpiry (p : Fin 16) : Statement (.chordBackoffExpiry p) := fun h => nomatch h
theorem chordTake (p : Fin 16) (lines : List RdRes) : Statement (.chordTake p lines) := fun h => nomatch h
theorem chordCommit (p : Fin 16) : Statement (.chordCommit p) := fun h => nomatch h
theorem chordTimeout (k : Fin 64) : Statement (.chordTimeout k) := fun h => nomatch h
theorem chordStatusWrite (k : Fin 64) : Statement (.chordStatusWrite k) := fun h => nomatch h
theorem chordOwnClear (k : Fin 64) (ack : WrRes) : Statement (.chordOwnClear k ack) := fun h => nomatch h
theorem chordNoteWrite (k : Fin 64) (ack : WrRes) : Statement (.chordNoteWrite k ack) := fun h => nomatch h
theorem ringDrainComplete (r : Fin 16384) : Statement (.ringDrainComplete r) := fun h => nomatch h
theorem updateDescriptorPass (r : Fin 16384) : Statement (.updateDescriptorPass r) := fun h => nomatch h
theorem normTableRead (e : Fin 64) : Statement (.normTableRead e) := fun h => nomatch h
theorem normTableReturn (id : Nat) (res : RdRes) : Statement (.normTableReturn id res) := fun h => nomatch h
theorem normWaitLimitExpiry (e : Fin 64) : Statement (.normWaitLimitExpiry e) := fun h => nomatch h
theorem jobStart (e : Fin 64) : Statement (.jobStart e) := fun h => nomatch h
theorem tileReadsComplete (e : Fin 64) : Statement (.tileReadsComplete e) := fun h => nomatch h
theorem tileWritesAcked (e : Fin 64) : Statement (.tileWritesAcked e) := fun h => nomatch h
theorem fingerprintWrite (e : Fin 64) (region : Nat) : Statement (.fingerprintWrite e region) := fun h => nomatch h
theorem jobPark (e : Fin 64) : Statement (.jobPark e) := fun h => nomatch h
theorem jobReturn (e : Fin 64) : Statement (.jobReturn e) := fun h => nomatch h
theorem arrayChunkStart (e : Fin 64) (q : Nat) : Statement (.arrayChunkStart e q) := fun h => nomatch h
theorem arrayTileFinish : Statement .arrayTileFinish := fun h => nomatch h
theorem outputPathTile : Statement .outputPathTile := fun h => nomatch h
theorem replicaReportSend (p : Fin 16) : Statement (.replicaReportSend p) := fun h => nomatch h
theorem repairJobStart (p : Fin 16) : Statement (.repairJobStart p) := fun h => nomatch h
theorem repairFingerprintCheck (e : Fin 64) : Statement (.repairFingerprintCheck e) := fun h => nomatch h
theorem repairMemberWrite (e : Fin 64) : Statement (.repairMemberWrite e) := fun h => nomatch h
theorem repairFingerprintWrite (e : Fin 64) : Statement (.repairFingerprintWrite e) := fun h => nomatch h
theorem repairNoteWrite (e : Fin 64) : Statement (.repairNoteWrite e) := fun h => nomatch h
theorem sharedRepairOpen : Statement .sharedRepairOpen := fun h => nomatch h
theorem sharedRepairOriginDone (repair : Nat) (res : Option (Bytes × Bytes)) : Statement (.sharedRepairOriginDone repair res) := fun h => nomatch h
theorem sharedRepairClose (repair : Nat) : Statement (.sharedRepairClose repair) := fun h => nomatch h
theorem sharedRepairTimeout (repair : Nat) : Statement (.sharedRepairTimeout repair) := fun h => nomatch h
theorem sidebandUp (k : Fin 24) : Statement (.sidebandUp k) := fun h => nomatch h
theorem mainbandTrained (k : Fin 24) (lo : Fin 33) (hi : Fin 33) : Statement (.mainbandTrained k lo hi) := fun h => nomatch h
theorem paramFlitReceive (k : Fin 24) (b : Bytes) : Statement (.paramFlitReceive k b) := fun _ => rfl
theorem trainingLimitExpiry (k : Fin 24) : Statement (.trainingLimitExpiry k) := fun h => nomatch h
theorem retrainComplete (k : Fin 24) (lo : Fin 33) (hi : Fin 33) (b : Bytes) : Statement (.retrainComplete k lo hi b) := fun _ => rfl
theorem payloadFlitReceive (m : Fin 20) (b : Bytes) : Statement (.payloadFlitReceive m b) := fun _ => rfl
theorem flitCrcError (k : Fin 24) (b : Bytes) : Statement (.flitCrcError k b) := fun _ => rfl
theorem nakRepeatExpiry (m : Fin 20) : Statement (.nakRepeatExpiry m) := fun h => nomatch h
theorem nakReceive (k : Fin 24) (b : Bytes) : Statement (.nakReceive k b) := fun _ => rfl
theorem replayTimeout (m : Fin 20) : Statement (.replayTimeout m) := fun h => nomatch h
theorem respFlitReceive (m : Fin 20) (b : Bytes) : Statement (.respFlitReceive m b) := fun _ => rfl
theorem inboundWriteAck (id : Nat) (res : WrRes) : Statement (.inboundWriteAck id res) := fun h => nomatch h
theorem messageTimeout (tag : Fin 65536) : Statement (.messageTimeout tag) := fun h => nomatch h
theorem testFlitReceive (k : Fin 24) (b : Bytes) : Statement (.testFlitReceive k b) := fun _ => rfl
theorem linkLowPowerEntry (k : Fin 24) : Statement (.linkLowPowerEntry k) := fun h => nomatch h
theorem linkLowPowerExit (k : Fin 24) : Statement (.linkLowPowerExit k) := fun h => nomatch h
theorem cxlIoPostedWrite (pasid : Option (BitVec 20)) (off : BitVec 47) (data : Bytes) : Statement (.cxlIoPostedWrite pasid off data) := fun _ => rfl
theorem cxlIoRead (pasid : Option (BitVec 20)) (txn : Nat) (off : BitVec 47) (len : Nat) (memory : Bool) : Statement (.cxlIoRead pasid txn off len memory) := fun _ => rfl
theorem pcieMemoryRequest (kind : TlpKind) (rid : BitVec 16) (txn : Nat) (addr : Word) (len : Nat) (poisoned : Bool) (data : Bytes) (header : Bytes) : Statement (.pcieMemoryRequest kind rid txn addr len poisoned data header) := fun _ => rfl
theorem pcieConfigRequest (f : Fin 256) (txn : Nat) (reg : BitVec 10) (write : Option (BitVec 4 × BitVec 32)) : Statement (.pcieConfigRequest f txn reg write) := fun h => nomatch h
theorem aerErrorDetected (correctable : Bool) (b : Fin 32) (header : Bytes) : Statement (.aerErrorDetected correctable b header) := fun h => nomatch h
theorem dlDown : Statement .dlDown := fun h => nomatch h
theorem dlUpInsert (width : Nat) (rate : Nat) : Statement (.dlUpInsert width rate) := fun _ => rfl
theorem capoRelease : Statement .capoRelease := fun h => nomatch h
theorem capoSoftwareTrigger : Statement .capoSoftwareTrigger := fun h => nomatch h
theorem capoInsertHoldWrite (hold : Bool) : Statement (.capoInsertHoldWrite hold) := fun h => nomatch h
theorem barResize (log2 : Fin 64) : Statement (.barResize log2) := fun h => nomatch h
theorem msixPendingSend (f : Fin 17) (v : Fin 512) : Statement (.msixPendingSend f v) := fun h => nomatch h
theorem l0pEntry : Statement .l0pEntry := fun h => nomatch h
theorem l0pRestore : Statement .l0pRestore := fun h => nomatch h
theorem aspmL1Entry : Statement .aspmL1Entry := fun h => nomatch h
theorem errMessageReceived (rid : BitVec 16) (kind : Fin 3) : Statement (.errMessageReceived rid kind) := fun h => nomatch h
theorem deviceInterruptWrite (rid : BitVec 16) (addr : Word) (value : BitVec 32) : Statement (.deviceInterruptWrite rid addr value) := fun h => nomatch h
theorem rpRequestCompletion (res : RpRes) : Statement (.rpRequestCompletion res) := fun h => nomatch h
theorem spdmRequest (doe : Bool) (session : Option Nat) (code : SpdmCode) (body : Bytes) : Statement (.spdmRequest doe session code body) := fun h => nomatch h
theorem claim (session : Nat) (payload : Bytes) : Statement (.claim session payload) := fun h => nomatch h
theorem keyLoad (session : Nat) (payload : Bytes) : Statement (.keyLoad session payload) := fun h => nomatch h
theorem setProvision (session : Nat) (payload : Bytes) : Statement (.setProvision session payload) := fun h => nomatch h
theorem setRevoke (session : Nat) (payload : Bytes) : Statement (.setRevoke session payload) := fun h => nomatch h
theorem release (session : Nat) (payload : Bytes) : Statement (.release session payload) := fun h => nomatch h
theorem mailboxGo (m : Fin 17) : Statement (.mailboxGo m) := fun h => nomatch h
theorem mctpRequest (body : Bytes) : Statement (.mctpRequest body) := fun _ => rfl
theorem i3cAddressAssign (addr : BitVec 7) : Statement (.i3cAddressAssign addr) := fun h => nomatch h
theorem partCreate (m : Fin 18) : Statement (.partCreate m) := fun h => nomatch h
theorem partActivate (m : Fin 18) : Statement (.partActivate m) := fun h => nomatch h
theorem partDestroy (m : Fin 18) : Statement (.partDestroy m) := fun h => nomatch h
theorem regSet (m : Fin 18) : Statement (.regSet m) := fun h => nomatch h
theorem hostRangeSet (m : Fin 18) : Statement (.hostRangeSet m) := fun h => nomatch h
theorem pasidBind (m : Fin 18) : Statement (.pasidBind m) := fun h => nomatch h
theorem pfWinBase (m : Fin 18) : Statement (.pfWinBase m) := fun h => nomatch h
theorem vfWinBase (m : Fin 18) : Statement (.vfWinBase m) := fun h => nomatch h
theorem sharedRegister (m : Fin 18) : Statement (.sharedRegister m) := fun h => nomatch h
theorem rpAssign (m : Fin 18) : Statement (.rpAssign m) := fun h => nomatch h
theorem asidBind (m : Fin 18) : Statement (.asidBind m) := fun h => nomatch h
theorem invqPlace (m : Fin 18) : Statement (.invqPlace m) := fun h => nomatch h
theorem drainLimit (m : Fin 18) : Statement (.drainLimit m) := fun h => nomatch h
theorem invalidate (m : Fin 18) : Statement (.invalidate m) := fun h => nomatch h
theorem fqPlace (m : Fin 18) : Statement (.fqPlace m) := fun h => nomatch h
theorem faultTimeout (m : Fin 18) : Statement (.faultTimeout m) := fun h => nomatch h
theorem ringConfigure (m : Fin 18) : Statement (.ringConfigure m) := fun h => nomatch h
theorem ringEnable (m : Fin 18) : Statement (.ringEnable m) := fun h => nomatch h
theorem ringDisable (m : Fin 18) : Statement (.ringDisable m) := fun h => nomatch h
theorem cqPlace (m : Fin 18) : Statement (.cqPlace m) := fun h => nomatch h
theorem counterArea (m : Fin 18) : Statement (.counterArea m) := fun h => nomatch h
theorem chordQueue (m : Fin 18) : Statement (.chordQueue m) := fun h => nomatch h
theorem windowSet (m : Fin 18) : Statement (.windowSet m) := fun h => nomatch h
theorem keySwitch (m : Fin 18) : Statement (.keySwitch m) := fun h => nomatch h
theorem rekey (m : Fin 18) : Statement (.rekey m) := fun h => nomatch h
theorem unwrap (m : Fin 18) (header : Option Bytes) : Statement (.unwrap m header) := fun h => nomatch h
theorem unwrapDone (m : Fin 16) (data : Bytes) : Statement (.unwrapDone m data) := fun h => nomatch h
theorem programLoad (m : Fin 18) (image : Option Bytes) : Statement (.programLoad m image) := fun h => nomatch h
theorem schedLoad (m : Fin 18) : Statement (.schedLoad m) := fun h => nomatch h
theorem replicaSet (m : Fin 18) : Statement (.replicaSet m) := fun h => nomatch h
theorem tcFlush (m : Fin 18) : Statement (.tcFlush m) := fun h => nomatch h
theorem vectorSet (m : Fin 18) : Statement (.vectorSet m) := fun h => nomatch h
theorem tallyCommit (m : Fin 18) : Statement (.tallyCommit m) := fun h => nomatch h
theorem moduleRetrain (m : Fin 18) : Statement (.moduleRetrain m) := fun h => nomatch h
theorem rpConfig (m : Fin 18) : Statement (.rpConfig m) := fun h => nomatch h
theorem rpMemory (m : Fin 18) : Statement (.rpMemory m) := fun h => nomatch h
theorem testLoopback (m : Fin 18) : Statement (.testLoopback m) := fun h => nomatch h
theorem eventRead (m : Fin 18) : Statement (.eventRead m) := fun h => nomatch h
theorem sensorRead (m : Fin 18) : Statement (.sensorRead m) := fun h => nomatch h
theorem fwStage (m : Fin 18) : Statement (.fwStage m) := fun h => nomatch h
theorem fwVerify (m : Fin 18) : Statement (.fwVerify m) := fun h => nomatch h
theorem fwActivate (m : Fin 18) : Statement (.fwActivate m) := fun h => nomatch h
theorem unitAdmit (m : Fin 18) : Statement (.unitAdmit m) := fun h => nomatch h
theorem unitRead (m : Fin 18) : Statement (.unitRead m) := fun h => nomatch h
theorem modeSet (m : Fin 18) : Statement (.modeSet m) := fun h => nomatch h
theorem getInfo (m : Fin 18) : Statement (.getInfo m) := fun h => nomatch h
theorem scrubQuiesceEnd (p : Fin 16) : Statement (.scrubQuiesceEnd p) := fun h => nomatch h
theorem scrubZeroEnd (p : Fin 16) : Statement (.scrubZeroEnd p) := fun h => nomatch h
theorem scrubCloseEnd (p : Fin 16) : Statement (.scrubCloseEnd p) := fun h => nomatch h
theorem rekeyPageLock (p : Fin 16) (leaf : Option FoundLeaf) : Statement (.rekeyPageLock p leaf) := fun h => nomatch h
theorem rekeyPagePushesDone (p : Fin 16) (old : Bytes) : Statement (.rekeyPagePushesDone p old) := fun h => nomatch h
theorem rekeyPageUnlock (p : Fin 16) : Statement (.rekeyPageUnlock p) := fun h => nomatch h
theorem hbmPassEnd (p : Fin 16) : Statement (.hbmPassEnd p) := fun h => nomatch h
theorem keySlotRetire (p : Fin 16) (g : Fin 2) : Statement (.keySlotRetire p g) := fun h => nomatch h
theorem accumulatorAgeExpiry (p : Fin 16) (k : Fin 7) : Statement (.accumulatorAgeExpiry p k) := fun h => nomatch h
theorem countPulseTake : Statement .countPulseTake := fun h => nomatch h
theorem lifetimePulse : Statement .lifetimePulse := fun h => nomatch h
theorem markPulse : Statement .markPulse := fun h => nomatch h
theorem tallyRecordCommit : Statement .tallyRecordCommit := fun h => nomatch h
theorem tallyRecordStored : Statement .tallyRecordStored := fun h => nomatch h
theorem tyRecSelectWrite (w : Word) : Statement (.tyRecSelectWrite w) := fun h => nomatch h
theorem tyCommitWrite : Statement .tyCommitWrite := fun h => nomatch h
theorem errorLatch (e : ErrorEv) : Statement (.errorLatch e) := fun _ => rfl
theorem graceExpiry (src : Fin 16) : Statement (.graceExpiry src) := fun h => nomatch h
theorem ecStatusClear (w : Word) : Statement (.ecStatusClear w) := fun h => nomatch h
theorem quietExpiry (src : Fin 16) : Statement (.quietExpiry src) := fun h => nomatch h
theorem ecInject (w : Word) : Statement (.ecInject w) := fun h => nomatch h
theorem aliveToggle : Statement .aliveToggle := fun h => nomatch h
theorem reconcilePass : Statement .reconcilePass := fun h => nomatch h
theorem tgCtrlWrite (k : Fin 24) (w : Word) : Statement (.tgCtrlWrite k w) := fun h => nomatch h
theorem testFlitGenerate (k : Fin 24) : Statement (.testFlitGenerate k) := fun h => nomatch h
theorem registerWrite (via : Option (Option (BitVec 20))) (off : BitVec 26) (n : Nat) (value : Word) :
    Statement (.registerWrite via off n value) := fun h => nomatch h
theorem hbmChannelSizeReport (log2 : Fin 46) : Statement (.hbmChannelSizeReport log2) := fun h => nomatch h
theorem idleFlitReceive (k : Fin 24) (b : Bytes) : Statement (.idleFlitReceive k b) := fun _ => rfl
theorem outOfOrderFlit (m : Fin 20) (b : Bytes) : Statement (.outOfOrderFlit m b) := fun _ => rfl
theorem pcieLinkUp (width : Nat) (rate : Nat) : Statement (.pcieLinkUp width rate) := fun _ => rfl
theorem cxlIoConfigurationRequest (txn : Nat) (reg : BitVec 10) (write : Option (BitVec 4 × BitVec 32)) : Statement (.cxlIoConfigurationRequest txn reg write) := fun h => nomatch h

end Sys2Proof.Laws.Shape
end

