-- ==== Sys2Proof/Tests/Slice0.lean ====
section
/-! SUPPORT. Tests: the ill-formed commands that the block refuses, the spec's worked examples, and a witness for every statement that has
hypotheses. -/

set_option maxRecDepth 10000
set_option linter.unusedSimpArgs false
set_option linter.unusedVariables false

open Sys2Proof Sys2Proof.Machine

/-! ## Well-formed commands -/

/-- One ill-formed command for each check of `Instr.wf`. -/
def illFormedSamples : List Instr :=
  [.romBoot { manifest := zeros 351, digest := zeros 48 } { manifest := zeros 352, digest := zeros 48 },
   .romBoot { manifest := zeros 352, digest := zeros 48 } { manifest := zeros 352, digest := zeros 47 },
   .sensorSample (List.replicate 7 0), .doorbellPageBadWrite 0 8 8, .paramFlitReceive 4 [0], .retrainComplete 4 64 64 [0],
   .payloadFlitReceive 0 [0], .flitCrcError 4 [0], .nakReceive 4 [0], .respFlitReceive 0 [0], .testFlitReceive 4 [0],
   .cxlIoPostedWrite none 4095 [0, 0], .cxlIoRead none 0 0 0 true, .pcieMemoryRequest .write 0 0 0 4 false [0] [],
   .dlUpInsert 3 6, .pcieLinkUp 16 7, .mctpRequest (zeros 31), .errorLatch { source := 16 }, .errorLatch { source := 0, cls := 3 },
   .idleFlitReceive 4 [0], .outOfOrderFlit 0 [0]]

theorem test_ill_formed : illFormedSamples.all (fun i => !i.wf) = true := by decide

theorem test_ill_formed_refused : exec (.sensorSample (List.replicate 7 0)) State.reset = .refused (.illFormed "SENSOR_SAMPLE") := rfl

theorem test_no_word_spells_a_command : decodeTableWord 16 0 = none ∧ State.reset.withFetchWord 16 0 = State.reset := ⟨rfl, rfl⟩

/-! ## The spec's worked examples -/

/-- Global ring 5,000 is ring 136 of QC[19], of group 4 (01_organisation). -/
theorem test_ring_5000 : cellOfRing 5000 = 19 ∧ 5000 % 256 = 136 ∧ 5000 / 1024 = 4 := by decide

/-- Partition 6 with group 5 only: its ring 280 is global ring 5,400 (05_rings_doorbells). -/
theorem test_ring_280 : ({ pt := { parts := [(6, { groups := 32 })] } } : State).globalRing 6 280 = some 5400 := by decide

/-- Die 9 begins at 0x4_8000_0000_0000 (02_address_space). -/
theorem test_die_9 : dieOf 0x4_8000_0000_0000 = 9 ∧ offOf 0x4_8000_0000_0000 = 0 := by decide

/-- The CRC of "123456789" (R230). -/
theorem test_crc64 : crc64 0 [0x31, 0x32, 0x33, 0x34, 0x35, 0x36, 0x37, 0x38, 0x39] = 0x6C40DF5F0B497347 := by decide

/-- 1.0, -0.5, 6.0 and -6.0 in FP4 pack into 0x92, 0xF7 (R255); the source is BF16. -/
theorem test_fp4_pack : convertElem 1 7 4 false false true [0x80, 0x3F, 0x00, 0xBF, 0xC0, 0x40, 0xC0, 0xC0] = ([0x92, 0xF7], 0, 0) := by decide

/-- 464 rounds to 448 in E4M3; 465 is out of range, NaN without SAT and 448 with it (R256, R257). -/
theorem test_e4m3_tie : encodeFmt 3 .nearest false (.fin false 464 0) = (0x7E, false) ∧
    encodeFmt 3 .nearest false (.fin false 465 0) = (0x7F, true) ∧ encodeFmt 3 .nearest true (.fin false 465 0) = (0x7E, true) := by decide

/-- A block whose largest magnitude is 3.1 has X = -7 and scale byte 0x78 in E4M3, and 3.1 becomes 384 (R262). -/
theorem test_mx_scale : mxExp 3 [decodeFmt 0 0x40466666] = -7 ∧ (mxEncode 3 [(decodeFmt 0 0x40466666, .nearest)]).take 1 = [0x78] ∧
    encodeFmt 3 .nearest true ((decodeFmt 0 0x40466666).scale 7) = encodeFmt 3 .nearest true (.fin false 384 0) := by decide

/-- Die 9 of the start-up example (18_reset_bringup): manifest entry 5 reads 0x080D_0A05, PL[12] trained at x32 and PL[18] is DOWN. -/
def startUp : State :=
  let up (e : Nat) : Module := { st := 5, width := 64, partnerDie := e }
  { pos := 5
    mc := { ready := true, fw := { authOk := true, ccStep := 1, manifest := padTo 352 (zeros 180 ++ [0x05, 0x0A, 0x0D, 0x08]) }, rd := { st := 1 } }
    links := { mods := ((List.range 24).map fun k => (k, if k < 4 then up 0 else up ([5, 10, 13, 8].getD ((k - 4) / 5) 0))).map fun e =>
      if e.1 = 16 then (16, { e.2 with width := 32, spares := 1 }) else if e.1 = 22 then (22, { st := 8, downCause := 2, partnerDie := 0 }) else e } }

/-- MC_READY_MOD[16] and [22] of the example (R451). -/
theorem test_ready_mod : startUp.readyMod 16 = 0x0D0D2011 ∧ startUp.readyMod 22 = 0x081F0020 := by decide

/-- MC_READY of the example (R450, R451). -/
theorem test_ready : startUp.decideReady.readyWord = 0x04130C02 ∧ startUp.decideReady.mc.mode = 0 := by decide

/-! ## One step on a small state -/

theorem test_idle_step : (match step State.reset with | .next t => t.clk.ticks | _ => 0) = 1 := by decide

/-- A doorbell to a partition that is not ACTIVE moves no ring (R108). -/
theorem test_doorbell_free : ({} : State).ringDoorbell 0 0 5 = { ({} : State) with pt := (({} : State).ringDoorbell 0 0 5).pt } := by decide

/-- A wrong check tag moves no ring (R108, R109). -/
theorem test_doorbell_tag :
    let s : State := { pt := { parts := [(0, { st := 2, groups := 1, checkTag := 7 })] }, qc := { rings := [(0, { st := 1 })] } }
    (s.ringDoorbell 0 0 0x0800000000000001).ring 0 = s.ring 0 := by decide

/-- A doorbell with position 5 of lap 0 moves P to 5 (R111, R112). -/
theorem test_doorbell_moves :
    let s : State := { pt := { parts := [(0, { st := 2, groups := 1 })] }, qc := { rings := [(0, { st := 1 })] } }
    ((s.ringDoorbell 0 0 5).ring 0).p = 5 := by decide

/-! ## Witnesses -/

/-- A state whose mailbox m is next with this opcode and payload. -/
def asking (m op : Nat) (payload : Bytes) (s : State) : State :=
  { s with mc := { s.mc with ready := true, boxes := [(m, { busy := true, cmd := leBytes 2 op ++ zeros 30 ++ payload })] } }

theorem zeros_length (n : Nat) : (zeros n).length = n := List.length_replicate

theorem w_ColdResetState_romBoot :
    ∃ (b0 b1 : Bank) (s : State), (Instr.romBoot b0 b1).wf = true ∧ s.mc.ready = false := ⟨⟨List.replicate 352 0, List.replicate 48 0⟩, ⟨List.replicate 352 0, List.replicate 48 0⟩, {}, by simp [Instr.wf, bankShape]⟩

theorem w_DieIdentity_kept :
    ∃ (i : Instr) (s t : State), (∀ x, i ≠ .coldReset x) ∧ exec i s = .next t := ⟨.powerWarn, {}, _, (fun x h => by cases h), rfl⟩

theorem w_LocalRingNumbers_global :
    ∃ (s : State) (p k r g : Nat), (maskBits 16 (s.part p).groups)[k]? = some g ∧ r < 1024 := ⟨{ pt := { parts := [(6, { groups := 32 })] } }, 6, 0, 1023, 5, by decide, by decide⟩

theorem w_LocalRingNumbers_none :
    ∃ (s : State) (p j : Nat), 1024 * (maskBits 16 (s.part p).groups).length ≤ j := ⟨{ pt := { parts := [(6, { groups := 32 })] } }, 6, 1024, by decide⟩

theorem w_LocalRingNumbers_example6 :
    ∃ (s : State), (s.part 6).groups = 32 := ⟨{ pt := { parts := [(6, { groups := 32 })] } }, by decide⟩

theorem w_PartitionActivation_partActivate :
    ∃ (m : Fin 18) (s : State) (b : Bytes) (x : Part), Takes s m 0x0102 ∧ (s.box m).payload = b ∧ byteAt b 0 < 16 ∧ x = s.part (byteAt b 0) ∧ x.st = 1 ∧ x.claimed = true ∧
      (x.slot x.scope0).st = .loaded ∧ (x.slot x.scope1).st = .loaded := ⟨16, asking 16 0x0102 [15] { pt := { parts := [(15, { st := 1, claimed := true, slot0 := { st := .loaded } })] } }, _, _, by decide, rfl, by decide, rfl, by decide, by decide, by decide, by decide⟩

theorem w_EventReading_eventRead :
    ∃ (m : Fin 18) (s : State) (b : Bytes) (first most : Nat), Takes s m 0x0B01 ∧ (s.box m).payload = b ∧ first = fieldAt b 0 8 ∧ most = byteAt b 8 ∧ most ≠ 0 ∧ most ≤ 64 ∧ s.mc.log ≠ [] := ⟨1, asking 1 0x0B01 [0, 0, 0, 0, 0, 0, 0, 0, 64] { pt := { parts := [(1, { st := 1 })] }, mc := { log := [{ seq := 1, part := some 1 }] } }, _, _, _, by decide, rfl, rfl, rfl, by decide, by decide, by decide⟩

theorem w_RingConfiguration_ringConfigure :
    ∃ (m : Fin 18) (s : State) (b : Bytes) (r : Nat), Takes s m 0x0401 ∧ (s.box m).payload = b ∧ s.globalRing m (fieldAt b 0 2) = some r ∧ (s.ring r).st = 0 ∧
      6 ≤ byteAt b 2 ∧ byteAt b 2 ≤ 16 ∧ byteAt b 3 < 4 ∧ fieldAt b 8 8 % 4096 = 0 ∧ s.inQualifying m (fieldAt b 8 8) (128 * 2 ^ byteAt b 2) = true ∧
      (bit (byteAt b 4) 0 || localAsid m (fieldAt b 6 2)) = true ∧ (s.cq (256 * m + byteAt b 5)).placed = true ∧ (bit (byteAt b 4) 0 = true → s.mc.mode ≠ 0) := ⟨1, asking 1 0x0401 [0, 0, 16, 3, 0, 255, 127, 0] { pt := { parts := [(1, { st := 1, groups := 4 })], ranges := [(0, { valid := true, we := true, limit := 8388608, mask := 2 })] }, qc := { cqs := [(511, { placed := true })] } }, _, 2048, by decide, rfl, by decide, by decide, by decide, by decide, by decide, by decide, by decide, by decide, by decide, by decide⟩

theorem w_RingConfiguration_notDisabled :
    ∃ (m : Fin 18) (s : State) (b : Bytes) (r : Nat), Takes s m 0x0401 ∧ (s.box m).payload = b ∧ s.globalRing m (fieldAt b 0 2) = some r ∧ (s.ring r).st ≠ 0 := ⟨1, asking 1 0x0401 [255, 3] { pt := { parts := [(1, { st := 1, groups := 4 })] }, qc := { rings := [(3071, { st := 7 })] } }, _, 3071, by decide, rfl, by decide, by decide⟩

theorem w_DrainLimits_invalidationDrainLimitExpiry :
    ∃ (id : Nat) (s : State) (i : Inval), (s.xl.invals.find? fun i => i.id == id) = some i ∧ i.limitHit = false ∧
      i.cut + (s.invq i.part).drainLimit ≤ s.clk.fab := ⟨0, { clk := { fab := 2 ^ 24 }, xl := { invals := [{}] } }, {}, by decide⟩

theorem w_DrainLimits_drainLimit :
    ∃ (m : Fin 18) (s : State) (b : Bytes), Takes s m 0x0203 ∧ (s.box m).payload = b ∧ 65536 ≤ fieldAt b 0 4 ∧ fieldAt b 0 4 ≤ 2147483648 := ⟨1, asking 1 0x0203 [0, 0, 1] { pt := { parts := [(1, { st := 1 })] } }, _, by decide, rfl, by decide, by decide⟩

theorem w_DrainLimits_waits :
    ∃ (id : Nat) (s : State) (i : Inval), (s.xl.invals.find? fun i => i.id == id) = some i ∧ i.limitHit = false ∧ i.cut + (s.invq i.part).drainLimit ≤ s.clk.fab := ⟨0, { clk := { fab := 2 ^ 24 }, xl := { invals := [{}] } }, {}, by decide⟩

theorem w_DrainLimits_undrained :
    ∃ (id : Nat) (s : State) (i : Inval), (s.xl.invals.find? fun i => i.id == id) = some i ∧ i.waits ≠ [] := ⟨0, { xl := { invals := [{ waits := [(0, 0, 0)] }] } }, { waits := [(0, 0, 0)] }, by decide⟩

theorem w_DrainLimits_outside :
    ∃ (m : Fin 18) (s : State) (b : Bytes), Takes s m 0x0203 ∧ (s.box m).payload = b ∧ (fieldAt b 0 4 < 65536 ∨ 2147483648 < fieldAt b 0 4) := ⟨1, asking 1 0x0203 [255, 255] { pt := { parts := [(1, { st := 1 })] } }, _, by decide, rfl, by decide⟩

theorem w_ScrubRefusals_refused :
    ∃ (m : Fin 18) (s : State), m.val < 16 ∧ (s.part m).st = 3 ∧ s.mc.ready = true ∧ s.nextBox = some m ∧ (s.box m).opcode = 0x0201 ∧ s.stopped = false ∧ s.mc.fw.recovery = false ∧ s.mc.rd.cp = 0 := ⟨15, asking 15 0x0201 [] { pt := { parts := [(15, { st := 3 })] } }, by decide⟩

theorem w_ScrubRefusals_statusReads :
    ∃ (m : Fin 18) (s : State) (op : Nat), m.val < 16 ∧ (op = 0x0B09 ∨ op = 0x0B01 ∨ op = 0x0B07) ∧ s.mc.ready = true ∧ s.nextBox = some m ∧ (s.box m).opcode = op ∧ s.mc.fw.recovery = false ∧ (s.part m).st = 3 := ⟨15, asking 15 0x0B07 [] { pt := { parts := [(15, { st := 3 })] } }, 0x0B07, by decide⟩

theorem w_ScrubRefusals_destroyAgain :
    ∃ (m : Fin 18) (s : State) (b : Bytes), Takes s m 0x0103 ∧ (s.box m).payload = b ∧ byteAt b 0 < 16 ∧ (s.part (byteAt b 0)).st = 3 := ⟨16, asking 16 0x0103 [15] { pt := { parts := [(15, { st := 3 })] } }, _, by decide, rfl, by decide, by decide⟩

theorem w_ScrubRefusals_destroyFree :
    ∃ (m : Fin 18) (s : State) (b : Bytes), Takes s m 0x0103 ∧ (s.box m).payload = b ∧ byteAt b 0 < 16 ∧ (s.part (byteAt b 0)).st = 0 := ⟨16, asking 16 0x0103 [15] {}, _, by decide, rfl, by decide, by decide⟩

theorem w_ScrubRefusals_releaseAgain :
    ∃ (session : Nat) (b : Bytes) (s : State), s.spdmMay = true ∧ s.mc.spdm.sessions.contains session = true ∧ tenantShape b = true ∧ byteAt b 0 = 5 ∧ (s.part (byteAt b 1 % 16)).st = 3 := ⟨0, [5, 0, 0, 0, 0, 0, 0, 0, 1] ++ zeros 103, { mc := { ready := true, spdm := { sessions := [0] } }, pt := { parts := [(0, { st := 3 })] } }, by decide⟩

theorem w_WellFormedCommandsRun_next :
    ∃ (i : Instr), i.wf = true := ⟨.powerWarn, by decide⟩

theorem w_WellFormedCommandsRun_refused :
    ∃ (i : Instr), i.wf = false := ⟨.mctpRequest [], by decide⟩

theorem w_FrontCommandRuns_front :
    ∃ (c : Instr) (rest : List Instr) (s : State), s.pending = c :: rest := ⟨.powerWarn, [], { pending := [.powerWarn] }, rfl⟩

theorem w_EmptyQueueTicks_tick :
    ∃ (s : State), s.pending = [] := ⟨{}, rfl⟩

theorem w_SoundKept_kept :
    ∃ (s t : State), Sound s ∧ step s = .next t := ⟨{}, _, ⟨fun p q _ _ _ h => absurd rfl h, fun p _ => Nat.zero_le _, by decide⟩, rfl⟩

theorem w_PartitionLifecycle_arrows :
    ∃ (i : Instr) (s t : State), (∀ x, i ≠ .coldReset x) ∧ exec i s = .next t := ⟨.powerWarn, {}, _, (fun x h => by cases h), rfl⟩

theorem w_SecurityVersionNeverFalls_svn :
    ∃ (s t : State), step s = .next t := ⟨{}, _, rfl⟩

theorem w_KeysChangeOnlyWhereNamed_keys :
    ∃ (i : Instr) (s t : State), i.mayChangeKeys = false ∧ exec i s = .next t := ⟨.powerWarn, {}, _, rfl, rfl⟩

theorem w_CountsChangeOnlyAtPulses_sums :
    ∃ (i : Instr) (s t : State), i.mayCount = false ∧ exec i s = .next t := ⟨.powerWarn, {}, _, rfl, rfl⟩

theorem w_DoorbellMovesProducer_ringDoorbell :
    ∃ (p : Fin 16) (j : Fin 16384) (w : Word) (s : State) (r : Nat), (s.part p).st = 2 ∧ bits w.toNat 56 8 = (s.part p).checkTag ∧
      s.globalRing p j = some r ∧ (s.ring r).st ≠ 0 ∧ (s.ring r).st ≠ 6 ∧ bits w.toNat 0 16 < (s.ring r).size ∧
      (s.ring r).dist ((s.ring r).named w.toNat) ≤ (s.ring r).size ∧ bit w.toNat 48 = false := ⟨0, 0, 0, { pt := { parts := [(0, { st := 2, groups := 1 })] }, qc := { rings := [(0, { st := 1 })] } }, 0, by decide⟩

theorem w_DoorbellMovesProducer_stagedDoorbell :
    ∃ (p : Fin 16) (j : Fin 16384) (w : Word) (s : State) (r : Nat), (s.part p).st = 2 ∧ bits w.toNat 56 8 = (s.part p).checkTag ∧
      s.globalRing p j = some r ∧ (s.ring r).st ≠ 0 ∧ (s.ring r).st ≠ 6 ∧ bits w.toNat 0 16 < (s.ring r).size ∧
      (s.ring r).dist ((s.ring r).named w.toNat) ≤ (s.ring r).size ∧ bit w.toNat 48 = true := ⟨0, 0, 0x0001000000000001, { pt := { parts := [(0, { st := 2, groups := 1 })] }, qc := { rings := [(0, { st := 1 })] } }, 0, by decide⟩

theorem w_DoorbellMovesProducer_invalidationDoorbell :
    ∃ (p : Fin 16) (w : Word) (s : State), (s.part p).st = 2 ∧ bits w.toNat 56 8 = (s.part p).checkTag ∧ (s.invq p).placed = true ∧
      bits w.toNat 0 16 < (s.invq p).size ∧
      ((bits w.toNat 16 16 * (s.invq p).size + bits w.toNat 0 16) % (s.invq p).m + (s.invq p).m - (s.invq p).c) % (s.invq p).m ≤ (s.invq p).size := ⟨0, 1, { pt := { parts := [(0, { st := 2 })] }, xl := { invq := [(0, { placed := true, size := 64, st := 2 })] } }, by decide⟩

theorem w_DoorbellMovesProducer_doorbellPageBadWrite :
    ∃ (p : Fin 16) (off : Fin 1048576) (n : Nat), (Instr.doorbellPageBadWrite p off n).wf = true := ⟨0, 4, 4, by decide⟩

theorem w_DoorbellMovesProducer_chordDoorbell :
    ∃ (p : Fin 16) (w : Word) (s : State), (s.part p).st = 2 ∧ bits w.toNat 56 8 = (s.part p).checkTag ∧ (s.chq p).placed = true ∧
      bits w.toNat 0 16 < (s.chq p).size ∧
      ((bits w.toNat 16 16 * (s.chq p).size + bits w.toNat 0 16) % (s.chq p).m + (s.chq p).m - (s.chq p).c) % (s.chq p).m ≤ (s.chq p).size := ⟨0, 1, { pt := { parts := [(0, { st := 2 })] }, ch := { queues := [(0, { placed := true, sizeLog2 := 6, st := 2 })] } }, by decide⟩

theorem w_FaultAndParking_consume :
    ∃ (p : Fin 16) (w : Word) (s : State), (s.part p).st = 2 ∧ bits w.toNat 56 8 = (s.part p).checkTag ∧ bits w.toNat 52 4 = 0 ∧
      (bits w.toNat 32 16 + 65536 - (s.fq p).cons) % 65536 ≤ ((s.fq p).prod + 65536 - (s.fq p).cons) % 65536 := ⟨0, 0x100000000, { pt := { parts := [(0, { st := 2 })] }, qc := { fq := [(0, { prod := 3 })] } }, by decide⟩

theorem w_FaultAndParking_resume :
    ∃ (p : Fin 16) (w : Word) (s : State) (k : Nat), (s.part p).st = 2 ∧ bits w.toNat 56 8 = (s.part p).checkTag ∧ bits w.toNat 52 4 = 1 ∧
      slotOfId p (bits w.toNat 0 32) = some k ∧ (s.slot k).valid = true ∧ (s.slot k).part = p ∧ (s.slot k).issued = true ∧
      (s.slot k).gen = bits w.toNat 24 8 ∧
      (bits w.toNat 32 16 + 65536 - (s.fq p).cons) % 65536 ≤ ((s.fq p).prod + 65536 - (s.fq p).cons) % 65536 := ⟨0, 0x0010000101000000, { pt := { parts := [(0, { st := 2 })] }, qc := { park := [(0, { valid := true, issued := true, gen := 1 })], fq := [(0, { prod := 3 })] } }, 0, by decide⟩

theorem w_FaultAndParking_abort :
    ∃ (p : Fin 16) (w : Word) (s : State) (k : Nat), (s.part p).st = 2 ∧ bits w.toNat 56 8 = (s.part p).checkTag ∧ bits w.toNat 52 4 = 2 ∧
      slotOfId p (bits w.toNat 0 32) = some k ∧ (k < 16384 → s.ringOwner k = some p.val) ∧ (s.slot k).valid = true ∧ (s.slot k).part = p ∧ (s.slot k).issued = true ∧
      (s.slot k).gen = bits w.toNat 24 8 ∧
      (bits w.toNat 32 16 + 65536 - (s.fq p).cons) % 65536 ≤ ((s.fq p).prod + 65536 - (s.fq p).cons) % 65536 := ⟨0, 0x0020000101000000, { pt := { parts := [(0, { st := 2, groups := 1 })] }, qc := { park := [(0, { valid := true, issued := true, gen := 1 })], fq := [(0, { prod := 3 })] } }, 0, by decide⟩

theorem w_FaultAndParking_parkDrainComplete :
    ∃ (r : Fin 16384) (s : State) (p : Nat) (w : Work), s.ringOwner r = some p ∧
      ((s.ring r).works.find? fun w => w.phase == .draining && w.fault.isSome && w.bad.isNone) = some w ∧ s.dataOut r w.pos = false ∧
      (s.fq p).full = true := ⟨0, { pt := { parts := [(0, { st := 2, groups := 1 })] }, qc := { fq := [(0, { placed := true, prod := 4096 })], rings := [(0, { st := 2, works := [{ raw := [0x10], phase := .draining, fault := some {} }] })] } }, 0, { raw := [0x10], phase := .draining, fault := some {} }, by decide⟩

theorem w_FaultAndParking_faultRecordAck :
    ∃ (k : Fin 16400) (g : Fin 256) (s : State) (q : Req), s.reqFor (.faultRecord k g) = some q ∧ (s.slot k).valid = true ∧ (s.slot k).gen = g ∧
      (s.slot k).issued = true := ⟨0, 1, { qc := { park := [(0, { valid := true, gen := 1, issued := true })] }, reqs := [{ purpose := .faultRecord 0 1 }] }, { purpose := .faultRecord 0 1 }, by decide⟩

theorem w_FaultAndParking_parkTimerExpiry :
    ∃ (k : Fin 16400) (s : State) (n : Nat), (s.slot k).timer = some n ∧ (s.slot k).valid = true ∧ n ≤ s.clk.fab ∧
      (k.val < 16384 → s.ringOwner k = some (s.slot k).part) := ⟨0, { pt := { parts := [(0, { st := 2, groups := 1 })] }, qc := { park := [(0, { valid := true, gen := 1, timer := some 0 })] } }, 0, by decide⟩

theorem w_FaultAndParking_ringDrainComplete :
    ∃ (r : Fin 16384) (s : State) (m : Nat), (s.ring r).st = 6 ∧ (s.ring r).works = [] ∧ s.ringOut r = false ∧
      ((s.ringOwner r).any fun p => (s.part p).st == 3) = false ∧ (s.ring r).waiters = [m] := ⟨0, { qc := { rings := [(0, { st := 6, waiters := [3] })] } }, 3, by decide⟩

theorem w_DescriptorFetching_descriptorFetch :
    ∃ (r : Fin 16384) (s : State) (p x pa : Nat) (reload : Bool), s.ringOwner r = some p ∧ s.fetchGrant r = some reload ∧ s.nextFetch r = some x ∧
      s.route p ((s.ring r).descPa x) 128 false false = .go .host pa := ⟨0, { pt := { parts := [(0, { st := 2, groups := 1 })], ranges := [(0, { limit := 2 ^ 21, mask := 1, we := true, valid := true })] }, qc := { rings := [(0, { st := 1, configured := true, p := 1 })] } }, 0, 0, 0, false, by decide⟩

theorem w_DescriptorFetching_descriptorFetchReturn :
    ∃ (id : Nat) (b : Bytes) (s : State) (q : Req) (r x p : Nat), s.req id = some q ∧ id < s.nextReq ∧ q.purpose = .descFetch r x ∧
      s.ringOwner r = some p ∧ (s.ring r).head = none ∧ x ≠ (s.ring r).c := ⟨5, [], { pt := { parts := [(0, { st := 2, groups := 1 })] }, qc := { rings := [(0, { st := 2, p := 2 })] }, nextReq := 6, reqs := [{ id := 5, purpose := .descFetch 0 1 }] }, { id := 5, purpose := .descFetch 0 1 }, 0, 1, 0, by decide⟩

theorem w_DescriptorFetching_staleDescriptor :
    ∃ (id : Nat) (b : Bytes) (s : State) (q : Req) (r p : Nat), s.req id = some q ∧ q.purpose = .descFetch r (s.ring r).c ∧
      s.ringOwner r = some p ∧ (s.ring r).c ≠ (s.ring r).p ∧ (s.ring r).fetchErr = none ∧ (s.ring r).fetched = [] ∧ (s.ring r).again = false ∧
      (s.ring r).refetch < 8 ∧ (s.ring r).valid (s.ring r).c (padTo 128 (s.unseal q.key q.pa b)) = false := ⟨5, [], { pt := { parts := [(0, { st := 2, groups := 1 })] }, qc := { rings := [(0, { st := 2, p := 2 })] }, reqs := [{ id := 5, purpose := .descFetch 0 0 }] }, { id := 5, purpose := .descFetch 0 0 }, 0, 0, by decide⟩

theorem w_DescriptorFetching_descriptorRefetchBackoffExpiry :
    ∃ (r : Fin 16384) (s : State) (p n pa : Nat), s.ringOwner r = some p ∧ (s.ring r).backoff = some n ∧ (s.ring r).stale = true ∧ n ≤ s.clk.fab ∧
      s.mayIssue p (cellOfRing r) = true ∧ s.fetchOut r = [] ∧ (s.ring r).st ≠ 0 ∧ (s.ring r).st ≠ 5 ∧ (s.ring r).st ≠ 6 ∧
      s.route p ((s.ring r).descPa (s.ring r).c) 128 false false = .go .host pa := ⟨0, { pt := { parts := [(0, { st := 2, groups := 1 })], ranges := [(0, { limit := 2 ^ 21, mask := 1, we := true, valid := true })] }, qc := { rings := [(0, { st := 3, configured := true, p := 1, stale := true, backoff := some 0 })] } }, 0, 0, 0, by decide⟩

theorem w_DescriptorFetching_descriptorStart :
    ∃ (r : Fin 16384) (s : State) (p : Nat) (w : Work), s.ringOwner r = some p ∧ s.mayBegin p r = true ∧ (s.ring r).head = none ∧
      ((s.ring r).works.find? fun x => x.phase == .queued) = some w ∧ s.work r w.pos = some w ∧ s.descOk p (s.ring r) w.raw = true ∧
      dOpcode w.raw ≠ 0x01 := ⟨0, { pt := { parts := [(0, { st := 2, groups := 1 })] }, qc := { rings := [(0, { st := 2, configured := true, c := 1, p := 1, works := [{ raw := [2] }] })] } }, 0, { raw := [2] }, by decide⟩

theorem w_RequestsAndReturns_requestIssue :
    ∃ (r off : Nat) (s u : State) (p : Nat) (w : Work) (reload b : Bool), s.ringOwner r = some p ∧
      ((s.ring r).works.find? fun w => w.phase == .issuing) = some w ∧ (s.readAt r off).map Prod.fst = some true ∧ s.issueGrant r = some reload ∧
      (s.ring r).tc ≠ 0 ∧ (s.modCell (cellOfRing r) fun c => c.takeIssue (s.ring r).tc reload).readAt r off = some (b, u) := ⟨0, 0, { pt := { mapValid := true, chSizeLog2 := 30, channels := [(0, 1)], parts := [(0, { st := 2, groups := 1 })] }, qc := { rings := [(0, { st := 2, tc := 1, phys := true, works := [{ raw := [0x10, 0x40] ++ zeros 12 ++ [2, 0] ++ zeros 6 ++ [2, 0] ++ (List.replicate 10 [1, 0, 0, 0]).flatten ++ zeros 60 ++ [63, 0, 0, 0], phase := .issuing }] })] } }, _, 0, _, _, _, by decide, rfl, by decide, rfl, by decide, rfl⟩

theorem w_RequestsAndReturns_dataReadReturn :
    ∃ (id : Nat) (s : State) (q : Req) (r pos off len port : Nat), s.req id = some q ∧ id < s.nextReq ∧ q.kind = .read ∧
      q.purpose = .srcRead r pos off len ∧ q.path = .fabric port := ⟨5, { nextReq := 6, reqs := [{ id := 5, purpose := .srcRead 0 0 0 64, path := .fabric 0 }] }, { id := 5, purpose := .srcRead 0 0 0 64, path := .fabric 0 }, 0, 0, 0, 64, 0, by decide⟩

theorem w_RequestsAndReturns_dataWriteAck :
    ∃ (id : Nat) (s : State) (q : Req) (r pos off len port p : Nat) (g : Ring) (w : Work), s.req id = some q ∧ id < s.nextReq ∧ q.kind = .write ∧
      q.purpose = .dstWrite r pos off len ∧ q.path = .fabric port ∧ q.key = none ∧ s.workOf r pos = some (p, g, w) := ⟨5, { pt := { parts := [(0, { st := 2, groups := 1 })] }, qc := { rings := [(0, { st := 2, works := [{}] })] }, nextReq := 6, reqs := [{ id := 5, purpose := .dstWrite 0 0 0 64, kind := .write, path := .fabric 0 }] }, { id := 5, purpose := .dstWrite 0 0 0 64, kind := .write, path := .fabric 0 }, 0, 0, 0, 64, 0, 0, { st := 2, works := [{}] }, {}, by decide⟩

theorem w_RequestsAndReturns_requestTimeout :
    ∃ (id : Nat) (s : State) (q : Req) (r pos off len port : Nat), s.req id = some q ∧ id < s.nextReq ∧ q.purpose = .srcRead r pos off len ∧
      q.path = .fabric port ∧ q.unit < 64 ∧ q.start + 2 ^ 24 ≤ s.clk.fab := ⟨5, { clk := { fab := 2 ^ 24 }, nextReq := 6, reqs := [{ id := 5, purpose := .srcRead 0 0 0 64, path := .fabric 0 }] }, { id := 5, purpose := .srcRead 0 0 0 64, path := .fabric 0 }, 0, 0, 0, 64, 0, by decide⟩

theorem w_RequestsAndReturns_flagWriteIssue :
    ∃ (r : Fin 16384) (s : State) (p ch pa : Nat) (w : Work), s.ringOwner r = some p ∧
      ((s.ring r).works.find? fun w => w.phase == .issuing) = some w ∧ dOpcode w.raw = 0x02 ∧ w.flagged = false ∧ w.stopped = false ∧
      dFence w.raw = 0 ∧ s.mayIssue p (cellOfRing r) = true ∧ s.missing (.cellWrite r w.pos 0) = false ∧ (s.ring r).phys = true ∧
      s.route p (dBase true w.raw 16 % 2 ^ 52) 8 true (s.peerUp p) = .go (.fabric ch) pa ∧
      s.tokensOk p 4 (popCount 64 (maskRange (dBase true w.raw 16 % 64) 8)) = true ∧ maskRange (dBase true w.raw 16 % 64) 8 ≠ 0 := ⟨0, { pt := { mapValid := true, chSizeLog2 := 30, channels := [(0, 1)], parts := [(0, { st := 2, groups := 1 })] }, qc := { rings := [(0, { st := 2, phys := true, works := [{ raw := [2] ++ zeros 21 ++ [2, 0], phase := .issuing }] })] } }, 0, 0, 4 * 2 ^ 47, { raw := [2] ++ zeros 21 ++ [2, 0], phase := .issuing }, by decide⟩

theorem w_DescriptorFinishing_statusBlockWrite :
    ∃ (r : Fin 16384) (s : State) (p pa : Nat) (w : Work) (ro : Route), s.headOf r = some (p, w) ∧ w.phase = .status ∧
      s.mayIssue p (cellOfRing r) = true ∧
      s.route p ((s.ring r).descPa w.pos + 96) (w.statusBlock (s.isUpdate r)).length true false = .go ro pa := ⟨0, { pt := { parts := [(0, { st := 2, groups := 1 })], ranges := [(0, { limit := 2 ^ 21, mask := 1, we := true, valid := true })] }, qc := { rings := [(0, { st := 2, configured := true, c := 1, p := 1, works := [{ raw := [1], phase := .status }] })] } }, 0, 96, { raw := [1], phase := .status }, .host, by decide⟩

theorem w_DescriptorFinishing_ownClearWrite :
    ∃ (r : Fin 16384) (s : State) (p pa : Nat) (w : Work) (ro : Route) (q : Req), s.headOf r = some (p, w) ∧ w.phase = .statusOut ∧
      s.mayIssue p (cellOfRing r) = true ∧ s.reqFor (.statusBlock r w.pos) = some q ∧
      s.route p ((s.ring r).descPa w.pos + 127) 1 true false = .go ro pa := ⟨0, { pt := { parts := [(0, { st := 2, groups := 1 })], ranges := [(0, { limit := 2 ^ 21, mask := 1, we := true, valid := true })] }, qc := { rings := [(0, { st := 2, configured := true, c := 1, p := 1, works := [{ raw := [1], phase := .statusOut }] })] }, reqs := [{ purpose := .statusBlock 0 0, kind := .write }] }, 0, 127, { raw := [1], phase := .statusOut }, .host, { purpose := .statusBlock 0 0, kind := .write }, by decide⟩

theorem w_DescriptorFinishing_completionEntryWrite :
    ∃ (r : Fin 16384) (s : State) (p : Nat) (w : Work) (q : Req), s.headOf r = some (p, w) ∧ w.phase = .ownOut ∧ s.wantsEntry r w = true ∧
      s.mayIssue p (cellOfRing r) = true ∧ s.reqFor (.ownClear r w.pos) = some q := ⟨0, { pt := { parts := [(0, { st := 2, groups := 1 })] }, qc := { rings := [(0, { st := 2, configured := true, c := 1, p := 1, works := [{ raw := [1], phase := .ownOut }] })] }, reqs := [{ purpose := .ownClear 0 0, kind := .write }] }, 0, { raw := [1], phase := .ownOut }, { purpose := .ownClear 0 0, kind := .write }, by decide⟩

theorem w_DescriptorFinishing_completionEntryAck :
    ∃ (r : Fin 16384) (s : State) (p v : Nat) (w : Work) (q : Req), s.headOf r = some (p, w) ∧ w.phase = .entryOut ∧
      s.reqFor (.completionEntry r w.pos) = some q ∧ q.id < s.nextReq ∧ (s.cq (cqOf p (s.ring r))).vector = some v ∧
      Tab.at s.px.routePcie p = false ∧ (Tab.at s.px.hostVec (512 * p + v)).set = true := ⟨0, { pt := { parts := [(0, { st := 2, groups := 1 })] }, px := { hostVec := [(1, { set := true })] }, qc := { rings := [(0, { st := 2, configured := true, c := 1, p := 1, works := [{ raw := [1], phase := .entryOut }] })], cqs := [(0, { vector := some 1 })] }, reqs := [{ purpose := .completionEntry 0 0, kind := .write }], nextReq := 1 }, 0, 1, { raw := [1], phase := .entryOut }, { purpose := .completionEntry 0 0, kind := .write }, by decide⟩

theorem w_DescriptorFinishing_consumerWordPoll :
    ∃ (k : Fin 4096) (s : State) (pa : Nat), (s.cq k).placed = true ∧ (s.cq k).full = true ∧ s.waitsFor (.consumerWord k) = false ∧
      (s.cq k).pollAt ≤ s.clk.fab ∧ s.level (96 + k / 256) < 2 ∧ (s.part (k / 256)).st = 2 ∧
      s.route (k / 256) (s.cq k).word 8 false false = .go .host pa := ⟨0, { pt := { parts := [(0, { st := 2, groups := 1 })], ranges := [(0, { limit := 2 ^ 21, mask := 1, we := true, valid := true })] }, qc := { cqs := [(0, { placed := true, sizeLog2 := 6, n := 64 })] } }, 0, by decide⟩

theorem w_DescriptorFinishing_consumerWordReturn :
    ∃ (id k : Nat) (b : Bytes) (s : State) (q : Req), s.req id = some q ∧ q.purpose = .consumerWord k ∧
      (fieldAt (s.unseal q.key q.pa b) 0 4 + 2 ^ 32 - (s.cq k).cached) % 2 ^ 32 ≤ ((s.cq k).n + 2 ^ 32 - (s.cq k).cached) % 2 ^ 32 := ⟨5, 0, [3, 0, 0, 0], { qc := { cqs := [(0, { n := 64 })] }, reqs := [{ id := 5, purpose := .consumerWord 0 }] }, { id := 5, purpose := .consumerWord 0 }, by decide⟩

theorem w_TierPaths_wcEntryIdleFlush :
    ∃ (k : Fin 64) (s : State), (Tab.at s.tier.wc k).valid = true ∧ (Tab.at s.tier.wc k).last + 256 ≤ s.clk.fab ∧
      (Tab.at s.tier.wc k).key = none := ⟨0, { clk := { fab := 300 }, tier := { wc := [(0, { valid := true, mask := 255, data := zeros 64 })] } }, by decide⟩

theorem w_TierPaths_tierCacheFillReturn :
    ∃ (fill : Nat) (s : State) (f : Fill) (q r : Req) (rg pos off len : Nat), (s.tier.fills.find? fun x => x.id == fill) = some f ∧
      s.reqFor (.cacheFill fill) = some q ∧ q.id < s.nextReq ∧ (s.reqs.filter fun x => x.id != q.id && f.waiters.contains x.id) = [r] ∧
      r.id < s.nextReq ∧ r.purpose = .srcRead rg pos off len := ⟨0, { tier := { fills := [{ waiters := [1] }] }, reqs := [{ purpose := .cacheFill 0 }, { id := 1, purpose := .srcRead 0 0 0 64 }], nextReq := 2 }, { waiters := [1] }, { purpose := .cacheFill 0 }, { id := 1, purpose := .srcRead 0 0 0 64 }, 0, 0, 0, 64, by decide⟩

theorem w_PageWalks_walkStart :
    ∃ (p : Fin 16) (s : State) (m : Miss), (s.xl.misses.find? fun m : Miss => m.part == p.val && !s.xl.walks.any fun w => w.serves m) = some m ∧
      (s.xl.walks.filter fun w : Walk => w.part == p.val).length < 3 * popCount 16 (s.part p).groups ∧ s.walkHit p m.asid m.va = none ∧
      (∀ w ∈ s.xl.walks, w.id ≠ s.xl.next) ∧ dieOf (Tab.at s.xl.asids m.asid).root < 4 := ⟨0, { pt := { parts := [(0, { st := 2, groups := 1 })] }, xl := { asids := [(0, { bound := true, root := 4096 })], misses := [{ va := 64 }], next := 1 } }, { va := 64 }, by decide⟩

theorem w_PageWalks_walkReadReturn :
    ∃ (i : Nat) (b : Bytes) (s : State) (w : Walk) (q : Req), s.walk i = some w ∧ s.reqFor (.walkRead i) = some q ∧
      pteP (fieldAt b 0 8) = true ∧ pteU (fieldAt b 0 8) = true ∧ pteLeaf w.level (fieldAt b 0 8) = true ∧ pteA (fieldAt b 0 8) = true ∧
      w.dirty = false ∧ (w.write = true → w.w = true ∧ pteW (fieldAt b 0 8) = true) ∧
      (leafOf w.asid w.va w.level (fieldAt b 0 8) true (w.w && pteW (fieldAt b 0 8)) true).judge w.part w.write ≠ .keyTag := ⟨0, [0x3D, 0, 0, 0, 0, 0, 0, 2], { xl := { walks := [{ level := 1 }] }, reqs := [{ purpose := .walkRead 0 }] }, { level := 1 }, { purpose := .walkRead 0 }, by decide⟩

theorem w_PageWalks_walkReadTimeout :
    ∃ (i : Nat) (s : State) (w : Walk) (q : Req), s.walk i = some w ∧ s.readOfWalk w = some q ∧ q.start + 2 ^ 20 ≤ s.clk.fab ∧
      (∀ m ∈ s.xl.misses, w.serves m = true → ∃ r off, m.who = .cellRead r off) := ⟨0, { clk := { fab := 2 ^ 20 }, xl := { walks := [{ level := 1 }] }, reqs := [{ purpose := .walkRead 0 }] }, { level := 1 }, { purpose := .walkRead 0 }, by decide, by decide, by decide, by simp⟩

theorem w_PageWalks_adUpdateOwnedReadReturn :
    ∃ (i : Nat) (b : Bytes) (s : State) (w : Walk) (q : Req) (e : Nat), s.walk i = some w ∧ s.reqFor (.ownedRead i) = some q ∧
      e = fieldAt (padTo 64 b) (w.entry % 64) 8 ∧ pteP e = true ∧ pteU e = true ∧ pteLeaf w.level e = true ∧ w.setD = false ∧
      (w.write = true → w.w = true ∧ pteW e = true) ∧
      (leafOf w.asid w.va w.level e true (w.w && pteW e) true).judge w.part w.write ≠ .keyTag := ⟨0, [0x2D, 0, 0, 0, 0, 0, 0, 2], { xl := { walks := [{ level := 1, owned := true }] }, reqs := [{ purpose := .ownedRead 0 }] }, { level := 1, owned := true }, { purpose := .ownedRead 0 }, _, by decide, by decide, rfl, by decide⟩

theorem w_Invalidations_invalidationEntryFetch :
    ∃ (p : Fin 16) (s : State) (pa : Nat), (s.invq p).placed = true ∧ (s.invq p).st = 0 ∧ (s.invq p).c ≠ (s.invq p).p ∧ s.xlMay p = true ∧
      s.route p ((s.invq p).base + 32 * ((s.invq p).c % (s.invq p).size)) 32 false false = .go .host pa := ⟨0, { pt := { parts := [(0, { st := 2, groups := 1 })], ranges := [(0, { limit := 2 ^ 21, mask := 1, we := true, valid := true })] }, xl := { invq := [(0, { placed := true, size := 64, p := 1 })] } }, 0, by decide⟩

theorem w_Invalidations_invalidationEntryReturn :
    ∃ (p : Fin 16) (b : Bytes) (s : State) (q : Req), s.reqFor (.invFetch p (s.invq p).c) = some q ∧
      fieldAt (padTo 32 b) 4 2 = (s.invq p).lap (s.invq p).c ∧ (invKind p (padTo 32 b)).isSome = true := ⟨0, [3], { xl := { invq := [(0, { placed := true, size := 64, p := 1, st := 1 })] }, reqs := [{ purpose := .invFetch 0 0 }] }, { purpose := .invFetch 0 0 }, by decide⟩

theorem w_Invalidations_invalidationRefetchBackoffExpiry :
    ∃ (p : Fin 16) (s : State) (pa : Nat), (s.invq p).placed = true ∧ (s.invq p).st = 2 ∧ (s.invq p).backoff ≤ s.clk.fab ∧ s.xlMay p = true ∧
      s.route p ((s.invq p).base + 32 * ((s.invq p).c % (s.invq p).size)) 32 false false = .go .host pa := ⟨0, { pt := { parts := [(0, { st := 2, groups := 1 })], ranges := [(0, { limit := 2 ^ 21, mask := 1, we := true, valid := true })] }, xl := { invq := [(0, { placed := true, size := 64, p := 1, st := 2 })] } }, 0, by decide⟩

theorem w_Invalidations_invalidationCut :
    ∃ (p : Fin 16) (s : State) (k : InvKind), s.invPending p < 8 ∧ (s.invq p).waiting = [] ∧ (s.invq p).st = 4 ∧
      invKind p (s.invq p).entry = some k := ⟨0, { xl := { invq := [(0, { placed := true, size := 64, p := 1, st := 4, entry := [3] })] } }, .partition, by decide⟩

theorem w_Invalidations_invalidationAcknowledge :
    ∃ (id : Nat) (s : State) (i : Inval), (s.xl.invals.find? fun i => i.id == id) = some i ∧ i.waits = [] ∧ (i.queued = true → s.earlierQueued i = false) ∧
      (s.part i.part).flr = none := ⟨0, { xl := { invals := [{ mailbox := some 2 }] } }, { mailbox := some 2 }, by decide⟩

theorem w_ChordCommands_chordHeaderFetch :
    ∃ (p : Fin 16) (s : State) (k pa : Nat), (s.chq p).placed = true ∧ (s.chq p).stopped = false ∧ (s.chq p).c ≠ (s.chq p).p ∧ (s.chq p).st = 0 ∧
      s.chMay p = true ∧ s.fetchingSlot p = none ∧ ((chordSlots p).find? fun k => (s.chord k).st == 0) = some k ∧
      s.route p ((s.chq p).addr (s.chq p).c) 64 false false = .go .host pa := ⟨0, { pt := { parts := [(0, { st := 2, groups := 1 })], ranges := [(0, { limit := 2 ^ 21, mask := 1, we := true, valid := true })] }, ch := { queues := [(0, { placed := true, sizeLog2 := 6, p := 1 })] } }, 0, 0, by decide⟩

theorem w_ChordCommands_chordHeaderReturn :
    ∃ (p : Fin 16) (b : Bytes) (s : State) (k : Nat) (q : Req), s.fetchingSlot p = some k ∧ s.reqFor (.chordHeader k) = some q ∧ (s.chord k).st = 1 ∧
      fieldAt (padTo 64 b) 4 2 = (s.chq p).lap (s.chq p).c ∧ bit (byteAt (padTo 64 b) 63) 7 = true ∧
      (∀ i, 1 ≤ i → i ≤ chordLines (padTo 64 b) → ∃ pa, s.route p ((s.chq p).addr (s.chq p).c + 64 * i) 64 false false = .go .host pa) := by
  refine ⟨0, [1, 0, 1] ++ List.replicate 60 0 ++ [128], { pt := { parts := [(0, { st := 2, groups := 1 })], ranges := [(0, { limit := 2 ^ 21, mask := 1, we := true, valid := true })] }, ch := { queues := [(0, { placed := true, sizeLog2 := 6, p := 1, st := 1 })], slots := [(0, { st := 1 })] }, reqs := [{ purpose := .chordHeader 0 }] },
    0, { purpose := .chordHeader 0 }, by decide, by decide, by decide, by decide, by decide, fun i h1 h2 => ?_⟩
  have h3 : chordLines (padTo 64 ([1, 0, 1] ++ List.replicate 60 0 ++ [128])) = 1 := by decide
  obtain rfl : i = 1 := by omega
  exact ⟨64, by decide⟩

theorem w_ChordCommands_chordBackoffExpiry :
    ∃ (p : Fin 16) (s : State) (k pa : Nat), s.fetchingSlot p = some k ∧ (s.chq p).st = 2 ∧ (s.chq p).backoff ≤ s.clk.fab ∧ s.chMay p = true ∧
      s.route p ((s.chq p).addr (s.chq p).c) 64 false false = .go .host pa := ⟨0, { pt := { parts := [(0, { st := 2, groups := 1 })], ranges := [(0, { limit := 2 ^ 21, mask := 1, we := true, valid := true })] }, ch := { queues := [(0, { placed := true, sizeLog2 := 6, p := 1, st := 2 })], slots := [(0, { st := 1 })] } }, 0, 0, by decide⟩

theorem w_ChordCommands_chordTake :
    ∃ (p : Fin 16) (lines : List RdRes) (s : State) (k : Nat) (d : Bytes), s.fetchingSlot p = some k ∧ (s.chord k).raw ≠ [] ∧
      s.waitsFor (.chordHeader k) = false ∧ (s.linesOf k).length = lines.length ∧ readAll lines = some d ∧
      chordBad p ((s.chord k).raw ++ d) = none ∧ s.chordForeign p ((s.chord k).raw ++ d) = none := ⟨0, [.ok [7]], { pt := { parts := [(0, { st := 2, groups := 1 })] }, reqs := [{ purpose := .chordLine 0 1 }], ch := { queues := [(0, { placed := true, sizeLog2 := 6, p := 1, st := 1 })], slots := [(0, { st := 1, raw := [1, 0, 1] ++ List.replicate 61 0 })] } }, 0, padTo 64 [7], by decide, by decide, by decide, by decide, by decide, by decide, by decide⟩

theorem w_ChordCommands_chordCommit :
    ∃ (p : Fin 16) (s : State) (k r x : Nat) (a : Action), s.chordTurn = some p.val ∧ s.ch.evalAt ≠ some s.clk.fab ∧ s.headChord p = some k ∧
      chordActions (s.chord k).raw = [a] ∧ a.type = .doorbell ∧ s.globalRing p a.target = some r ∧ (s.ring r).ordinary = none ∧
      (s.ring r).st ≠ 0 ∧ (s.ring r).st ≠ 6 ∧ (s.ring r).tc ≠ 2 ∧ fieldAt a.raw 8 2 < (s.ring r).size ∧
      x = (fieldAt a.raw 10 2 * (s.ring r).size + fieldAt a.raw 8 2) % (s.ring r).m ∧ (s.ring r).dist x ≤ (s.ring r).size := ⟨0, { pt := { parts := [(0, { st := 2, groups := 1 })] }, qc := { rings := [(0, { st := 2, configured := true })] }, ch := { queues := [(0, { placed := true, sizeLog2 := 6 })], slots := [(0, { st := 2, raw := [1, 0, 1] ++ List.replicate 61 0 ++ [1] })] } }, 0, 0, _, { ix := 0, type := .doorbell, raw := actRaw ([1, 0, 1] ++ List.replicate 61 0 ++ [1]) 0 }, by decide, by decide, by decide, by decide, by decide, by decide, by decide, by decide, by decide, by decide, by decide, rfl, by decide⟩

theorem w_ChordCommands_chordTimeout :
    ∃ (k : Fin 64) (s : State), (s.chord k).st = 2 ∧ (s.chord k).take + 2 ^ 24 ≤ s.clk.fab := ⟨0, { clk := { fab := 2 ^ 24 }, ch := { slots := [(0, { st := 2 })] } }, by decide⟩

theorem w_ChordCommands_chordStatusWrite :
    ∃ (k : Fin 64) (s : State) (pa : Nat) (ro : Route), (s.chord k).st = 4 ∧ (s.chord k).step = 0 ∧ s.chordFirst k = true ∧ s.chMay (k / 4) = true ∧
      dieOf ((s.chq (k / 4)).addr (s.chord k).pos + 48) < 4 ∧
      s.route (k / 4) ((s.chq (k / 4)).addr (s.chord k).pos + 48) (s.chord k).statusBytes.length true false = .go ro pa := ⟨0, { pt := { parts := [(0, { st := 2, groups := 1 })], ranges := [(0, { limit := 2 ^ 21, mask := 1, we := true, valid := true })] }, ch := { queues := [(0, { placed := true, sizeLog2 := 6, p := 1 })], slots := [(0, { st := 4 })] } }, 48, .host, by decide⟩

theorem w_ChordCommands_chordOwnClear :
    ∃ (k : Fin 64) (s : State) (q : Req) (pa : Nat) (ro : Route), (s.chord k).st = 4 ∧ (s.chord k).step = 1 ∧ s.chMay (k / 4) = true ∧
      s.reqFor (.chordStatus k) = some q ∧ dieOf ((s.chq (k / 4)).addr (s.chord k).pos + 63) < 4 ∧
      s.route (k / 4) ((s.chq (k / 4)).addr (s.chord k).pos + 63) 1 true false = .go ro pa := ⟨0, { pt := { parts := [(0, { st := 2, groups := 1 })], ranges := [(0, { limit := 2 ^ 21, mask := 1, we := true, valid := true })] }, ch := { queues := [(0, { placed := true, sizeLog2 := 6, p := 1 })], slots := [(0, { st := 4, step := 1 })] }, reqs := [{ purpose := .chordStatus 0, kind := .write }] }, { purpose := .chordStatus 0, kind := .write }, 63, .host, by decide⟩

theorem w_ChordCommands_chordNoteWrite :
    ∃ (k : Fin 64) (s : State) (q : Req) (pa : Nat) (ro : Route), (s.chord k).st = 4 ∧ (s.chord k).step = 2 ∧ s.chMay (k / 4) = true ∧
      s.reqFor (.chordOwn k) = some q ∧ dieOf (noteAddr (s.chord k).raw) < 4 ∧
      s.route (k / 4) (noteAddr (s.chord k).raw) ((s.chord k).noteBytes ((s.chord k).pos % (s.chq (k / 4)).size)).length true false = .go ro pa := ⟨0, { pt := { parts := [(0, { st := 2, groups := 1 })], ranges := [(0, { limit := 2 ^ 21, mask := 1, we := true, valid := true })] }, ch := { queues := [(0, { placed := true, sizeLog2 := 6, p := 1 })], slots := [(0, { st := 4, step := 2, raw := [1, 1] })] }, reqs := [{ purpose := .chordOwn 0, kind := .write }] }, { purpose := .chordOwn 0, kind := .write }, 0, .host, by decide⟩

theorem w_JobStages_updateDescriptorPass :
    ∃ (r : Fin 16384) (s : State) (p e i k : Nat) (b : Bytes), s.ringOwner r = some p ∧ ((s.ring r).fetched.find? fun x => x.1 == (s.ring r).c) = some (i, k, b) ∧
      (s.ring r).tc = 2 ∧ (s.ring r).c ≠ (s.ring r).p ∧ (s.ring r).valid (s.ring r).c b = true ∧ (s.ring r).st = 2 ∧
      (s.ring r).fetchErr ≠ some (s.ring r).c ∧ s.mayStart p (cellOfRing r) = true ∧ (s.ring r).entryWaits = false ∧
      dTc b = 2 ∧ updateOk (s.ring r).phys b = true ∧ s.freeEntry p = some e := by
  let b : Bytes := [0x25, 0x80] ++ zeros 62 ++ [64, 0, 0, 0, 1, 0, 0, 0] ++ zeros 55 ++ [128]
  exact ⟨0, { pt := { parts := [(0, { st := 2, groups := 1 })] }, qc := { rings := [(0, { st := 2, tc := 2, p := 1, fetched := [(0, 0, b)] })] } }, 0, 0, 0, 0, b, by decide⟩

theorem w_JobStages_normTableRead :
    ∃ (e : Fin 64) (s : State) (ch pa : Nat), (s.job e).live = true ∧ (s.job e).phase = .waiting ∧ (s.job e).repair = none ∧
      isOptimizer (dOpcode (s.job e).raw) = true ∧ uClip (s.job e).raw = 2 ∧ (s.job e).normDone = false ∧ (s.job e).normAt = none ∧
      s.turnOf e = true ∧ s.rkMayIssue (partOfJob e) = true ∧ s.waitsFor (.normTable e) = false ∧
      s.missing (.jobRead e 7 0 (8 * uMembers (s.job e).raw)) = false ∧ (s.job e).phys = true ∧
      dieOf ((s.job e).addr 7 0 % 2 ^ 52) = s.dieId ∧
      s.route (partOfJob e) ((s.job e).addr 7 0 % 2 ^ 52) (8 * uMembers (s.job e).raw) false (s.peerUp (partOfJob e)) = .go (.fabric ch) pa ∧
      s.lineHeld 64 pa = false ∧ s.tokensOk (partOfJob e) 3 (8 * uMembers (s.job e).raw) = true := ⟨0, { pt := { mapValid := true, chSizeLog2 := 30, channels := [(0, 1)], parts := [(0, { st := 2, groups := 1 })] }, rk := { jobs := [(0, { live := true, phys := true, raw := [0x20] ++ zeros 77 ++ [0x20, 0] ++ zeros 38 ++ [2, 0] })] } }, 0, _, by decide, by decide, by decide, by decide, by decide, by decide, by decide, by decide, by decide, by decide, by decide, by decide, by decide, rfl, by decide⟩

theorem w_JobStages_normTableReturn :
    ∃ (id : Nat) (b : Bytes) (s : State) (q : Req) (e : Nat), s.req id = some q ∧ q.purpose = .normTable e ∧ q.kind = .read ∧ q.key = none ∧
      q.hit = false ∧ q.onPeer = false ∧ q.onFill = false ∧ (s.job e).live = true ∧ (s.job e).phase = .waiting ∧
      (∀ k < uMembers (s.job e).raw, fieldAt (padTo q.len b) (8 * k + 4) 4 = uStep (s.job e).raw) := ⟨5, [], { reqs := [{ id := 5, purpose := .normTable 0, path := .fabric 0, len := 8 }], rk := { jobs := [(0, { live := true })] } }, { id := 5, purpose := .normTable 0, path := .fabric 0, len := 8 }, 0, by decide⟩

theorem w_JobStages_normWaitLimitExpiry :
    ∃ (e : Fin 64) (s : State) (c : Nat), (s.job e).normFrom = some c ∧ (s.job e).live = true ∧ (s.job e).phase = .waiting ∧ (s.job e).normDone = false ∧
      (s.job e).normLimit = false ∧ c + 2 ^ 26 ≤ s.clk.fab := ⟨0, { clk := { fab := 2 ^ 26 }, rk := { jobs := [(0, { live := true, normFrom := some 0 })] } }, 0, by decide⟩

theorem w_JobStages_jobStart :
    ∃ (e : Fin 64) (s : State), (s.job e).live = true ∧ (s.job e).phase = .waiting ∧ (s.job e).repair = none ∧ s.turnOf e = true ∧
      s.rkMayStart (partOfJob e) = true ∧ (isOptimizer (dOpcode (s.job e).raw) = true → uClip (s.job e).raw ≠ 2 ∧
        Tab.at s.rk.scheds (4 * partOfJob e + uSched (s.job e).raw) ≠ []) ∧
      s.reserved + (if dOpcode (s.job e).raw = 0x23 then 4 * (uRows (s.job e).raw + uCols (s.job e).raw) else 0) ≤ 18 * 2 ^ 20 := ⟨0, { pt := { parts := [(0, { st := 2 })] }, rk := { jobs := [(0, { live := true, raw := [0x26] })] } }, by decide⟩

theorem w_JobStages_tileReadsComplete :
    ∃ (e : Fin 64) (s : State), s.jobMayIssue e = true ∧ (s.job e).repair = none ∧ (s.job e).pass ≠ 3 ∧ (s.job e).tile + 1 < (s.job e).tileCount ∧
      (s.job e).tileRead ((s.job e).reads (s.job e).tile) = true ∧ (s.job e).mayCompute = true ∧ (s.job e).sc.skipped = false := ⟨0, { pt := { parts := [(0, { st := 2 })] }, rk := { jobs := [(0, { live := true, phase := .running, pass := 2, got := [(0, [(0, 65536)])], raw := zeros 64 ++ [64, 156, 0, 0, 1, 0, 0, 0] ++ zeros 56 })] } }, by decide⟩

theorem w_JobStages_tileWritesAcked :
    ∃ (e : Fin 64) (s : State) (x : JobTile) (rest : List JobTile), (s.job e).tiles = x :: rest ∧ (s.job e).live = true ∧ (s.job e).phase = .running ∧
      x.todo = [] ∧ x.out = [] ∧ (s.job e).repair = none ∧ ((s.job e).pass = 4 ∨ (s.job e).pass = 5) := ⟨0, { rk := { jobs := [(0, { live := true, phase := .running, pass := 4, tiles := [{}] })] } }, {}, [], by decide⟩

theorem w_JobOutcomes_fingerprintWrite :
    ∃ (e : Fin 64) (k crc : Nat) (s : State) (ch pa : Nat), ((s.job e).fps.find? fun x => x.1 == k) = some (k, crc) ∧ s.jobMayIssue e = true ∧
      (s.job e).repair = none ∧ (s.job e).regionAcked k = true ∧ s.missing (.jobWrite e) = false ∧ (s.job e).phys = true ∧
      dieOf ((s.job e).addr 5 (8 * k) % 2 ^ 52) = s.dieId ∧
      s.route (partOfJob e) ((s.job e).addr 5 (8 * k) % 2 ^ 52) 8 true (s.peerUp (partOfJob e)) = .go (.fabric ch) pa ∧
      maskRange ((s.job e).addr 5 (8 * k) % 64) 8 ≠ 0 ∧
      s.tokensOk (partOfJob e) 4 (popCount 64 (maskRange ((s.job e).addr 5 (8 * k) % 64) 8)) = true := ⟨0, 0, 7, { pt := { mapValid := true, chSizeLog2 := 30, channels := [(0, 1)], parts := [(0, { st := 2, groups := 1 })] }, rk := { jobs := [(0, { live := true, phase := .running, phys := true, fps := [(0, 7)], raw := [0x20] ++ zeros 53 ++ [2] ++ zeros 9 ++ [64, 0, 0, 0, 1, 0, 0, 0] })] } }, 0, _, by decide, by decide, by decide, by decide, by decide, by decide, by decide, rfl, by decide⟩

theorem w_JobOutcomes_jobPark :
    ∃ (e : Fin 64) (s : State) (f : FaultEv), (s.job e).fault = some f ∧ (s.job e).live = true ∧ (s.job e).phase = .draining ∧ (s.job e).bad = none ∧
      s.jobOut e = false ∧ (s.fq (partOfJob e)).full = true := ⟨0, { qc := { fq := [(0, { placed := true, prod := 4096 })] }, rk := { jobs := [(0, { live := true, phase := .draining, fault := some {} })] } }, {}, by decide⟩

theorem w_JobOutcomes_jobReturn :
    ∃ (e : Fin 64) (s : State), (s.job e).live = true ∧ (s.job e).repair = none ∧ (s.job e).phase = .running ∧ (s.job e).complete = true ∧
      s.jobOut e = false ∧ (∀ id ∈ (s.job e).fence, s.isOut id = false) ∧ (s.job e).bad = none := ⟨0, { rk := { jobs := [(0, { live := true, phase := .running, sc := { skipped := true } })] } }, by decide⟩

theorem w_ArraySteps_arrayChunkStart :
    ∃ (e : Fin 64) (q : Nat) (s : State), s.rk.array = none ∧ s.arrayReady e = true ∧ s.arrayTurn e = true ∧ q < (s.job e).chunkCount ∧
      (s.job e).tileRead ((s.job e).chunkNeeds s.rk.halfArray (s.job e).tile q) = true := ⟨0, 0, { rk := { jobs := [(0, { live := true, phase := .running, pass := 3, step := 1, got := [(6, [(0, 2 ^ 40)])], raw := zeros 64 ++ [1, 0, 0, 0, 1, 0, 0, 0] })] } }, by decide⟩

theorem w_ArraySteps_arrayTileFinish :
    ∃ (s : State) (x : ArrayTile), s.rk.array = some x ∧ x.chunks.length = (s.job x.job).chunkCount ∧ x.until_ ≤ s.clk.arr ∧ s.rk.bufs.length < 16 := ⟨{ rk := { array := some { chunks := [0] }, jobs := [(0, { live := true, phase := .running, pass := 3, step := 1, raw := zeros 64 ++ [1, 0, 0, 0, 1, 0, 0, 0] })] } }, { chunks := [0] }, by decide⟩

theorem w_ArraySteps_outputPathTile :
    ∃ (s : State) (x : ArrayTile) (rest : List ArrayTile), s.rk.bufs = x :: rest := ⟨{ rk := { bufs := [{}] } }, {}, [], rfl⟩

theorem w_ArraySteps_replicaReportSend :
    ∃ (p : Fin 16) (s u : State) (x : Report), (s.rk.reports.find? fun r => r.part == p.val) = some x ∧ s.work x.ring x.pos = none ∧ s.rkMayIssue p = true ∧
      ({ s with rk := { s.rk with reports := s.rk.reports.erase x, sent := Tab.upd s.rk.sent p fun n => satAdd 16 n 1 } } : State).sendMessage p x.die (s.reportBytes x) = some u := ⟨0, { pt := { parts := [(0, { st := 2 })] }, rk := { reports := [{}] } }, _, {}, by decide, by decide, by decide, rfl⟩

theorem w_RepairJobs_repairJobStart :
    ∃ (p : Fin 16) (s : State) (e k : Nat), s.rkMayStart p = true ∧
      ((s.jobsOf p).find? fun e => (s.job e).repair.isSome && (s.job e).phase == .waiting) = none ∧ s.oldestRepair p = some k ∧ s.freeEntry p = some e := ⟨0, { pt := { parts := [(0, { st := 2 })] }, rk := { queue := [(0, { valid := true })] } }, 0, 0, by decide⟩

theorem w_RepairJobs_repairFingerprintCheck :
    ∃ (e : Fin 64) (s : State) (r : RepairJob), (s.job e).repair = some r ∧ r.step = 1 ∧ (s.job e).phase = .running ∧
      ivCovers (Tab.at (s.job e).got 5) 0 8 = true := ⟨0, { rk := { jobs := [(0, { live := true, phase := .running, repair := some {}, got := [(5, [(0, 8)])] })] } }, {}, by decide⟩

theorem w_RepairJobs_repairMemberWrite :
    ∃ (e : Fin 64) (s : State) (r : RepairJob) (mask : Nat), (s.job e).repair = some r ∧ r.step = 2 ∧ (s.job e).settled = true ∧ (s.job e).tile = (s.job e).tileCount ∧
      ivCovers (Tab.at (s.job e).got 7) 0 256 = true ∧
      mask = (if (Tab.at s.rk.sets (8 * partOfJob e + r.set)).sr then (Tab.at s.rk.sets (8 * partOfJob e + r.set)).mask
        else (Tab.at s.rk.queue (64 * partOfJob e + r.entry)).mask) := ⟨0, { rk := { jobs := [(0, { live := true, phase := .running, repair := some { step := 2 }, got := [(7, [(0, 256)])] })] } }, { step := 2 }, _, by decide, by decide, by decide, by decide, by decide, rfl⟩

theorem w_RepairJobs_repairFingerprintWrite :
    ∃ (e : Fin 64) (s : State) (r : RepairJob), (s.job e).repair = some r ∧ r.step = 3 ∧ (s.job e).settled = true := ⟨0, { rk := { jobs := [(0, { live := true, phase := .running, repair := some { step := 3 } })] } }, { step := 3 }, by decide⟩

theorem w_RepairJobs_repairNoteWrite :
    ∃ (e : Fin 64) (s : State) (r : RepairJob) (pa : Nat) (ro : Route), (s.job e).repair = some r ∧ r.step = 4 ∧ (s.job e).settled = true ∧
      s.jobOut e = false ∧ (s.job e).mute = false ∧
      s.route (partOfJob e) (Tab.at s.rk.sets (8 * partOfJob e + r.set)).note (repairNote r 0 0 s.clk.fab).length true false = .go ro pa := ⟨0, { pt := { parts := [(0, { st := 2, groups := 1 })], ranges := [(0, { limit := 2 ^ 21, mask := 1, we := true, valid := true })] }, rk := { jobs := [(0, { live := true, phase := .running, repair := some { step := 4 } })] } }, { step := 4 }, 0, .host, by decide⟩

theorem w_SharedRepairs_sharedRepairOpen :
    ∃ (s : State) (e c : Nat) (rest : List (Nat × Nat)), s.pt.repairQueue = (e, c) :: rest ∧ s.pt.repairs.length < 4 := ⟨{ pt := { repairQueue := [(1, 0)] } }, 1, 0, [], by decide⟩

theorem w_SharedRepairs_sharedRepairOriginDone :
    ∃ (i : Nat) (data digest plain : Bytes) (s : State) (r : SharedRepair), s.repairOf i = some r ∧ r.step = 0 ∧ s.keysHeld r = true ∧
      plain = xtsRun Config.xtsDec r.originKey 131072 (((Tab.at s.pt.shared r.entry).origin + r.chunk * 2 ^ 21) / 16) (padTo (2 ^ 21) data) ∧
      Config.sha384 plain = digest := ⟨0, [], _, _, { pt := { parts := [(0, { slot0 := { st := .loaded, hostKey := [1] } })], repairs := [{ originKey := [1], rangeKey := [1] }] } }, { originKey := [1], rangeKey := [1] }, by decide, by decide, by decide, rfl, rfl⟩

theorem w_SharedRepairs_sharedRepairClose :
    ∃ (i : Nat) (s : State) (r : SharedRepair), s.repairOf i = some r ∧ r.step = 1 ∧ s.keysHeld r = true := ⟨0, { pt := { parts := [(0, { slot0 := { st := .loaded, hostKey := [1] } })], repairs := [{ step := 1, originKey := [1], rangeKey := [1] }] } }, { step := 1, originKey := [1], rangeKey := [1] }, by decide⟩

theorem w_SharedRepairs_sharedRepairTimeout :
    ∃ (i : Nat) (s : State) (r : SharedRepair), s.repairOf i = some r ∧ r.id = i ∧ r.start + 2 ^ 26 ≤ s.clk.fab := ⟨0, { clk := { fab := 2 ^ 26 }, pt := { repairs := [{}] } }, {}, by decide⟩

theorem w_LinkTraining_sidebandUp :
    ∃ (k : Fin 24) (s : State), (s.mod k).st = 2 := ⟨0, { links := { mods := [(0, { st := 2 })] } }, by decide⟩

theorem w_LinkTraining_mainbandTrained :
    ∃ (k : Fin 24) (lo hi : Fin 33) (s : State) (w n : Nat), (s.mod k).st = 3 ∧ trainWidth lo hi = some (w, n) := ⟨4, 1, 0, { links := { mods := [(4, { st := 3 })] } }, 64, 1, by decide⟩

theorem w_LinkTraining_paramFlitReceive :
    ∃ (k : Fin 24) (b : Bytes) (s : State), (Instr.paramFlitReceive k b).wf = true ∧ (s.mod k).st = 4 ∧
      (4 ≤ k.val → flitGood b = true ∧ ctlType b = 2 ∧ byteAt (slotOf b 0) 1 = 1 ∧ byteAt (slotOf b 0) 3 = facing (k - 4)) := ⟨4, flitBytes (fld 2 61 3) (leBytes 1 2 ++ leBytes 1 1 ++ zeros 1 ++ leBytes 1 10), { links := { mods := [(4, { st := 4 })] } }, by show (List.length _ == 256) = true; rw [flitBytes_length]; rfl, by decide, fun _ => ⟨flitBytes_good .., by decide, by decide, by decide⟩⟩

theorem w_LinkTraining_trainingLimitExpiry :
    ∃ (k : Fin 24) (s : State), ((s.mod k).st = 3 ∨ (s.mod k).st = 4) ∧ (s.mod k).attempts < 2 ∧ (s.mod k).limitFrom + 2 ^ 22 ≤ s.clk.mgt := ⟨0, { clk := { mgt := 2 ^ 22 }, links := { mods := [(0, { st := 3 })] } }, by decide⟩

theorem w_LinkTraining_retrainComplete :
    ∃ (k : Fin 24) (lo hi : Fin 33) (b : Bytes) (s : State) (w n : Nat), (Instr.retrainComplete k lo hi b).wf = true ∧ (s.mod k).st = 6 ∧
      trainWidth lo hi = some (w, n) ∧ (4 ≤ k.val → flitGood b = true ∧ ctlType b = 2) := ⟨4, 0, 0, flitBytes (fld 2 61 3) (leBytes 1 2 ++ leBytes 1 1), { links := { mods := [(4, { st := 6 })] } }, 64, 0, by show (List.length _ == 256) = true; rw [flitBytes_length]; rfl, by decide, by decide, fun _ => ⟨flitBytes_good .., by decide⟩⟩

theorem w_LinkReception_payloadFlitReceive :
    ∃ (m : Fin 20) (b : Bytes) (s : State), (Instr.payloadFlitReceive m b).wf = true ∧ s.inOrder m b = true ∧ fType b = 1 := by
  refine ⟨0, flitBytes (fld 1 61 3) [], { links := { mods := [(4, { st := 5 })] } }, ?_, ?_, by decide⟩
  · show (List.length _ == 256) = true; rw [flitBytes_length]; rfl
  · unfold State.inOrder; rw [flitBytes_good]; decide

theorem w_LinkReception_respFlitReceive :
    ∃ (m : Fin 20) (b : Bytes) (s : State), (Instr.respFlitReceive m b).wf = true ∧ s.inOrder m b = true ∧ ctlType b = 3 := by
  refine ⟨0, flitBytes (fld 2 61 3) [3], { links := { mods := [(4, { st := 5 })] } }, ?_, ?_, by decide⟩
  · show (List.length _ == 256) = true; rw [flitBytes_length]; rfl
  · unfold State.inOrder; rw [flitBytes_good]; decide

theorem w_LinkReception_flitCrcError :
    ∃ (k : Fin 24) (b : Bytes) (s : State), (Instr.flitCrcError k b).wf = true ∧ (s.mod k).st = 5 ∧ (4 ≤ k.val → flitGood b = false) := ⟨0, zeros 256, { links := { mods := [(0, { st := 5 })] } }, by show (List.length (zeros 256) == 256) = true; unfold zeros; rw [List.length_replicate]; rfl, by decide, fun h => absurd h (by decide)⟩

theorem w_LinkReception_testFlitReceive :
    ∃ (k : Fin 24) (b : Bytes) (s : State), (Instr.testFlitReceive k b).wf = true ∧ (s.mod k).st = 5 ∧ flitGood b = true ∧ ctlType b = 4 ∧
      (s.mod k).tgCheck = true ∧ s.tgMay k = true ∧ (s.mod k).tgLocked = true := ⟨0, flitBytes (fld 2 61 3) [4], { mc := { mode := 1 }, links := { mods := [(0, { st := 5, tgCheck := true, tgLocked := true, loopback := true })] } }, by show (List.length _ == 256) = true; rw [flitBytes_length]; rfl, by decide, flitBytes_good .., by decide, by decide, by decide, by decide⟩

theorem w_LinkReception_idleFlitReceive :
    ∃ (k : Fin 24) (b : Bytes) (s : State), (Instr.idleFlitReceive k b).wf = true ∧ (s.mod k).st = 5 ∧ (4 ≤ k.val → flitGood b = true ∧ fType b = 0) ∧
      (s.mod k).q0 = [] ∧ (s.mod k).q1 = [] ∧ (s.mod k).q2 = [] ∧ (s.mod k).q3 = [] := ⟨4, flitBytes (fld 3 20 13) [], { links := { mods := [(4, { st := 5 })] } }, by show (List.length _ == 256) = true; rw [flitBytes_length]; rfl, by decide, fun _ => ⟨flitBytes_good .., by decide⟩, by decide⟩

theorem w_LinkReplays_nakRepeatExpiry :
    ∃ (m : Fin 20) (s : State), (s.mod (4 + m)).st = 5 ∧ (s.mod (4 + m)).nakFor.isSome = true ∧
      (s.mod (4 + m)).nakAt + 256 * (s.mod (4 + m)).flitTime ≤ Tab.at s.clk.pl m := ⟨0, { clk := { pl := [(0, 256)] }, links := { mods := [(4, { st := 5, nakFor := some 0 })] } }, by decide⟩

theorem w_LinkReplays_nakReceive :
    ∃ (k : Fin 24) (b : Bytes) (s : State), (Instr.nakReceive k b).wf = true ∧ (s.mod k).st = 5 ∧ (4 ≤ k.val → flitGood b = true ∧ ctlType b = 1) ∧
      (s.mod k).replaysHere < 4 := by
  refine ⟨4, flitBytes (fld 2 61 3) [1], { links := { mods := [(4, { st := 5 })] } }, ?_, ?_, ?_, ?_⟩
  · show (List.length _ == 256) = true; rw [flitBytes_length]; rfl
  · decide
  · exact fun _ => ⟨flitBytes_good .., by decide⟩
  · decide

theorem w_LinkReplays_replayTimeout :
    ∃ (m : Fin 20) (s : State), (s.mod (4 + m)).st = 5 ∧ (s.mod (4 + m)).retry ≠ [] ∧ (s.mod (4 + m)).ackAt + 4096 ≤ Tab.at s.clk.pl m ∧
      (s.mod (4 + m)).replaysHere < 4 := ⟨0, { clk := { pl := [(0, 4096)] }, links := { mods := [(4, { st := 5, retry := [{}] })] } }, by decide⟩

theorem w_LinkReplays_outOfOrderFlit :
    ∃ (m : Fin 20) (b : Bytes) (s : State), (Instr.outOfOrderFlit m b).wf = true ∧ (s.mod (4 + m)).st = 5 ∧ flitGood b = true ∧ sequenced b = true ∧
      fSeq b ≠ (s.mod (4 + m)).rxNext ∧ (s.mod (4 + m)).nakFor = none := ⟨0, flitBytes (fld 1 61 3 + fld 9 46 10) [], { links := { mods := [(4, { st := 5 })] } }, by show (List.length _ == 256) = true; rw [flitBytes_length]; rfl, by decide, flitBytes_good .., by decide, by decide, by decide⟩

theorem w_LinkServices_inboundWriteAck :
    ∃ (id i : Nat) (s : State) (q : Req), s.req id = some q ∧ q.purpose = .kppServe i ∧ q.kind = .write ∧
      (s.links.kpp.find? fun x => x.id == i).isSome = true := ⟨0, 0, { reqs := [{ purpose := .kppServe 0, kind := .write }], links := { kpp := [{}] } }, { purpose := .kppServe 0, kind := .write }, by decide⟩

theorem w_LinkServices_messageTimeout :
    ∃ (x : Fin 65536) (s : State), (s.tag x).live = true ∧ (s.tag x).req = none ∧ (s.tag x).start + 2 ^ 24 ≤ s.clk.fab := ⟨0, { clk := { fab := 2 ^ 24 }, links := { tags := [(0, { live := true })] } }, by decide⟩

theorem w_LinkServices_linkLowPowerEntry :
    ∃ (k : Fin 24) (s : State), (s.mod k).st = 5 ∧ s.mc.pwr.lpEn = true ∧ (s.mod k).retry = [] ∧ (s.mod k).q0 = [] ∧ (s.mod k).q1 = [] ∧ (s.mod k).q2 = [] ∧
      (s.mod k).q3 = [] ∧ (s.mod k).idleFrom + 2 ^ 14 ≤ s.clk.mgt ∧ (4 ≤ k.val → s.ownerIdle (k - 4) = false) := ⟨4, { clk := { mgt := 2 ^ 14 }, mc := { pwr := { lpEn := true } }, links := { mods := [(4, { st := 5 })] } }, by decide⟩

theorem w_LinkServices_linkLowPowerExit :
    ∃ (k : Fin 24) (s : State), (s.mod k).st = 7 := ⟨0, { links := { mods := [(0, { st := 7 })] } }, by decide⟩

theorem w_LinkServices_tgCtrlWrite :
    ∃ (k : Fin 24) (s : State), s.tgMay k = true := ⟨0, { mc := { mode := 1 }, links := { mods := [(0, { loopback := true })] } }, by decide⟩

theorem w_LinkServices_testFlitGenerate :
    ∃ (k : Fin 24) (s : State), (s.mod k).st = 5 ∧ (s.mod k).tgGen = true ∧ s.tgMay k = true ∧ ((s.mod k).tgCount = 0 ∨ (s.mod k).tgSent < (s.mod k).tgCount) ∧
      (s.mod k).q0 = [] ∧ (s.mod k).q1 = [] ∧ (s.mod k).q2 = [] ∧ (s.mod k).q3 = [] ∧ (4 ≤ k.val → s.idleOnly (k - 4) = false) := ⟨4, { mc := { mode := 1 }, links := { mods := [(4, { st := 5, tgGen := true })] } }, by decide⟩

theorem w_PortRequests_cxlIoPostedWrite :
    ∃ (pasid : Option (BitVec 20)) (off : BitVec 47) (data : Bytes) (s : State) (part : Option Nat) (pa : Nat),
      (Instr.cxlIoPostedWrite pasid off data).wf = true ∧ s.ioUp = true ∧
      s.cxlDest (pasid.map fun (x : BitVec 20) => x.toNat) off.toNat data.length true = .memory part pa := ⟨none, 64, [1], { links := { mods := [(0, { st := 5 })] }, pt := { mapValid := true, chSizeLog2 := 34 } }, none, 562949953421376, by decide⟩

theorem w_PortRequests_cxlIoRead :
    ∃ (pasid : Option (BitVec 20)) (txn : Nat) (off : BitVec 47) (len : Nat) (s : State) (part : Option Nat) (pa : Nat),
      (Instr.cxlIoRead pasid txn off len true).wf = true ∧ s.ioUp = true ∧ s.links.io = [] ∧
      s.cxlDest (pasid.map fun (x : BitVec 20) => x.toNat) off.toNat len false = .memory part pa := ⟨none, 0, 64, 1, { links := { mods := [(0, { st := 5 })] }, pt := { mapValid := true, chSizeLog2 := 34 } }, none, 562949953421376, by decide⟩

theorem w_PortRequests_pcieMemoryRequest :
    ∃ (rid : BitVec 16) (txn : Nat) (addr : Word) (len : Nat) (data header : Bytes) (s : State) (part : Option Nat) (pa : Nat),
      (Instr.pcieMemoryRequest .write rid txn addr len false data header).wf = true ∧ s.px.linkUp = true ∧ s.px.frozen = false ∧
      len ≤ 512 ∧ addr.toNat % 4096 + len ≤ 4096 ∧ (s.px.rootPort = true → addr.toNat < 0xFFFFFFFFFFF00000) ∧
      (if s.px.rootPort then some (s.deviceDest rid.toNat addr.toNat len true) else s.endpointDest addr.toNat len true) = some (.memory part pa) := ⟨0, 0, BitVec.ofNat 64 (2 ^ 40), 1, [1], [], { px := { linkUp := true, fns := [(16, { memSpace := true, bar2 := 2 ^ 40 })] }, pt := { mapValid := true, chSizeLog2 := 34 } }, none, 562949953421312, by decide⟩

theorem w_PortRequests_pcieConfigRequest :
    ∃ (f : Fin 256) (s : State), s.px.linkUp = true ∧ s.px.configReady = true ∧ s.px.inbound = [] ∧
      (f.val < 16 → (s.part f).flr = none) ∧ (f.val = 16 ∨ s.fnExists f = true) := ⟨16, { px := { linkUp := true, configReady := true } }, by decide⟩

theorem w_PortRequests_cxlIoConfigurationRequest :
    ∃ (s : State), s.ioUp = true ∧ s.links.io = [] := ⟨{ links := { mods := [(0, { st := 5 })] } }, by decide⟩

theorem w_PortRequests_deviceInterruptWrite :
    ∃ (rid : BitVec 16) (addr : Word) (s : State) (p : Nat), s.px.linkUp = true ∧ s.px.rootPort = true ∧
      s.px.frozen = false ∧ addr.toNat % 4 = 0 ∧ 0xFFFFFFFFFFF00000 ≤ addr.toNat ∧ s.assignedTo rid.toNat = some p := ⟨0, BitVec.ofNat 64 0xFFFFFFFFFFF00000, { px := { linkUp := true, rootPort := true, assigns := [{}] } }, 0, by decide⟩

theorem w_Containment_aerErrorDetected :
    ∃ (correctable : Bool) (b : Fin 32), (if correctable then b.val ∈ corBits else b.val ∈ uncBits) := ⟨false, 12, by decide⟩

theorem w_Containment_dlDown :
    ∃ (s : State), s.px.linkUp = true ∧ s.px.linkDisable = false ∧ s.px.frozen = false := ⟨{ px := { linkUp := true } }, by decide⟩

theorem w_Containment_dlUpInsert :
    ∃ (width rate : Nat) (s : State), (Instr.dlUpInsert width rate).wf = true ∧ s.px.linkUp = false ∧ s.px.rootPort = true ∧
      s.px.wasDown = true ∧ s.px.insertHold = true ∧ s.px.frozen = false := ⟨16, 1, { px := { rootPort := true, wasDown := true } }, by decide⟩

theorem w_Containment_pcieLinkUp :
    ∃ (width rate : Nat) (s : State), (Instr.pcieLinkUp width rate).wf = true ∧ s.px.linkUp = false ∧
      (s.px.rootPort = true → s.px.frozen = false ∧ (s.px.wasDown = false ∨ s.px.insertHold = false)) := ⟨16, 1, { px := { rootPort := true } }, by decide⟩

theorem w_Containment_capoSoftwareTrigger :
    ∃ (s : State), s.px.frozen = false := ⟨{}, by decide⟩

theorem w_Containment_capoRelease :
    ∃ (s : State), s.px.frozen = true ∧ s.px.releaseAt = none ∧ s.px.refusedAt ≠ some s.clk.px ∧ s.px.trigAt ≠ some s.clk.px := ⟨{ px := { frozen := true, cause := 4 } }, by decide⟩

theorem w_Containment_errMessageReceived :
    ∃ (s : State), s.px.rootPort = true ∧ s.px.frozen = false := ⟨{ px := { rootPort := true } }, by decide⟩

theorem w_PortService_barResize :
    ∃ (log2 : Fin 64) (s : State), s.px.rootPort = false ∧ 30 ≤ log2.val ∧ log2.val ≤ 40 := ⟨32, {}, by decide⟩

theorem w_PortService_msixPendingSend :
    ∃ (f : Fin 17) (v : Fin 512) (s : State), (Tab.at s.px.msix (512 * f + v)).pending = true ∧ (Tab.at s.px.msix (512 * f + v)).masked = false ∧
      (s.fn f).msixMask = false ∧ (s.fn f).msixEnable = true ∧ (s.fn f).busMaster = true ∧ s.fnExists f = true ∧ s.px.frozen = false := ⟨16, 0, { px := { msix := [(8192, { pending := true, masked := false })], fns := [(16, { msixEnable := true, busMaster := true })] } }, by decide⟩

theorem w_PortService_l0pEntry :
    ∃ (s : State), s.px.linkUp = true ∧ s.px.l0p ≠ 2 ∧ s.px.tlpAt + 8192 ≤ s.clk.px ∧ s.px.linkWidth = 16 := ⟨{ px := { linkUp := true, linkWidth := 16 }, clk := { px := 8192 } }, by decide⟩

theorem w_PortService_l0pRestore :
    ∃ (s : State), s.px.linkUp = true ∧ s.px.l0p ≠ 0 := ⟨{ px := { linkUp := true, l0p := 2 } }, by decide⟩

theorem w_PortService_aspmL1Entry :
    ∃ (s : State), s.px.linkUp = true ∧ s.px.l1Enable = true ∧ s.px.l1 = false ∧ s.px.tlpAt + 16384 ≤ s.clk.px ∧
      (∀ e ∈ s.px.msix, e.2.pending = false) ∧ s.px.inbound = [] ∧ s.px.rpNow = none := ⟨{ px := { linkUp := true, l1Enable := true }, clk := { px := 16384 } }, by decide⟩

theorem w_PortService_rpRequestCompletion :
    ∃ (s : State) (r : RpReq), s.px.rpNow = some r ∧ s.rpFrozen r.config = false ∧ s.px.rpWait = [] := ⟨{ px := { rpNow := some {} } }, {}, by decide⟩

theorem w_TallyCommands_accumulatorAgeExpiry :
    ∃ (p : Fin 16) (k : Fin 7) (s : State), (Tab.at s.tally.acc (8 * p + k)).amount ≠ 0 ∧
      (Tab.at s.tally.acc (8 * p + k)).since + 2 ^ 16 ≤ s.countClock k := ⟨0, 0, { tally := { acc := [(0, { amount := 3 })] }, clk := { fab := 65536 } }, by decide⟩

theorem w_TallyCommands_countPulseTake :
    ∃ (s : State) (x : Pulse) (l : List Pulse), s.tally.pulses = x :: l ∧ x.code ≠ 7 := ⟨{ tally := { pulses := [{ part := 0, code := 3, amount := 5 }] } }, { part := 0, code := 3, amount := 5 }, [], by decide⟩

theorem w_TallyCommands_lifetimePulse :
    ∃ (s : State) (x : Pulse) (l : List Pulse), s.tally.pulses = x :: l ∧ x.code = 7 ∧ x.amount = 1 := ⟨{ tally := { pulses := [{ part := 0, code := 7, amount := 1 }] } }, { part := 0, code := 7, amount := 1 }, [], by decide⟩

theorem w_TallyCommands_markPulse :
    ∃ (s : State) (x : Pulse) (l : List Pulse), s.tally.pulses = x :: l ∧ x.code = 7 ∧ x.amount = 2 := ⟨{ tally := { pulses := [{ part := 0, code := 7, amount := 2 }] } }, { part := 0, code := 7, amount := 2 }, [], by decide⟩

theorem w_TallyCommands_tallyRecordCommit :
    ∃ (s : State), s.tally.pendingCause ≠ 0 ∧ s.tally.signing = none ∧ s.tally.selfFail = false := ⟨{}, by decide⟩

theorem w_TallyCommands_tallyRecordStored :
    ∃ (s : State) (r : TallyRec), s.tally.signing = some r ∧ s.tally.waiters = [] := ⟨{ tally := { signing := some {} } }, {}, by decide⟩

theorem w_PowerCommands_powerWarnWaitExpiry :
    ∃ (s : State) (c : Nat), s.tally.warnAt = some c ∧ c + 256 ≤ s.clk.tly := ⟨{ tally := { warnAt := some 0 }, clk := { tly := 256 } }, 0, by decide⟩

theorem w_PowerCommands_sensorSample :
    ∃ (v : List (BitVec 16)) (s : State), (Instr.sensorSample v).wf = true ∧ s.mc.pwr.sampled + 2 ^ 16 ≤ s.clk.mgt := ⟨[0, 0, 0, 0, 0, 0, 0, 0], { clk := { mgt := 65536 } }, by decide⟩

theorem w_PowerCommands_ckArrStepDone :
    ∃ (s : State) (a : Nat) (up : Bool), s.mc.pwr.step = some (a, up) ∧ 12 ≤ s.mc.pwr.freq ∧ s.mc.pwr.freq ≤ 21 := ⟨{ mc := { pwr := { step := some (0, true), freq := 15 } } }, 0, true, by decide⟩

theorem w_PowerCommands_ckArrStepTimeout :
    ∃ (s : State) (a : Nat) (up : Bool), s.mc.pwr.step = some (a, up) ∧ s.mc.pwr.late = false ∧ a + 2 ^ 16 ≤ s.clk.mgt := ⟨{ mc := { pwr := { step := some (0, true) } }, clk := { mgt := 65536 } }, 0, true, by decide⟩

theorem w_PowerCommands_arrFreqMaxStepDown :
    ∃ (s : State) (a : Nat), s.mc.pwr.maxAt = some a ∧ s.mc.pwr.top < s.mc.pwr.freq ∧ s.mc.pwr.capEn = true ∧ a + 2 ^ 16 ≤ s.clk.mgt ∧
      s.mc.pwr.step = none := ⟨{ mc := { pwr := { maxAt := some 0, freq := 15, fmax := 12, capEn := true } }, clk := { mgt := 65536 } }, 0, by decide⟩

theorem w_ErrorCommands_errorLatch :
    ∃ (e : ErrorEv), (Instr.errorLatch e).wf = true := ⟨{ source := 3, cls := 1 }, by decide⟩

theorem w_ErrorCommands_graceExpiry :
    ∃ (src : Fin 16) (s : State) (a : Nat), (s.source src).grace = some a ∧ (s.source src).unacked = true ∧ a + (s.source src).graceLen ≤ s.clk.mgt ∧
      (s.source src).level < 4 ∧ (s.source src).stepAt ≠ some s.clk.mgt ∧ (s.recordOf src).source = src := ⟨0, { ec := { sources := [(0, { grace := some 0, s1 := true, graceLog2 := 16 })] }, clk := { mgt := 65536 } }, 0, by decide⟩

theorem w_ErrorCommands_quietExpiry :
    ∃ (src : Fin 16) (s : State) (a : Nat), (s.source src).quiet = some a ∧ (s.source src).unacked = false ∧ a + s.ec.quietLen ≤ s.clk.mgt ∧
      (s.source src).level ≠ 0 ∧ (s.source src).level ≠ 4 := ⟨0, { ec := { sources := [(0, { quiet := some 0, level := 2 })], quietLog2 := 20 }, clk := { mgt := 1048576 } }, 0, by decide⟩

theorem w_ErrorCommands_ecInject :
    ∃ (w : Word) (s : State), s.ec.testMode = true ∧ bit w.toNat 0 = true ∧ bits w.toNat 8 2 ≠ 3 := ⟨1, { ec := { testMode := true } }, by decide⟩

theorem w_ErrorCommands_aliveToggle :
    ∃ (s : State), s.stopped = false ∧ s.ec.aliveAt + 2 ^ 19 ≤ s.clk.mgt := ⟨{ clk := { mgt := 524288 } }, by decide⟩

theorem w_ErrorCommands_reconcilePass :
    ∃ (s : State), s.mc.ready = true ∧ s.mc.reconcileAt + 2 ^ 20 ≤ s.clk.mgt := ⟨{ mc := { ready := true }, clk := { mgt := 1048576 } }, by decide⟩

theorem w_ErrorCommands_registerWrite :
    ∃ (s : State), s.px.rootPort = false ∧ s.px.frozen = false ∧ s.px.linkUp = true := ⟨{ px := { linkUp := true } }, by decide⟩

theorem w_ScrubAndRekey_scrubQuiesceEnd :
    ∃ (p : Fin 16) (s : State), (s.part p).st = 3 ∧ (s.part p).scrubPhase = 1 ∧ (s.part p).scrubT0 + 2 ^ 24 ≤ s.clk.fab := ⟨0, { pt := { parts := [(0, { st := 3, scrubPhase := 1 })] }, clk := { fab := 16777216 } }, by decide⟩

theorem w_ScrubAndRekey_scrubZeroEnd :
    ∃ (p : Fin 16) (s : State), (s.part p).st = 3 ∧ (s.part p).scrubPhase = 2 ∧ (s.part p).scrubT0 + 2 ^ 24 + s.zeroLen ≤ s.clk.fab := ⟨0, { pt := { parts := [(0, { st := 3, scrubPhase := 2 })] }, clk := { fab := 16777216 } }, by decide⟩

theorem w_ScrubAndRekey_scrubCloseEnd :
    ∃ (p : Fin 16) (s : State), (s.part p).st = 3 ∧ (s.part p).scrubPhase = 3 ∧ (s.part p).scrubT0 + s.scrubLen ≤ s.clk.fab := ⟨0, { pt := { parts := [(0, { st := 3, scrubPhase := 3 })] }, clk := { fab := 16842752 } }, by decide⟩

theorem w_ScrubAndRekey_rekeyPageLock :
    ∃ (p : Fin 16) (l : FoundLeaf) (s : State), (s.part p).rekey.hostPass = true ∧ (s.part p).rekey.lock = none ∧ s.xlMay p = true ∧
      (s.part p).rekey.treats p l = true := ⟨0, { asid := 0, va := 0, sizeLog2 := 12, at_ := 0, entry := 1 + 2 ^ 57 }, { pt := { parts := [(0, { st := 2, rekey := { hostPass := true, items := [{ len := 4096 }] } })] } }, by decide⟩

theorem w_ScrubAndRekey_rekeyPagePushesDone :
    ∃ (p : Fin 16) (s : State) (l : LockedPage), (s.part p).rekey.lock = some l ∧ l.step = 1 ∧
      (∀ i ∈ s.xl.invals, i.id ≠ l.inval) ∧ s.xlMay p = true := ⟨0, { pt := { parts := [(0, { st := 2, rekey := { lock := some {} } })] } }, {}, by decide⟩

theorem w_ScrubAndRekey_rekeyPageUnlock :
    ∃ (p : Fin 16) (s : State) (q : Req), s.reqFor (.rekeyLeaf p) = some q := ⟨0, { reqs := [{ purpose := .rekeyLeaf 0 }] }, { purpose := .rekeyLeaf 0 }, by decide⟩

theorem w_ScrubAndRekey_hbmPassEnd :
    ∃ (p : Fin 16) (s : State), (s.part p).rekey.hbmPass = true ∧ (s.part p).rekey.start + s.chSize / 64 ≤ s.clk.fab := ⟨0, { pt := { parts := [(0, { rekey := { hbmPass := true } })] } }, by decide⟩

theorem w_ScrubAndRekey_keySlotRetire :
    ∃ (p : Fin 16) (g : Fin 2) (s : State), ((s.part p).slot g).st = .retiring ∧ (s.part p).rekey.hostPass = false ∧
      (s.part p).rekey.hbmPass = false ∧ ((s.part p).slot g).inflight = 0 := ⟨0, 0, { pt := { parts := [(0, { slot0 := { st := .retiring } })] } }, by decide⟩

theorem w_TenantRequests_spdmRequest :
    ∃ (doe : Bool) (s : State), s.spdmMay = true ∧ (doe = true → s.px.rootPort = false ∧ s.px.configReady = true) := ⟨true, { mc := { ready := true }, px := { configReady := true } }, by decide⟩

theorem w_TenantRequests_spdmMeasurement :
    ∃ (doe : Bool) (body : Bytes) (s : State), s.spdmMay = true ∧ (doe = true → s.px.rootPort = false ∧ s.px.configReady = true) ∧
      3 ≤ s.mc.spdm.step ∧ byteAt body 1 ≠ 0xFF ∧ byteAt body 1 ∈ measIxs := ⟨false, [0, 1], { mc := { ready := true, spdm := { step := 3 } } }, by decide⟩

theorem w_TenantRequests_claim :
    ∃ (session : Nat) (b : Bytes) (s : State) (p : Nat), s.spdmMay = true ∧ s.mc.spdm.sessions.contains session = true ∧ tenantShape b = true ∧
      byteAt b 0 = 1 ∧ byteAt b 1 % 16 = p ∧ ((s.part p).st = 1 ∨ (s.part p).st = 2) ∧ (s.part p).claimed = false ∧ (s.part p).claimFails < 16 := ⟨0, [1, 0, 0, 0, 128, 0, 0, 0] ++ zeros 136, { mc := { ready := true, spdm := { sessions := [0] } }, pt := { parts := [(0, { st := 1 })] } }, 0, by decide, by decide, by decide, by decide, by decide, by decide, by decide, by decide⟩

theorem w_TenantRequests_keyLoad :
    ∃ (session : Nat) (b : Bytes) (s : State) (p : Nat), s.spdmMay = true ∧ s.mc.spdm.sessions.contains session = true ∧ tenantShape b = true ∧
      byteAt b 0 = 2 ∧ byteAt b 1 % 16 = p ∧ ((s.part p).st = 1 ∨ (s.part p).st = 2) ∧ (s.part p).claimed = true ∧
      (s.part p).counter < fieldAt b 8 8 ∧ ((s.part p).slot (byteAt b 2)).st = .empty := ⟨0, [2, 0, 0, 0, 160, 0, 0, 0, 1] ++ zeros 263, { mc := { ready := true, spdm := { sessions := [0] } }, pt := { parts := [(0, { st := 1, claimed := true })] } }, 0, by decide, by decide, by decide, by decide, by decide, by decide, by decide, by decide, by decide⟩

theorem w_TenantRequests_setProvision :
    ∃ (session : Nat) (b : Bytes) (s : State) (p : Nat), s.spdmMay = true ∧ s.mc.spdm.sessions.contains session = true ∧ tenantShape b = true ∧
      byteAt b 0 = 3 ∧ byteAt b 1 % 16 = p ∧ ((s.part p).st = 1 ∨ (s.part p).st = 2) ∧ (s.part p).claimed = true ∧
      (s.part p).counter < fieldAt b 8 8 := ⟨0, [3, 0, 0, 0, 128, 0, 0, 0, 1] ++ zeros 23 ++ [1] ++ zeros 207, { mc := { ready := true, spdm := { sessions := [0] } }, pt := { parts := [(0, { st := 1, claimed := true })] } }, 0, by decide, by decide, by decide, by decide, by decide, by decide, by decide, by decide⟩

theorem w_TenantRequests_setRevoke :
    ∃ (session : Nat) (b : Bytes) (s : State) (p : Nat), s.spdmMay = true ∧ s.mc.spdm.sessions.contains session = true ∧ tenantShape b = true ∧
      byteAt b 0 = 4 ∧ byteAt b 1 % 16 = p ∧ ((s.part p).st = 1 ∨ (s.part p).st = 2) ∧ (s.part p).claimed = true ∧
      (s.part p).counter < fieldAt b 8 8 := ⟨0, [4, 0, 0, 0, 0, 0, 0, 0, 1] ++ zeros 103, { mc := { ready := true, spdm := { sessions := [0] } }, pt := { parts := [(0, { st := 1, claimed := true })] } }, 0, by decide, by decide, by decide, by decide, by decide, by decide, by decide, by decide⟩

theorem w_TenantRequests_release :
    ∃ (session : Nat) (b : Bytes) (s : State) (p : Nat), s.spdmMay = true ∧ s.mc.spdm.sessions.contains session = true ∧ tenantShape b = true ∧
      byteAt b 0 = 5 ∧ byteAt b 1 % 16 = p ∧ ((s.part p).st = 1 ∨ (s.part p).st = 2) ∧ (s.part p).claimed = true ∧
      (s.part p).counter < fieldAt b 8 8 := ⟨0, [5, 0, 0, 0, 0, 0, 0, 0, 1] ++ zeros 103, { mc := { ready := true, spdm := { sessions := [0] } }, pt := { parts := [(0, { st := 1, claimed := true })] } }, 0, by decide, by decide, by decide, by decide, by decide, by decide, by decide, by decide⟩

theorem w_BringUp_computeCellFirmwareBroadcast :
    ∃ (s : State), s.mc.ready = true ∧ s.mc.fw.recovery = false ∧ s.mc.fw.ccStep = 0 ∧ s.mc.rd.cp ≠ 1 := ⟨{ mc := { ready := true } }, by decide⟩

theorem w_BringUp_cellDigestReturn :
    ∃ (cell : Nat) (s : State), s.mc.fw.ccStep = 1 ∧ s.mc.fw.ccSeen.contains cell = false := ⟨0, { mc := { fw := { ccStep := 1 } } }, by decide⟩

theorem w_BringUp_cellDigestTimeout :
    ∃ (cell : Nat) (s : State), s.mc.fw.ccStep = 1 ∧ s.mc.fw.ccSeen.contains cell = false ∧ s.mc.fw.ccAt + 2 ^ 22 ≤ s.clk.mgt := ⟨0, { mc := { fw := { ccStep := 1 } }, clk := { mgt := 4194304 } }, by decide⟩

theorem w_BringUp_topologyCheck :
    ∃ (s : State), s.mc.ready = true ∧ s.settled = true := ⟨{ mc := { ready := true }, links := { mods := (List.range 24).map fun k => (k, { st := 5 }) } }, by decide⟩

theorem w_BringUp_readinessDecision :
    ∃ (s : State), s.mayDecide = true := ⟨{ mc := { ready := true, rd := { st := 2 }, decide := true } }, by decide⟩

theorem w_ResetCommands_computePartReset :
    ∃ (s : State), s.mc.rd.cp = 0 := ⟨{}, by decide⟩

theorem w_ResetCommands_computePartResetRestore :
    ∃ (s : State), s.mc.rd.cp = 1 ∧ (∀ p < 16, (s.part p).st = 0 ∧ (s.part p).flr = none) ∧ s.links.lossReset = false := ⟨{ mc := { rd := { cp := 1 } } }, by decide⟩

theorem w_ResetCommands_partitionFunctionLevelReset :
    ∃ (p : Fin 16) (s : State), s.fnExists p = true ∧ (s.part p).st ≠ 3 ∧ (s.part p).flr = none := ⟨0, { px := { vfEnable := true, numVfs := 1 } }, by decide⟩

theorem w_ResetCommands_pfFunctionLevelReset :
    ∃ (s : State), s.px.rootPort = false := ⟨{}, by decide⟩

theorem w_ResetCommands_partitionResetEnd :
    ∃ (p : Fin 16) (s : State) (a : Nat), (s.part p).flr = some a ∧ (∀ q ∈ s.reqs, q.ofReset p = false) := ⟨0, { pt := { parts := [(0, { flr := some 0 })] } }, 0, by decide⟩

theorem w_ResetCommands_hostLinkLossReset :
    ∃ (s : State), s.links.lossReset = false := ⟨{}, by decide⟩

theorem w_ResetCommands_hostLinkOutTimerExpiry :
    ∃ (s : State) (a : Nat), s.links.outFrom = some a ∧ s.links.everUp = true ∧ a + 2 ^ 20 ≤ s.clk.mgt ∧ s.links.lossReset = false := ⟨{ links := { outFrom := some 0, everUp := true }, clk := { mgt := 1048576 } }, 0, by decide⟩

theorem w_ResetCommands_hostLinkLossResetEnd :
    ∃ (s : State), s.links.lossReset = true ∧ (∀ k < 4, (s.mod k).st = 1 ∨ (s.mod k).st = 8 ∨ (s.mod k).carries = true) := ⟨{ links := { lossReset := true, mods := (List.range 4).map fun k => (k, { st := 5 }) } }, by decide⟩

theorem w_ResetCommands_portReset :
    ∃ (s : State), s.px.rootPort = false := ⟨{}, by decide⟩

theorem w_MailboxReports_mailboxGo :
    ∃ (m : Fin 17) (s : State) (head cmd : Bytes), (s.box m).busy = false ∧ head = Tab.readBytes (s.box m).ram 0x1000 32 ∧
      cmd = head ++ Tab.readBytes (s.box m).ram 0x1020 (min (fieldAt head 4 4) 16352) ∧ payloadSize cmd = some (fieldAt cmd 4 4) ∧
      allowedOn (fieldAt cmd 0 2) (boxClass m) = true ∧ fieldAt cmd 4 4 ≤ 16352 := ⟨16, { mc := { boxes := [(16, { ram := [(0x1000, 9), (0x1001, 0x0B)] })] } }, _, _, by decide, rfl, rfl, by decide, by decide, by decide⟩

theorem w_MailboxReports_mailboxBusy :
    ∃ (m : Fin 17) (s : State), (s.box m).busy = true := ⟨0, asking 0 0 [] {}, by decide⟩

theorem w_MailboxReports_mctpRequest :
    ∃ (body : Bytes) (s : State) (head cmd : Bytes), (Instr.mctpRequest body).wf = true ∧ (s.box 17).busy = false ∧
      head = Tab.readBytes (Tab.writeBytes (s.box 17).ram 0x1000 (body.take 16384)) 0x1000 32 ∧
      cmd = head ++ Tab.readBytes (Tab.writeBytes (s.box 17).ram 0x1000 (body.take 16384)) 0x1020 (min (fieldAt head 4 4) 16352) ∧
      payloadSize cmd = some (fieldAt cmd 4 4) ∧ allowedOn (fieldAt cmd 0 2) 2 = true ∧ fieldAt cmd 4 4 ≤ 16352 := ⟨[9, 0x0B] ++ zeros 30, {}, _, _, by decide, by decide, rfl, rfl, by decide, by decide, by decide⟩

theorem w_MailboxReports_sensorRead :
    ∃ (m : Fin 18) (s : State), Takes s m 0x0B02 := ⟨16, asking 16 0x0B02 [] {}, by decide⟩

theorem w_MailboxReports_unitRead :
    ∃ (m : Fin 18) (s : State) (b : Bytes), Takes s m 0x0B07 ∧ (s.box m).payload = b ∧ byteAt b 2 ≠ 0 ∧ fieldAt b 0 2 + byteAt b 2 ≤ 112 ∧ 16 ≤ m.val := ⟨16, asking 16 0x0B07 [0, 0, 1] {}, _, by decide, rfl, by decide, by decide, by decide⟩

theorem w_MailboxReports_getInfo :
    ∃ (m : Fin 18) (s : State), Takes s m 0x0B09 := ⟨17, asking 17 0x0B09 [] {}, by decide⟩

theorem w_PartitionCommands_partCreate :
    ∃ (m : Fin 18) (s : State) (b : Bytes) (c : Create), Takes s m 0x0101 ∧ (s.box m).payload = b ∧
      c = { part := byteAt b 0, tag := byteAt b 1, groups := fieldAt b 8 2, tcWays := fieldAt b 10 2, tlbWays := fieldAt b 12 2, channels := fieldAt b 16 4, modules := fieldAt b 20 4, digest := slice b 24 48, regs := (List.range 5).map fun k => (fieldAt b (72 + 4 * k) 2, byteAt b (74 + 4 * k)) } ∧
      s.createOk c = true ∧ s.mc.mode ≠ 1 ∧ s.mc.rd.st = 2 := ⟨16, asking 16 0x0101 ([1, 5, 0, 0, 0, 0, 0, 0, 1, 0, 1, 0, 1, 0, 0, 0, 1] ++ zeros 55 ++ [0, 0, 8, 0, 0, 0, 8, 0, 0, 0, 8, 0, 0, 0, 8, 0, 0, 0, 8, 0]) { mc := { mode := 0, rd := { st := 2 } } }, _, _, by decide, rfl, rfl, by decide, by decide, by decide⟩

theorem w_PartitionCommands_partDestroy :
    ∃ (m : Fin 18) (s : State) (b : Bytes), Takes s m 0x0103 ∧ (s.box m).payload = b ∧ byteAt b 0 < 16 ∧ ((s.part (byteAt b 0)).st = 1 ∨ (s.part (byteAt b 0)).st = 2) := ⟨16, asking 16 0x0103 [2] { pt := { parts := [(2, { st := 1 })] } }, _, by decide, rfl, by decide, by decide⟩

theorem w_PartitionCommands_regSet :
    ∃ (m : Fin 18) (s : State) (b : Bytes), Takes s m 0x0104 ∧ (s.box m).payload = b ∧ byteAt b 0 < 16 ∧ byteAt b 1 < 5 ∧ 8 ≤ byteAt b 4 ∧ byteAt b 4 ≤ 24 ∧
      ((s.part (byteAt b 0)).st = 1 ∨ (s.part (byteAt b 0)).st = 2) := ⟨16, asking 16 0x0104 [2, 4, 1, 0, 24] { pt := { parts := [(2, { st := 1 })] } }, _, by decide, rfl, by decide, by decide, by decide, by decide, by decide⟩

theorem w_PartitionCommands_hostRangeSet :
    ∃ (m : Fin 18) (s : State) (b : Bytes), Takes s m 0x0105 ∧ (s.box m).payload = b ∧ fieldAt b 8 8 % 2 ^ 21 = 0 ∧ fieldAt b 16 8 % 2 ^ 21 = 0 := ⟨16, asking 16 0x0105 [255, 3, 1, 0] {}, _, by decide, rfl, by decide, by decide⟩

theorem w_PartitionCommands_pasidBind :
    ∃ (m : Fin 18) (s : State) (b : Bytes) (x : Nat), Takes s m 0x0106 ∧ (s.box m).payload = b ∧ x = fieldAt b 0 4 % 2 ^ 20 ∧ bit (byteAt b 5) 0 = true ∧ bit (byteAt b 5) 1 = false ∧
      byteAt b 4 < 16 ∧ (Tab.at s.pt.pasids x ≠ 0 ∨ s.pt.pasids.length < 256) := ⟨16, asking 16 0x0106 [7, 0, 0, 0, 15, 1] {}, _, _, by decide, rfl, rfl, by decide, by decide, by decide, by decide⟩

theorem w_PartitionCommands_pasidOperator :
    ∃ (m : Fin 18) (s : State) (b : Bytes) (x : Nat), Takes s m 0x0106 ∧ (s.box m).payload = b ∧ x = fieldAt b 0 4 % 2 ^ 20 ∧ bit (byteAt b 5) 0 = true ∧ bit (byteAt b 5) 1 = true ∧
      (s.pt.operatorPasid = none ∨ s.pt.operatorPasid = some x) := ⟨16, asking 16 0x0106 [7, 0, 0, 0, 0, 3] {}, _, _, by decide, rfl, rfl, by decide, by decide, .inl rfl⟩

theorem w_PartitionCommands_pasidUnbind :
    ∃ (m : Fin 18) (s : State) (b : Bytes) (x : Nat), Takes s m 0x0106 ∧ (s.box m).payload = b ∧ x = fieldAt b 0 4 % 2 ^ 20 ∧ bit (byteAt b 5) 0 = false := ⟨16, asking 16 0x0106 [7, 0, 0, 0, 15, 0] {}, _, _, by decide, rfl, rfl, by decide⟩

theorem w_PartitionCommands_pfWinBase :
    ∃ (m : Fin 18) (s : State) (b : Bytes), Takes s m 0x0107 ∧ (s.box m).payload = b ∧ fieldAt b 0 8 % 2 ^ s.px.bar2Log2 = 0 := ⟨16, asking 16 0x0107 [] {}, _, by decide, rfl, by decide⟩

theorem w_PartitionCommands_vfWinBase :
    ∃ (m : Fin 18) (s : State) (b : Bytes), Takes s m 0x0108 ∧ (s.box m).payload = b ∧ byteAt b 0 < 16 ∧ fieldAt b 8 8 % 2 ^ 32 = 0 ∧ fieldAt b 8 8 < 2 ^ 41 := ⟨16, asking 16 0x0108 [15, 0, 0, 0, 0, 0, 0, 0, 0, 0, 0, 0, 1] {}, _, by decide, rfl, by decide, by decide, by decide⟩

theorem w_PartitionCommands_sharedRegister :
    ∃ (m : Fin 18) (s : State) (b : Bytes) (n base org dig : Nat), Takes s m 0x0109 ∧ (s.box m).payload = b ∧ byteAt b 0 < 64 ∧ n = fieldAt b 4 4 ∧ base = fieldAt b 8 8 ∧ org = fieldAt b 16 8 ∧ dig = fieldAt b 24 8 ∧
      0 < n ∧ n ≤ 2 ^ 20 ∧ base % 2 ^ 21 = 0 ∧ org % 2 ^ 21 = 0 ∧ base + n * 2 ^ 21 ≤ 2 ^ 49 ∧ org + n * 2 ^ 21 ≤ 2 ^ 49 ∧ s.rangesCover base (base + n * 2 ^ 21) = true ∧
      s.ownedOverlap org (org + n * 2 ^ 21) = false ∧ s.ownedOverlap dig (dig + 48 * n) = false ∧ s.sharedOverlap (byteAt b 0) org (org + n * 2 ^ 21) = false ∧
      (org + n * 2 ^ 21 ≤ base ∨ base + n * 2 ^ 21 ≤ org) := ⟨16, asking 16 0x0109 [63, 0, 0, 0, 1, 0, 0, 0, 0, 0, 0, 0, 0, 0, 0, 0, 0, 0, 0x20] { pt := { ranges := [(0, { valid := true, limit := 2097152 })] } }, _, 1, 0, 2097152, 0, by decide, rfl, by decide, by decide, by decide, by decide, by decide, by decide, by decide, by decide, by decide, by decide, by decide, by decide, by decide, by decide, by decide, by decide⟩

theorem w_PartitionCommands_sharedRemove :
    ∃ (m : Fin 18) (s : State) (b : Bytes), Takes s m 0x0109 ∧ (s.box m).payload = b ∧ byteAt b 0 < 64 ∧ fieldAt b 4 4 = 0 := ⟨16, asking 16 0x0109 [63] {}, _, by decide, rfl, by decide, by decide⟩

theorem w_PartitionCommands_rpAssign :
    ∃ (m : Fin 18) (s : State) (b : Bytes) (rid : Nat), Takes s m 0x010A ∧ (s.box m).payload = b ∧ fieldAt b 0 2 ≤ rid ∧ rid ≤ fieldAt b 2 2 ∧ bit (byteAt b 5) 0 = true ∧ byteAt b 4 < 16 := ⟨16, asking 16 0x010A [3, 0, 5, 0, 15, 1] {}, _, 5, by decide, rfl, by decide, by decide, by decide, by decide⟩

theorem w_PartitionCommands_rpUnassign :
    ∃ (m : Fin 18) (s : State) (b : Bytes) (rid : Nat), Takes s m 0x010A ∧ (s.box m).payload = b ∧ fieldAt b 0 2 ≤ rid ∧ rid ≤ fieldAt b 2 2 ∧ bit (byteAt b 5) 0 = false := ⟨16, asking 16 0x010A [3, 0, 5, 0, 15, 0] {}, _, 5, by decide, rfl, by decide, by decide, by decide⟩

theorem w_QueuePlacement_asidBind :
    ∃ (m : Fin 18) (s : State) (b : Bytes), Takes s m 0x0201 ∧ (s.box m).payload = b ∧ localAsid m (fieldAt b 0 2) = true ∧ bit (byteAt b 3) 0 = true ∧
      (byteAt b 2 = 48 ∨ byteAt b 2 = 57) ∧ fieldAt b 8 8 % 4096 = 0 ∧ fieldAt b 8 8 < 2 ^ 49 ∧ (Tab.at s.xl.asids (fieldAt b 0 2)).bound = false := ⟨1, asking 1 0x0201 [127, 0, 57, 1] { pt := { parts := [(1, { st := 1 })] } }, _, by decide, rfl, by decide, by decide, by decide, by decide, by decide, by decide⟩

theorem w_QueuePlacement_asidRebind :
    ∃ (m : Fin 18) (s : State) (b : Bytes), Takes s m 0x0201 ∧ (s.box m).payload = b ∧ localAsid m (fieldAt b 0 2) = true ∧
      (bit (byteAt b 3) 0 = true → (byteAt b 2 = 48 ∨ byteAt b 2 = 57) ∧ fieldAt b 8 8 % 4096 = 0 ∧ fieldAt b 8 8 < 2 ^ 49) ∧ (Tab.at s.xl.asids (fieldAt b 0 2)).bound = true ∧
      s.invPending m < 8 ∧ (s.invq m).waiting = [] ∧ (s.invq m).st ≠ 4 := ⟨1, asking 1 0x0201 [127, 0, 57, 1] { pt := { parts := [(1, { st := 1 })] }, xl := { asids := [(127, { bound := true })] } }, _, by decide, rfl, by decide, by decide, by decide, by decide, by decide, by decide⟩

theorem w_QueuePlacement_invqPlace :
    ∃ (m : Fin 18) (s : State) (b : Bytes), Takes s m 0x0202 ∧ (s.box m).payload = b ∧ 8 ≤ byteAt b 0 ∧ byteAt b 0 ≤ 12 ∧ fieldAt b 8 8 % 4096 = 0 ∧
      s.inReadable m (fieldAt b 8 8) (32 * 2 ^ byteAt b 0) = true ∧ s.invPending m = 0 := ⟨1, asking 1 0x0202 [12] { pt := { parts := [(1, { st := 1 })], ranges := [(0, { valid := true, limit := 2097152, mask := 2 })] } }, _, by decide, rfl, by decide, by decide, by decide, by decide, by decide⟩

theorem w_QueuePlacement_invalidate :
    ∃ (m : Fin 18) (s : State) (b : Bytes) (p : Nat), Takes s m 0x0204 ∧ (s.box m).payload = b ∧ p = (if m.val = 16 then byteAt b 0 else m) ∧ p < 16 ∧
      (invKind p (slice b 8 32)).isSome = true ∧ (s.part p).st ≠ 3 ∧ Tab.at s.xl.binds m = none ∧ s.invPending p < 8 ∧ (s.invq p).waiting = [] ∧ (s.invq p).st ≠ 4 := ⟨16, asking 16 0x0204 [15, 0, 0, 0, 0, 0, 0, 0, 3] {}, _, 15, by decide, rfl, by decide, by decide, by decide, by decide, by decide, by decide, by decide, by decide⟩

theorem w_QueuePlacement_invalidateWaits :
    ∃ (m : Fin 18) (s : State) (b : Bytes) (p : Nat), Takes s m 0x0204 ∧ (s.box m).payload = b ∧ p = (if m.val = 16 then byteAt b 0 else m) ∧ p < 16 ∧
      (invKind p (slice b 8 32)).isSome = true ∧ (s.part p).st ≠ 3 ∧ 8 ≤ s.invPending p := ⟨16, asking 16 0x0204 [15, 0, 0, 0, 0, 0, 0, 0, 3] { xl := { invals := List.replicate 8 { part := 15 } } }, _, 15, by decide, rfl, by decide, by decide, by decide, by decide, by decide⟩

theorem w_QueuePlacement_fqPlace :
    ∃ (m : Fin 18) (s : State) (b : Bytes), Takes s m 0x0301 ∧ (s.box m).payload = b ∧ fieldAt b 0 8 % 4096 = 0 ∧ s.inQualifying m (fieldAt b 0 8) 131072 = true ∧
      (∀ e ∈ s.qc.park, e.2.valid = false ∨ e.2.part ≠ m) := ⟨1, asking 1 0x0301 [] { pt := { parts := [(1, { st := 1 })], ranges := [(0, { valid := true, we := true, limit := 2097152, mask := 2 })] } }, _, by decide, rfl, by decide, by decide, by decide⟩

theorem w_QueuePlacement_faultTimeout :
    ∃ (m : Fin 18) (s : State) (b : Bytes), Takes s m 0x0302 ∧ (s.box m).payload = b ∧ 1048576 ≤ fieldAt b 0 8 ∧ fieldAt b 0 8 ≤ 68719476736 := ⟨1, asking 1 0x0302 [0, 0, 16] { pt := { parts := [(1, { st := 1 })] } }, _, by decide, rfl, by decide, by decide⟩

theorem w_RingCommands_ringEnable :
    ∃ (m : Fin 18) (s : State) (b : Bytes) (r : Nat), Takes s m 0x0402 ∧ (s.box m).payload = b ∧ s.globalRing m (fieldAt b 0 2) = some r ∧ (s.ring r).configured = true ∧
      fieldAt b 2 2 < (s.ring r).size ∧ (s.ring r).st = 0 := ⟨1, asking 1 0x0402 [255, 3, 63] { pt := { parts := [(1, { st := 1, groups := 4 })] }, qc := { rings := [(3071, { configured := true })] } }, _, 3071, by decide, rfl, by decide, by decide, by decide, by decide⟩

theorem w_RingCommands_ringDisable :
    ∃ (m : Fin 18) (s : State) (b : Bytes) (r : Nat), Takes s m 0x0403 ∧ (s.box m).payload = b ∧ s.globalRing m (fieldAt b 0 2) = some r ∧ (s.ring r).st ≠ 0 ∧ (s.ring r).st ≠ 6 ∧ (s.ring r).tc ≠ 2 := ⟨1, asking 1 0x0403 [] { pt := { parts := [(1, { st := 1, groups := 4 })] }, qc := { rings := [(2048, { st := 2 })] } }, _, 2048, by decide, rfl, by decide, by decide, by decide, by decide⟩

theorem w_RingCommands_ringDrained :
    ∃ (m : Fin 18) (s : State) (b : Bytes) (r : Nat), Takes s m 0x0403 ∧ (s.box m).payload = b ∧ s.globalRing m (fieldAt b 0 2) = some r ∧ (s.ring r).st = 0 := ⟨1, asking 1 0x0403 [] { pt := { parts := [(1, { st := 1, groups := 4 })] } }, _, 2048, by decide, rfl, by decide, by decide⟩

theorem w_RingCommands_cqPlace :
    ∃ (m : Fin 18) (s : State) (b : Bytes), Takes s m 0x0404 ∧ (s.box m).payload = b ∧ 6 ≤ byteAt b 1 ∧ byteAt b 1 ≤ 16 ∧ (fieldAt b 2 2 < 512 ∨ fieldAt b 2 2 = 65535) ∧
      fieldAt b 8 8 % 4096 = 0 ∧ fieldAt b 16 8 % 8 = 0 ∧ s.inQualifying m (fieldAt b 8 8) (32 * 2 ^ byteAt b 1) = true ∧ s.inQualifying m (fieldAt b 16 8) 8 = true ∧
      (∀ r ∈ s.ringsOf m, (s.ring r).st = 0 ∨ (s.ring r).cq ≠ byteAt b 0) := ⟨1, asking 1 0x0404 [255, 16, 255, 255] { pt := { parts := [(1, { st := 1 })], ranges := [(0, { valid := true, we := true, limit := 2097152, mask := 2 })] } }, _, by decide, rfl, by decide, by decide, by decide, by decide, by decide, by decide, by decide, by decide⟩

theorem w_RingCommands_counterArea :
    ∃ (m : Fin 18) (s : State) (b : Bytes), Takes s m 0x0405 ∧ (s.box m).payload = b ∧ 6 ≤ byteAt b 0 ∧ byteAt b 0 ≤ 16 ∧ fieldAt b 8 8 % 4096 = 0 ∧
      s.inQualifying m (fieldAt b 8 8) (8 * 2 ^ byteAt b 0) = true ∧ (∀ r ∈ s.ringsOf m, ∀ w ∈ (s.ring r).works, dCounterEn w.raw = false) := ⟨1, asking 1 0x0405 [16] { pt := { parts := [(1, { st := 1 })], ranges := [(0, { valid := true, we := true, limit := 2097152, mask := 2 })] } }, _, by decide, rfl, by decide, by decide, by decide, by decide, by decide⟩

theorem w_RingCommands_counterAreaHbm :
    ∃ (m : Fin 18) (s : State) (b : Bytes) (base last : Nat), Takes s m 0x0405 ∧ (s.box m).payload = b ∧ 6 ≤ byteAt b 0 ∧ byteAt b 0 ≤ 16 ∧ base = fieldAt b 8 8 ∧ base % 4096 = 0 ∧
      last = base + 8 * 2 ^ byteAt b 0 - 1 ∧ dieOf base = s.dieId ∧ dieOf last = s.dieId ∧ bits (offOf base) 45 2 = 0 ∧ s.populated (offOf last) = true ∧
      (∀ c < 32, s.chanOf (offOf base) ≤ c → c ≤ s.chanOf (offOf last) → s.chanOwner c = some m.val) ∧ (∀ r ∈ s.ringsOf m, ∀ w ∈ (s.ring r).works, dCounterEn w.raw = false) := ⟨1, asking 1 0x0405 [6, 0, 0, 0, 0, 0, 0, 0, 0, 0, 0, 0, 0, 0, 2] { pt := { mapValid := true, chSizeLog2 := 34, parts := [(1, { st := 1 })], channels := [(0, 2)] } }, _, 562949953421312, 562949953421823, by decide, rfl, by decide, by decide, by decide, by decide, by decide, by decide, by decide, by decide, by decide, by decide, by decide⟩

theorem w_RingCommands_chordQueue :
    ∃ (m : Fin 18) (s : State) (b : Bytes), Takes s m 0x0406 ∧ (s.box m).payload = b ∧ 4 ≤ byteAt b 0 ∧ byteAt b 0 ≤ 10 ∧ fieldAt b 8 8 % 4096 = 0 ∧
      s.inQualifying m (fieldAt b 8 8) (2048 * 2 ^ byteAt b 0) = true ∧ (∀ i ∈ chordSlots m, (s.chord i).st = 0) := ⟨1, asking 1 0x0406 [10] { pt := { parts := [(1, { st := 1 })], ranges := [(0, { valid := true, we := true, limit := 2097152, mask := 2 })] } }, _, by decide, rfl, by decide, by decide, by decide, by decide, by decide⟩

theorem w_KeysAndPrograms_windowSet :
    ∃ (m : Fin 18) (s : State) (b : Bytes) (w : Window), Takes s m 0x0501 ∧ (s.box m).payload = b ∧ byteAt b 0 < 64 ∧
      w = (if bit (byteAt b 1) 2 = true then { part := m, apOff := fieldAt b 8 8, sizeLog2 := byteAt b 2, target := fieldAt b 16 8, re := bit (byteAt b 1) 0, we := bit (byteAt b 1) 1, valid := true } else {}) ∧
      (bit (byteAt b 1) 2 = true → 21 ≤ byteAt b 2 ∧ byteAt b 2 ≤ 41 ∧ fieldAt b 8 8 + 2 ^ byteAt b 2 ≤ 2199023255552 ∧ s.windowsOk (Tab.put s.pt.windows (64 * m + byteAt b 0) w) = true) := ⟨1, asking 1 0x0501 [63, 7, 21] { pt := { mapValid := true, chSizeLog2 := 34, parts := [(1, { st := 1 })], channels := [(0, 2)] } }, _, _, by decide, rfl, by decide, rfl, by decide⟩

theorem w_KeysAndPrograms_keySwitch :
    ∃ (m : Fin 18) (s : State) (b : Bytes), Takes s m 0x0601 ∧ (s.box m).payload = b ∧ byteAt b 0 < 2 ∧ byteAt b 1 < 2 ∧ ((s.part m).slot (byteAt b 1)).st = .loaded := ⟨1, asking 1 0x0601 [1, 1] { pt := { parts := [(1, { st := 1, slot1 := { st := .loaded } })] } }, _, by decide, rfl, by decide, by decide, by decide⟩

theorem w_KeysAndPrograms_rekey :
    ∃ (m : Fin 18) (s : State) (b : Bytes) (items : List RekeyItem), Takes s m 0x0602 ∧ (s.box m).payload = b ∧
      items = ((List.range (byteAt b 1)).map fun i => { asid := fieldAt (slice b (8 + 24 * i) 24) 0 2, va := fieldAt (slice b (8 + 24 * i) 24) 8 8, len := fieldAt (slice b (8 + 24 * i) 24) 16 8 }) ∧
      s.rekeyOk m (byteAt b 0) items = true := ⟨1, asking 1 0x0602 [1, 1, 0, 0, 0, 0, 0, 0, 64] { pt := { parts := [(1, { st := 1, slot1 := { st := .loaded } })] } }, _, _, by decide, rfl, rfl, by decide⟩

theorem w_KeysAndPrograms_unwrap :
    ∃ (m : Fin 18) (s : State) (b h : Bytes) (e : Nat × DeviceSet), Takes s m 0x0603 ∧ (s.box m).payload = b ∧ localAsid m (fieldAt b 0 2) = true ∧ fieldAt h 0 4 = 0x4B50574B ∧ fieldAt h 4 2 = 1 ∧
      0 < fieldAt h 128 8 ∧ fieldAt h 128 8 ≤ 1099511627776 ∧ ((s.part m).sets.find? fun e => e.2.valid && e.2.setId == slice h 8 16 && e.2.digest == slice h 24 48) = some e := ⟨1, asking 1 0x0603 [64] { pt := { parts := [(1, { st := 2, sets := [(0, { valid := true, setId := zeros 16, digest := zeros 48 })] })] } }, _, [0x4B, 0x57, 0x50, 0x4B, 1, 0] ++ zeros 122 ++ [1] ++ zeros 127, (0, { valid := true, setId := zeros 16, digest := zeros 48 }), by decide, rfl, by decide, by decide, by decide, by decide, by decide, by decide⟩

theorem w_KeysAndPrograms_unwrapDone :
    ∃ (m : Fin 16) (s : State) (u : Unwrap), Tab.at s.mc.unwraps m = u ∧ u.live = true ∧ ((s.part m).st = 1 ∨ (s.part m).st = 2) := ⟨1, { mc := { unwraps := [(1, { live := true })] }, pt := { parts := [(1, { st := 2 })] } }, _, rfl, by decide, by decide⟩

theorem w_KeysAndPrograms_programLoad :
    ∃ (m : Fin 18) (s : State) (b : Bytes), Takes s m 0x0604 ∧ (s.box m).payload = b ∧ localAsid m (fieldAt b 0 2) = true := ⟨1, asking 1 0x0604 [127] { pt := { parts := [(1, { st := 2 })] } }, _, by decide, rfl, by decide⟩

theorem w_KeysAndPrograms_schedLoad :
    ∃ (m : Fin 18) (s : State) (b : Bytes) (l : List (Nat × Nat)), Takes s m 0x0701 ∧ (s.box m).payload = b ∧ byteAt b 0 < 4 ∧ 1 ≤ byteAt b 1 ∧ byteAt b 1 ≤ 64 ∧
      l = ((List.range (byteAt b 1)).map fun i => (fieldAt b (8 + 8 * i + 4) 4, fieldAt b (8 + 8 * i) 4)) ∧ strictlyRising l = true := ⟨1, asking 1 0x0701 ([3, 2, 0, 0, 0, 0, 0, 0, 0, 0, 0, 63, 0, 0, 0, 0, 0, 0, 128, 63, 9, 0, 0, 0]) { pt := { parts := [(1, { st := 1 })] } }, _, _, by decide, rfl, by decide, by decide, by decide, rfl, by decide⟩

theorem w_KeysAndPrograms_tcFlush :
    ∃ (m : Fin 18) (s : State), Takes s m 0x0703 := ⟨1, asking 1 0x0703 [] { pt := { parts := [(1, { st := 1 })] } }, by decide⟩

theorem w_KeysAndPrograms_vectorSet :
    ∃ (m : Fin 18) (s : State) (b : Bytes), Takes s m 0x0801 ∧ (s.box m).payload = b ∧ fieldAt b 0 2 < 512 ∧ byteAt b 2 < 2 ∧ fieldAt b 8 8 % 4 = 0 ∧ fieldAt b 8 8 < 562949953421312 ∧
      (s.px.rootPort = true → byteAt b 2 ≠ 0) := ⟨16, asking 16 0x0801 [255, 1] {}, _, by decide, rfl, by decide, by decide, by decide, by decide, by decide⟩

theorem w_KeysAndPrograms_tallyCommit :
    ∃ (m : Fin 18) (s : State), Takes s m 0x0901 := ⟨16, asking 16 0x0901 [] {}, by decide⟩

theorem w_KeysAndPrograms_replicaOwner :
    ∃ (m : Fin 18) (s : State) (b : Bytes) (x : ReplicaSet), Takes s m 0x0702 ∧ (s.box m).payload = b ∧ byteAt b 0 < 8 ∧ byteAt b 1 = 0 ∧
      x = { valid := true, member := false, asid := fieldAt b 2 2, fmt := byteAt b 4, mx := byteAt b 5 == 1, sr := byteAt b 6 == 1, ownerDie := byteAt b 7, wcopy := fieldAt b 8 8 % 2 ^ 57, fprint := fieldAt b 16 8 % 2 ^ 57, n := fieldAt b 24 8, master := fieldAt b 32 8 % 2 ^ 57, masterFmt := byteAt b 40, mask := fieldAt b 41 2, seed := fieldAt b 48 8, table := fieldAt b 56 8, note := fieldAt b 64 8 } ∧
      localAsid m x.asid = true ∧ 1 ≤ x.n ∧ x.n ≤ 2 ^ 36 ∧ byteAt b 5 < 2 ∧ byteAt b 6 < 2 ∧ wcFmtOk x.fmt x.mx = true ∧
      (∀ e ∈ s.rk.sets, e.1 / 8 = m.val → e.1 ≠ 8 * m + byteAt b 0 → e.2.valid = true → e.2.wcopy ≠ x.wcopy) ∧
      bit x.mask (s.dieId - 4) = false ∧ (∀ i ∈ maskBits 16 x.mask, s.reported (4 + i) = true) ∧ (x.masterFmt = 0 ∨ x.masterFmt = 10) ∧
      x.table % 16 = 0 ∧ s.inReadable m x.table 256 = true ∧ x.note % 32 = 0 ∧ s.inQualifying m x.note 32 = true ∧
      (∀ e ∈ s.rk.queue, e.1 / 64 = m.val → e.2.valid = true → e.2.set ≠ byteAt b 0) := ⟨1, asking 1 0x0702 ([7, 0, 64, 0, 1] ++ zeros 19 ++ [1]) { pt := { parts := [(1, { st := 2 })], ranges := [(0, { valid := true, we := true, limit := 2097152, mask := 2 })] } }, _, _, by decide, rfl, by decide, by decide, rfl, by decide, by decide, by decide, by decide, by decide, by decide, by decide, by decide, by decide, by decide, by decide, by decide, by decide, by decide, by decide⟩

theorem w_KeysAndPrograms_replicaMember :
    ∃ (m : Fin 18) (s : State) (b : Bytes) (x : ReplicaSet), Takes s m 0x0702 ∧ (s.box m).payload = b ∧ byteAt b 0 < 8 ∧ byteAt b 1 = 1 ∧
      x = { valid := true, member := true, asid := fieldAt b 2 2, fmt := byteAt b 4, mx := byteAt b 5 == 1, sr := byteAt b 6 == 1, ownerDie := byteAt b 7, wcopy := fieldAt b 8 8 % 2 ^ 57, fprint := fieldAt b 16 8 % 2 ^ 57, n := fieldAt b 24 8, master := fieldAt b 32 8 % 2 ^ 57, masterFmt := byteAt b 40, mask := fieldAt b 41 2, seed := fieldAt b 48 8, table := fieldAt b 56 8, note := fieldAt b 64 8 } ∧
      localAsid m x.asid = true ∧ 1 ≤ x.n ∧ x.n ≤ 2 ^ 36 ∧ byteAt b 5 < 2 ∧ byteAt b 6 < 2 ∧ wcFmtOk x.fmt x.mx = true ∧
      (∀ e ∈ s.rk.sets, e.1 / 8 = m.val → e.1 ≠ 8 * m + byteAt b 0 → e.2.valid = true → e.2.wcopy ≠ x.wcopy) ∧ 4 ≤ x.ownerDie ∧ x.ownerDie < 20 ∧
      (∀ e ∈ s.rk.queue, e.1 / 64 = m.val → e.2.valid = true → e.2.set ≠ byteAt b 0) := ⟨1, asking 1 0x0702 ([7, 1, 64, 0, 1, 0, 0, 19] ++ zeros 16 ++ [1]) { pt := { parts := [(1, { st := 2 })] } }, _, _, by decide, rfl, by decide, by decide, rfl, by decide, by decide, by decide, by decide, by decide, by decide, by decide, by decide, by decide, by decide⟩

theorem w_KeysAndPrograms_replicaRemove :
    ∃ (m : Fin 18) (s : State) (b : Bytes), Takes s m 0x0702 ∧ (s.box m).payload = b ∧ byteAt b 0 < 8 ∧ byteAt b 1 = 2 ∧
      (∀ e ∈ s.rk.queue, e.1 / 64 = m.val → e.2.valid = true → e.2.set ≠ byteAt b 0) := ⟨1, asking 1 0x0702 [7, 2] { pt := { parts := [(1, { st := 2 })] } }, _, by decide, rfl, by decide, by decide, by decide⟩

theorem w_ModulesAndFirmware_moduleRetrain :
    ∃ (m : Fin 18) (s : State) (b : Bytes), Takes s m 0x0A01 ∧ (s.box m).payload = b ∧ byteAt b 0 < 24 ∧ (s.mod (byteAt b 0)).st ≠ 0 ∧ (s.mod (byteAt b 0)).st ≠ 1 := ⟨16, asking 16 0x0A01 [23] { links := { mods := [(23, { st := 5 })] } }, _, by decide, rfl, by decide, by decide, by decide⟩

theorem w_ModulesAndFirmware_rpConfig :
    ∃ (m : Fin 18) (s : State) (b : Bytes), Takes s m 0x0A02 ∧ (s.box m).payload = b ∧ fieldAt b 2 2 % 4 = 0 ∧ fieldAt b 2 2 < 4096 ∧ byteAt b 4 < 2 ∧
      (byteAt b 5 = 1 ∨ byteAt b 5 = 2 ∨ byteAt b 5 = 4) ∧ s.px.rootPort = true ∧ (m.val < 16 → s.assignedTo (fieldAt b 0 2) = some m.val) ∧ s.px.frozen = false ∧ s.px.rpNow = none ∧ s.px.rpWait = [] := ⟨1, asking 1 0x0A02 [5, 0, 252, 15, 1, 4] { pt := { parts := [(1, { st := 1 })] }, px := { rootPort := true, assigns := [{ first := 5, last := 5, part := 1 }] } }, _, by decide, rfl, by decide, by decide, by decide, by decide, by decide, by decide, by decide, by decide, by decide⟩

theorem w_ModulesAndFirmware_rpMemory :
    ∃ (m : Fin 18) (s : State) (b : Bytes), Takes s m 0x0A03 ∧ (s.box m).payload = b ∧ byteAt b 2 < 2 ∧ 1 ≤ byteAt b 3 ∧ byteAt b 3 ≤ 8 ∧
      s.px.rootPort = true ∧ (m.val < 16 → s.assignedTo (fieldAt b 0 2) = some m.val) ∧ s.px.frozen = false ∧ s.px.rpNow = none ∧ s.px.rpWait = [] := ⟨16, asking 16 0x0A03 [5, 0, 1, 8] { px := { rootPort := true } }, _, by decide, rfl, by decide, by decide, by decide, by decide, by decide, by decide, by decide, by decide⟩

theorem w_ModulesAndFirmware_testLoopback :
    ∃ (m : Fin 18) (s : State) (b : Bytes), Takes s m 0x0A04 ∧ (s.box m).payload = b ∧ byteAt b 0 < 4 ∧ byteAt b 1 < 2 ∧ s.mc.mode ≠ 0 := ⟨16, asking 16 0x0A04 [3, 1] { mc := { mode := 2 } }, _, by decide, rfl, by decide, by decide, by decide⟩

theorem w_ModulesAndFirmware_fwStage :
    ∃ (m : Fin 18) (s : State) (b : Bytes) (n : Nat), Takes s m 0x0B03 ∧ (s.box m).payload = b ∧ n = fieldAt b 4 4 ∧ 1 ≤ n ∧ n ≤ 8192 ∧ fieldAt b 0 4 = 0 := ⟨17, asking 17 0x0B03 [0, 0, 0, 0, 0, 32] {}, _, _, by decide, rfl, rfl, by decide, by decide, by decide⟩

theorem w_ModulesAndFirmware_fwStageMore :
    ∃ (m : Fin 18) (s : State) (b : Bytes) (o n : Nat), Takes s m 0x0B03 ∧ (s.box m).payload = b ∧ n = fieldAt b 4 4 ∧ o = fieldAt b 0 4 ∧ 1 ≤ n ∧ n ≤ 8192 ∧ o ≠ 0 ∧ o + n ≤ 4194304 ∧
      s.mc.fw.owner = some m.val := ⟨17, asking 17 0x0B03 [0, 224, 63, 0, 0, 32] { mc := { fw := { owner := some 17 } } }, _, _, _, by decide, rfl, rfl, rfl, by decide, by decide, by decide, by decide, by decide⟩

theorem w_ModulesAndFirmware_fwVerify :
    ∃ (m : Fin 18) (s : State), Takes s m 0x0B04 ∧ s.mc.fw.owner = some m.val := ⟨16, asking 16 0x0B04 [] { mc := { fw := { owner := some 16 } } }, by decide⟩

theorem w_ModulesAndFirmware_fwActivate :
    ∃ (m : Fin 18) (s : State) (b : Bytes) (up : Bool), Takes s m 0x0B05 ∧ (s.box m).payload = b ∧ s.mc.fw.owner = some m.val ∧ s.mc.fw.verified = true ∧
      up = (bit (byteAt b 0) 0 && decide (s.mc.fw.svnMin < mSvn (Tab.readBytes s.mc.fw.staged 0 352))) ∧ (up = true → s.mc.fw.raises < 32) := ⟨16, asking 16 0x0B05 [1] { mc := { fw := { owner := some 16, verified := true, staged := [(8, 1)], raises := 31 } } }, _, _, by decide, rfl, by decide, by decide, rfl, by decide⟩

theorem w_ModulesAndFirmware_unitAdmit :
    ∃ (m : Fin 18) (s : State) (b : Bytes) (u : Nat), Takes s m 0x0B06 ∧ (s.box m).payload = b ∧ u = fieldAt b 0 2 ∧ realUnit u = true ∧ byteAt b 2 < 4 ∧
      (byteAt b 2 = 3 ∨ (s.unit u).mcAdmit < byteAt b 2) := ⟨16, asking 16 0x0B06 [111, 0, 3] {}, _, 111, by decide, rfl, by decide, by decide, by decide, by decide⟩

theorem w_ModulesAndFirmware_unitLower :
    ∃ (m : Fin 18) (s : State) (b : Bytes) (u : Nat), Takes s m 0x0B06 ∧ (s.box m).payload = b ∧ u = fieldAt b 0 2 ∧ realUnit u = true ∧ byteAt b 2 < 3 ∧
      byteAt b 2 ≤ (s.unit u).mcAdmit ∧ fieldAt b 4 2 ≠ (s.unit u).epoch := ⟨16, asking 16 0x0B06 [5, 0, 0, 0, 9] {}, _, 5, by decide, rfl, by decide, by decide, by decide, by decide, by decide⟩

theorem w_ModulesAndFirmware_modeSet :
    ∃ (m : Fin 18) (s : State) (b : Bytes), Takes s m 0x0B08 ∧ (s.box m).payload = b ∧ byteAt b 0 < 4 ∧ (∀ p < 16, (s.part p).st = 0) ∧
      (byteAt b 0 = 2 → s.ec.testMode = true) ∧ (byteAt b 0 = 0 → s.mc.rd.st = 2) := ⟨16, asking 16 0x0B08 [3] {}, _, by decide, rfl, by decide, by decide, by decide, by decide⟩

/-! ## Each command of the frames answers a next state -/

theorem w_TranslationFrames :
    (∃ t, exec (.chordHeaderFetch 0) State.reset = .next t) ∧
    (∃ t, exec (.chordHeaderReturn 0 (.ok [])) State.reset = .next t) ∧
    (∃ t, exec (.chordBackoffExpiry 0) State.reset = .next t) ∧
    (∃ t, exec (.chordTake 0 []) State.reset = .next t) ∧
    (∃ t, exec (.chordCommit 0) State.reset = .next t) ∧
    (∃ t, exec (.chordTimeout 0) State.reset = .next t) ∧
    (∃ t, exec (.chordStatusWrite 0) State.reset = .next t) ∧
    (∃ t, exec (.chordOwnClear 0 .ok) State.reset = .next t) ∧
    (∃ t, exec (.chordNoteWrite 0 .ok) State.reset = .next t) ∧
    (∃ t, exec (.walkStart 0) State.reset = .next t) ∧
    (∃ t, exec (.walkReadReturn 0 (.ok [])) State.reset = .next t) ∧
    (∃ t, exec (.walkReadTimeout 0) State.reset = .next t) ∧
    (∃ t, exec (.adUpdateOwnedReadReturn 0 (.ok [])) State.reset = .next t) ∧
    (∃ t, exec (.invalidationEntryFetch 0) State.reset = .next t) ∧
    (∃ t, exec (.invalidationEntryReturn 0 (.ok [])) State.reset = .next t) ∧
    (∃ t, exec (.invalidationRefetchBackoffExpiry 0) State.reset = .next t) ∧
    (∃ t, exec (.invalidationCut 0) State.reset = .next t) ∧
    (∃ t, exec (.invalidationAcknowledge 0) State.reset = .next t) ∧
    (∃ t, exec (.invalidationDrainLimitExpiry 0) State.reset = .next t) :=
  ⟨⟨_, rfl⟩, ⟨_, rfl⟩, ⟨_, rfl⟩, ⟨_, rfl⟩, ⟨_, rfl⟩, ⟨_, rfl⟩, ⟨_, rfl⟩, ⟨_, rfl⟩, ⟨_, rfl⟩, ⟨_, rfl⟩, ⟨_, rfl⟩, ⟨_, rfl⟩, ⟨_, rfl⟩, ⟨_, rfl⟩, ⟨_, rfl⟩, ⟨_, rfl⟩, ⟨_, rfl⟩, ⟨_, rfl⟩, ⟨_, rfl⟩⟩

theorem w_KeyFrames :
    (∃ t, exec (.errorLatch { source := 1, cls := 1 }) State.reset = .next t) ∧
    (∃ t, exec (.graceExpiry 0) State.reset = .next t) ∧
    (∃ t, exec (.ecStatusClear 0) State.reset = .next t) ∧
    (∃ t, exec (.quietExpiry 0) State.reset = .next t) ∧
    (∃ t, exec (.ecInject 0) State.reset = .next t) ∧
    (∃ t, exec .aliveToggle State.reset = .next t) ∧
    (∃ t, exec .reconcilePass State.reset = .next t) ∧
    (∃ t, exec (.registerWrite none 0 0 0) State.reset = .next t) ∧
    (∃ t, exec (.scrubQuiesceEnd 0) State.reset = .next t) ∧
    (∃ t, exec (.scrubZeroEnd 0) State.reset = .next t) ∧
    (∃ t, exec (.scrubCloseEnd 0) State.reset = .next t) ∧
    (∃ t, exec (.rekeyPageLock 0 none) State.reset = .next t) ∧
    (∃ t, exec (.rekeyPagePushesDone 0 []) State.reset = .next t) ∧
    (∃ t, exec (.rekeyPageUnlock 0) State.reset = .next t) ∧
    (∃ t, exec (.hbmPassEnd 0) State.reset = .next t) ∧
    (∃ t, exec (.keySlotRetire 0 0) State.reset = .next t) ∧
    (∃ t, exec (.hbmChannelSizeReport 0) State.reset = .next t) ∧
    (∃ t, exec (.spdmRequest false none .version []) State.reset = .next t) ∧
    (∃ t, exec (.claim 0 []) State.reset = .next t) ∧
    (∃ t, exec (.keyLoad 0 []) State.reset = .next t) ∧
    (∃ t, exec (.setProvision 0 []) State.reset = .next t) ∧
    (∃ t, exec (.setRevoke 0 []) State.reset = .next t) ∧
    (∃ t, exec (.release 0 []) State.reset = .next t) :=
  ⟨(by unfold exec; dsimp only; unfold Sys2Proof.Machine.execErrorLatch checked; exact ⟨_, if_pos (by decide)⟩), ⟨_, rfl⟩, ⟨_, rfl⟩, ⟨_, rfl⟩, ⟨_, rfl⟩, ⟨_, rfl⟩, ⟨_, rfl⟩, ⟨_, rfl⟩, ⟨_, rfl⟩, ⟨_, rfl⟩, ⟨_, rfl⟩, ⟨_, rfl⟩, ⟨_, rfl⟩, ⟨_, rfl⟩, ⟨_, rfl⟩, ⟨_, rfl⟩, ⟨_, rfl⟩, ⟨_, rfl⟩, ⟨_, rfl⟩, ⟨_, rfl⟩, ⟨_, rfl⟩, ⟨_, rfl⟩, ⟨_, rfl⟩⟩

theorem w_LinkFrames :
    (∃ t, exec (.sidebandUp 0) State.reset = .next t) ∧
    (∃ t, exec (.mainbandTrained 0 0 0) State.reset = .next t) ∧
    (∃ t, exec (.paramFlitReceive 0 (zeros 256)) State.reset = .next t) ∧
    (∃ t, exec (.trainingLimitExpiry 0) State.reset = .next t) ∧
    (∃ t, exec (.retrainComplete 4 32 32 (zeros 256)) State.reset = .next t) ∧
    (∃ t, exec (.payloadFlitReceive 0 (zeros 256)) State.reset = .next t) ∧
    (∃ t, exec (.flitCrcError 0 (zeros 256)) State.reset = .next t) ∧
    (∃ t, exec (.nakRepeatExpiry 0) State.reset = .next t) ∧
    (∃ t, exec (.nakReceive 0 (zeros 256)) State.reset = .next t) ∧
    (∃ t, exec (.replayTimeout 0) State.reset = .next t) ∧
    (∃ t, exec (.respFlitReceive 0 (zeros 256)) State.reset = .next t) ∧
    (∃ t, exec (.inboundWriteAck 0 .ok) State.reset = .next t) ∧
    (∃ t, exec (.messageTimeout 0) State.reset = .next t) ∧
    (∃ t, exec (.testFlitReceive 0 (zeros 256)) State.reset = .next t) ∧
    (∃ t, exec (.linkLowPowerEntry 0) State.reset = .next t) ∧
    (∃ t, exec (.linkLowPowerExit 0) State.reset = .next t) ∧
    (∃ t, exec (.tgCtrlWrite 0 0) State.reset = .next t) ∧
    (∃ t, exec (.testFlitGenerate 0) State.reset = .next t) ∧
    (∃ t, exec (.idleFlitReceive 0 (zeros 256)) State.reset = .next t) ∧
    (∃ t, exec (.outOfOrderFlit 0 (zeros 256)) State.reset = .next t) :=
  ⟨⟨_, rfl⟩, ⟨_, rfl⟩, (by unfold exec; dsimp only; unfold Sys2Proof.Machine.execParamFlitReceive checked; exact ⟨_, if_pos (by exact beq_iff_eq.mpr (zeros_length 256))⟩), ⟨_, rfl⟩, (by unfold exec; dsimp only; unfold Sys2Proof.Machine.execRetrainComplete checked; exact ⟨_, if_pos (by exact beq_iff_eq.mpr (zeros_length 256))⟩), (by unfold exec; dsimp only; unfold Sys2Proof.Machine.execPayloadFlitReceive checked; exact ⟨_, if_pos (by exact beq_iff_eq.mpr (zeros_length 256))⟩), (by unfold exec; dsimp only; unfold Sys2Proof.Machine.execFlitCrcError checked; exact ⟨_, if_pos (by exact beq_iff_eq.mpr (zeros_length 256))⟩), ⟨_, rfl⟩, (by unfold exec; dsimp only; unfold Sys2Proof.Machine.execNakReceive checked; exact ⟨_, if_pos (by exact beq_iff_eq.mpr (zeros_length 256))⟩), ⟨_, rfl⟩, (by unfold exec; dsimp only; unfold Sys2Proof.Machine.execRespFlitReceive checked; exact ⟨_, if_pos (by exact beq_iff_eq.mpr (zeros_length 256))⟩), ⟨_, rfl⟩, ⟨_, rfl⟩, (by unfold exec; dsimp only; unfold Sys2Proof.Machine.execTestFlitReceive checked; exact ⟨_, if_pos (by exact beq_iff_eq.mpr (zeros_length 256))⟩), ⟨_, rfl⟩, ⟨_, rfl⟩, ⟨_, rfl⟩, ⟨_, rfl⟩, (by unfold exec; dsimp only; unfold Sys2Proof.Machine.execIdleFlitReceive checked; exact ⟨_, if_pos (by exact beq_iff_eq.mpr (zeros_length 256))⟩), (by unfold exec; dsimp only; unfold Sys2Proof.Machine.execOutOfOrderFlit checked; exact ⟨_, if_pos (by exact beq_iff_eq.mpr (zeros_length 256))⟩)⟩

theorem w_MailboxFrames :
    (∃ t, exec (.mailboxGo 0) State.reset = .next t) ∧
    (∃ t, exec (.mctpRequest (zeros 32)) State.reset = .next t) ∧
    (∃ t, exec (.i3cAddressAssign 0) State.reset = .next t) ∧
    (∃ t, exec (.partCreate 0) State.reset = .next t) ∧
    (∃ t, exec (.partActivate 0) State.reset = .next t) ∧
    (∃ t, exec (.partDestroy 0) State.reset = .next t) ∧
    (∃ t, exec (.regSet 0) State.reset = .next t) ∧
    (∃ t, exec (.hostRangeSet 0) State.reset = .next t) ∧
    (∃ t, exec (.pasidBind 0) State.reset = .next t) ∧
    (∃ t, exec (.pfWinBase 0) State.reset = .next t) ∧
    (∃ t, exec (.vfWinBase 0) State.reset = .next t) ∧
    (∃ t, exec (.sharedRegister 0) State.reset = .next t) ∧
    (∃ t, exec (.rpAssign 0) State.reset = .next t) ∧
    (∃ t, exec (.asidBind 0) State.reset = .next t) ∧
    (∃ t, exec (.invqPlace 0) State.reset = .next t) ∧
    (∃ t, exec (.drainLimit 0) State.reset = .next t) ∧
    (∃ t, exec (.invalidate 0) State.reset = .next t) ∧
    (∃ t, exec (.fqPlace 0) State.reset = .next t) ∧
    (∃ t, exec (.faultTimeout 0) State.reset = .next t) ∧
    (∃ t, exec (.ringConfigure 0) State.reset = .next t) ∧
    (∃ t, exec (.ringEnable 0) State.reset = .next t) ∧
    (∃ t, exec (.ringDisable 0) State.reset = .next t) ∧
    (∃ t, exec (.cqPlace 0) State.reset = .next t) ∧
    (∃ t, exec (.counterArea 0) State.reset = .next t) ∧
    (∃ t, exec (.chordQueue 0) State.reset = .next t) ∧
    (∃ t, exec (.windowSet 0) State.reset = .next t) ∧
    (∃ t, exec (.keySwitch 0) State.reset = .next t) ∧
    (∃ t, exec (.rekey 0) State.reset = .next t) ∧
    (∃ t, exec (.unwrap 0 none) State.reset = .next t) ∧
    (∃ t, exec (.unwrapDone 0 []) State.reset = .next t) ∧
    (∃ t, exec (.programLoad 0 none) State.reset = .next t) ∧
    (∃ t, exec (.schedLoad 0) State.reset = .next t) ∧
    (∃ t, exec (.replicaSet 0) State.reset = .next t) ∧
    (∃ t, exec (.tcFlush 0) State.reset = .next t) ∧
    (∃ t, exec (.vectorSet 0) State.reset = .next t) ∧
    (∃ t, exec (.tallyCommit 0) State.reset = .next t) ∧
    (∃ t, exec (.moduleRetrain 0) State.reset = .next t) ∧
    (∃ t, exec (.rpConfig 0) State.reset = .next t) ∧
    (∃ t, exec (.rpMemory 0) State.reset = .next t) ∧
    (∃ t, exec (.testLoopback 0) State.reset = .next t) ∧
    (∃ t, exec (.eventRead 0) State.reset = .next t) ∧
    (∃ t, exec (.sensorRead 0) State.reset = .next t) ∧
    (∃ t, exec (.fwStage 0) State.reset = .next t) ∧
    (∃ t, exec (.fwVerify 0) State.reset = .next t) ∧
    (∃ t, exec (.fwActivate 0) State.reset = .next t) ∧
    (∃ t, exec (.unitAdmit 0) State.reset = .next t) ∧
    (∃ t, exec (.unitRead 0) State.reset = .next t) ∧
    (∃ t, exec (.modeSet 0) State.reset = .next t) ∧
    (∃ t, exec (.getInfo 0) State.reset = .next t) :=
  ⟨⟨_, rfl⟩, (by unfold exec; dsimp only; unfold Sys2Proof.Machine.execMctpRequest checked; exact ⟨_, if_pos (by simp only [Instr.wf, zeros_length]; decide)⟩), ⟨_, rfl⟩, ⟨_, rfl⟩, ⟨_, rfl⟩, ⟨_, rfl⟩, ⟨_, rfl⟩, ⟨_, rfl⟩, ⟨_, rfl⟩, ⟨_, rfl⟩, ⟨_, rfl⟩, ⟨_, rfl⟩, ⟨_, rfl⟩, ⟨_, rfl⟩, ⟨_, rfl⟩, ⟨_, rfl⟩, ⟨_, rfl⟩, ⟨_, rfl⟩, ⟨_, rfl⟩, ⟨_, rfl⟩, ⟨_, rfl⟩, ⟨_, rfl⟩, ⟨_, rfl⟩, ⟨_, rfl⟩, ⟨_, rfl⟩, ⟨_, rfl⟩, ⟨_, rfl⟩, ⟨_, rfl⟩, ⟨_, rfl⟩, ⟨_, rfl⟩, ⟨_, rfl⟩, ⟨_, rfl⟩, ⟨_, rfl⟩, ⟨_, rfl⟩, ⟨_, rfl⟩, ⟨_, rfl⟩, ⟨_, rfl⟩, ⟨_, rfl⟩, ⟨_, rfl⟩, ⟨_, rfl⟩, ⟨_, rfl⟩, ⟨_, rfl⟩, ⟨_, rfl⟩, ⟨_, rfl⟩, ⟨_, rfl⟩, ⟨_, rfl⟩, ⟨_, rfl⟩, ⟨_, rfl⟩, ⟨_, rfl⟩⟩

theorem w_PortFrames :
    (∃ t, exec (.cxlIoPostedWrite none 0 [0]) State.reset = .next t) ∧
    (∃ t, exec (.cxlIoRead none 0 0 4 true) State.reset = .next t) ∧
    (∃ t, exec (.pcieMemoryRequest .read 0 0 0 4 false [] []) State.reset = .next t) ∧
    (∃ t, exec (.pcieConfigRequest 0 0 0 none) State.reset = .next t) ∧
    (∃ t, exec (.aerErrorDetected true 0 []) State.reset = .next t) ∧
    (∃ t, exec .dlDown State.reset = .next t) ∧
    (∃ t, exec (.dlUpInsert 16 6) State.reset = .next t) ∧
    (∃ t, exec .capoRelease State.reset = .next t) ∧
    (∃ t, exec .capoSoftwareTrigger State.reset = .next t) ∧
    (∃ t, exec (.capoInsertHoldWrite false) State.reset = .next t) ∧
    (∃ t, exec (.barResize 0) State.reset = .next t) ∧
    (∃ t, exec (.msixPendingSend 0 0) State.reset = .next t) ∧
    (∃ t, exec .l0pEntry State.reset = .next t) ∧
    (∃ t, exec .l0pRestore State.reset = .next t) ∧
    (∃ t, exec .aspmL1Entry State.reset = .next t) ∧
    (∃ t, exec (.errMessageReceived 0 0) State.reset = .next t) ∧
    (∃ t, exec (.deviceInterruptWrite 0 0 0) State.reset = .next t) ∧
    (∃ t, exec (.rpRequestCompletion .timeout) State.reset = .next t) ∧
    (∃ t, exec (.pcieLinkUp 16 6) State.reset = .next t) ∧
    (∃ t, exec (.cxlIoConfigurationRequest 0 0 none) State.reset = .next t) :=
  ⟨(by unfold exec; dsimp only; unfold Sys2Proof.Machine.execCxlIoPostedWrite checked; exact ⟨_, if_pos (by decide)⟩), (by unfold exec; dsimp only; unfold Sys2Proof.Machine.execCxlIoRead checked; exact ⟨_, if_pos (by decide)⟩), (by unfold exec; dsimp only; unfold Sys2Proof.Machine.execPcieMemoryRequest checked; exact ⟨_, if_pos (by simp [Instr.wf])⟩), ⟨_, rfl⟩, ⟨_, rfl⟩, ⟨_, rfl⟩, (by unfold exec; dsimp only; unfold Sys2Proof.Machine.execDlUpInsert checked; exact ⟨_, if_pos (by decide)⟩), ⟨_, rfl⟩, ⟨_, rfl⟩, ⟨_, rfl⟩, ⟨_, rfl⟩, ⟨_, rfl⟩, ⟨_, rfl⟩, ⟨_, rfl⟩, ⟨_, rfl⟩, ⟨_, rfl⟩, ⟨_, rfl⟩, ⟨_, rfl⟩, (by unfold exec; dsimp only; unfold Sys2Proof.Machine.execPcieLinkUp checked; exact ⟨_, if_pos (by decide)⟩), ⟨_, rfl⟩⟩

theorem w_CountFrames :
    (∃ t, exec .powerWarn State.reset = .next t) ∧
    (∃ t, exec (.powerWarnWaitExpiry false) State.reset = .next t) ∧
    (∃ t, exec (.clockMonitorLoss false) State.reset = .next t) ∧
    (∃ t, exec (.sensorSample (List.replicate 8 0)) State.reset = .next t) ∧
    (∃ t, exec .ckArrStepDone State.reset = .next t) ∧
    (∃ t, exec .ckArrStepTimeout State.reset = .next t) ∧
    (∃ t, exec (.mcPwrCtrlWrite 0) State.reset = .next t) ∧
    (∃ t, exec .arrFreqMaxStepDown State.reset = .next t) ∧
    (∃ t, exec (.romBoot { manifest := zeros 352, digest := zeros 48 } { manifest := zeros 352, digest := zeros 48 }) State.reset = .next t) ∧
    (∃ t, exec (.computeCellFirmwareBroadcast []) State.reset = .next t) ∧
    (∃ t, exec (.cellDigestReturn 0 []) State.reset = .next t) ∧
    (∃ t, exec (.cellDigestTimeout 0) State.reset = .next t) ∧
    (∃ t, exec .topologyCheck State.reset = .next t) ∧
    (∃ t, exec .readinessDecision State.reset = .next t) ∧
    (∃ t, exec .computePartReset State.reset = .next t) ∧
    (∃ t, exec .computePartResetRestore State.reset = .next t) ∧
    (∃ t, exec (.partitionFunctionLevelReset 0) State.reset = .next t) ∧
    (∃ t, exec .pfFunctionLevelReset State.reset = .next t) ∧
    (∃ t, exec (.partitionResetEnd 0) State.reset = .next t) ∧
    (∃ t, exec (.hostLinkLossReset false) State.reset = .next t) ∧
    (∃ t, exec .hostLinkOutTimerExpiry State.reset = .next t) ∧
    (∃ t, exec .hostLinkLossResetEnd State.reset = .next t) ∧
    (∃ t, exec (.portReset false) State.reset = .next t) ∧
    (∃ t, exec (.accumulatorAgeExpiry 0 0) State.reset = .next t) ∧
    (∃ t, exec .countPulseTake State.reset = .next t) ∧
    (∃ t, exec .lifetimePulse State.reset = .next t) ∧
    (∃ t, exec .markPulse State.reset = .next t) ∧
    (∃ t, exec .tallyRecordCommit State.reset = .next t) ∧
    (∃ t, exec .tallyRecordStored State.reset = .next t) ∧
    (∃ t, exec (.tyRecSelectWrite 0) State.reset = .next t) ∧
    (∃ t, exec .tyCommitWrite State.reset = .next t) :=
  ⟨⟨_, rfl⟩, ⟨_, rfl⟩, ⟨_, rfl⟩, (by unfold exec; dsimp only; unfold Sys2Proof.Machine.execSensorSample checked; exact ⟨_, if_pos (by simp [Instr.wf])⟩), ⟨_, rfl⟩, ⟨_, rfl⟩, ⟨_, rfl⟩, ⟨_, rfl⟩, (by unfold exec; dsimp only; unfold Sys2Proof.Machine.execRomBoot checked; exact ⟨_, if_pos (by simp only [Instr.wf, bankShape, zeros_length]; decide)⟩), ⟨_, rfl⟩, ⟨_, rfl⟩, ⟨_, rfl⟩, ⟨_, rfl⟩, ⟨_, rfl⟩, ⟨_, rfl⟩, ⟨_, rfl⟩, ⟨_, rfl⟩, ⟨_, rfl⟩, ⟨_, rfl⟩, ⟨_, rfl⟩, ⟨_, rfl⟩, ⟨_, rfl⟩, ⟨_, rfl⟩, ⟨_, rfl⟩, ⟨_, rfl⟩, ⟨_, rfl⟩, ⟨_, rfl⟩, ⟨_, rfl⟩, ⟨_, rfl⟩, ⟨_, rfl⟩, ⟨_, rfl⟩⟩

theorem w_ReckonerFrames :
    (∃ t, exec (.updateDescriptorPass 0) State.reset = .next t) ∧
    (∃ t, exec (.normTableRead 0) State.reset = .next t) ∧
    (∃ t, exec (.normTableReturn 0 (.ok [])) State.reset = .next t) ∧
    (∃ t, exec (.normWaitLimitExpiry 0) State.reset = .next t) ∧
    (∃ t, exec (.jobStart 0) State.reset = .next t) ∧
    (∃ t, exec (.tileReadsComplete 0) State.reset = .next t) ∧
    (∃ t, exec (.tileWritesAcked 0) State.reset = .next t) ∧
    (∃ t, exec (.fingerprintWrite 0 0) State.reset = .next t) ∧
    (∃ t, exec (.jobPark 0) State.reset = .next t) ∧
    (∃ t, exec (.jobReturn 0) State.reset = .next t) ∧
    (∃ t, exec (.arrayChunkStart 0 0) State.reset = .next t) ∧
    (∃ t, exec .arrayTileFinish State.reset = .next t) ∧
    (∃ t, exec .outputPathTile State.reset = .next t) ∧
    (∃ t, exec (.replicaReportSend 0) State.reset = .next t) ∧
    (∃ t, exec (.repairJobStart 0) State.reset = .next t) ∧
    (∃ t, exec (.repairFingerprintCheck 0) State.reset = .next t) ∧
    (∃ t, exec (.repairMemberWrite 0) State.reset = .next t) ∧
    (∃ t, exec (.repairFingerprintWrite 0) State.reset = .next t) ∧
    (∃ t, exec (.repairNoteWrite 0) State.reset = .next t) ∧
    (∃ t, exec .sharedRepairOpen State.reset = .next t) ∧
    (∃ t, exec (.sharedRepairOriginDone 0 none) State.reset = .next t) ∧
    (∃ t, exec (.sharedRepairClose 0) State.reset = .next t) ∧
    (∃ t, exec (.sharedRepairTimeout 0) State.reset = .next t) :=
  ⟨⟨_, rfl⟩, ⟨_, rfl⟩, ⟨_, rfl⟩, ⟨_, rfl⟩, ⟨_, rfl⟩, ⟨_, rfl⟩, ⟨_, rfl⟩, ⟨_, rfl⟩, ⟨_, rfl⟩, ⟨_, rfl⟩, ⟨_, rfl⟩, ⟨_, rfl⟩, ⟨_, rfl⟩, ⟨_, rfl⟩, ⟨_, rfl⟩, ⟨_, rfl⟩, ⟨_, rfl⟩, ⟨_, rfl⟩, ⟨_, rfl⟩, ⟨_, rfl⟩, ⟨_, rfl⟩, ⟨_, rfl⟩, ⟨_, rfl⟩⟩

theorem w_RingFrames :
    (∃ t, exec (.ringDoorbell 0 0 0) State.reset = .next t) ∧
    (∃ t, exec (.stagedDoorbell 0 0 0) State.reset = .next t) ∧
    (∃ t, exec (.invalidationDoorbell 0 0) State.reset = .next t) ∧
    (∃ t, exec (.chordDoorbell 0 0) State.reset = .next t) ∧
    (∃ t, exec (.doorbellPageBadWrite 0 4 4) State.reset = .next t) ∧
    (∃ t, exec (.faultResponseConsume 0 0) State.reset = .next t) ∧
    (∃ t, exec (.faultResponseResume 0 0) State.reset = .next t) ∧
    (∃ t, exec (.faultResponseAbort 0 0) State.reset = .next t) ∧
    (∃ t, exec (.descriptorFetch 0) State.reset = .next t) ∧
    (∃ t, exec (.descriptorFetchReturn 0 (.ok [])) State.reset = .next t) ∧
    (∃ t, exec (.descriptorRefetchBackoffExpiry 0) State.reset = .next t) ∧
    (∃ t, exec (.descriptorStart 0) State.reset = .next t) ∧
    (∃ t, exec (.requestIssue (.cellRead 0 0)) State.reset = .next t) ∧
    (∃ t, exec (.dataReadReturn 0 (.ok [])) State.reset = .next t) ∧
    (∃ t, exec (.dataWriteAck 0 .ok) State.reset = .next t) ∧
    (∃ t, exec (.requestTimeout 0) State.reset = .next t) ∧
    (∃ t, exec (.flagWriteIssue 0) State.reset = .next t) ∧
    (∃ t, exec (.statusBlockWrite 0) State.reset = .next t) ∧
    (∃ t, exec (.ownClearWrite 0 .ok) State.reset = .next t) ∧
    (∃ t, exec (.completionEntryWrite 0 .ok) State.reset = .next t) ∧
    (∃ t, exec (.completionEntryAck 0 .ok) State.reset = .next t) ∧
    (∃ t, exec (.consumerWordPoll 0) State.reset = .next t) ∧
    (∃ t, exec (.consumerWordReturn 0 (.ok [])) State.reset = .next t) ∧
    (∃ t, exec (.wcEntryIdleFlush 0) State.reset = .next t) ∧
    (∃ t, exec (.tierCacheFillReturn 0 (.ok [])) State.reset = .next t) ∧
    (∃ t, exec (.hostSnoop 0 0 false) State.reset = .next t) ∧
    (∃ t, exec (.parkDrainComplete 0) State.reset = .next t) ∧
    (∃ t, exec (.faultRecordAck 0 0 .ok) State.reset = .next t) ∧
    (∃ t, exec (.parkTimerExpiry 0) State.reset = .next t) ∧
    (∃ t, exec (.ringDrainComplete 0) State.reset = .next t) :=
  ⟨⟨_, rfl⟩, ⟨_, rfl⟩, ⟨_, rfl⟩, ⟨_, rfl⟩, (by unfold exec; dsimp only; unfold Sys2Proof.Machine.execDoorbellPageBadWrite checked; exact ⟨_, if_pos (by decide)⟩), ⟨_, rfl⟩, ⟨_, rfl⟩, ⟨_, rfl⟩, ⟨_, rfl⟩, ⟨_, rfl⟩, ⟨_, rfl⟩, ⟨_, rfl⟩, ⟨_, rfl⟩, ⟨_, rfl⟩, ⟨_, rfl⟩, ⟨_, rfl⟩, ⟨_, rfl⟩, ⟨_, rfl⟩, ⟨_, rfl⟩, ⟨_, rfl⟩, ⟨_, rfl⟩, ⟨_, rfl⟩, ⟨_, rfl⟩, ⟨_, rfl⟩, ⟨_, rfl⟩, ⟨_, rfl⟩, ⟨_, rfl⟩, ⟨_, rfl⟩, ⟨_, rfl⟩, ⟨_, rfl⟩⟩
end

section
/-! SUPPORT. What one command may make of the fixed part of the state (`State.fixed` of Safety.lean): nothing, or what `Fixed.Life` allows. -/

namespace Sys2Proof.Machine

/-- The commands that may change the fixed part of the state: cold reset, those that move a partition along an arrow of R351 or change
its keys, those that add to Tally's sums, and the one that raises the minimum SVN. -/
def movesFixed : Instr → Bool
  | .coldReset .. | .partCreate .. | .partActivate .. | .partDestroy .. | .scrubZeroEnd .. | .scrubCloseEnd .. | .keySlotRetire .. => true
  | .computePartReset | .computePartResetRestore | .spdmRequest .. | .claim .. | .keyLoad .. | .setProvision .. | .setRevoke .. => true
  | .release .. | .fwActivate .. | .countPulseTake | .lifetimePulse => true
  | _ => false

theorem eq_of_next {u t : State} (h : (.next u : Result) = .next t) : u = t := Host.Outcome.next.inj h

theorem eq_of_checked {i : Instr} {name : String} {u t : State} (h : checked i name u = .next t) : u = t := by
  unfold checked at h
  split at h
  · exact eq_of_next h
  · cases h

/-- Every other command leaves the fixed part alone: the operation it runs has that frame law (Laws/Frame*). -/
theorem exec_fixed {i : Instr} {s t : State} (hi : movesFixed i = false) (h : exec i s = .next t) : t.fixed = s.fixed := by
  cases i
  case coldReset | partCreate | partActivate | partDestroy | scrubZeroEnd | scrubCloseEnd | keySlotRetire | computePartReset
      | computePartResetRestore | spdmRequest | claim | keyLoad | setProvision | setRevoke | release | fwActivate | countPulseTake
      | lifetimePulse => cases hi
  -- the commands that refuse ill-formed operands
  case romBoot | sensorSample | doorbellPageBadWrite | paramFlitReceive | retrainComplete | payloadFlitReceive | flitCrcError
      | nakReceive | respFlitReceive | testFlitReceive | idleFlitReceive | outOfOrderFlit | cxlIoPostedWrite | cxlIoRead
      | pcieMemoryRequest | dlUpInsert | pcieLinkUp | mctpRequest | errorLatch =>
    rw [← eq_of_checked h]
    simp
  all_goals
    rw [← eq_of_next h]
    simp

/-- No command but cold reset takes the fixed part outside `Fixed.Life`. -/
theorem exec_life {i : Instr} {s t : State} (hc : ∀ x, i ≠ .coldReset x) (h : exec i s = .next t) : Fixed.Life s.fixed t.fixed := by
  cases hm : movesFixed i
  case false => exact Life.of_eq (exec_fixed hm h)
  cases i
  case coldReset x => exact absurd rfl (hc x)
  case partCreate m => exact eq_of_next h ▸ Life.cmdCreate s m
  case partActivate m => exact eq_of_next h ▸ Life.cmdActivate s m
  case partDestroy m => exact eq_of_next h ▸ Life.cmdDestroy s m
  case scrubZeroEnd p => exact eq_of_next h ▸ Life.zeroEnd s p
  case scrubCloseEnd p => exact eq_of_next h ▸ Life.closeEnd s p
  case keySlotRetire p g => exact eq_of_next h ▸ Life.retireSlot s p g
  case computePartReset => exact eq_of_next h ▸ Life.computeReset s
  case computePartResetRestore => exact eq_of_next h ▸ Life.computeRestore s
  case spdmRequest doe session code body => exact eq_of_next h ▸ Life.spdmRequest s doe session code body
  case claim n b | keyLoad n b | setProvision n b | setRevoke n b | release n b => exact eq_of_next h ▸ Life.tenantRequest s n b
  case fwActivate m => exact eq_of_next h ▸ Life.cmdFwActivate s m
  case countPulseTake => exact eq_of_next h ▸ Life.takePulse s
  case lifetimePulse => exact eq_of_next h ▸ Life.takeLifetime s
  all_goals cases hm

/-- Cold reset samples the position straps (R2, R437). -/
theorem coldReset_pos (s : State) (x : Straps) : (s.coldReset x).pos = x.pos.val :=
  congrArg Fixed.pos (State.coldReset_fixed s x)

/-- The die ID is a function of the position straps (R2), which `Fixed.Life` keeps. -/
theorem dieId_of_life {s t : State} (h : Fixed.Life s.fixed t.fixed) : t.dieId = s.dieId :=
  congrArg (4 + ·) h.pos

/-- Settles O2: cold reset samples the straps, and every other command stays within `Fixed.Life`, which keeps them. -/
theorem dieIdentity : Obligations.DieIdentity := by
  unfold Obligations.DieIdentity
  exact ⟨fun x s => ⟨s.coldReset x, rfl, congrArg (4 + ·) (coldReset_pos s x)⟩, fun _ _ _ hc h => dieId_of_life (exec_life hc h)⟩

end Sys2Proof.Machine
end

section
/-! SUPPORT. The drain limit of invalidations (R70): what reaching it reports, what setting it takes, and its value after a cold reset. -/

namespace Sys2Proof.Machine

/-! ## Reaching the limit -/

/-- A pending invalidation once the limit of invalidation `id` has been reported (R70). -/
def Inval.reported (id : Nat) (x : Inval) : Inval := if x.id = id then { x with limitHit := true } else x

@[simp] theorem Inval.reported_id (id : Nat) (x : Inval) : (x.reported id).id = x.id := by
  unfold Inval.reported
  split <;> rfl

theorem Inval.reported_limitHit {id : Nat} {x : Inval} (h : x.id = id) : (x.reported id).limitHit = true := by
  unfold Inval.reported
  rw [if_pos h]

/-- The pending invalidations once the limit of invalidation `id` has been reported. -/
def State.markLimit (s : State) (id : Nat) : State :=
  { s with xl := { s.xl with invals := s.xl.invals.map (Inval.reported id) } }

/-- A limit reached for the first time: the invalidation is marked, the error recorded and DRAIN_HIT set, and nothing else happens. -/
theorem drainLimit_of_reached {s : State} {id : Nat} {i : Inval} (hi : (s.xl.invals.find? fun i => i.id == id) = some i)
    (hh : i.limitHit = false) (hl : i.cut + (s.invq i.part).drainLimit ≤ s.clk.fab) :
    s.drainLimit id = ((s.markLimit id).xlError 5 i.part 0 i.va).modInvq i.part fun q => { q with drainHit := true } := by
  unfold State.drainLimit
  rw [hi]
  dsimp only
  rw [if_neg (by simpa [hh] using hl)]
  rfl

/-- Reporting a limit leaves the same invalidations waiting. -/
theorem markLimit_ids (s : State) (id : Nat) : (s.markLimit id).xl.invals.map Inval.id = s.xl.invals.map Inval.id := by
  simp [State.markLimit, Function.comp_def]

/-- Once its limit is reported, no invalidation of that number is left to report. -/
theorem markLimit_limitHit {s : State} {id : Nat} {x : Inval} (hx : x ∈ (s.markLimit id).xl.invals) (h : x.id = id) : x.limitHit = true := by
  obtain ⟨y, -, rfl⟩ := List.mem_map.mp hx
  exact Inval.reported_limitHit (by simpa using h)

/-- An invalidation with spans still to drain is not acknowledged (R68, R70). -/
theorem ackInval_of_waits {s : State} {id : Nat} {i : Inval} (hi : (s.xl.invals.find? fun i => i.id == id) = some i) (hw : i.waits ≠ []) :
    s.ackInval id = s := by
  unfold State.ackInval
  rw [hi]
  dsimp only
  rw [if_pos (by simp [hw])]

/-! ## Setting the limit -/

/-- A command that is not good answers MALFORMED. -/
theorem okIf_bad (s t : State) (m : Nat) (g : Bool) (h : g = false) : s.okIf m g t = s.malformed m := by
  unfold State.okIf
  rw [h, if_neg Bool.false_ne_true]

theorem malformed_answers (s : State) (m : Nat) : Answers (s.malformed m) m 1 0 := respond_answers ..

theorem malformed_xl (s : State) (m : Nat) : (s.malformed m).xl = s.xl := xl_eq (by simp)

theorem ok_invq (s : State) (m p : Nat) : (s.ok m).invq p = s.invq p := by
  unfold State.invq
  rw [ok_xl]

theorem cmdDrainLimit_of_in_range {s : State} {m : Nat} (ht : Takes s m 0x0203) (h1 : 65536 ≤ fieldAt (s.box m).payload 0 4)
    (h2 : fieldAt (s.box m).payload 0 4 ≤ 2147483648) :
    s.cmdDrainLimit m = ((s.taking m).modInvq m fun q => { q with drainLimit := fieldAt (s.box m).payload 0 4 }).ok m :=
  (command_taken ht _).trans (okIf_good _ _ _ _ (by simp [h1, h2]))

theorem cmdDrainLimit_of_out_of_range {s : State} {m : Nat} (ht : Takes s m 0x0203)
    (h : fieldAt (s.box m).payload 0 4 < 65536 ∨ 2147483648 < fieldAt (s.box m).payload 0 4) :
    s.cmdDrainLimit m = (s.taking m).malformed m :=
  (command_taken ht _).trans (okIf_bad _ _ _ _ (by simp; omega))

/-! ## Cold reset -/

/-- A cold reset returns XL to its reset values (R438): what follows the fresh state touches unit words and error lines only. -/
theorem coldReset_xl (s : State) (x : Straps) : (s.coldReset x).xl = {} := by
  unfold State.coldReset
  dsimp only
  split
  · exact xl_eq (each_hide _ _ _ _ fun _ _ => by simp)
  · exact (report_xl ..).trans (xl_eq (each_hide _ _ _ _ fun _ _ => by simp))

/-- The drain limit is 2^24 after a cold reset (R70). -/
theorem coldReset_drainLimit (s : State) (x : Straps) (p : Nat) : ((s.coldReset x).invq p).drainLimit = 16777216 := by
  unfold State.invq
  rw [coldReset_xl]
  rfl

/-- Settles O7: the first time the limit is reached it is marked, recorded and reported while the same invalidations wait; DRAIN_LIMIT
takes effect in its range only; cold reset returns XL to its reset values. -/
theorem drainLimits : Obligations.DrainLimits := by
  unfold Obligations.DrainLimits
  refine ⟨?reached, ?inRange, ?waits, ?undrained, ?outside, ?afterReset⟩
  case reached =>
    intro id s i hi hh hl
    refine ⟨_, rfl, ?_⟩
    rw [drainLimit_of_reached hi hh hl]
    exact ⟨by simp, rfl, rfl, rfl, rfl, fun x hx h => markLimit_limitHit hx h⟩
  case inRange =>
    rintro m s b ht rfl h1 h2
    refine ⟨_, rfl, ?_⟩
    rw [cmdDrainLimit_of_in_range ht h1 h2]
    exact ⟨ok_answers .., by rw [ok_invq]; simp⟩
  case waits =>
    intro id s i hi hh hl
    refine ⟨_, rfl, ?_⟩
    rw [drainLimit_of_reached hi hh hl]
    exact markLimit_ids s id
  case undrained => exact fun id s i hi hw => ⟨_, rfl, ackInval_of_waits hi hw⟩
  case outside =>
    rintro m s b ht rfl h
    refine ⟨_, rfl, ?_⟩
    rw [cmdDrainLimit_of_out_of_range ht h]
    exact ⟨malformed_answers .., malformed_xl ..⟩
  case afterReset => exact fun x s => ⟨_, rfl, fun p _ => coldReset_drainLimit s x p⟩

end Sys2Proof.Machine
end

section
/-! SUPPORT. Local ring numbers (R104): the groups of a mask in rising order, and the ring that a local number names. -/

namespace Sys2Proof.Machine

theorem mem_maskBits {n mask i : Nat} : i ∈ maskBits n mask ↔ i < n ∧ bit mask i = true := by simp [maskBits]

theorem maskBits_pairwise_lt (n mask : Nat) : (maskBits n mask).Pairwise (· < ·) := List.pairwise_lt_range.filter _

/-- Local number 1024 k + r is ring r of the partition's group k (R104). -/
theorem globalRing_of_group {s : State} {p k r g : Nat} (hg : (maskBits 16 (s.part p).groups)[k]? = some g) (hr : r < 1024) :
    s.globalRing p (1024 * k + r) = some (1024 * g + r) := by
  have hdiv : (1024 * k + r) / 1024 = k := by omega
  have hmod : (1024 * k + r) % 1024 = r := by omega
  unfold State.globalRing
  rw [hdiv, hmod, hg, Option.map_some]

theorem globalRing_eq_none_of_le {s : State} {p j : Nat} (h : 1024 * (maskBits 16 (s.part p).groups).length ≤ j) :
    s.globalRing p j = none := by
  have hk : (maskBits 16 (s.part p).groups).length ≤ j / 1024 := by omega
  unfold State.globalRing
  rw [List.getElem?_eq_none hk, Option.map_none]

/-- A partition that owns group 5 alone has it as its group 0. -/
theorem first_group_of_mask_32 {s : State} {p : Nat} (h : (s.part p).groups = 32) : (maskBits 16 (s.part p).groups)[0]? = some 5 := by
  rw [h]
  decide

/-- Settles O3: the groups are the set bits of the mask in rising order, and a local number is a group index and a ring of that group. -/
theorem localRingNumbers : Obligations.LocalRingNumbers := by
  unfold Obligations.LocalRingNumbers
  refine ⟨?groups, ?named, ?unnamed, ?group5⟩
  case groups => exact fun m => ⟨maskBits_pairwise_lt 16 m, fun _ => mem_maskBits⟩
  case named => exact fun _ _ _ _ _ hg hr => globalRing_of_group hg hr
  case unnamed => exact fun _ _ _ h => globalRing_eq_none_of_le h
  case group5 =>
    intro s h
    exact ⟨globalRing_of_group (k := 0) (r := 280) (first_group_of_mask_32 h) (by decide), by decide, by decide⟩

end Sys2Proof.Machine
end

section
/-! SUPPORT. RING_CONFIGURE (R102, R103): the checks of its payload, and the ring it sets up. -/

namespace Sys2Proof.Machine

theorem malformed_qc (s : State) (m : Nat) : (s.malformed m).qc = s.qc := respond_qc ..

/-- The checks of RING_CONFIGURE on ring r with payload b: the ring is DISABLED, and its size, class, base, ASID and completion ring are
ones that partition m may give it (R102, R103). -/
def State.mayConfigure (s : State) (m r : Nat) (b : Bytes) : Bool :=
  (s.ring r).st == 0 && decide (6 ≤ byteAt b 2) && decide (byteAt b 2 ≤ 16) && decide (byteAt b 3 < 4) && fieldAt b 8 8 % 4096 == 0 &&
    s.inQualifying m (fieldAt b 8 8) (128 * 2 ^ byteAt b 2) && (bit (byteAt b 4) 0 || localAsid m (fieldAt b 6 2)) &&
    (s.cq (256 * m + byteAt b 5)).placed

theorem mayConfigure_eq_false_of_not_disabled {s : State} {m r : Nat} {b : Bytes} (h : (s.ring r).st ≠ 0) :
    s.mayConfigure m r b = false := by
  simp [State.mayConfigure, h]

/-- A ring with the configuration of payload b; only the order of its last doorbell stays. -/
def Ring.configuredBy (b : Bytes) (g : Ring) : Ring :=
  { rung := g.rung, configured := true, base := fieldAt b 8 8, sizeLog2 := byteAt b 2, tc := byteAt b 3, asid := fieldAt b 6 2
    phys := bit (byteAt b 4) 0, cq := byteAt b 5 }

/-- RING_CONFIGURE of a local number that names a ring: a failed check is malformed, physical mode needs a mode that allows it, and else
the ring takes the configuration (R24, R102, R103). -/
theorem cmdRing_of_globalRing {s : State} {m r : Nat} (ht : Takes s m 0x0401)
    (hr : s.globalRing m (fieldAt (s.box m).payload 0 2) = some r) :
    s.cmdRing m =
      if !s.mayConfigure m r (s.box m).payload then (s.taking m).malformed m
      else if bit (byteAt (s.box m).payload 4) 0 && s.mc.mode = 0 then (s.taking m).state m 5
      else ((s.taking m).modRing r (Ring.configuredBy (s.box m).payload)).ok m := by
  have hr' : (s.taking m).globalRing m (fieldAt (s.box m).payload 0 2) = some r := hr
  refine (command_taken ht _).trans ?_
  dsimp only
  rw [hr']
  rfl

theorem cmdRing_of_mayConfigure {s : State} {m r : Nat} (ht : Takes s m 0x0401)
    (hr : s.globalRing m (fieldAt (s.box m).payload 0 2) = some r) (hc : s.mayConfigure m r (s.box m).payload = true)
    (hp : bit (byteAt (s.box m).payload 4) 0 = true → s.mc.mode ≠ 0) :
    s.cmdRing m = ((s.taking m).modRing r (Ring.configuredBy (s.box m).payload)).ok m := by
  rw [cmdRing_of_globalRing ht hr, if_neg (by simp [hc]), if_neg (by simpa using hp)]

theorem cmdRing_of_not_disabled {s : State} {m r : Nat} (ht : Takes s m 0x0401)
    (hr : s.globalRing m (fieldAt (s.box m).payload 0 2) = some r) (hst : (s.ring r).st ≠ 0) :
    s.cmdRing m = (s.taking m).malformed m := by
  rw [cmdRing_of_globalRing ht hr, if_pos (by simp [mayConfigure_eq_false_of_not_disabled hst])]

/-- Settles O6: a DISABLED ring that passes the checks takes the configuration, and the first check turns away any other ring. -/
theorem ringConfiguration : Obligations.RingConfiguration := by
  unfold Obligations.RingConfiguration
  refine ⟨?disabled, ?notDisabled⟩
  case disabled =>
    rintro m s b r ht rfl hr hst hmin hmax htc hbase hrange hasid hcq hphys
    have hc : s.mayConfigure m r (s.box m).payload = true := by
      simp only [State.mayConfigure, hst, hmin, hmax, htc, hbase, hrange, hasid, hcq, beq_self_eq_true, decide_true, Bool.and_self]
    refine ⟨_, rfl, ?_⟩
    rw [cmdRing_of_mayConfigure ht hr hc hphys]
    refine ⟨ok_answers .., ?_⟩
    rw [ok_ring, modRing_ring, if_pos rfl, taking_ring]
    rfl
  case notDisabled =>
    rintro m s b r ht rfl hr hst
    refine ⟨_, rfl, ?_⟩
    rw [cmdRing_of_not_disabled ht hr hst]
    exact ⟨malformed_answers .., malformed_qc ..⟩

end Sys2Proof.Machine
end

section
/-! SUPPORT. PART_ACTIVATE (R354): the two checks of an activation, and what the command answers. -/

namespace Sys2Proof.Machine

theorem respond_part (s : State) (m r d : Nat) (b : Bytes) (p : Nat) : (s.respond m r d b).part p = s.part p := by
  unfold State.part
  rw [respond_pt]

/-- The first check of R354: the partition is CREATED and claimed. -/
theorem activate_of_not_claimed {s : State} {p : Nat} (h : (s.part p).st ≠ 1 ∨ (s.part p).claimed = false) :
    s.activate p = ((2, 1), s) :=
  if_pos (by simpa using h)

/-- The second check of R354: the slots that the partition's two scopes name are LOADED. -/
theorem activate_of_not_loaded {s : State} {p : Nat} (h : ¬((s.part p).st ≠ 1 ∨ (s.part p).claimed = false))
    (hk : ((s.part p).slot (s.part p).scope0).st ≠ .loaded ∨ ((s.part p).slot (s.part p).scope1).st ≠ .loaded) :
    s.activate p = ((2, 3), s) :=
  (if_neg (by simpa using h)).trans (if_pos (by simpa using hk))

theorem activate_of_loaded {s : State} {p : Nat} (h : ¬((s.part p).st ≠ 1 ∨ (s.part p).claimed = false))
    (hk : ¬(((s.part p).slot (s.part p).scope0).st ≠ .loaded ∨ ((s.part p).slot (s.part p).scope1).st ≠ .loaded)) :
    s.activate p = ((0, 0), s.modPart p fun x => { x with st := 2 }) :=
  (if_neg (by simpa using h)).trans (if_neg (by simpa using hk))

/-- PART_ACTIVATE of a partition number answers with the result of activating that partition. -/
theorem cmdActivate_of_activate {s u : State} {m r d : Nat} (ht : Takes s m 0x0102) (hp : byteAt (s.box m).payload 0 < 16)
    (ha : (s.taking m).activate (byteAt (s.box m).payload 0) = ((r, d), u)) : s.cmdActivate m = u.respond m r d [] := by
  refine (command_taken ht _).trans ?_
  dsimp only
  rw [if_neg (by omega), ha]

/-- Settles O4: each of the two checks answers from the state as it was, and an activation that passes both changes the one partition. -/
theorem partitionActivation : Obligations.PartitionActivation := by
  unfold Obligations.PartitionActivation
  rintro m s b x ht rfl hp rfl
  refine ⟨_, rfl, ?_⟩
  split_ifs with hclaimed hloaded
  · rw [cmdActivate_of_activate ht hp (activate_of_not_claimed hclaimed)]
    exact ⟨respond_answers .., respond_pt ..⟩
  · rw [cmdActivate_of_activate ht hp (activate_of_not_loaded hclaimed hloaded)]
    exact ⟨respond_answers .., respond_pt ..⟩
  · rw [cmdActivate_of_activate ht hp (activate_of_loaded hclaimed hloaded)]
    refine ⟨respond_answers .., ?_, fun q hq => ?_⟩
    · rw [respond_part, modPart_part_same, taking_part]
    · rw [respond_part, modPart_part, if_neg hq, taking_part]

end Sys2Proof.Machine
end

section
/-! SUPPORT. Refusals during scrub (R381): what a SCRUBBING partition's mailbox may still do, and what ending such a partition answers. -/

namespace Sys2Proof.Machine

/-! ## The mailbox of a SCRUBBING partition -/

/-- Is an opcode one of the status reads GET_INFO, EVENT_READ and UNIT_READ (R381)? -/
def IsStatusRead (op : Nat) : Prop := op = 0x0B09 ∨ op = 0x0B01 ∨ op = 0x0B07

/-- Nothing refuses a status read but firmware recovery (R381, R486). -/
theorem gate_of_statusRead {s : State} {m op : Nat} (hop : IsStatusRead op) (hr : s.mc.fw.recovery = false) : s.gate m op = none := by
  rcases hop with rfl | rfl | rfl <;> simp [State.gate, hr]

/-- With no refusal for the whole HXU, check 5 refuses every other command of a SCRUBBING partition with DETAIL 1 (R381, R486). -/
theorem gate_of_scrubbing {s : State} {m op : Nat} (hop : ¬IsStatusRead op) (hm : m < 16) (hst : (s.part m).st = 3) (hs : s.stopped = false)
    (hr : s.mc.fw.recovery = false) (hc : s.mc.rd.cp = 0) : s.gate m op = some 1 := by
  obtain ⟨h1, h2, h3⟩ : op ≠ 0x0B09 ∧ op ≠ 0x0B01 ∧ op ≠ 0x0B07 := by simpa [IsStatusRead] using hop
  simp [State.gate, hm, hst, hs, hr, hc, h1, h2, h3]

/-- A command that a check refuses answers STATE, whatever it would have done. -/
theorem command_of_gate {s : State} {m op d : Nat} (body : State → Bytes → State) (hready : s.mc.ready = true) (hnext : s.nextBox = some m)
    (hop : (s.box m).opcode = op) (hg : s.gate m op = some d) : s.command m op body = (s.taking m).respond m 2 d [] := by
  unfold State.command
  dsimp only
  rw [if_neg (by simp [hready, hnext, hop]), hg]
  rfl

/-- Taking a command and answering it touches the MC, the port and the outbox alone. -/
theorem taking_respond_same (s : State) (m r d : Nat) (b : Bytes) : Same [.mc, .px, .outbox] s ((s.taking m).respond m r d b) := by
  unfold Same State.taking
  simp

/-- The commands of a partition mailbox that are no status reads, by opcode; `h` is what UNWRAP or PROGRAM_LOAD has read. -/
def partitionCommands (h : Option Bytes) : List (Nat × (Fin 18 → Instr)) :=
  [(0x0201, .asidBind), (0x0202, .invqPlace), (0x0203, .drainLimit), (0x0204, .invalidate), (0x0301, .fqPlace), (0x0302, .faultTimeout),
    (0x0401, .ringConfigure), (0x0402, .ringEnable), (0x0403, .ringDisable), (0x0404, .cqPlace), (0x0405, .counterArea),
    (0x0406, .chordQueue), (0x0501, .windowSet), (0x0601, .keySwitch), (0x0602, .rekey), (0x0603, fun m => .unwrap m h),
    (0x0604, fun m => .programLoad m h), (0x0701, .schedLoad), (0x0702, .replicaSet), (0x0703, .tcFlush), (0x0801, .vectorSet),
    (0x0901, .tallyCommit), (0x0A02, .rpConfig), (0x0A03, .rpMemory)]

/-- Each of these commands runs as `State.command` of its opcode. -/
theorem exec_of_partitionCommand {h : Option Bytes} {e : Nat × (Fin 18 → Instr)} (he : e ∈ partitionCommands h) (m : Fin 18) (s : State) :
    ∃ body, exec (e.2 m) s = .next (s.command m e.1 body) := by
  revert e
  simp only [partitionCommands, List.forall_mem_cons, List.not_mem_nil, false_implies, implies_true, and_true]
  refine ⟨?_, ?_, ?_, ?_, ?_, ?_, ?_, ?_, ?_, ?_, ?_, ?_, ?_, ?_, ?_, ?_, ?_, ?_, ?_, ?_, ?_, ?_, ?_, ?_⟩
  all_goals exact ⟨_, rfl⟩

theorem not_isStatusRead_of_partitionCommand {h : Option Bytes} {e : Nat × (Fin 18 → Instr)} (he : e ∈ partitionCommands h) :
    ¬IsStatusRead e.1 := by
  revert e
  simp [partitionCommands, IsStatusRead]

/-! ## Ending a partition -/

/-- PART_DESTROY of a partition number: a FREE partition has nothing to destroy, a SCRUBBING one is being destroyed already, and any
other begins its scrub (R355, R381). -/
theorem cmdDestroy_eq {s : State} {m : Nat} (ht : Takes s m 0x0103) (hp : byteAt (s.box m).payload 0 < 16) :
    s.cmdDestroy m =
      if (s.part (byteAt (s.box m).payload 0)).st = 0 then (s.taking m).state m 1
      else if (s.part (byteAt (s.box m).payload 0)).st = 3 then (s.taking m).ok m
      else ((s.taking m).startScrub (byteAt (s.box m).payload 0) 1).ok m := by
  refine (command_taken ht _).trans ?_
  dsimp only
  rw [if_neg (by omega), taking_part]
  split
  next hfree => rw [if_pos hfree]
  next hscrub => rw [if_neg (by omega), if_pos hscrub]
  next hfree hscrub => rw [if_neg hfree, if_neg hscrub]

/-- The first check of R371 comes before signature and counter: the partition is CREATED or ACTIVE. -/
theorem tenantCheck_of_not_live {s : State} {p : Nat} (b : Bytes) (h1 : (s.part p).st ≠ 1) (h2 : (s.part p).st ≠ 2) :
    s.tenantCheck p b = 2 :=
  if_pos (by simp [h1, h2])

/-- A well-formed request that fails a check of R371 answers that check's RESULT and changes nothing. -/
theorem tenantRequest_of_check {s : State} {session c : Nat} {b : Bytes} (hmay : s.spdmMay = true)
    (hses : s.mc.spdm.sessions.contains session = true) (hshape : tenantShape b = true) (hcode : byteAt b 0 ≠ 1)
    (hc : s.tenantCheck (byteAt b 1 % 16) b = c + 1) : s.tenantRequest session b = s.tenantReply session (byteAt b 0) (c + 1) := by
  unfold State.tenantRequest
  dsimp only
  rw [hmay, hses, if_neg (by decide), hshape, if_neg (by decide), if_neg hcode, hc]
  rfl

/-- Settles O8: check 5 of R486 refuses what is no status read, and the commands that would end the partition find it SCRUBBING. -/
theorem scrubRefusals : Obligations.ScrubRefusals := by
  unfold Obligations.ScrubRefusals
  refine ⟨?refused, ?statusReads, ?destroyScrubbing, ?destroyFree, ?releaseScrubbing⟩
  case refused =>
    intro h e he m s hm hst hready hnext hop hs hr hc
    obtain ⟨body, hexec⟩ := exec_of_partitionCommand he m s
    have hgate := gate_of_scrubbing (not_isStatusRead_of_partitionCommand he) hm hst hs hr hc
    refine ⟨_, hexec, ?_⟩
    rw [command_of_gate body hready hnext hop hgate]
    exact ⟨respond_answers .., taking_respond_same ..⟩
  case statusReads =>
    exact fun m s op _ hop hready hnext hbox hr => ⟨hready, hnext, hbox, gate_of_statusRead hop hr⟩
  case destroyScrubbing =>
    rintro m s b ht rfl hp hst
    refine ⟨_, rfl, ?_⟩
    rw [cmdDestroy_eq ht hp, if_neg (by omega), if_pos hst]
    exact ⟨ok_answers .., taking_respond_same ..⟩
  case destroyFree =>
    rintro m s b ht rfl hp hst
    refine ⟨_, rfl, ?_⟩
    rw [cmdDestroy_eq ht hp, if_pos hst]
    exact ⟨respond_answers .., taking_respond_same ..⟩
  case releaseScrubbing =>
    intro session b s hmay hses hshape hcode hst
    refine ⟨_, rfl, ?_⟩
    rw [tenantRequest_of_check hmay hses hshape (by omega) (tenantCheck_of_not_live b (by omega) (by omega)), hcode]
    rfl

end Sys2Proof.Machine
end

section
/-! SUPPORT. EVENT_READ (R412): the records that a mailbox receives, the LOST flag, and the payload that carries both. -/

namespace Sys2Proof.Machine

/-- The records of a log that EVENT_READ from `first` returns to mailbox m: a partition's own or, for the operator and board management,
all of them, and at most `most` (R412). -/
def eventsRead (log : List EventRec) (m first most : Nat) : List EventRec :=
  (log.filter fun e => decide (first ≤ e.seq) && (decide (16 ≤ m) || e.part == some m)).take most

/-- The LOST flag: is `first` older than the oldest record of the log (R412)? -/
def lostBefore (log : List EventRec) (first : Nat) : Bool :=
  match log with
  | [] => false
  | e :: _ => decide (first < e.seq)

/-- The payload of an EVENT_READ response: COUNT, LOST, 6 reserved bytes and the records (R412). -/
def eventPayload (l : List EventRec) (lost : Nat) : Bytes :=
  leBytes 1 l.length ++ leBytes 1 lost ++ zeros 6 ++ l.flatMap fun e => e.bytes false

/-- What EVENT_READ returns is in the order of the log. -/
theorem eventsRead_sublist (log : List EventRec) (m first most : Nat) : (eventsRead log m first most).Sublist log :=
  (List.take_sublist _ _).trans List.filter_sublist

theorem b2n_lostBefore (log : List EventRec) (first : Nat) :
    b2n (lostBefore log first) = match log with | [] => 0 | e :: _ => if first < e.seq then 1 else 0 := by
  cases log with
  | nil => rfl
  | cons e _ => simp [lostBefore, b2n]

/-- A record is 32 bytes (R408). -/
theorem EventRec.bytes_length (e : EventRec) (phase : Bool) : (e.bytes phase).length = 32 := by
  simp only [EventRec.bytes, zeros, List.length_append, leBytes_length, List.length_replicate]

theorem eventPayload_length (l : List EventRec) (lost : Nat) : (eventPayload l lost).length = 8 + 32 * l.length := by
  simp only [eventPayload, zeros, List.length_append, leBytes_length, List.length_replicate, List.length_flatMap, EventRec.bytes_length,
    List.map_const', List.sum_replicate, smul_eq_mul, Nat.mul_comm]

/-- EVENT_READ of 1 to 64 records answers OK with the records read and the LOST flag (R412). -/
theorem cmdEvents_of_in_range {s : State} {m : Nat} (ht : Takes s m 0x0B01) (h0 : byteAt (s.box m).payload 8 ≠ 0)
    (h64 : byteAt (s.box m).payload 8 ≤ 64) :
    s.cmdEvents m = (s.taking m).respond m 0 0
      (eventPayload (eventsRead s.mc.log m (fieldAt (s.box m).payload 0 8) (byteAt (s.box m).payload 8))
        (b2n (lostBefore s.mc.log (fieldAt (s.box m).payload 0 8)))) := by
  refine (command_taken ht _).trans ?_
  dsimp only
  rw [if_neg (by simp; omega)]
  rfl

/-- Settles O5: a good request is answered with the filtered records, a sublist of the log, behind the header of the response. -/
theorem eventReading : Obligations.EventReading := by
  unfold Obligations.EventReading
  rintro m s b first most ht rfl rfl rfl h0 h64
  refine ⟨_, rfl, ?_⟩
  rw [cmdEvents_of_in_range ht h0 h64]
  refine ⟨respond_answers .., _, _, rfl, b2n_lostBefore .., fun hlog => hlog.sublist (eventsRead_sublist ..), ?_⟩
  exact respond_read _ _ _ _ _ _ (eventPayload_length ..)

end Sys2Proof.Machine
end

section
/-! SUPPORT. The reset state, and which commands answer. -/

namespace Sys2Proof.Machine

/-- A command answers a next state, or is checked for well-formed operands first. -/
theorem exec_next_or_checked (i : Instr) (s : State) : (∃ u, exec i s = .next u) ∨ ∃ n u, exec i s = checked i n u := by
  cases i
  case romBoot | sensorSample | doorbellPageBadWrite | paramFlitReceive | retrainComplete | payloadFlitReceive | flitCrcError
      | nakReceive | respFlitReceive | testFlitReceive | idleFlitReceive | outOfOrderFlit | cxlIoPostedWrite | cxlIoRead
      | pcieMemoryRequest | dlUpInsert | pcieLinkUp | mctpRequest | errorLatch => exact .inr ⟨_, _, rfl⟩
  all_goals exact .inl ⟨_, rfl⟩

theorem checked_of_wf {i : Instr} {n : String} {u : State} (h : i.wf = true) : checked i n u = .next u := if_pos h

theorem checked_of_not_wf {i : Instr} {n : String} {u : State} (h : i.wf = false) : checked i n u = .refused (.illFormed n) :=
  if_neg (by simp [h])

/-- Settles O9: the only refusal is that of the check of the operands. -/
theorem wellFormedCommandsRun : Obligations.WellFormedCommandsRun := by
  unfold Obligations.WellFormedCommandsRun
  refine ⟨fun i s h => ?wellFormed, fun i s h => ?illFormed⟩
  case wellFormed =>
    rcases exec_next_or_checked i s with hnext | ⟨n, u, hcheck⟩
    · exact hnext
    · exact ⟨u, hcheck.trans (checked_of_wf h)⟩
  case illFormed =>
    rcases exec_next_or_checked i s with hnext | ⟨n, u, hcheck⟩
    · exact ⟨"", .inr hnext⟩
    · exact ⟨n, .inl (hcheck.trans (checked_of_not_wf h))⟩

/-- Settles O12: every table is empty at reset, so every entry has the reset value of its kind. -/
theorem resetState : Obligations.ResetState := by
  unfold Obligations.ResetState
  exact ⟨rfl, rfl, rfl, rfl, rfl, fun _ _ => ⟨rfl, rfl, rfl⟩, fun _ _ => rfl, fun _ _ => rfl, rfl, fun _ _ => ⟨rfl, rfl⟩⟩

end Sys2Proof.Machine
end

section
/-! SUPPORT. What steps keep (R351, R356, R362, R386, R413): the queue's front command runs within `Fixed.Life`, cold reset frees every partition,
and a tick moves the clocks alone. -/

namespace Sys2Proof.Machine

/-! ## One step, by the command at the front -/

theorem step_of_front {c : Instr} {rest : List Instr} {s : State} (h : s.pending = c :: rest) :
    step s = exec c { s with pending := rest } := by
  unfold step
  rw [h]

theorem step_of_empty {s : State} (h : s.pending = []) : step s = .next s.tick := by
  unfold step
  rw [h]

/-- What one step may be: a tick on an empty queue, a cold reset, or a command within `Fixed.Life` of the state without its front. -/
theorem step_cases {s t : State} (h : step s = .next t) :
    s.pending = [] ∧ t = s.tick ∨
      ∃ c rest, s.pending = c :: rest ∧
        ((∃ x, c = .coldReset x ∧ t = ({ s with pending := rest } : State).coldReset x) ∨
          Fixed.Life ({ s with pending := rest } : State).fixed t.fixed) := by
  rcases hq : s.pending with _ | ⟨c, rest⟩
  · rw [step_of_empty hq] at h
    exact .inl ⟨rfl, (eq_of_next h).symm⟩
  · rw [step_of_front hq] at h
    refine .inr ⟨c, rest, rfl, ?_⟩
    by_cases hc : ∃ x, c = .coldReset x
    · obtain ⟨x, rfl⟩ := hc
      exact .inl ⟨x, rfl, (eq_of_next h).symm⟩
    · exact .inr (exec_life (fun x hx => hc ⟨x, hx⟩) h)

/-- Settles O10: that is how a step takes the front of the queue. -/
theorem frontCommandRuns : Obligations.FrontCommandRuns := by
  unfold Obligations.FrontCommandRuns
  exact fun _ _ _ h => step_of_front h

/-! ## Soundness -/

/-- Soundness speaks of the fixed part of the state alone. -/
theorem sound_iff_fixed (s : State) :
    Sound s ↔ Apart s.fixed.shares ∧ (∀ p < 16, (s.fixed.shares p).st ≤ 3) ∧ s.fixed.pos < 16 :=
  ⟨fun h => ⟨h.apart, h.legal, h.pos⟩, fun ⟨ha, hl, hp⟩ => ⟨ha, hl, hp⟩⟩

/-- With every partition FREE nothing is held in common, and every state is legal. -/
theorem sound_of_all_free {s : State} (hfree : ∀ p, (s.fixed.shares p).st = 0) (hpos : s.fixed.pos < 16) : Sound s := by
  refine (sound_iff_fixed s).mpr ⟨fun p _ _ _ _ hp _ => absurd (hfree p) hp, fun p _ => ?_, hpos⟩
  rw [hfree p]
  exact Nat.zero_le 3

/-- The arrows of R351 stay within the four states. -/
theorem Arrow.le_three {a b : Nat} (h : Arrow a b) (ha : a ≤ 3) : b ≤ 3 := by
  unfold Arrow at h
  omega

theorem sound_of_life {s t : State} (h : Fixed.Life s.fixed t.fixed) (hs : Sound s) : Sound t := by
  obtain ⟨hapart, hlegal, hpos⟩ := (sound_iff_fixed s).mp hs
  refine (sound_iff_fixed t).mpr ⟨h.apart hapart, fun p hp => ?_, ?_⟩
  · exact (h.arrow p hp (hlegal p hp)).le_three (hlegal p hp)
  · rw [h.pos]
    exact hpos

theorem sound_coldReset (s : State) (x : Straps) : Sound (s.coldReset x) := by
  refine sound_of_all_free (fun p => ?_) ?_
  · rw [State.coldReset_fixed]
    rfl
  · rw [State.coldReset_fixed]
    exact x.pos.isLt

theorem sound_tick {s : State} (hs : Sound s) : Sound s.tick := by
  rw [sound_iff_fixed, State.tick_fixed]
  exact (sound_iff_fixed s).mp hs

/-- Settles O13: at reset every partition is FREE. -/
theorem soundAtReset : Obligations.SoundAtReset := by
  unfold Obligations.SoundAtReset
  exact sound_of_all_free (fun _ => rfl) (by decide)

/-- Settles O14: a tick leaves the shares, a cold reset frees every partition, and every other command stays within `Fixed.Life`. -/
theorem soundKept : Obligations.SoundKept := by
  unfold Obligations.SoundKept
  intro s t hs h
  rcases step_cases h with ⟨-, rfl⟩ | ⟨c, rest, -, ⟨x, -, rfl⟩ | hlife⟩
  · exact sound_tick hs
  · exact sound_coldReset _ x
  · exact sound_of_life hlife ⟨hs.apart, hs.legal, hs.pos⟩

/-- Settles O15: `Fixed.Life`, read part by part. -/
theorem partitionLifecycle : Obligations.PartitionLifecycle := by
  unfold Obligations.PartitionLifecycle
  intro i s t hc h
  have hlife := exec_life hc h
  exact ⟨hlife.arrow, hlife.apart, hlife.pending, hlife.clk, hlife.pos, hlife.fuses⟩

theorem coldReset_svn (s : State) (x : Straps) : (s.coldReset x).mc.fw.svnMin = s.mc.fw.svnMin :=
  congrArg Fixed.svn (State.coldReset_fixed s x)

theorem tick_svn (s : State) : s.tick.mc.fw.svnMin = s.mc.fw.svnMin := congrArg Fixed.svn (State.tick_fixed s)

/-- Settles O16: a tick and a cold reset keep the minimum SVN, and no other command lowers it. -/
theorem securityVersionNeverFalls : Obligations.SecurityVersionNeverFalls := by
  unfold Obligations.SecurityVersionNeverFalls
  intro s t h
  rcases step_cases h with ⟨-, rfl⟩ | ⟨c, rest, -, ⟨x, -, rfl⟩ | hlife⟩
  · exact (tick_svn s).ge
  · exact (coldReset_svn { s with pending := rest } x).ge
  · exact hlife.svn

/-! ## Parts of the fixed part that a command keeps -/

/-- The key material of both slots of every partition (R362). -/
def Fixed.keys (x : Fixed) : Nat → (Bytes × Bytes × Bytes) × (Bytes × Bytes × Bytes) := fun p => ((x.shares p).key0, (x.shares p).key1)

/-- A mailbox command keeps what its body keeps. -/
theorem command_keeps {α : Type} (g : Fixed → α) (s : State) (m op : Nat) (body : State → Bytes → State)
    (h : ∀ t b, t.fixed = s.fixed → g (body t b).fixed = g s.fixed) : g (s.command m op body).fixed = g s.fixed := by
  unfold State.command
  dsimp only
  split
  · rfl
  · split
    · exact congrArg g (by simp)
    · exact h _ _ (by simp)

theorem each_keeps {α β : Type} (g : Fixed → α) {f : State → β → State} (h : ∀ t x, g (f t x).fixed = g t.fixed) (l : List β) (s : State) :
    g (s.each l f).fixed = g s.fixed := by
  unfold State.each
  induction l generalizing s with
  | nil => rfl
  | cons a l ih => rw [List.foldl_cons, ih, h]

/-! ## Keys (R362) -/

/-- A change of a share that keeps its keys keeps all keys. -/
theorem setShare_keys (x : Fixed) (p : Nat) (f : Share → Share) (h : ∀ y, (f y).key0 = y.key0 ∧ (f y).key1 = y.key1) :
    (x.setShare p f).keys = x.keys := by
  funext q
  simp only [Fixed.keys, Fixed.setShare]
  split
  · rw [(h _).1, (h _).2]
  · rfl

theorem startScrub_keys (s : State) (p detail : Nat) : (s.startScrub p detail).fixed.keys = s.fixed.keys := by
  rw [State.startScrub_fixed]
  exact setShare_keys _ _ _ fun _ => ⟨rfl, rfl⟩

theorem activate_keys (s : State) (p : Nat) : (s.activate p).2.fixed.keys = s.fixed.keys := by
  rcases State.activate_fixed s p with h | ⟨-, h⟩
  · rw [h]
  · rw [h]
    exact setShare_keys _ _ _ fun _ => ⟨rfl, rfl⟩

theorem cmdActivate_keys (s : State) (m : Nat) : (s.cmdActivate m).fixed.keys = s.fixed.keys := by
  refine command_keeps Fixed.keys s m _ _ fun t b ht => ?_
  dsimp only
  split
  · exact congrArg Fixed.keys (by simp [ht])
  · rw [State.respond_fixed, activate_keys, ht]

theorem cmdDestroy_keys (s : State) (m : Nat) : (s.cmdDestroy m).fixed.keys = s.fixed.keys := by
  refine command_keeps Fixed.keys s m _ _ fun t b ht => ?_
  dsimp only
  split
  · exact congrArg Fixed.keys (by simp [ht])
  · split
    · exact congrArg Fixed.keys (by simp [ht])
    · exact congrArg Fixed.keys (by simp [ht])
    · rw [State.ok_fixed, startScrub_keys, ht]

theorem computeReset_keys (s : State) : s.computeReset.fixed.keys = s.fixed.keys := by
  unfold State.computeReset
  dsimp only
  split
  · rfl
  · rw [State.readyEvent_fixed]
    exact each_keeps Fixed.keys (fun t p => startScrub_keys t p 5) _ s

theorem modFw_shares (s : State) (f : Firmware → Firmware) : (s.modFw f).fixed.shares = s.fixed.shares := rfl

theorem cmdFwActivate_shares (s : State) (m : Nat) : (s.cmdFwActivate m).fixed.shares = s.fixed.shares := by
  refine command_keeps Fixed.shares s m _ _ fun t b ht => ?_
  dsimp only
  split
  · exact congrArg Fixed.shares (by simp [ht])
  · split
    · exact congrArg Fixed.shares (by simp [ht])
    · split
      · exact congrArg Fixed.shares (by simp [ht])
      · rw [State.ok_fixed, modFw_shares, ht]

theorem modTally_shares (s : State) (f : Tally → Tally) : (s.modTally f).fixed.shares = s.fixed.shares := rfl

theorem takePulse_shares (s : State) : s.takePulse.fixed.shares = s.fixed.shares := by
  unfold State.takePulse
  split
  · rfl
  · split
    · exact modTally_shares ..
    · split <;> rfl

theorem takeLifetime_shares (s : State) : s.takeLifetime.fixed.shares = s.fixed.shares := by
  unfold State.takeLifetime
  split
  · rfl
  · split
    · exact modTally_shares ..
    · rfl

/-- Of the commands that change the fixed part, only those of `Instr.mayChangeKeys` change a key. -/
theorem exec_keys {i : Instr} {s t : State} (hk : i.mayChangeKeys = false) (h : exec i s = .next t) : t.fixed.keys = s.fixed.keys := by
  cases hm : movesFixed i
  case false => rw [exec_fixed hm h]
  cases i
  case partActivate m => exact eq_of_next h ▸ cmdActivate_keys s m
  case partDestroy m => exact eq_of_next h ▸ cmdDestroy_keys s m
  case computePartReset => exact eq_of_next h ▸ computeReset_keys s
  case fwActivate m => exact eq_of_next h ▸ funext fun p => by rw [Fixed.keys, cmdFwActivate_shares, Fixed.keys]
  case countPulseTake => exact eq_of_next h ▸ funext fun p => by rw [Fixed.keys, takePulse_shares, Fixed.keys]
  case lifetimePulse => exact eq_of_next h ▸ funext fun p => by rw [Fixed.keys, takeLifetime_shares, Fixed.keys]
  case coldReset | partCreate | scrubZeroEnd | scrubCloseEnd | keySlotRetire | computePartResetRestore | spdmRequest | claim | keyLoad
      | setProvision | setRevoke | release => cases hk
  all_goals cases hm

/-- Settles O17: the keys are part of the shares, which few commands change, and of those few only the named ones change a key. -/
theorem keysChangeOnlyWhereNamed : Obligations.KeysChangeOnlyWhereNamed := by
  unfold Obligations.KeysChangeOnlyWhereNamed
  intro i s t hk h p
  exact Prod.ext_iff.mp (congrFun (exec_keys hk h) p)

/-! ## Tally's sums (R384, R387, R393) -/

@[simp] theorem setShare_sums (x : Fixed) (p : Nat) (f : Share → Share) : (x.setShare p f).sums = x.sums := rfl

theorem modPart_sums (s : State) (p : Nat) (f : Part → Part) : (s.modPart p f).fixed.sums = s.fixed.sums := rfl

theorem modFw_sums (s : State) (f : Firmware → Firmware) : (s.modFw f).fixed.sums = s.fixed.sums := rfl

theorem activate_sums (s : State) (p : Nat) : (s.activate p).2.fixed.sums = s.fixed.sums := by
  rcases State.activate_fixed s p with h | ⟨-, h⟩ <;> rw [h]
  exact setShare_sums ..

theorem zeroEnd_sums (s : State) (p : Nat) : (s.zeroEnd p).fixed.sums = s.fixed.sums := by
  rcases State.zeroEnd_fixed s p with h | ⟨-, h⟩ <;> rw [h]
  exact setShare_sums ..

theorem closeEnd_sums (s : State) (p : Nat) : (s.closeEnd p).fixed.sums = s.fixed.sums := by
  rcases State.closeEnd_fixed s p with h | ⟨-, h⟩ <;> rw [h]
  exact setShare_sums ..

theorem cmdCreate_sums (s : State) (m : Nat) : (s.cmdCreate m).fixed.sums = s.fixed.sums := by
  refine command_keeps Fixed.sums s m _ _ fun t b ht => ?_
  dsimp only
  split
  · exact congrArg Fixed.sums (by simp [ht])
  · split
    · exact congrArg Fixed.sums (by simp [ht])
    · rw [State.ok_fixed, State.createPart_fixed, setShare_sums, ht]

theorem cmdActivate_sums (s : State) (m : Nat) : (s.cmdActivate m).fixed.sums = s.fixed.sums := by
  refine command_keeps Fixed.sums s m _ _ fun t b ht => ?_
  dsimp only
  split
  · exact congrArg Fixed.sums (by simp [ht])
  · rw [State.respond_fixed, activate_sums, ht]

theorem cmdDestroy_sums (s : State) (m : Nat) : (s.cmdDestroy m).fixed.sums = s.fixed.sums := by
  refine command_keeps Fixed.sums s m _ _ fun t b ht => ?_
  dsimp only
  split
  · exact congrArg Fixed.sums (by simp [ht])
  · split
    · exact congrArg Fixed.sums (by simp [ht])
    · exact congrArg Fixed.sums (by simp [ht])
    · rw [State.ok_fixed, State.startScrub_fixed, setShare_sums, ht]

theorem cmdFwActivate_sums (s : State) (m : Nat) : (s.cmdFwActivate m).fixed.sums = s.fixed.sums := by
  refine command_keeps Fixed.sums s m _ _ fun t b ht => ?_
  dsimp only
  split
  · exact congrArg Fixed.sums (by simp [ht])
  · split
    · exact congrArg Fixed.sums (by simp [ht])
    · split
      · exact congrArg Fixed.sums (by simp [ht])
      · rw [State.ok_fixed, modFw_sums, ht]

theorem computeReset_sums (s : State) : s.computeReset.fixed.sums = s.fixed.sums := by
  unfold State.computeReset
  dsimp only
  split
  · rfl
  · rw [State.readyEvent_fixed]
    exact each_keeps Fixed.sums (fun t p => by rw [State.startScrub_fixed, setShare_sums]) _ s

theorem computeRestore_sums (s : State) : s.computeRestore.fixed.sums = s.fixed.sums := by
  unfold State.computeRestore
  dsimp only
  split <;> rfl

theorem retireSlot_sums (s : State) (p g : Nat) : (s.retireSlot p g).fixed.sums = s.fixed.sums := by
  have hempty : ((s.modPart p fun x => x.modSlot g fun _ => {}).fabEvent 0x30 none (some p) g).fixed.sums = s.fixed.sums := by
    rw [State.fabEvent_fixed, modPart_sums]
  unfold State.retireSlot
  dsimp only
  split
  · rfl
  · split
    · split
      · rw [State.emit_fixed, modPart_sums, modPart_sums, hempty]
      · exact hempty
    · exact hempty

theorem keyLoad_sums (s : State) (session p g : Nat) (body : Bytes) : (s.keyLoad session p g body).2.fixed.sums = s.fixed.sums := by
  obtain ⟨f, -, h⟩ := State.keyLoad_fixed s session p g body
  rw [h, setShare_sums]

theorem tenantAct_sums (s : State) (session p : Nat) (b : Bytes) : (s.tenantAct session p b).2.fixed.sums = s.fixed.sums := by
  unfold State.tenantAct
  dsimp only
  split
  · exact keyLoad_sums ..
  · exact congrArg Fixed.sums (by simp)
  · exact congrArg Fixed.sums (by simp)
  · rw [State.startScrub_fixed, setShare_sums]

theorem tenantRequest_sums (s : State) (session : Nat) (b : Bytes) : (s.tenantRequest session b).fixed.sums = s.fixed.sums := by
  unfold State.tenantRequest
  dsimp only
  split
  · rfl
  · split
    · exact congrArg Fixed.sums (by simp)
    · split
      · exact congrArg Fixed.sums (by simp)
      · split
        · split
          · rw [State.tenantReply_fixed, tenantAct_sums, modPart_sums]
          · rw [tenantAct_sums, modPart_sums]
        · exact congrArg Fixed.sums (by simp)

/-- An SPDM request is a tenant's request or leaves the fixed part alone (R345, R369). -/
theorem spdmRequest_cases (s : State) (doe : Bool) (session : Option Nat) (c : SpdmCode) (body : Bytes) :
    (s.spdmRequest doe session c body).fixed = s.fixed ∨ ∃ k, s.spdmRequest doe session c body = s.tenantRequest k body := by
  cases c
  case vendor =>
    cases session with
    | none => exact .inl (by unfold State.spdmRequest; simp)
    | some k =>
      unfold State.spdmRequest
      dsimp only
      split
      · exact .inl rfl
      · split
        · exact .inl rfl
        · exact .inr ⟨k, rfl⟩
  case finish | endSession =>
    refine .inl ?_
    unfold State.spdmRequest
    cases session <;> simp
  all_goals
    refine .inl ?_
    unfold State.spdmRequest
    simp

theorem spdmRequest_sums (s : State) (doe : Bool) (session : Option Nat) (c : SpdmCode) (body : Bytes) :
    (s.spdmRequest doe session c body).fixed.sums = s.fixed.sums := by
  rcases spdmRequest_cases s doe session c body with h | ⟨k, h⟩ <;> rw [h]
  exact tenantRequest_sums ..

/-- Of the commands that change the fixed part, only those of `Instr.mayCount` change a sum. -/
theorem exec_sums {i : Instr} {s t : State} (hn : i.mayCount = false) (h : exec i s = .next t) : t.fixed.sums = s.fixed.sums := by
  cases hm : movesFixed i
  case false => rw [exec_fixed hm h]
  cases i
  case partCreate m => exact eq_of_next h ▸ cmdCreate_sums s m
  case partActivate m => exact eq_of_next h ▸ cmdActivate_sums s m
  case partDestroy m => exact eq_of_next h ▸ cmdDestroy_sums s m
  case scrubZeroEnd p => exact eq_of_next h ▸ zeroEnd_sums s p
  case scrubCloseEnd p => exact eq_of_next h ▸ closeEnd_sums s p
  case keySlotRetire p g => exact eq_of_next h ▸ retireSlot_sums s p g
  case computePartReset => exact eq_of_next h ▸ computeReset_sums s
  case computePartResetRestore => exact eq_of_next h ▸ computeRestore_sums s
  case spdmRequest doe session code body => exact eq_of_next h ▸ spdmRequest_sums s doe session code body
  case claim n b | keyLoad n b | setProvision n b | setRevoke n b | release n b => exact eq_of_next h ▸ tenantRequest_sums s n b
  case fwActivate m => exact eq_of_next h ▸ cmdFwActivate_sums s m
  case coldReset | countPulseTake | lifetimePulse => cases hn
  all_goals cases hm

/-- Settles O18: the sums are a part of the fixed part, and of the commands that change that part only the pulses and cold reset add to
them. -/
theorem countsChangeOnlyAtPulses : Obligations.CountsChangeOnlyAtPulses := by
  unfold Obligations.CountsChangeOnlyAtPulses
  intro i s t hn h
  have hsums := exec_sums hn h
  exact ⟨congrArg Prod.fst hsums, congrArg (·.2.1) hsums, congrArg (·.2.2) hsums⟩

end Sys2Proof.Machine
end

section
/-! SUPPORT. What each command leaves unchanged: a command that answers `t` has run its operation, whose law says which units it touches
(Laws/Hide*) and whether it is a background effect for the others (Laws/Quiet*). -/

namespace Sys2Proof.Machine

theorem Same.next {M : List Comp} {u s t : State} (h : (.next u : Result) = .next t) (hu : u.hide M = s.hide M) : Same M s t :=
  eq_of_next h ▸ hu

theorem Same.nextQuiet {M : List Comp} {u s t : State} (h : (.next u : Result) = .next t) (hu : u.hide M = s.hide M)
    (hq : u.quiet = s.quiet) : Same M s t ∧ t.quiet = s.quiet := ⟨.next h hu, eq_of_next h ▸ hq⟩

theorem Same.checked {M : List Comp} {i : Instr} {n : String} {u s t : State} (h : Machine.checked i n u = .next t)
    (hu : u.hide M = s.hide M) : Same M s t := eq_of_checked h ▸ hu

theorem Same.checkedQuiet {M : List Comp} {i : Instr} {n : String} {u s t : State} (h : Machine.checked i n u = .next t)
    (hu : u.hide M = s.hide M) (hq : u.quiet = s.quiet) : Same M s t ∧ t.quiet = s.quiet := ⟨.checked h hu, eq_of_checked h ▸ hq⟩

/-- Settles O53, by the frame laws of the operations of chords, walks and invalidations. -/
theorem translationFrames : Obligations.TranslationFrames := by
  unfold Obligations.TranslationFrames
  refine ⟨?chordHeaderFetch, ?chordHeaderReturn, ?chordBackoffExpiry, ?chordTake, ?chordCommit, ?chordTimeout, ?chordStatusWrite,
    ?chordOwnClear, ?chordNoteWrite, ?walkStart, ?walkReadReturn, ?walkReadTimeout, ?adUpdateOwnedReadReturn, ?invalidationEntryFetch,
    ?invalidationEntryReturn, ?invalidationRefetchBackoffExpiry, ?invalidationCut, ?invalidationAcknowledge,
    ?invalidationDrainLimitExpiry⟩
  case chordHeaderFetch => exact fun _ _ _ h => Same.nextQuiet h (State.fetchChord_hide (by decide) ..) (State.fetchChord_quiet ..)
  case chordHeaderReturn =>
    exact fun _ _ _ _ h => Same.nextQuiet h (State.headerReturned_hide (by decide) ..) (State.headerReturned_quiet ..)
  case chordBackoffExpiry => exact fun _ _ _ h => Same.nextQuiet h (State.refetchChord_hide (by decide) ..) (State.refetchChord_quiet ..)
  case chordTake => exact fun _ _ _ _ h => Same.nextQuiet h (State.takeChord_hide (by decide) ..) (State.takeChord_quiet ..)
  case chordCommit => exact fun _ _ _ h => Same.nextQuiet h (State.commitChord_hide (by decide) ..) (State.commitChord_quiet ..)
  case chordTimeout => exact fun _ _ _ h => Same.next h (State.chordTimeout_hide (by decide) ..)
  case chordStatusWrite => exact fun _ _ _ h => Same.nextQuiet h (State.chordStatus_hide (by decide) ..) (State.chordStatus_quiet ..)
  case chordOwnClear => exact fun _ _ _ _ h => Same.nextQuiet h (State.chordOwn_hide (by decide) ..) (State.chordOwn_quiet ..)
  case chordNoteWrite => exact fun _ _ _ _ h => Same.nextQuiet h (State.chordNote_hide (by decide) ..) (State.chordNote_quiet ..)
  case walkStart => exact fun _ _ _ h => Same.nextQuiet h (State.startWalk_hide (by decide) ..) (State.startWalk_quiet ..)
  case walkReadReturn => exact fun _ _ _ _ h => Same.nextQuiet h (State.walkReturned_hide (by decide) ..) (State.walkReturned_quiet ..)
  case walkReadTimeout => exact fun _ _ _ h => Same.nextQuiet h (State.walkTimeout_hide (by decide) ..) (State.walkTimeout_quiet ..)
  case adUpdateOwnedReadReturn =>
    exact fun _ _ _ _ h => Same.nextQuiet h (State.ownedReturned_hide (by decide) ..) (State.ownedReturned_quiet ..)
  case invalidationEntryFetch => exact fun _ _ _ h => Same.nextQuiet h (State.fetchInv_hide (by decide) ..) (State.fetchInv_quiet ..)
  case invalidationEntryReturn =>
    exact fun _ _ _ _ h => Same.nextQuiet h (State.invReturned_hide (by decide) ..) (State.invReturned_quiet ..)
  case invalidationRefetchBackoffExpiry =>
    exact fun _ _ _ h => Same.nextQuiet h (State.refetchInv_hide (by decide) ..) (State.refetchInv_quiet ..)
  case invalidationCut => exact fun _ _ _ h => Same.next h (State.takeInval_hide (by decide) ..)
  case invalidationAcknowledge => exact fun _ _ _ h => Same.nextQuiet h (State.ackInval_hide (by decide) ..) (State.ackInval_quiet ..)
  case invalidationDrainLimitExpiry =>
    exact fun _ _ _ h => Same.nextQuiet h (State.drainLimit_hide (by decide) ..) (State.drainLimit_quiet ..)

/-- Settles O54, by the frame laws of the operations of the error collector, scrubs, re-keys and tenant requests. -/
theorem keyFrames : Obligations.KeyFrames := by
  unfold Obligations.KeyFrames
  refine ⟨?errorLatch, ?graceExpiry, ?ecStatusClear, ?quietExpiry, ?ecInject, ?aliveToggle, ?reconcilePass, ?registerWrite,
    ?scrubQuiesceEnd, ?scrubZeroEnd, ?scrubCloseEnd, ?rekeyPageLock, ?rekeyPagePushesDone, ?rekeyPageUnlock, ?hbmPassEnd, ?keySlotRetire,
    ?hbmChannelSizeReport, ?spdmRequest, ?claim, ?keyLoad, ?setProvision, ?setRevoke, ?release⟩
  case errorLatch => exact fun _ _ _ h => Same.checked h (State.latchLine_hide (by decide) ..)
  case graceExpiry => exact fun _ _ _ h => Same.next h (State.graceExpiry_hide (by decide) ..)
  case ecStatusClear => exact fun _ _ _ h => Same.next h (State.clearStatus_hide (by decide) ..)
  case quietExpiry => exact fun _ _ _ h => Same.next h (State.quietExpiry_hide (by decide) ..)
  case ecInject => exact fun _ _ _ h => Same.next h (State.inject_hide (by decide) ..)
  case aliveToggle => exact fun _ _ h => Same.next h (State.aliveToggle_hide (by decide) ..)
  case reconcilePass => exact fun _ _ h => Same.next h (State.reconcile_hide (by decide) ..)
  case registerWrite => exact fun _ _ _ _ _ _ h => Same.next h (State.registerWrite_hide (by decide) ..)
  case scrubQuiesceEnd => exact fun _ _ _ h => Same.nextQuiet h (State.quiesceEnd_hide (by decide) ..) (State.quiesceEnd_quiet ..)
  case scrubZeroEnd => exact fun _ _ _ h => Same.next h (State.zeroEnd_hide (by decide) ..)
  case scrubCloseEnd => exact fun _ _ _ h => Same.nextQuiet h (State.closeEnd_hide (by decide) ..) (State.closeEnd_quiet ..)
  case rekeyPageLock => exact fun _ _ _ _ h => Same.next h (State.lockPage_hide (by decide) ..)
  case rekeyPagePushesDone => exact fun _ _ _ _ h => Same.nextQuiet h (State.pagePushed_hide (by decide) ..) (State.pagePushed_quiet ..)
  case rekeyPageUnlock => exact fun _ _ _ h => Same.next h (State.unlockPage_hide (by decide) ..)
  case hbmPassEnd => exact fun _ _ _ h => Same.next h (State.hbmPassEnd_hide (by decide) ..)
  case keySlotRetire => exact fun _ _ _ _ h => Same.nextQuiet h (State.retireSlot_hide (by decide) ..) (State.retireSlot_quiet ..)
  case hbmChannelSizeReport => exact fun _ _ _ h => Same.next h (State.channelSize_hide (by decide) ..)
  case spdmRequest => exact fun _ _ _ _ _ _ h => Same.next h (State.spdmRequest_hide (by decide) ..)
  case claim => exact fun _ _ _ _ h => Same.nextQuiet h (State.tenantRequest_hide (by decide) ..) (State.tenantRequest_quiet ..)
  case keyLoad => exact fun _ _ _ _ h => Same.nextQuiet h (State.tenantRequest_hide (by decide) ..) (State.tenantRequest_quiet ..)
  case setProvision => exact fun _ _ _ _ h => Same.nextQuiet h (State.tenantRequest_hide (by decide) ..) (State.tenantRequest_quiet ..)
  case setRevoke => exact fun _ _ _ _ h => Same.nextQuiet h (State.tenantRequest_hide (by decide) ..) (State.tenantRequest_quiet ..)
  case release => exact fun _ _ _ _ h => Same.nextQuiet h (State.tenantRequest_hide (by decide) ..) (State.tenantRequest_quiet ..)

/-- Settles O55, by the frame laws of the operations of the link modules. -/
theorem linkFrames : Obligations.LinkFrames := by
  unfold Obligations.LinkFrames
  refine ⟨?sidebandUp, ?mainbandTrained, ?paramFlitReceive, ?trainingLimitExpiry, ?retrainComplete, ?payloadFlitReceive, ?flitCrcError,
    ?nakRepeatExpiry, ?nakReceive, ?replayTimeout, ?respFlitReceive, ?inboundWriteAck, ?messageTimeout, ?testFlitReceive,
    ?linkLowPowerEntry, ?linkLowPowerExit, ?tgCtrlWrite, ?testFlitGenerate, ?idleFlitReceive, ?outOfOrderFlit⟩
  case sidebandUp => exact fun _ _ _ h => Same.nextQuiet h (State.sidebandUp_hide (by decide) ..) (State.sidebandUp_quiet ..)
  case mainbandTrained =>
    exact fun _ _ _ _ _ h => Same.nextQuiet h (State.mainbandTrained_hide (by decide) ..) (State.mainbandTrained_quiet ..)
  case paramFlitReceive =>
    exact fun _ _ _ _ h => Same.checkedQuiet h (State.paramReceived_hide (by decide) ..) (State.paramReceived_quiet ..)
  case trainingLimitExpiry => exact fun _ _ _ h => Same.nextQuiet h (State.trainingLimit_hide (by decide) ..) (State.trainingLimit_quiet ..)
  case retrainComplete =>
    exact fun _ _ _ _ _ _ h => Same.checkedQuiet h (State.retrainDone_hide (by decide) ..) (State.retrainDone_quiet ..)
  case payloadFlitReceive =>
    exact fun _ _ _ _ h => Same.checkedQuiet h (State.payloadReceived_hide (by decide) ..) (State.payloadReceived_quiet ..)
  case flitCrcError => exact fun _ _ _ _ h => Same.checked h (State.crcError_hide (by decide) ..)
  case nakRepeatExpiry => exact fun _ _ _ h => Same.next h (State.nakRepeat_hide (by decide) ..)
  case nakReceive => exact fun _ _ _ _ h => Same.checkedQuiet h (State.nakReceived_hide (by decide) ..) (State.nakReceived_quiet ..)
  case replayTimeout => exact fun _ _ _ h => Same.nextQuiet h (State.replayTimeout_hide (by decide) ..) (State.replayTimeout_quiet ..)
  case respFlitReceive => exact fun _ _ _ _ h => Same.checkedQuiet h (State.respReceived_hide (by decide) ..) (State.respReceived_quiet ..)
  case inboundWriteAck => exact fun _ _ _ _ h => Same.nextQuiet h (State.kppBack_hide (by decide) ..) (State.kppBack_quiet ..)
  case messageTimeout => exact fun _ _ _ h => Same.nextQuiet h (State.messageTimeout_hide (by decide) ..) (State.messageTimeout_quiet ..)
  case testFlitReceive => exact fun _ _ _ _ h => Same.checkedQuiet h (State.testReceived_hide (by decide) ..) (State.testReceived_quiet ..)
  case linkLowPowerEntry => exact fun _ _ _ h => Same.nextQuiet h (State.enterLp_hide (by decide) ..) (State.enterLp_quiet ..)
  case linkLowPowerExit => exact fun _ _ _ h => Same.nextQuiet h (State.exitLp_hide (by decide) ..) (State.exitLp_quiet ..)
  case tgCtrlWrite => exact fun _ _ _ _ h => Same.next h (State.writeTg_hide (by decide) ..)
  case testFlitGenerate => exact fun _ _ _ h => Same.next h (State.sendTest_hide (by decide) ..)
  case idleFlitReceive => exact fun _ _ _ _ h => Same.checkedQuiet h (State.idleReceived_hide (by decide) ..) (State.idleReceived_quiet ..)
  case outOfOrderFlit => exact fun _ _ _ _ h => Same.checkedQuiet h (State.outOfOrder_hide (by decide) ..) (State.outOfOrder_quiet ..)

/-- Settles O56, by the frame laws of the operations of mailbox commands, which also touch the mailbox they answer. -/
theorem mailboxFrames : Obligations.MailboxFrames := by
  unfold Obligations.MailboxFrames
  refine ⟨?mailboxGo, ?mctpRequest, ?i3cAddressAssign, ?partCreate, ?partActivate, ?partDestroy, ?regSet, ?hostRangeSet, ?pasidBind,
    ?pfWinBase, ?vfWinBase, ?sharedRegister, ?rpAssign, ?asidBind, ?invqPlace, ?drainLimit, ?invalidate, ?fqPlace, ?faultTimeout,
    ?ringConfigure, ?ringEnable, ?ringDisable, ?cqPlace, ?counterArea, ?chordQueue, ?windowSet, ?keySwitch, ?rekey, ?unwrap, ?unwrapDone,
    ?programLoad, ?schedLoad, ?replicaSet, ?tcFlush, ?vectorSet, ?tallyCommit, ?moduleRetrain, ?rpConfig, ?rpMemory, ?testLoopback,
    ?eventRead, ?sensorRead, ?fwStage, ?fwVerify, ?fwActivate, ?unitAdmit, ?unitRead, ?modeSet, ?getInfo⟩
  case mailboxGo => exact fun _ _ _ h => Same.nextQuiet h (State.mailboxGo_hide (by decide) ..) (State.mailboxGo_quiet ..)
  case mctpRequest => exact fun _ _ _ h => Same.checkedQuiet h (State.mctpRequest_hide (by decide) ..) (State.mctpRequest_quiet ..)
  case i3cAddressAssign => exact fun _ _ _ h => Same.next h (State.assignI3c_hide (by decide) ..)
  case partCreate => exact fun _ _ _ h => Same.next h (State.cmdCreate_hide (by decide) ..)
  case partActivate => exact fun _ _ _ h => Same.next h (State.cmdActivate_hide (by decide) ..)
  case partDestroy => exact fun _ _ _ h => Same.next h (State.cmdDestroy_hide (by decide) ..)
  case regSet => exact fun _ _ _ h => Same.next h (State.cmdReg_hide (by decide) ..)
  case hostRangeSet => exact fun _ _ _ h => Same.next h (State.cmdRange_hide (by decide) ..)
  case pasidBind => exact fun _ _ _ h => Same.next h (State.cmdPasid_hide (by decide) ..)
  case pfWinBase => exact fun _ _ _ h => Same.next h (State.cmdPfWin_hide (by decide) ..)
  case vfWinBase => exact fun _ _ _ h => Same.next h (State.cmdVfWin_hide (by decide) ..)
  case sharedRegister => exact fun _ _ _ h => Same.next h (State.cmdShared_hide (by decide) ..)
  case rpAssign => exact fun _ _ _ h => Same.next h (State.cmdAssign_hide (by decide) ..)
  case asidBind => exact fun _ _ _ h => Same.next h (State.cmdAsid_hide (by decide) ..)
  case invqPlace => exact fun _ _ _ h => Same.next h (State.cmdInvq_hide (by decide) ..)
  case drainLimit => exact fun _ _ _ h => Same.next h (State.cmdDrainLimit_hide (by decide) ..)
  case invalidate => exact fun _ _ _ h => Same.next h (State.cmdInvalidate_hide (by decide) ..)
  case fqPlace => exact fun _ _ _ h => Same.next h (State.cmdFq_hide (by decide) ..)
  case faultTimeout => exact fun _ _ _ h => Same.next h (State.cmdFaultTimeout_hide (by decide) ..)
  case ringConfigure => exact fun _ _ _ h => Same.next h (State.cmdRing_hide (by decide) ..)
  case ringEnable => exact fun _ _ _ h => Same.next h (State.cmdEnable_hide (by decide) ..)
  case ringDisable => exact fun _ _ _ h => Same.next h (State.cmdDisable_hide (by decide) ..)
  case cqPlace => exact fun _ _ _ h => Same.next h (State.cmdCq_hide (by decide) ..)
  case counterArea => exact fun _ _ _ h => Same.next h (State.cmdArea_hide (by decide) ..)
  case chordQueue => exact fun _ _ _ h => Same.next h (State.cmdChordQueue_hide (by decide) ..)
  case windowSet => exact fun _ _ _ h => Same.next h (State.cmdWindow_hide (by decide) ..)
  case keySwitch => exact fun _ _ _ h => Same.next h (State.cmdSwitch_hide (by decide) ..)
  case rekey => exact fun _ _ _ h => Same.next h (State.cmdRekey_hide (by decide) ..)
  case unwrap => exact fun _ _ _ _ h => Same.next h (State.cmdUnwrap_hide (by decide) ..)
  case unwrapDone => exact fun _ _ _ _ h => Same.next h (State.unwrapDone_hide (by decide) ..)
  case programLoad => exact fun _ _ _ _ h => Same.next h (State.cmdProgram_hide (by decide) ..)
  case schedLoad => exact fun _ _ _ h => Same.next h (State.cmdSched_hide (by decide) ..)
  case replicaSet => exact fun _ _ _ h => Same.next h (State.cmdReplica_hide (by decide) ..)
  case tcFlush => exact fun _ _ _ h => Same.next h (State.cmdTcFlush_hide (by decide) ..)
  case vectorSet => exact fun _ _ _ h => Same.next h (State.cmdVector_hide (by decide) ..)
  case tallyCommit => exact fun _ _ _ h => Same.next h (State.cmdTally_hide (by decide) ..)
  case moduleRetrain => exact fun _ _ _ h => Same.next h (State.cmdRetrain_hide (by decide) ..)
  case rpConfig => exact fun _ _ _ h => Same.next h (State.cmdRpConfig_hide (by decide) ..)
  case rpMemory => exact fun _ _ _ h => Same.next h (State.cmdRpMemory_hide (by decide) ..)
  case testLoopback => exact fun _ _ _ h => Same.next h (State.cmdLoopback_hide (by decide) ..)
  case eventRead => exact fun _ _ _ h => Same.next h (State.cmdEvents_hide (by decide) ..)
  case sensorRead => exact fun _ _ _ h => Same.next h (State.cmdSensors_hide (by decide) ..)
  case fwStage => exact fun _ _ _ h => Same.next h (State.cmdStage_hide (by decide) ..)
  case fwVerify => exact fun _ _ _ h => Same.next h (State.cmdVerify_hide (by decide) ..)
  case fwActivate => exact fun _ _ _ h => Same.next h (State.cmdFwActivate_hide (by decide) ..)
  case unitAdmit => exact fun _ _ _ h => Same.next h (State.cmdAdmit_hide (by decide) ..)
  case unitRead => exact fun _ _ _ h => Same.next h (State.cmdUnits_hide (by decide) ..)
  case modeSet => exact fun _ _ _ h => Same.next h (State.cmdMode_hide (by decide) ..)
  case getInfo => exact fun _ _ _ h => Same.next h (State.cmdInfo_hide (by decide) ..)

/-- Settles O58, by the frame laws of the operations of Tally, power, bring-up and the resets. -/
theorem countFrames : Obligations.CountFrames := by
  unfold Obligations.CountFrames
  refine ⟨?powerWarn, ?powerWarnWaitExpiry, ?clockMonitorLoss, ?sensorSample, ?ckArrStepDone, ?ckArrStepTimeout, ?mcPwrCtrlWrite,
    ?arrFreqMaxStepDown, ?romBoot, ?computeCellFirmwareBroadcast, ?cellDigestReturn, ?cellDigestTimeout, ?topologyCheck,
    ?readinessDecision, ?computePartReset, ?computePartResetRestore, ?partitionFunctionLevelReset, ?pfFunctionLevelReset,
    ?partitionResetEnd, ?hostLinkLossReset, ?hostLinkOutTimerExpiry, ?hostLinkLossResetEnd, ?portReset, ?accumulatorAgeExpiry,
    ?countPulseTake, ?lifetimePulse, ?markPulse, ?tallyRecordCommit, ?tallyRecordStored, ?tyRecSelectWrite, ?tyCommitWrite⟩
  case powerWarn => exact fun _ _ h => Same.next h (State.powerWarn_hide (by decide) ..)
  case powerWarnWaitExpiry => exact fun _ _ _ h => Same.next h (State.powerWarnDue_hide (by decide) ..)
  case clockMonitorLoss => exact fun _ _ _ h => Same.nextQuiet h (State.clockLoss_hide (by decide) ..) (State.clockLoss_quiet ..)
  case sensorSample => exact fun _ _ _ h => Same.checked h (State.sampleSensors_hide (by decide) ..)
  case ckArrStepDone => exact fun _ _ h => Same.next h (State.arrStepDone_hide (by decide) ..)
  case ckArrStepTimeout => exact fun _ _ h => Same.next h (State.arrStepLate_hide (by decide) ..)
  case mcPwrCtrlWrite => exact fun _ _ _ h => Same.next h (State.writePwr_hide (by decide) ..)
  case arrFreqMaxStepDown => exact fun _ _ h => Same.next h (State.freqMaxStep_hide (by decide) ..)
  case romBoot => exact fun _ _ _ _ h => Same.checked h (State.romBoot_hide (by decide) ..)
  case computeCellFirmwareBroadcast => exact fun _ _ _ h => Same.next h (State.broadcast_hide (by decide) ..)
  case cellDigestReturn => exact fun _ _ _ _ h => Same.next h (State.cellDigest_hide (by decide) ..)
  case cellDigestTimeout => exact fun _ _ _ h => Same.next h (State.cellTimeout_hide (by decide) ..)
  case topologyCheck => exact fun _ _ h => Same.nextQuiet h (State.topologyCheck_hide (by decide) ..) (State.topologyCheck_quiet ..)
  case readinessDecision => exact fun _ _ h => Same.next h (State.decideReady_hide (by decide) ..)
  case computePartReset => exact fun _ _ h => Same.next h (State.computeReset_hide (by decide) ..)
  case computePartResetRestore => exact fun _ _ h => Same.next h (State.computeRestore_hide (by decide) ..)
  case partitionFunctionLevelReset => exact fun _ _ _ h => Same.next h (by simp)
  case pfFunctionLevelReset => exact fun _ _ h => Same.next h (State.pfReset_hide (by decide) ..)
  case partitionResetEnd =>
    exact fun _ _ _ h => Same.nextQuiet h (State.partitionResetEnd_hide (by decide) ..) (State.partitionResetEnd_quiet ..)
  case hostLinkLossReset => exact fun _ _ _ h => Same.next h (State.hostLoss_hide (by decide) ..)
  case hostLinkOutTimerExpiry => exact fun _ _ h => Same.next h (State.outTimer_hide (by decide) ..)
  case hostLinkLossResetEnd => exact fun _ _ h => Same.next h (State.hostLossEnd_hide (by decide) ..)
  case portReset => exact fun _ _ _ h => Same.next h (State.portReset_hide (by decide) ..)
  case accumulatorAgeExpiry => exact fun _ _ _ _ h => Same.nextQuiet h (State.accumAge_hide (by decide) ..) (State.accumAge_quiet ..)
  case countPulseTake => exact fun _ _ h => Same.next h (State.takePulse_hide (by decide) ..)
  case lifetimePulse => exact fun _ _ h => Same.next h (State.takeLifetime_hide (by decide) ..)
  case markPulse => exact fun _ _ h => Same.next h (State.takeMark_hide (by decide) ..)
  case tallyRecordCommit => exact fun _ _ h => Same.next h (State.tallyCommit_hide (by decide) ..)
  case tallyRecordStored => exact fun _ _ h => Same.next h (State.tallyStored_hide (by decide) ..)
  case tyRecSelectWrite => exact fun _ _ _ h => Same.next h (State.selectRecord_hide (by decide) ..)
  case tyCommitWrite => exact fun _ _ h => Same.nextQuiet h (State.requestCommit_hide (by decide) ..) (State.requestCommit_quiet ..)

/-- Settles O59, by the frame laws of the operations of jobs, the array and repairs. -/
theorem reckonerFrames : Obligations.ReckonerFrames := by
  unfold Obligations.ReckonerFrames
  refine ⟨?updateDescriptorPass, ?normTableRead, ?normTableReturn, ?normWaitLimitExpiry, ?jobStart, ?tileReadsComplete, ?tileWritesAcked,
    ?fingerprintWrite, ?jobPark, ?jobReturn, ?arrayChunkStart, ?arrayTileFinish, ?outputPathTile, ?replicaReportSend, ?repairJobStart,
    ?repairFingerprintCheck, ?repairMemberWrite, ?repairFingerprintWrite, ?repairNoteWrite, ?sharedRepairOpen, ?sharedRepairOriginDone,
    ?sharedRepairClose, ?sharedRepairTimeout⟩
  case updateDescriptorPass => exact fun _ _ _ h => Same.nextQuiet h (State.passUpdate_hide (by decide) ..) (State.passUpdate_quiet ..)
  case normTableRead => exact fun _ _ _ h => Same.nextQuiet h (State.readNorm_hide (by decide) ..) (State.readNorm_quiet ..)
  case normTableReturn => exact fun _ _ _ _ h => Same.nextQuiet h (State.normBack_hide (by decide) ..) (State.normBack_quiet ..)
  case normWaitLimitExpiry => exact fun _ _ _ h => Same.nextQuiet h (State.normLimit_hide (by decide) ..) (State.normLimit_quiet ..)
  case jobStart => exact fun _ _ _ h => Same.nextQuiet h (State.startJob_hide (by decide) ..) (State.startJob_quiet ..)
  case tileReadsComplete => exact fun _ _ _ h => Same.nextQuiet h (State.tileReads_hide (by decide) ..) (State.tileReads_quiet ..)
  case tileWritesAcked => exact fun _ _ _ h => Same.nextQuiet h (State.tileAcks_hide (by decide) ..) (State.tileAcks_quiet ..)
  case fingerprintWrite =>
    exact fun _ _ _ _ h => Same.nextQuiet h (State.writeFingerprint_hide (by decide) ..) (State.writeFingerprint_quiet ..)
  case jobPark => exact fun _ _ _ h => Same.nextQuiet h (State.parkJob_hide (by decide) ..) (State.parkJob_quiet ..)
  case jobReturn => exact fun _ _ _ h => Same.nextQuiet h (State.returnJob_hide (by decide) ..) (State.returnJob_quiet ..)
  case arrayChunkStart => exact fun _ _ _ _ h => Same.nextQuiet h (State.startChunk_hide (by decide) ..) (State.startChunk_quiet ..)
  case arrayTileFinish => exact fun _ _ h => Same.next h (State.finishTile_hide (by decide) ..)
  case outputPathTile => exact fun _ _ h => Same.nextQuiet h (State.outputTile_hide (by decide) ..) (State.outputTile_quiet ..)
  case replicaReportSend => exact fun _ _ _ h => Same.nextQuiet h (State.sendReport_hide (by decide) ..) (State.sendReport_quiet ..)
  case repairJobStart => exact fun _ _ _ h => Same.nextQuiet h (State.startRepair_hide (by decide) ..) (State.startRepair_quiet ..)
  case repairFingerprintCheck => exact fun _ _ _ h => Same.next h (State.checkRepair_hide (by decide) ..)
  case repairMemberWrite => exact fun _ _ _ h => Same.nextQuiet h (State.writeMembers_hide (by decide) ..) (State.writeMembers_quiet ..)
  case repairFingerprintWrite =>
    exact fun _ _ _ h => Same.nextQuiet h (State.writeRegionPrints_hide (by decide) ..) (State.writeRegionPrints_quiet ..)
  case repairNoteWrite => exact fun _ _ _ h => Same.nextQuiet h (State.writeRepairNote_hide (by decide) ..) (State.writeRepairNote_quiet ..)
  case sharedRepairOpen => exact fun _ _ h => Same.next h (State.openRepair_hide (by decide) ..)
  case sharedRepairOriginDone => exact fun _ _ _ _ h => Same.nextQuiet h (State.originRead_hide (by decide) ..) (State.originRead_quiet ..)
  case sharedRepairClose => exact fun _ _ _ h => Same.nextQuiet h (State.repairClosed_hide (by decide) ..) (State.repairClosed_quiet ..)
  case sharedRepairTimeout => exact fun _ _ _ h => Same.nextQuiet h (State.repairTimeout_hide (by decide) ..) (State.repairTimeout_quiet ..)

/-- Settles O60, by the frame laws of the operations of doorbells, rings, transfers, completions and faults. -/
theorem ringFrames : Obligations.RingFrames := by
  unfold Obligations.RingFrames
  refine ⟨?ringDoorbell, ?stagedDoorbell, ?invalidationDoorbell, ?chordDoorbell, ?doorbellPageBadWrite, ?faultResponseConsume,
    ?faultResponseResume, ?faultResponseAbort, ?descriptorFetch, ?descriptorFetchReturn, ?descriptorRefetchBackoffExpiry,
    ?descriptorStart, ?requestIssue, ?dataReadReturn, ?dataWriteAck, ?requestTimeout, ?flagWriteIssue, ?statusBlockWrite, ?ownClearWrite,
    ?completionEntryWrite, ?completionEntryAck, ?consumerWordPoll, ?consumerWordReturn, ?wcEntryIdleFlush, ?tierCacheFillReturn,
    ?hostSnoop, ?parkDrainComplete, ?faultRecordAck, ?parkTimerExpiry, ?ringDrainComplete⟩
  case ringDoorbell => exact fun _ _ _ _ _ h => Same.nextQuiet h (State.ringDoorbell_hide (by decide) ..) (State.ringDoorbell_quiet ..)
  case stagedDoorbell => exact fun _ _ _ _ _ h => Same.nextQuiet h (State.ringDoorbell_hide (by decide) ..) (State.ringDoorbell_quiet ..)
  case invalidationDoorbell => exact fun _ _ _ _ h => Same.nextQuiet h (State.invDoorbell_hide (by decide) ..) (State.invDoorbell_quiet ..)
  case chordDoorbell => exact fun _ _ _ _ h => Same.nextQuiet h (State.chordDoorbell_hide (by decide) ..) (State.chordDoorbell_quiet ..)
  case doorbellPageBadWrite => exact fun _ _ _ _ _ h => Same.checked h (State.dropBadAccess_hide (by decide) ..)
  case faultResponseConsume =>
    exact fun _ _ _ _ h => Same.nextQuiet h (State.faultDoorbell_hide (by decide) ..) (State.faultDoorbell_quiet ..)
  case faultResponseResume =>
    exact fun _ _ _ _ h => Same.nextQuiet h (State.faultDoorbell_hide (by decide) ..) (State.faultDoorbell_quiet ..)
  case faultResponseAbort =>
    exact fun _ _ _ _ h => Same.nextQuiet h (State.faultDoorbell_hide (by decide) ..) (State.faultDoorbell_quiet ..)
  case descriptorFetch => exact fun _ _ _ h => Same.nextQuiet h (State.grantFetch_hide (by decide) ..) (State.grantFetch_quiet ..)
  case descriptorFetchReturn => exact fun _ _ _ _ h => Same.nextQuiet h (State.fetchBack_hide (by decide) ..) (State.fetchBack_quiet ..)
  case descriptorRefetchBackoffExpiry => exact fun _ _ _ h => Same.nextQuiet h (State.refetch_hide (by decide) ..) (State.refetch_quiet ..)
  case descriptorStart => exact fun _ _ _ h => Same.nextQuiet h (by simp) (by simp)
  case requestIssue => exact fun _ _ _ h => Same.nextQuiet h (State.grant_hide (by decide) ..) (State.grant_quiet ..)
  case dataReadReturn => exact fun _ _ _ _ h => Same.next h (State.readBack_hide (by decide) ..)
  case dataWriteAck => exact fun _ _ _ _ h => Same.next h (State.writeBack_hide (by decide) ..)
  case requestTimeout => exact fun _ _ _ h => Same.next h (State.requestLimit_hide (by decide) ..)
  case flagWriteIssue => exact fun _ _ _ h => Same.nextQuiet h (State.issueFlag_hide (by decide) ..) (State.issueFlag_quiet ..)
  case statusBlockWrite => exact fun _ _ _ h => Same.nextQuiet h (State.writeStatus_hide (by decide) ..) (State.writeStatus_quiet ..)
  case ownClearWrite => exact fun _ _ _ _ h => Same.nextQuiet h (State.writeOwn_hide (by decide) ..) (State.writeOwn_quiet ..)
  case completionEntryWrite => exact fun _ _ _ _ h => Same.nextQuiet h (State.writeEntry_hide (by decide) ..) (State.writeEntry_quiet ..)
  case completionEntryAck => exact fun _ _ _ _ h => Same.nextQuiet h (State.endWork_hide (by decide) ..) (State.endWork_quiet ..)
  case consumerWordPoll => exact fun _ _ _ h => Same.nextQuiet h (State.pollConsumer_hide (by decide) ..) (State.pollConsumer_quiet ..)
  case consumerWordReturn => exact fun _ _ _ _ h => Same.nextQuiet h (State.consumerBack_hide (by decide) ..) (State.consumerBack_quiet ..)
  case wcEntryIdleFlush => exact fun _ _ _ h => Same.nextQuiet h (State.idleFlush_hide (by decide) ..) (State.idleFlush_quiet ..)
  case tierCacheFillReturn => exact fun _ _ _ _ h => Same.nextQuiet h (State.fillReturned_hide (by decide) ..) (State.fillReturned_quiet ..)
  case hostSnoop => exact fun _ _ _ _ _ h => Same.next h (State.snoop_hide (by decide) ..)
  case parkDrainComplete => exact fun _ _ _ h => Same.nextQuiet h (State.parkRing_hide (by decide) ..) (State.parkRing_quiet ..)
  case faultRecordAck => exact fun _ _ _ _ _ h => Same.nextQuiet h (State.recordAcked_hide (by decide) ..) (State.recordAcked_quiet ..)
  case parkTimerExpiry => exact fun _ _ _ h => Same.nextQuiet h (State.timerExpired_hide (by decide) ..) (State.timerExpired_quiet ..)
  case ringDrainComplete => exact fun _ _ _ h => Same.nextQuiet h (State.drainRing_hide (by decide) ..) (State.drainRing_quiet ..)

end Sys2Proof.Machine
end

section
/-! SUPPORT. Cold reset and boot (R437, R438, R444, R445): the state a reset starts from, and the state a boot hands to training. -/

namespace Sys2Proof.Machine

/-- The state of a cold reset before the unit words take their hardware causes: every unit at its reset values (R437, R438). -/
def State.coldStart (s : State) (x : Straps) : State :=
  { pending := s.pending, outbox := s.outbox, free := s.draw.2.free, nextReq := s.nextReq, clk := { ticks := s.clk.ticks }, pos := x.pos
    fuses := { groups := x.groups.toNat, modules := x.modules.toNat, halfArray := x.halfArray }
    units := moduleWords, rk := { halfArray := x.halfArray }, ec := { testMode := x.testMode }, px := { rootPort := x.rootPort }
    tally := { epoch := s.draw.1 % 2 ^ 64, selfFail := !x.tallyOk }
    mc := { fw := { active := s.mc.fw.active, svnMin := s.mc.fw.svnMin, raises := s.mc.fw.raises } } }

/-- What follows touches unit words and error lines only. -/
theorem coldReset_same (s : State) (x : Straps) :
    Same [.units, .ec] (s.coldStart x) (s.coldReset x) ∧ (s.coldReset x).quiet = (s.coldStart x).quiet := by
  unfold State.coldReset Same
  dsimp only
  split
  · exact ⟨each_hide _ _ _ _ fun _ _ => by simp, each_same_quiet rfl fun _ _ => by simp⟩
  · rw [State.report_hide (by decide), State.report_quiet]
    exact ⟨each_hide _ _ _ _ fun _ _ => by simp, each_same_quiet rfl fun _ _ => by simp⟩

/-- The state in which a boot starts the training of the modules: the firmware of the chosen bank runs, and its units are ready (R325, R444). -/
def State.booted (s : State) (b0 b1 : Bank) : State :=
  let man := match s.bootChoice b0 b1 with
    | some 0 => b0.manifest
    | some _ => b1.manifest
    | none => []
  let image := match s.bootChoice b0 b1 with
    | some _ => identityImage [(1, Config.certChain), (2, man), (3, Config.tallyCert)]
    | none => identityImage [(1, Config.certChain)]
  let s1 := s.modFw fun f => { f with
    manifest := man, authOk := (s.bootChoice b0 b1).isSome, recovery := (s.bootChoice b0 b1).isNone, bootBank := (s.bootChoice b0 b1).getD f.active }
  { s1 with
    mc := { s1.mc with ready := true, reconcileAt := s.clk.mgt, rd := { s1.mc.rd with st := 1 } }
    px := { s1.px with configReady := true, image := image }
    xl := { s1.xl with ready := true }, ch := { s1.ch with ready := true }, rk := { s1.rk with ready := true } }

/-- Training and the judgement of waiting mailboxes are background effects. -/
theorem romBoot_same {s : State} {b0 b1 : Bank} (h : s.mc.ready = false) :
    Same [.units, .links, .mc, .px, .outbox] (s.booted b0 b1) (s.romBoot b0 b1) ∧ (s.romBoot b0 b1).quiet = (s.booted b0 b1).quiet := by
  unfold State.romBoot Same
  dsimp only
  rw [if_neg (by simp [h])]
  refine ⟨?_, ?_⟩
  · rw [each_hide _ _ _ _ fun _ _ => by simp, each_hide _ _ _ _ fun _ _ => by simp]
    rfl
  · exact (each_same_quiet rfl fun _ _ => by simp).trans (each_same_quiet rfl fun _ _ => by simp)

/-- The firmware that a boot leaves running (R444). -/
theorem booted_fw (s : State) (b0 b1 : Bank) :
    match s.bootChoice b0 b1 with
    | some k => (s.booted b0 b1).mc.fw.authOk = true ∧ (s.booted b0 b1).mc.fw.recovery = false ∧ (s.booted b0 b1).mc.fw.bootBank = k ∧
        (s.booted b0 b1).mc.fw.manifest = if k = 0 then b0.manifest else b1.manifest
    | none => (s.booted b0 b1).mc.fw.authOk = false ∧ (s.booted b0 b1).mc.fw.recovery = true ∧ (s.booted b0 b1).mc.fw.manifest = [] := by
  unfold State.booted
  rcases s.bootChoice b0 b1 with _ | _ | k
  · exact ⟨rfl, rfl, rfl⟩
  · exact ⟨rfl, rfl, rfl, rfl⟩
  · exact ⟨rfl, rfl, rfl, rfl⟩

/-- Settles O1: the rest of a reset and of a boot leaves what the two states above hold. -/
theorem coldResetState : Obligations.ColdResetState := by
  unfold Obligations.ColdResetState
  refine ⟨fun x s => ⟨s.coldReset x, rfl, ?coldReset⟩, fun b0 b1 s hwf hready => ⟨s.romBoot b0 b1, if_pos hwf, ?romBoot⟩⟩
  case coldReset =>
    obtain ⟨hsame, hquiet⟩ := coldReset_same s x
    have hpx := hsame.px (by decide)
    have hmc := hsame.mc (by decide)
    refine ⟨hsame.pos, congrArg (4 + ·) hsame.pos, hsame.fuses, congrArg Px.rootPort hpx, congrArg Ec.testMode (ecRest_eq hquiet),
      hsame.pt (by decide), hsame.xl (by decide), hsame.qc (by decide), hsame.tier (by decide), hsame.ch (by decide),
      hsame.links (by decide), hsame.reqs (by decide), congrArg Mc.ready hmc, congrArg Mc.mode hmc, congrArg Mc.rd hmc,
      congrArg Tally.counters (hsame.tally (by decide)), congrArg (·.fw.svnMin) hmc, hsame.pending⟩
  case romBoot =>
    obtain ⟨hsame, hquiet⟩ := romBoot_same (b0 := b0) (b1 := b1) hready
    refine ⟨ready_eq hquiet, congrArg Px.configReady (pxRest_eq hquiet), congrArg Xl.ready (hsame.xl (by decide)),
      congrArg Chords.ready (hsame.ch (by decide)), congrArg Reck.ready (hsame.rk (by decide)), congrArg (·.st) (rd_eq hquiet), ?_⟩
    rw [fw_eq hquiet]
    exact booted_fw s b0 b1

end Sys2Proof.Machine
end

section
/-! SUPPORT. Doorbells (R107, R108, R111, R112, R161): what a doorbell that passes its checks leaves of its queue. -/

namespace Sys2Proof.Machine

theorem checkDoorbell_passes {s : State} {p w : Nat} (k : State → State) (hst : (s.part p).st = 2) (htag : bits w 56 8 = (s.part p).checkTag) :
    s.checkDoorbell p w k = k s := by
  unfold State.checkDoorbell
  rw [if_neg (by simp [hst]), if_neg (by simp [htag])]

theorem count_qc (s : State) (p code n : Nat) : (s.count p code n).qc = s.qc := qc_eq (by simp)

theorem count_xl (s : State) (p code n : Nat) : (s.count p code n).xl = s.xl := xl_eq (by simp)

theorem count_ch (s : State) (p code n : Nat) : (s.count p code n).ch = s.ch := ch_eq (by simp)

theorem ring_of_qc_eq {s t : State} (h : t.qc = s.qc) (r : Nat) : t.ring r = s.ring r := by
  unfold State.ring
  rw [h]

theorem cell_of_qc_eq {s t : State} (h : t.qc = s.qc) (c : Nat) : t.cell c = s.cell c := by
  unfold State.cell
  rw [h]

theorem invq_of_xl_eq {s t : State} (h : t.xl = s.xl) (p : Nat) : t.invq p = s.invq p := by
  unfold State.invq
  rw [h]

theorem chq_of_ch_eq {s t : State} (h : t.ch = s.ch) (p : Nat) : t.chq p = s.chq p := by
  unfold State.chq
  rw [h]

/-! ## Ring doorbells -/

/-- A ring doorbell that passes the checks of R108 is counted and accepted. -/
theorem ringDoorbell_accepts {s : State} {p j w r : Nat} (hst : (s.part p).st = 2) (htag : bits w 56 8 = (s.part p).checkTag)
    (hr : s.globalRing p j = some r) (h0 : (s.ring r).st ≠ 0) (h6 : (s.ring r).st ≠ 6) (hsize : bits w 0 16 < (s.ring r).size)
    (hdist : (s.ring r).dist ((s.ring r).named w) ≤ (s.ring r).size) :
    s.ringDoorbell p j w = (s.count p 6 1).acceptDoorbell p r w := by
  unfold State.ringDoorbell
  rw [checkDoorbell_passes _ hst htag, hr]
  dsimp only
  rw [if_neg (by simp [h0, h6]), if_neg (by simp; omega)]

theorem moveProducer_ring (s : State) (r x : Nat) :
    ((s.moveProducer r x).ring r).staged = none ∧
      ((s.moveProducer r x).ring r).p = if (s.ring r).moves x then x else (s.ring r).p := by
  unfold State.moveProducer
  rw [modRing_ring, if_pos rfl]
  split <;> exact ⟨rfl, rfl⟩

/-- An accepted doorbell that is not staged moves P as R111 says; what follows only judges what has been fetched. -/
theorem acceptDoorbell_ordinary (s : State) (p r w : Nat) (h : bit w 48 = false) :
    ((s.acceptDoorbell p r w).ring r).staged = none ∧
      ((s.acceptDoorbell p r w).ring r).p = (if (s.ring r).moves ((s.ring r).named w) then (s.ring r).named w else (s.ring r).p) ∧
      ((s.acceptDoorbell p r w).cell (cellOfRing r)).dbAccepted = wrapAdd 64 (s.cell (cellOfRing r)).dbAccepted 1 := by
  unfold State.acceptDoorbell
  dsimp only
  rw [if_neg (by simp [h]), staged_eq (afterDoorbell_fronts ..), p_eq (afterDoorbell_fronts ..), accepted_eq (afterDoorbell_fronts ..)]
  obtain ⟨hstaged, hp⟩ := moveProducer_ring
    ((s.modCell (cellOfRing r) fun c => { c with
      dbAccepted := wrapAdd 64 c.dbAccepted 1
      dbSuperseded := if !bit w 48 && !(s.ring r).moves ((s.ring r).named w) then satAdd 16 c.dbSuperseded 1 else c.dbSuperseded }).modRing r
        fun g => { g with ordinary := some s.clk.fab }) r ((s.ring r).named w)
  refine ⟨hstaged, hp.trans ?_, ?_⟩
  · rw [modRing_ring, if_pos rfl]
    rfl
  · unfold State.moveProducer
    simp

/-- A staged one only stages the position it names (R112). -/
theorem acceptDoorbell_staged (s : State) (p r w : Nat) (h : bit w 48 = true) :
    ((s.acceptDoorbell p r w).ring r).staged = some ((s.ring r).named w) ∧ ((s.acceptDoorbell p r w).ring r).p = (s.ring r).p := by
  unfold State.acceptDoorbell
  dsimp only
  rw [if_pos h, staged_eq (afterDoorbell_fronts ..), p_eq (afterDoorbell_fronts ..)]
  simp

/-! ## The doorbells of the other queues -/

/-- An accepted doorbell of an invalidation queue that names position x: P moves forward to it, and a stopped fetch wakes (R64). -/
def InvQueue.rungTo (q : InvQueue) (x : Nat) : InvQueue :=
  let q1 := if (x + q.m - q.p) % q.m ≤ q.size then { q with p := x } else q
  if q1.st = 2 || q1.st = 3 then { q1 with st := 0, refetch := 0, again := true }
  else if q1.st = 1 && q1.stale then { q1 with refetch := 0, again := true }
  else q1

theorem invDoorbell_accepts {s : State} {p w : Nat} (hst : (s.part p).st = 2) (htag : bits w 56 8 = (s.part p).checkTag)
    (hplaced : (s.invq p).placed = true) (hsize : bits w 0 16 < (s.invq p).size)
    (hdist : ((bits w 16 16 * (s.invq p).size + bits w 0 16) % (s.invq p).m + (s.invq p).m - (s.invq p).c) % (s.invq p).m ≤ (s.invq p).size) :
    (s.invDoorbell p w).invq p = (s.invq p).rungTo ((bits w 16 16 * (s.invq p).size + bits w 0 16) % (s.invq p).m) := by
  unfold State.invDoorbell
  rw [checkDoorbell_passes _ hst htag]
  dsimp only
  rw [if_neg (by simp [hplaced]), if_neg (by simp; omega), modInvq_invq, if_pos rfl, invq_of_xl_eq (count_xl ..)]
  rfl

theorem InvQueue.rungTo_facts (q : InvQueue) (x : Nat) :
    (q.rungTo x).c = q.c ∧ (q.st = 2 ∨ q.st = 3 → (q.rungTo x).st = 0 ∧ (q.rungTo x).refetch = 0) ∧
      ((x + q.m - q.p) % q.m ≤ q.size → (q.rungTo x).p = x) := by
  unfold InvQueue.rungTo
  dsimp only
  refine ⟨?position, fun hs => ?woken, fun hx => ?moved⟩
  case position => split_ifs <;> rfl
  case woken => split_ifs <;> simp_all
  case moved => split_ifs <;> rfl

/-- The same of a chord queue (R161, R162). -/
def ChordQueue.rungTo (q : ChordQueue) (x : Nat) : ChordQueue :=
  let q1 := if (x + q.m - q.p) % q.m ≤ q.size then { q with p := x } else q
  if q1.st = 2 || q1.st = 3 then { q1 with st := 0, refetch := 0, again := true }
  else if q1.st = 1 && q1.stale then { q1 with refetch := 0, again := true }
  else q1

theorem chordDoorbell_accepts {s : State} {p w : Nat} (hst : (s.part p).st = 2) (htag : bits w 56 8 = (s.part p).checkTag)
    (hplaced : (s.chq p).placed = true) (hsize : bits w 0 16 < (s.chq p).size)
    (hdist : ((bits w 16 16 * (s.chq p).size + bits w 0 16) % (s.chq p).m + (s.chq p).m - (s.chq p).c) % (s.chq p).m ≤ (s.chq p).size) :
    (s.chordDoorbell p w).chq p = (s.chq p).rungTo ((bits w 16 16 * (s.chq p).size + bits w 0 16) % (s.chq p).m) := by
  unfold State.chordDoorbell
  rw [checkDoorbell_passes _ hst htag]
  dsimp only
  rw [if_neg (by simp [hplaced]), if_neg (by simp; omega), modChq_chq, if_pos rfl, chq_of_ch_eq (count_ch ..)]
  rfl

theorem ChordQueue.rungTo_facts (q : ChordQueue) (x : Nat) :
    (q.rungTo x).c = q.c ∧ (q.st = 2 ∨ q.st = 3 → (q.rungTo x).st = 0 ∧ (q.rungTo x).refetch = 0) ∧
      ((x + q.m - q.p) % q.m ≤ q.size → (q.rungTo x).p = x) := by
  unfold ChordQueue.rungTo
  dsimp only
  refine ⟨?position, fun hs => ?woken, fun hx => ?moved⟩
  case position => split_ifs <;> rfl
  case woken => split_ifs <;> simp_all
  case moved => split_ifs <;> rfl

/-- Settles O19: each doorbell that passes its checks reduces to the move of its queue, and a bad access is counted. -/
theorem doorbellMovesProducer : Obligations.DoorbellMovesProducer := by
  unfold Obligations.DoorbellMovesProducer
  refine ⟨?ring, ?staged, ?invalidation, ?badWrite, ?chord⟩
  case ring =>
    intro p j w s r hst htag hr h0 h6 hsize hdist hbit
    refine ⟨_, rfl, ?_⟩
    rw [ringDoorbell_accepts hst htag hr h0 h6 hsize hdist]
    have h := acceptDoorbell_ordinary (s.count p 6 1) p r w.toNat hbit
    rwa [ring_of_qc_eq (count_qc ..), cell_of_qc_eq (count_qc ..)] at h
  case staged =>
    intro p j w s r hst htag hr h0 h6 hsize hdist hbit
    refine ⟨_, rfl, ?_⟩
    rw [ringDoorbell_accepts hst htag hr h0 h6 hsize hdist]
    have h := acceptDoorbell_staged (s.count p 6 1) p r w.toNat hbit
    rwa [ring_of_qc_eq (count_qc ..)] at h
  case invalidation =>
    intro p w s hst htag hplaced hsize hdist
    refine ⟨_, rfl, ?_⟩
    dsimp only
    rw [invDoorbell_accepts hst htag hplaced hsize hdist]
    exact InvQueue.rungTo_facts ..
  case badWrite => exact fun p off n s hwf => if_pos hwf
  case chord =>
    intro p w s hst htag hplaced hsize hdist
    refine ⟨_, rfl, ?_⟩
    dsimp only
    rw [chordDoorbell_accepts hst htag hplaced hsize hdist]
    exact ChordQueue.rungTo_facts ..

end Sys2Proof.Machine
end

section
/-! SUPPORT. Descriptor fetches (R115 to R123): what a fetch sends, what its return leaves of the ring, and the descriptor that begins. -/

namespace Sys2Proof.Machine

/-- Settling a ring changes its state and nothing else of it. -/
theorem settleRing_ring (s : State) (r : Nat) : ∃ st, (s.settleRing r).ring r = { s.ring r with st := st } := by
  unfold State.settleRing
  rw [modRing_ring, if_pos rfl]
  split
  · exact ⟨_, rfl⟩
  · exact ⟨_, rfl⟩

theorem modRing_route (s : State) (r : Nat) (f : Ring → Ring) (p pa len : Nat) (w b : Bool) :
    (s.modRing r f).route p pa len w b = s.route p pa len w b := route_congr rfl rfl rfl rfl rfl rfl ..

theorem modCell_route (s : State) (c : Nat) (f : Cell → Cell) (p pa len : Nat) (w b : Bool) :
    (s.modCell c f).route p pa len w b = s.route p pa len w b := route_congr rfl rfl rfl rfl rfl rfl ..

/-- A fetch on a good route is sent, and the rings stay (R29, R116). -/
theorem issueFetch_sent {s : State} {p r x pa : Nat} (h : s.route p ((s.ring r).descPa x) 128 false false = .go .host pa) :
    Sent (s.issueFetch p r x) (.descFetch r x) .read pa 128 [] ∧ (s.issueFetch p r x).qc = s.qc := by
  obtain ⟨hok, hsent⟩ := physRead_sent (unit := cellOfRing r) (pu := .descFetch r x) h
  unfold State.issueFetch
  dsimp only
  rw [if_pos hok]
  exact ⟨hsent, qc_eq (by simp)⟩

theorem grantFetch_sent {s : State} {r p x pa : Nat} {reload : Bool} (hp : s.ringOwner r = some p) (hg : s.fetchGrant r = some reload)
    (hx : s.nextFetch r = some x) (hroute : s.route p ((s.ring r).descPa x) 128 false false = .go .host pa) :
    Sent (s.grantFetch r) (.descFetch r x) .read pa 128 [] := by
  unfold State.grantFetch
  rw [hp, hg, hx]
  refine (Grows.settleRing _ r).sent (issueFetch_sent ?_).1
  rw [modRing_ring, if_pos rfl, modRing_route]
  split
  · exact hroute
  · rw [modCell_ring_of, modCell_route]
    exact hroute

theorem refetch_sent {s : State} {r p n pa : Nat} (hp : s.ringOwner r = some p) (hb : (s.ring r).backoff = some n)
    (hstale : (s.ring r).stale = true) (hn : n ≤ s.clk.fab) (hmay : s.mayIssue p (cellOfRing r) = true) (hout : s.fetchOut r = [])
    (h0 : (s.ring r).st ≠ 0) (h5 : (s.ring r).st ≠ 5) (h6 : (s.ring r).st ≠ 6)
    (hroute : s.route p ((s.ring r).descPa (s.ring r).c) 128 false false = .go .host pa) :
    Sent (s.refetch r) (.descFetch r (s.ring r).c) .read pa 128 [] ∧
      (s.refetch r).ring r = { s.ring r with refetch := (s.ring r).refetch + 1, backoff := none, again := false } := by
  unfold State.refetch
  dsimp only
  rw [hp, hb]
  dsimp only
  rw [if_pos (by simp [hstale, hn, hmay, hout, h0, h5, h6])]
  obtain ⟨hsent, hqc⟩ := issueFetch_sent (s := s.modRing r fun g => { g with refetch := g.refetch + 1, backoff := none, again := false })
    (p := p) (r := r) (x := (s.ring r).c) (pa := pa) (by rw [modRing_ring, if_pos rfl, modRing_route]; exact hroute)
  refine ⟨hsent, ?_⟩
  rw [ring_of_qc_eq hqc, modRing_ring, if_pos rfl]

/-! ## What a fetch returns -/

/-- A fetched line is held under its position. -/
def State.holdLine (s : State) (r x : Nat) (b : Bytes) : State :=
  s.modRing r fun g => { g with fetched := g.fetched ++ [(x, s.clk.fab, b)] }

theorem fetchBack_of_ok {s : State} {id r x p : Nat} {q : Req} {b : Bytes} (hq : s.req id = some q) (hpu : q.purpose = .descFetch r x)
    (hp : s.ringOwner r = some p) :
    s.fetchBack id (.ok b) = ((s.finishReq q).holdLine r x (padTo 128 (s.unseal q.key q.pa b))).judgeRing p r := by
  unfold State.fetchBack
  rw [hq]
  dsimp only
  rw [hpu]
  dsimp only
  unfold State.fetchReturned
  rw [finishReq_ringOwner, hp]
  dsimp only
  rw [finishReq_unseal]
  rfl

theorem judgeHead_of_no_head {s : State} {p r : Nat} (h : (s.ring r).head = none) (n : Nat) : s.judgeHead p r n = s := by
  cases n with
  | zero => rfl
  | succ n =>
    unfold State.judgeHead
    dsimp only
    rw [h]

/-- A line of another position than C's is no head. -/
theorem head_append_of_ne {g : Ring} {x t : Nat} {b : Bytes} (h : g.head = none) (hx : x ≠ g.c) :
    ({ g with fetched := g.fetched ++ [(x, t, b)] } : Ring).head = none := by
  unfold Ring.head at h ⊢
  dsimp only
  split_ifs at h ⊢ with hc
  · rfl
  · rw [List.find?_append, h]
    simp [hx]

/-- With no head to judge, the line just stays. -/
theorem judgeRing_holdLine {s : State} {p r x : Nat} {b : Bytes} (h : (s.ring r).head = none) (hx : x ≠ (s.ring r).c) :
    (s.holdLine r x b).judgeRing p r = (s.holdLine r x b).settleRing r := by
  unfold State.judgeRing
  rw [judgeHead_of_no_head]
  unfold State.holdLine
  rw [modRing_ring, if_pos rfl]
  exact head_append_of_ne h hx

theorem holdLine_ring (s : State) (r x : Nat) (b : Bytes) :
    (s.holdLine r x b).ring r = { s.ring r with fetched := (s.ring r).fetched ++ [(x, s.clk.fab, b)] } := by
  unfold State.holdLine
  rw [modRing_ring, if_pos rfl]

/-- A head of another lap is stale (R115). -/
theorem judgeHead_of_invalid {s : State} {p r x t : Nat} {b : Bytes} (hhead : (s.ring r).head = some (x, t, b))
    (hv : (s.ring r).valid (s.ring r).c b = false) (n : Nat) : s.judgeHead p r (n + 1) = s.staleHead p r t := by
  unfold State.judgeHead
  dsimp only
  rw [hhead]
  dsimp only
  rw [if_pos (by simp [hv])]

/-- Before its eighth refetch a stale head waits for the back-off of 64 x 2^n cycles (R117). -/
theorem staleHead_ring {s : State} {p r t : Nat} (herr : (s.ring r).fetchErr = none) (hagain : (s.ring r).again = false)
    (hfew : (s.ring r).refetch < 8) :
    (s.staleHead p r t).ring r = { s.ring r with fetched := [], stale := true, backoff := some (t + 64 * 2 ^ (s.ring r).refetch) } := by
  unfold State.staleHead
  dsimp only
  rw [if_neg (by simp [herr]), if_neg (by simp [hagain]), if_neg (by omega), modRing_ring, if_pos rfl, modRing_ring, if_pos rfl,
    discardFetches_ring, if_pos rfl]

/-! ## The start -/

/-- The oldest queued descriptor, well formed and no NOP, begins to issue (R121, R123). -/
theorem startWork_busy {s : State} {r p : Nat} {w : Work} (hp : s.ringOwner r = some p) (hmay : s.mayBegin p r = true)
    (hhead : (s.ring r).head = none) (hfind : ((s.ring r).works.find? fun x => x.phase == .queued) = some w) (hw : s.work r w.pos = some w)
    (hok : s.descOk p (s.ring r) w.raw = true) (hop : dOpcode w.raw ≠ 0x01) :
    ∃ x, (s.startWork r).Busy r w.pos x ∧ x.raw = w.raw ∧ (w.refault = false → x.start = s.clk.fab) := by
  unfold State.startWork
  rw [hp]
  dsimp only
  rw [if_neg (by simp [hmay]), judgeHead_of_no_head hhead, hfind]
  dsimp only
  unfold State.beginWork
  dsimp only
  rw [if_neg (by simp [hok])]
  refine ⟨_, judgeRing_busy (settleRing_busy (modWork_busy_self hw (fun _ => rfl) (if_neg hop))), rfl, fun h => ?_⟩
  exact if_neg (by simp [h])

/-- Settles O21, command by command, from what the operations above leave of the ring. -/
theorem descriptorFetching : Obligations.DescriptorFetching := by
  unfold Obligations.DescriptorFetching
  refine ⟨?fetch, ?held, ?stale, ?refetch, ?start⟩
  case fetch => exact fun r s p x pa reload hp hg hx hroute => ⟨_, rfl, grantFetch_sent hp hg hx hroute⟩
  case held =>
    intro id b s q r x p hq hid hpu hp hhead hx
    refine ⟨_, rfl, ?_⟩
    have hring := finishReq_ring s q r
    rw [fetchBack_of_ok hq hpu hp, judgeRing_holdLine (by rw [hring]; exact hhead) (by rw [hring]; exact hx)]
    refine ⟨req_none fun y hy => ?_, ?_⟩
    · rw [← req_id hq]
      exact finishReq_gone s q y hy
    · obtain ⟨st, hst⟩ := settleRing_ring ((s.finishReq q).holdLine r x (padTo 128 (s.unseal q.key q.pa b))) r
      rw [hst, holdLine_ring, finishReq_clk]
      exact List.mem_append_right _ (List.mem_singleton.mpr rfl)
  case stale =>
    intro id b s q r p hq hpu hp hcp herr hempty hagain hfew hv
    refine ⟨_, rfl, ?_⟩
    rw [fetchBack_of_ok hq hpu hp]
    have hring := holdLine_ring (s.finishReq q) r (s.ring r).c (padTo 128 (s.unseal q.key q.pa b))
    rw [finishReq_ring, finishReq_clk, hempty] at hring
    obtain ⟨st, hst⟩ := settleRing_ring (((s.finishReq q).holdLine r (s.ring r).c (padTo 128 (s.unseal q.key q.pa b))).judgeHead p r 2) r
    unfold State.judgeRing
    dsimp only
    rw [hst, judgeHead_of_invalid (x := (s.ring r).c) (t := s.clk.fab) (b := padTo 128 (s.unseal q.key q.pa b))
      (by rw [hring]; simp [Ring.head, hcp, herr]) (by rw [hring]; exact hv),
      staleHead_ring (by rw [hring]; exact herr) (by rw [hring]; exact hagain) (by rw [hring]; exact hfew), hring]
    exact ⟨rfl, rfl, rfl⟩
  case refetch =>
    intro r s p n pa hp hb hstale hn hmay hout h0 h5 h6 hroute
    obtain ⟨hsent, hring⟩ := refetch_sent hp hb hstale hn hmay hout h0 h5 h6 hroute
    refine ⟨_, rfl, hsent, ?_⟩
    rw [hring]
    exact ⟨rfl, rfl⟩
  case start =>
    intro r s p w hp hmay hhead hfind hw hok hop
    obtain ⟨x, hbusy, hraw, hstart⟩ := startWork_busy hp hmay hhead hfind hw hok hop
    obtain ⟨hwork, hphase⟩ := advanceOwner_busy (r' := r) hbusy
    exact ⟨_, rfl, x, hwork, hphase, hraw, hstart⟩

end Sys2Proof.Machine
end

section
/-! SUPPORT. The tier's own paths (R195, R196, R198): an entry that flushes, a host snoop, and the return of a fill. -/

namespace Sys2Proof.Machine

/-- Entry k leaves the write-combining buffer for the pushes, under the next number (R198). -/
def State.toPush (s : State) (k : Nat) : State :=
  { s with tier := { s.tier with
    wc := Tab.put s.tier.wc k default, pushes := Tab.put s.tier.pushes s.tier.next (Tab.at s.tier.wc k), next := s.tier.next + 1 } }

theorem idleFlush_pushes {s : State} {k : Nat} (hv : (Tab.at s.tier.wc k).valid = true) (hidle : (Tab.at s.tier.wc k).last + 256 ≤ s.clk.fab)
    (hkey : (Tab.at s.tier.wc k).key = none) : s.idleFlush k = (s.toPush k).pushEntry s.tier.next (Tab.at s.tier.wc k) := by
  unfold State.idleFlush
  dsimp only
  rw [if_pos (by simp [hv, hidle])]
  unfold State.flushEntry
  dsimp only
  rw [if_neg (by simp [hv]), if_neg (by simp [hkey])]
  rfl

/-! ## Snoops -/

theorem snoop_outbox (s : State) (m pa : Nat) (inv : Bool) :
    (s.snoop m pa inv).outbox = s.outbox ++ [.snoopResponse m (lineOf pa)
      (!inv && !(s.tier.lines.filter fun e => e.2.valid && e.2.pa == lineOf pa).isEmpty)] := by
  unfold State.snoop
  cases inv
  case false => rfl
  case true =>
    have hperf : ∀ l : List (Nat × CacheLine),
        (l.foldl (fun s e => s.tierPerf e.2.part fun t => { t with snoopInv := wrapAdd 64 t.snoopInv 1 }) s).outbox = s.outbox :=
      fun l => outbox_eq (foldl_hide _ _ l s fun _ _ => by simp)
    dsimp only
    rw [if_pos rfl, emit_outbox]
    exact congrArg (· ++ _) (hperf _)

/-- An invalidating snoop removes the line from the cache (R195). -/
theorem snoop_removes (s : State) (m pa k : Nat) (hv : (Tab.at (s.snoop m pa true).tier.lines k).valid = true) :
    (Tab.at (s.snoop m pa true).tier.lines k).pa ≠ lineOf pa := by
  unfold State.snoop at hv ⊢
  dsimp only at hv ⊢
  rw [if_pos rfl, emit_tier] at hv ⊢
  exact removeLine_gone _ _ _ hv

/-! ## Fills -/

/-- The fill's own request has ended, and the fill with it. -/
def State.dropFill (s : State) (id : Nat) (q : Req) : State :=
  { s.finishReq q with tier := { (s.finishReq q).tier with fills := (s.finishReq q).tier.fills.filter fun x => x.id != id } }

/-- A read that ends leaves its number free of requests for good. -/
theorem Fresh.endSrcRead {s : State} {q : Req} {r pos off len : Nat} (h : q.purpose = .srcRead r pos off len) (status : Nat) (timeout : Bool)
    (data : Bytes) : Fresh (s.finishReq q) (s.endRead q status timeout data) := by
  unfold State.endRead
  dsimp only
  rw [h]
  exact ((Grows.srcDone ..).trans (Grows.afterReq ..)).fresh'

theorem Grows.installLine (s : State) (f : Fill) (data : Bytes) : Grows s (s.installLine f data) := .of_hide (by simp [mem_allBut])

/-- A fill that returns for one reader ends both requests (R196). -/
theorem fillReturned_ends {s : State} {id : Nat} {b : Bytes} {f : Fill} {q r : Req} {rg pos off len : Nat}
    (hf : (s.tier.fills.find? fun x => x.id == id) = some f) (hq : s.reqFor (.cacheFill id) = some q) (hqid : q.id < s.nextReq)
    (hreader : (s.reqs.filter fun x => x.id != q.id && f.waiters.contains x.id) = [r]) (hrid : r.id < s.nextReq)
    (hpu : r.purpose = .srcRead rg pos off len) :
    (s.fillReturned id (.ok b)).req q.id = none ∧ (s.fillReturned id (.ok b)).req r.id = none := by
  have hreads : (s.finishReq q).reqs.filter (fun x => f.waiters.contains x.id) = [r] := by
    rw [← hreader, finishReq_reqs, List.filter_filter]
    exact List.filter_congr fun x _ => Bool.and_comm ..
  obtain ⟨u, hu, hgrows⟩ : ∃ u, (∃ d, s.fillReturned id (.ok b) = u.endRead r 0 false d) ∧ Grows (s.dropFill id q) u := by
    unfold State.fillReturned
    rw [hf, hq]
    dsimp only
    rw [hreads]
    refine ⟨_, ⟨_, rfl⟩, ?_⟩
    split
    · exact .installLine ..
    · exact .refl _
  obtain ⟨d, hd⟩ := hu
  have hend := Fresh.endSrcRead (s := u) hpu 0 false d
  rw [hd]
  refine ⟨ended_req (hend.ended ((Fresh.finishReq u r).ended (hgrows.fresh'.ended ?_))), ended_req (hend.ended (finishReq_ended ?_))⟩
  · exact finishReq_ended hqid
  · exact Nat.lt_of_lt_of_le (by simpa [State.dropFill] using hrid) hgrows.next

/-- Settles O24: the flush is a push, the snoop one response after the line is removed, and the return ends the fill and its reader. -/
theorem tierPaths : Obligations.TierPaths := by
  unfold Obligations.TierPaths
  refine ⟨?flush, ?snoop, ?fill⟩
  case flush =>
    intro k s hv hidle hkey
    refine ⟨_, rfl, ?_⟩
    rw [idleFlush_pushes hv hidle hkey]
    obtain ⟨hwc, hpushes, hsent⟩ := pushEntry_does (s.toPush k) s.tier.next (Tab.at s.tier.wc k)
    refine ⟨?_, ?_, hsent⟩
    · rw [hwc]
      exact congrArg WcEntry.valid (Tab.at_put_same s.tier.wc k default)
    · rw [hpushes]
      exact Tab.at_put_same ..
  case snoop =>
    refine fun m pa inv s => ⟨_, rfl, snoop_outbox s m pa.toNat inv, ?_⟩
    rintro rfl k hv
    exact snoop_removes s m pa.toNat k hv
  case fill => exact fun id b s f q r rg pos off len hf hq hqid hreader hrid hpu => ⟨_, rfl, fillReturned_ends hf hq hqid hreader hrid hpu⟩

end Sys2Proof.Machine
end

section
/-! SUPPORT. Page walks (R57 to R63): where a walk starts, what its reads answer, and how it ends. -/

namespace Sys2Proof.Machine

/-- A request that ends changes nothing of translation but what pending invalidations wait for. -/
theorem finishReq_xl (s : State) (q : Req) : ∃ l, (s.finishReq q).xl = { s.xl with invals := l } := by
  unfold State.finishReq
  have hkey : ((s.dropReq q.id).keyGive q.key).xl = s.xl := (xl_eq (by simp)).trans (dropReq_xl s q.id)
  dsimp only
  split
  · exact ⟨s.xl.invals, hkey⟩
  · next sp _ =>
    unfold State.drainSpan
    split
    · exact ⟨s.xl.invals, hkey⟩
    · dsimp only
      rw [hkey]
      exact ⟨_, rfl⟩

@[simp] theorem finishReq_walks (s : State) (q : Req) : (s.finishReq q).xl.walks = s.xl.walks := by
  obtain ⟨l, h⟩ := finishReq_xl s q
  rw [h]

@[simp] theorem finishReq_misses (s : State) (q : Req) : (s.finishReq q).xl.misses = s.xl.misses := by
  obtain ⟨l, h⟩ := finishReq_xl s q
  rw [h]

/-- The walk of a miss that found nothing in the walk cache: it begins at the root. -/
def State.walkAtRoot (s : State) (p : Nat) (m : Miss) : Walk :=
  { id := s.xl.next, part := p, asid := m.asid, va := m.va, write := m.write, dirty := m.dirty
    level := if (Tab.at s.xl.asids m.asid).wide then 5 else 4, u := true, w := true, l1 := s.l1Of m.who p }

/-- The state with a new walk w added, counted for its partition. -/
def State.addWalk (s : State) (p : Nat) (w : Walk) : State :=
  let s1 := s.xlPerf p fun x => { x with walkCount := inc64 x.walkCount }
  { s1 with xl := { s1.xl with walks := s1.xl.walks ++ [w], next := s1.xl.next + 1 } }

theorem startWalk_at_root {s : State} {p : Nat} {m : Miss}
    (hm : (s.xl.misses.find? fun m => m.part == p && !s.xl.walks.any fun w => w.serves m) = some m)
    (hfree : (s.xl.walks.filter fun w => w.part == p).length < 3 * popCount 16 (s.part p).groups) (hhit : s.walkHit p m.asid m.va = none) :
    s.startWalk p = (s.addWalk p (s.walkAtRoot p m)).walkRead s.xl.next (Tab.at s.xl.asids m.asid).root := by
  unfold State.startWalk
  dsimp only
  rw [hm]
  dsimp only
  rw [if_neg (by simp [hfree]), hhit]
  rfl

theorem xlPerf_walks (s : State) (p : Nat) {f : Xl → Xl} (hf : ∀ x, (f x).walks = x.walks) : (s.xlPerf p f).xl.walks = s.xl.walks := by
  unfold State.xlPerf
  split
  · exact hf _
  · rfl

theorem addWalk_walk {s : State} (p : Nat) {w : Walk} (hw : ∀ x ∈ s.xl.walks, x.id ≠ w.id) : (s.addWalk p w).walk w.id = some w := by
  have hperf := xlPerf_walks s p (f := fun x => { x with walkCount := inc64 x.walkCount }) fun _ => rfl
  have hnone : s.xl.walks.find? (fun x => x.id == w.id) = none := List.find?_eq_none.2 fun x hx => by simpa using hw x hx
  unfold State.walk State.addWalk
  dsimp only
  rw [hperf, List.find?_append, hnone]
  simp

/-- The entry a walk read lets the walk go on: present, user, of a leaf a write may use and whose key may be used. -/
theorem walkCheck_passes {s : State} {w : Walk} {e : Nat} (k : State → State) (hp : pteP e = true) (hu : pteU e = true)
    (hl : pteLeaf w.level e = true) (hw : w.write = true → w.w = true ∧ pteW e = true)
    (hj : (leafOf w.asid w.va w.level e true (w.w && pteW e) true).judge w.part w.write ≠ .keyTag) : s.walkCheck w e k = k s := by
  have hwr : ¬(pteLeaf w.level e && w.write && !(w.w && pteW e)) = true := by
    cases h : w.write
    case false => simp
    case true =>
      obtain ⟨h1, h2⟩ := hw h
      simp [h1, h2]
  unfold State.walkCheck
  dsimp only
  rw [if_neg (by simp [hp]), if_neg (by simp [hu]), if_neg hwr, if_neg (by simpa [hl] using hj), if_neg (by simp [hl])]

/-- A walk that has its leaf ends, and the misses left of it are those that need a dirty walk. -/
theorem walkOn_leaf {s : State} {w : Walk} {e : Nat} (hl : pteLeaf w.level e = true) :
    (s.walkOn w e).xl.walks = (s.xl.walks.filter fun x => x.id != w.id) ∧
      ∀ m ∈ (s.walkOn w e).xl.misses, w.serves m = true → m.dirty = true := by
  unfold State.walkOn
  dsimp only
  rw [if_pos hl]
  obtain ⟨hwalks, hmisses⟩ := installLeaf_does s w (leafOf w.asid w.va w.level e (w.u && pteU e) (w.w && pteW e) (pteD e))
  refine ⟨hwalks, fun m hm hserves => ?_⟩
  rw [hmisses, List.mem_filter] at hm
  have h := hm.2
  simp only [hserves, Bool.true_and, Bool.not_or, Bool.not_not, Bool.and_eq_true] at h
  exact h.1

/-- A walk error is latched with its kind, and the walk is gone. -/
theorem walkError_latched {s : State} {w : Walk} (kind : Nat) (h : ∀ m ∈ s.xl.misses, w.serves m = true → ∃ r off, m.who = .cellRead r off) :
    (s.walkError w kind).xlRest = { (s.dropWalk w.id).xlRest with
      errValid := true, errKind := kind, errPart := w.part, errAsid := w.asid, errVa := va57 w.va } := by
  unfold State.walkError State.failWalk
  refine (endMisses_read _ _ _ fun m hm hpick => ?_).trans rfl
  exact h m hm (by simpa using hpick)

theorem Grows.walkOn_leaf {s : State} {w : Walk} {e : Nat} (hl : pteLeaf w.level e = true) : Grows s (s.walkOn w e) := by
  unfold State.walkOn
  dsimp only
  rw [if_pos hl]
  exact .of_hide (by simp [mem_allBut])

/-- The entry is written back with A set, in the line read under ownership. -/
theorem ownedReturned_pushes {s : State} {i : Nat} {b : Bytes} {w : Walk} {q : Req} {e : Nat} (hw : s.walk i = some w)
    (hq : s.reqFor (.ownedRead i) = some q) (he : e = fieldAt (padTo 64 b) (w.entry % 64) 8) (hp : pteP e = true) (hu : pteU e = true)
    (hl : pteLeaf w.level e = true) (hd : w.setD = false) (hwr : w.write = true → w.w = true ∧ pteW e = true)
    (hj : (leafOf w.asid w.va w.level e true (w.w && pteW e) true).judge w.part w.write ≠ .keyTag) :
    Sent (s.ownedReturned i (.ok b)) (.ownedPush i) .write q.pa 64 (overlay (padTo 64 b) (w.entry % 64) (leBytes 8 (e ||| 16))) := by
  have he1 : (if pteP e && (!w.setD || (w.setD && pteW e)) then e ||| 16 ||| (if w.setD && pteW e then 32 else 0) else e) = e ||| 16 := by
    simp [hp, hd]
  have hl1 : pteLeaf w.level (e ||| 16) = true := by
    simp only [pteLeaf, bit_testBit, Nat.testBit_or, Bool.or_eq_true, Bool.and_eq_true] at hl ⊢
    exact hl.imp_right fun ⟨hlevel, hbit⟩ => ⟨hlevel, .inl hbit⟩
  unfold State.ownedReturned
  rw [hw, hq]
  dsimp only
  rw [← he, walkCheck_passes _ hp hu hl hwr hj, he1]
  refine (Grows.walkOn_leaf hl1).sent ?_
  exact send_sent ..

/-- Settles O25: the walk begins at the root, a leaf ends it, a late read latches its error, and A is set by a push under ownership. -/
theorem pageWalks : Obligations.PageWalks := by
  unfold Obligations.PageWalks
  refine ⟨?start, ?leaf, ?late, ?owned⟩
  case start =>
    intro p s m hm hfree hhit hfresh hdie
    refine ⟨_, rfl, ?_⟩
    rw [startWalk_at_root hm hfree hhit]
    exact walkRead_sent (w := s.walkAtRoot p m) (addWalk_walk p hfresh) hdie
  case leaf =>
    intro i b s w q hw hq hp hu hl ha hdirty hwr hj
    refine ⟨_, rfl, ?_⟩
    have h : s.walkReturned i (.ok b) = (s.finishReq q).walkOn w (fieldAt b 0 8) := by
      unfold State.walkReturned
      rw [hw, hq]
      dsimp only
      rw [walkCheck_passes _ hp hu hl hwr hj, if_pos (by simp [ha, hdirty])]
    rw [h]
    obtain ⟨hwalks, hmisses⟩ := walkOn_leaf (s := s.finishReq q) hl
    exact ⟨hwalks.trans (by rw [finishReq_walks]), hmisses⟩
  case late =>
    intro i s w q hw hq hlate hreads
    refine ⟨_, rfl, ?_⟩
    have h : s.walkTimeout i = (s.finishReq q).walkError w 2 := by
      unfold State.walkTimeout
      rw [hw]
      dsimp only [Option.bind]
      rw [hq]
      exact if_pos hlate
    rw [h]
    have herr := walkError_latched (s := s.finishReq q) 2 (by rw [finishReq_misses]; exact hreads)
    refine ⟨congrArg Xl.errValid herr, congrArg Xl.errKind herr, congrArg Xl.errPart herr, congrArg Xl.errAsid herr,
      (congrArg Xl.walks herr).trans ?_⟩
    exact congrArg (List.filter fun x => x.id != w.id) (finishReq_walks s q)
  case owned =>
    intro i b s w q e hw hq he hp hu hl hd hwr hj
    exact ⟨_, rfl, ownedReturned_pushes hw hq he hp hu hl hd hwr hj⟩

end Sys2Proof.Machine
end

section
/-! SUPPORT. Chords (R160 to R177): the reads of a chord's lines, its take, a doorbell chord's commit and the writes that finish it. -/

namespace Sys2Proof.Machine

/-! ## The header -/

theorem physRead_go {s : State} {p unit pa len pa' : Nat} {pu : Purpose} (h : s.route p pa len false false = .go .host pa') :
    s.physRead p unit pa len pu = (true, s.narrowRead { part := p, unit := unit, purpose := pu, pa := pa', len := len }) := by
  unfold State.physRead
  rw [h]

theorem chord_of_ch_eq {s t : State} (h : t.ch = s.ch) (k : Nat) : t.chord k = s.chord k := by
  unfold State.chord
  rw [h]

/-- A header read that is routed to the host is sent, and the queue waits for it. -/
theorem readHeader_does {s : State} {p k pa : Nat} (h : s.route p ((s.chq p).addr (s.chq p).c) 64 false false = .go .host pa) :
    Sent (s.readHeader p k) (.chordHeader k) .read pa 64 [] ∧ (s.readHeader p k).chq p = { s.chq p with st := 1, again := false } ∧
      (s.readHeader p k).chord k = s.chord k := by
  have hch : ∀ r, (s.narrowRead r).ch = s.ch := fun r => ch_eq (by simp)
  unfold State.readHeader
  dsimp only
  rw [physRead_go h]
  dsimp only
  rw [if_pos rfl]
  refine ⟨narrowRead_sent s _, ?_, (modChq_chord_of ..).trans (chord_of_ch_eq (hch _) k)⟩
  rw [modChq_chq, if_pos rfl, chq_of_ch_eq (hch _)]

/-- Slot k is claimed for the chord at C. -/
def State.claimSlot (s : State) (p k : Nat) : State :=
  let s1 := s.modChord k fun _ => { st := 1, stamp := s.ch.next, pos := (s.chq p).c }
  { s1 with ch := { s1.ch with next := s1.ch.next + 1 } }

theorem claimSlot_chord (s : State) (p k : Nat) : (s.claimSlot p k).chord k = { st := 1, stamp := s.ch.next, pos := (s.chq p).c } :=
  Tab.at_upd_same s.ch.slots k fun _ => { st := 1, stamp := s.ch.next, pos := (s.chq p).c }

theorem fetchChord_claims {s : State} {p k : Nat} (hplaced : (s.chq p).placed = true) (hstopped : (s.chq p).stopped = false)
    (hne : (s.chq p).c ≠ (s.chq p).p) (hst : (s.chq p).st = 0) (hmay : s.chMay p = true) (hslot : s.fetchingSlot p = none)
    (hfree : ((chordSlots p).find? fun k => (s.chord k).st == 0) = some k) : s.fetchChord p = (s.claimSlot p k).readHeader p k := by
  unfold State.fetchChord
  dsimp only
  rw [if_neg (by simp [hplaced, hstopped, hne, hst, hmay]), hslot]
  dsimp only
  rw [hfree]
  rfl

/-- One action line of the chord in slot k is read. -/
def State.readChordLine (p k base : Nat) (s : State) (i : Nat) : State :=
  if (s.chord k).st != 1 then s
  else
    let (ok, s2) := s.physRead p 67 (base + 64 * i) 64 (.chordLine k i)
    if ok then s2 else s2.chordFailed p k

theorem readChordLine_go {s : State} {p k base i pa : Nat} (hst : (s.chord k).st = 1)
    (h : s.route p (base + 64 * i) 64 false false = .go .host pa) :
    s.readChordLine p k base i = s.narrowRead { part := p, unit := 67, purpose := .chordLine k i, pa := pa, len := 64 } := by
  unfold State.readChordLine
  rw [if_neg (by simp [hst]), physRead_go h]
  rfl

/-- Every line whose address is routed to the host is read, and the queue and the slots stay. -/
theorem readChordLines_sent {p k base : Nat} : ∀ (l : List Nat) (s : State), (s.chord k).st = 1 →
    (∀ i ∈ l, ∃ pa, s.route p (base + 64 * i) 64 false false = .go .host pa) →
    (l.foldl (State.readChordLine p k base) s).ch = s.ch ∧ Grows s (l.foldl (State.readChordLine p k base) s) ∧
      ∀ i ∈ l, ∃ pa, s.route p (base + 64 * i) 64 false false = .go .host pa ∧
        Sent (l.foldl (State.readChordLine p k base) s) (.chordLine k i) .read pa 64 []
  | [], s, _, _ => ⟨rfl, .refl s, by simp⟩
  | i :: l, s, hst, hl => by
    obtain ⟨pa, hpa⟩ := hl i List.mem_cons_self
    rw [List.foldl_cons, readChordLine_go hst hpa]
    have hch : (s.narrowRead { part := p, unit := 67, purpose := .chordLine k i, pa := pa, len := 64 }).ch = s.ch := ch_eq (by simp)
    obtain ⟨hch', hgrows, hsent⟩ := readChordLines_sent (p := p) (k := k) (base := base) l
      (s.narrowRead { part := p, unit := 67, purpose := .chordLine k i, pa := pa, len := 64 })
      (by rw [chord_of_ch_eq hch]; exact hst)
      (by simpa only [narrowRead_route] using fun j hj => hl j (List.mem_cons_of_mem _ hj))
    refine ⟨hch'.trans hch, (Grows.narrowRead ..).trans hgrows, fun j hj => ?_⟩
    rcases List.mem_cons.1 hj with rfl | hj
    · exact ⟨pa, hpa, hgrows.sent (narrowRead_sent ..)⟩
    · simpa only [narrowRead_route] using hsent j hj

/-- The header `b` of the chord at C is good: it is kept in slot k. -/
def State.keepHeader (s : State) (p k : Nat) (b : Bytes) : State :=
  (s.modChq p fun c => { c with refetch := 0, again := false, stale := false }).modChord k fun x => { x with raw := b }

theorem headerReturned_good {s : State} {p k : Nat} {b : Bytes} {q : Req} (hslot : s.fetchingSlot p = some k)
    (hq : s.reqFor (.chordHeader k) = some q) (hlap : fieldAt (padTo 64 b) 4 2 = (s.chq p).lap (s.chq p).c)
    (hown : bit (byteAt (padTo 64 b) 63) 7 = true) :
    s.headerReturned p (.ok b) = ((List.range (chordLines (padTo 64 b))).map (· + 1)).foldl
      (State.readChordLine p k ((s.chq p).addr (s.chq p).c)) ((s.finishReq q).keepHeader p k (padTo 64 b)) := by
  unfold State.headerReturned
  rw [hslot]
  dsimp only
  rw [hq]
  dsimp only
  rw [finishReq_chq, if_pos (by simp [hlap, hown])]
  rfl

theorem mem_lines_iff {n i : Nat} : i ∈ (List.range n).map (· + 1) ↔ 1 ≤ i ∧ i ≤ n := by
  rw [List.mem_map]
  constructor
  · rintro ⟨j, hj, rfl⟩
    have := List.mem_range.1 hj
    omega
  · rintro ⟨h1, hn⟩
    exact ⟨i - 1, List.mem_range.2 (by omega), by omega⟩

/-! ## Take and commit -/

theorem each_finishReq_same (l : List Req) (s : State) :
    (s.each l fun s q => s.finishReq q).ch = s.ch ∧
      ∀ p j, (s.each l fun s q => s.finishReq q).globalRing p j = s.globalRing p j := by
  unfold State.each
  induction l generalizing s with
  | nil => exact ⟨rfl, fun _ _ => rfl⟩
  | cons q l ih =>
    obtain ⟨hch, hring⟩ := ih (s.finishReq q)
    rw [List.foldl_cons]
    exact ⟨hch.trans (finishReq_ch s q), fun p j => (hring p j).trans (finishReq_globalRing s q p j)⟩

/-- The chord's reads have ended; it is taken with the record b, and C moves past it. -/
def State.chordTaken (s : State) (p k : Nat) (b : Bytes) : State :=
  ((s.each (s.linesOf k) fun s q => s.finishReq q).modChq p fun q => { q with st := 0, c := (q.c + 1) % q.m }).modChord k fun c =>
    { c with st := 2, raw := b, take := s.clk.fab }

theorem chordForeign_congr {s t : State} (h : ∀ p j, t.globalRing p j = s.globalRing p j) (p : Nat) (b : Bytes) :
    t.chordForeign p b = s.chordForeign p b := by
  unfold State.chordForeign
  simp only [h]

theorem takeChord_takes {s : State} {p k : Nat} {lines : List RdRes} {d : Bytes} (hslot : s.fetchingSlot p = some k)
    (hraw : (s.chord k).raw ≠ []) (hhead : s.waitsFor (.chordHeader k) = false) (hlen : (s.linesOf k).length = lines.length)
    (hd : readAll lines = some d) (hbad : chordBad p ((s.chord k).raw ++ d) = none)
    (hforeign : s.chordForeign p ((s.chord k).raw ++ d) = none) :
    s.takeChord p lines = s.chordTaken p k ((s.chord k).raw ++ d) := by
  obtain ⟨_, hring⟩ := each_finishReq_same (s.linesOf k) s
  have hforeign' : (s.chordTaken p k ((s.chord k).raw ++ d)).chordForeign p ((s.chord k).raw ++ d) = none :=
    (chordForeign_congr (s := s) (fun p j => hring p j) p _).trans hforeign
  unfold State.chordTaken at hforeign'
  unfold State.takeChord
  rw [hslot]
  dsimp only
  rw [if_neg (by simp [hraw, hhead, hlen]), hd]
  dsimp only
  rw [hbad, hforeign']
  rfl

theorem chordTaken_facts (s : State) (p k : Nat) (b : Bytes) :
    (s.chordTaken p k b).chord k = { s.chord k with st := 2, raw := b, take := s.clk.fab } ∧
      ((s.chordTaken p k b).chq p).c = ((s.chq p).c + 1) % (s.chq p).m := by
  obtain ⟨hch, _⟩ := each_finishReq_same (s.linesOf k) s
  unfold State.chordTaken
  refine ⟨?_, ?_⟩
  · rw [modChord_chord, if_pos rfl, modChq_chord_of, chord_of_ch_eq hch]
  · rw [modChord_chq_of, modChq_chq, if_pos rfl, chq_of_ch_eq hch]

/-- A doorbell action on an enabled ring of the partition's, to a position within the ring's size, moves P as a doorbell does. -/
theorem applyAction_doorbell {s : State} {p k r : Nat} {acts : List Action} {a : Action} (ht : a.type = .doorbell)
    (hr : s.globalRing p a.target = some r) (h0 : (s.ring r).st ≠ 0) (h6 : (s.ring r).st ≠ 6) (htc : (s.ring r).tc ≠ 2)
    (hsize : fieldAt a.raw 8 2 < (s.ring r).size)
    (hdist : (s.ring r).dist ((fieldAt a.raw 10 2 * (s.ring r).size + fieldAt a.raw 8 2) % (s.ring r).m) ≤ (s.ring r).size) :
    s.applyAction p k acts a = .ok ((s.moveProducer r
      ((fieldAt a.raw 10 2 * (s.ring r).size + fieldAt a.raw 8 2) % (s.ring r).m)).afterDoorbell p r) := by
  unfold State.applyAction
  rw [ht]
  dsimp only
  unfold State.applyAction.onRing
  rw [hr]
  dsimp only
  unfold State.applyRing
  dsimp only
  rw [if_neg (by simp [h0, h6]), if_neg (by simp [htc]), if_neg (by simp; omega)]
  rfl

theorem clk_of_fixed {s t : State} (h : t.fixed = s.fixed) : t.clk = s.clk := congrArg Fixed.clk h

theorem doorbell_keeps (s : State) (p r x : Nat) :
    ((s.moveProducer r x).afterDoorbell p r).clk = s.clk ∧ ((s.moveProducer r x).afterDoorbell p r).ch = s.ch :=
  ⟨clk_of_fixed (by simp), ch_eq (by simp)⟩

/-- The chord unit has begun to evaluate partition p's chord in this cycle. -/
def State.evaluating (s : State) (p : Nat) : State := { s with ch := { s.ch with evalAt := some s.clk.fab, served := p } }

/-- A doorbell chord's action conflicts with no ordinary doorbell when none reached its ring. -/
theorem chordConflict_none {s : State} {p take r : Nat} {a : Action} (hr : s.globalRing p a.target = some r) (ho : (s.ring r).ordinary = none) :
    s.chordConflict p take [a] = none := by
  unfold State.chordConflict
  simp [hr, ho]

theorem commitChord_one {s u : State} {p k : Nat} {a : Action} (hturn : s.chordTurn = some p) (heval : s.ch.evalAt ≠ some s.clk.fab)
    (hhead : s.headChord p = some k) (hacts : chordActions (s.chord k).raw = [a])
    (hconf : (s.evaluating p).chordConflict p (s.chord k).take [a] = none) (happly : (s.evaluating p).applyAction p k [a] a = .ok u) :
    s.commitChord p = ({ u with ch := { u.ch with last := some (s.clk.fab, p) } }).decideChord p k 0 0xFF 0 := by
  unfold State.evaluating at hconf happly
  unfold State.commitChord
  rw [if_neg (by simp [hturn, heval]), hhead]
  dsimp only
  rw [hacts, hconf]
  dsimp only
  unfold State.applyActions
  rw [happly]
  rfl

/-- A decided chord that committed is counted, with its status and cycle; no ring moves. -/
theorem decideChord_commits (s : State) (p k : Nat) :
    (∀ r, (s.decideChord p k 0 0xFF 0).ring r = s.ring r) ∧ ((s.decideChord p k 0 0xFF 0).chord k).status = 0 ∧
      ((s.decideChord p k 0 0xFF 0).chord k).cycle = s.clk.fab ∧
      ((s.decideChord p k 0 0xFF 0).chq p).committed = satAdd 16 (s.chq p).committed 1 ∧ (s.decideChord p k 0 0xFF 0).ch.last = s.ch.last := by
  unfold State.decideChord
  refine ⟨fun r => rfl, ?_, ?_, ?_, rfl⟩
  · rw [modChq_chord_of, modChord_chord, if_pos rfl]
  · rw [modChq_chord_of, modChord_chord, if_pos rfl]
  · rw [modChq_chq, if_pos rfl, if_pos rfl, modChord_chq_of]

/-- A chord whose one action applies commits in this cycle, with status 0. -/
theorem commitChord_facts {s u : State} {p k : Nat} {a : Action} (hturn : s.chordTurn = some p) (heval : s.ch.evalAt ≠ some s.clk.fab)
    (hhead : s.headChord p = some k) (hacts : chordActions (s.chord k).raw = [a])
    (hconf : (s.evaluating p).chordConflict p (s.chord k).take [a] = none) (happly : (s.evaluating p).applyAction p k [a] a = .ok u)
    (hclk : u.clk = s.clk) (hch : u.ch = (s.evaluating p).ch) :
    (∀ r, (s.commitChord p).ring r = u.ring r) ∧ ((s.commitChord p).chord k).status = 0 ∧ ((s.commitChord p).chord k).cycle = s.clk.fab ∧
      ((s.commitChord p).chq p).committed = satAdd 16 (s.chq p).committed 1 ∧ (s.commitChord p).ch.last = some (s.clk.fab, p) := by
  rw [commitChord_one hturn heval hhead hacts hconf happly]
  obtain ⟨hring, hstatus, hcycle, hcount, hlast⟩ := decideChord_commits { u with ch := { u.ch with last := some (s.clk.fab, p) } } p k
  refine ⟨hring, hstatus, hcycle.trans (congrArg Clocks.fab hclk), hcount.trans ?_, hlast⟩
  change satAdd 16 (Tab.at u.ch.queues p).committed 1 = _
  rw [hch]
  rfl

/-! ## Finishing -/

theorem chordAck_ok {s : State} {p : Nat} {pu : Purpose} {q : Req} (hq : s.reqFor pu = some q) : s.chordAck p pu .ok = s.finishReq q := by
  unfold State.chordAck
  rw [hq]
  exact if_pos rfl

theorem chordStatus_writes {s : State} {k : Nat} (hst : (s.chord k).st = 4) (hstep : (s.chord k).step = 0) (hfirst : s.chordFirst k = true)
    (hmay : s.chMay (k / 4) = true) :
    s.chordStatus k = (s.chordWrite (k / 4) ((s.chq (k / 4)).addr (s.chord k).pos + 48) (s.chord k).statusBytes (.chordStatus k)).modChord k
      fun c => { c with step := 1 } := by
  unfold State.chordStatus
  exact if_neg (by simp [hst, hstep, hfirst, hmay])

theorem chordOwn_writes {s : State} {k : Nat} {q : Req} (hst : (s.chord k).st = 4) (hstep : (s.chord k).step = 1)
    (hmay : s.chMay (k / 4) = true) (hq : s.reqFor (.chordStatus k) = some q) :
    s.chordOwn k .ok = ((s.finishReq q).chordWrite (k / 4) ((s.chq (k / 4)).addr (s.chord k).pos + 63) [0] (.chordOwn k)).modChord k
      fun c => { c with step := 2 } := by
  unfold State.chordOwn
  dsimp only
  rw [if_neg (by simp [hst, hstep, hmay]), chordAck_ok hq]

theorem chordNote_writes {s : State} {k : Nat} {q : Req} (hst : (s.chord k).st = 4) (hstep : (s.chord k).step = 2)
    (hmay : s.chMay (k / 4) = true) (hq : s.reqFor (.chordOwn k) = some q) :
    s.chordNote k .ok = (if noteEn (s.chord k).raw then (s.finishReq q).chordWrite (k / 4) (noteAddr (s.chord k).raw)
      ((s.chord k).noteBytes ((s.chord k).pos % (s.chq (k / 4)).size)) (.chordNote (k / 4)) else s.finishReq q).modChord k fun _ => {} := by
  unfold State.chordNote
  dsimp only
  rw [if_neg (by simp [hst, hstep, hmay]), chordAck_ok hq]

/-- Settles O27: the header and every further line are read, the record is taken and applied as one doorbell is, and the three finishing
writes follow each other. -/
theorem chordCommands : Obligations.ChordCommands := by
  unfold Obligations.ChordCommands
  refine ⟨?fetch, ?header, ?backoff, ?take, ?commit, ?timeout, ?status, ?own, ?note⟩
  case fetch =>
    intro p s k pa hplaced hstopped hne hst hmay hslot hfree hroute
    refine ⟨_, rfl, ?_⟩
    rw [fetchChord_claims hplaced hstopped hne hst hmay hslot hfree]
    obtain ⟨hsent, hchq, hchord⟩ := readHeader_does (k := k) (s := s.claimSlot p k)
      ((route_congr rfl rfl rfl rfl rfl rfl ..).trans hroute)
    rw [hchq, hchord, claimSlot_chord]
    exact ⟨hsent, rfl, rfl, rfl⟩
  case header =>
    intro p b s k q hslot hq hst hlap hown hroutes
    refine ⟨_, rfl, ?_⟩
    rw [headerReturned_good hslot hq hlap hown]
    have hroute : ∀ pa, ((s.finishReq q).keepHeader p k (padTo 64 b)).route p pa 64 false false = s.route p pa 64 false false := fun pa =>
      (route_congr rfl rfl rfl rfl rfl rfl ..).trans (finishReq_route ..)
    have hchord : ((s.finishReq q).keepHeader p k (padTo 64 b)).chord k = { s.chord k with raw := padTo 64 b } := by
      unfold State.keepHeader
      rw [modChord_chord, if_pos rfl, modChq_chord_of, finishReq_chord]
    obtain ⟨hch, _, hsent⟩ := readChordLines_sent (p := p) (k := k) (base := (s.chq p).addr (s.chq p).c)
      ((List.range (chordLines (padTo 64 b))).map (· + 1)) ((s.finishReq q).keepHeader p k (padTo 64 b)) (by rw [hchord]; exact hst)
      fun i hi => by
        obtain ⟨h1, hn⟩ := mem_lines_iff.1 hi
        simpa only [hroute] using hroutes i h1 hn
    refine ⟨?_, ?_, fun i h1 hn => by simpa only [hroute] using hsent i (mem_lines_iff.2 ⟨h1, hn⟩)⟩
    · rw [chord_of_ch_eq hch, hchord]
    · rw [chq_of_ch_eq hch]
      unfold State.keepHeader
      rw [modChord_chq_of, modChq_chq, if_pos rfl]
  case backoff =>
    intro p s k pa hslot hst hback hmay hroute
    refine ⟨_, rfl, ?_⟩
    have h : s.refetchChord p = (s.modChq p fun q => { q with refetch := q.refetch + 1 }).readHeader p k := by
      unfold State.refetchChord
      dsimp only
      rw [hslot]
      exact if_pos (by simp [hst, hback, hmay])
    have hchq : (s.modChq p fun q => { q with refetch := q.refetch + 1 }).chq p = { s.chq p with refetch := (s.chq p).refetch + 1 } := by
      rw [modChq_chq, if_pos rfl]
    rw [h]
    obtain ⟨hsent, hchq', _⟩ := readHeader_does (k := k) (pa := pa) (s := s.modChq p fun q => { q with refetch := q.refetch + 1 })
      (by rw [hchq]; exact (route_congr rfl rfl rfl rfl rfl rfl ..).trans hroute)
    dsimp only
    rw [hchq', hchq]
    exact ⟨hsent, rfl, rfl⟩
  case take =>
    intro p lines s k d hslot hraw hhead hlen hd hbad hforeign
    refine ⟨_, rfl, ?_⟩
    rw [takeChord_takes hslot hraw hhead hlen hd hbad hforeign]
    exact chordTaken_facts ..
  case commit =>
    intro p s k r x a hturn heval hhead hacts htype hr hord h0 h6 htc hsize hx hdist
    subst hx
    refine ⟨_, rfl, ?_⟩
    obtain ⟨hclk, hch⟩ := doorbell_keeps (s.evaluating p) p r
      ((fieldAt a.raw 10 2 * (s.ring r).size + fieldAt a.raw 8 2) % (s.ring r).m)
    obtain ⟨hring, hdone⟩ := commitChord_facts hturn heval hhead hacts (chordConflict_none (s := s.evaluating p) hr hord)
      (applyAction_doorbell (s := s.evaluating p) htype hr h0 h6 htc hsize hdist) hclk hch
    refine ⟨?_, hdone⟩
    rw [hring, p_eq (afterDoorbell_fronts ..)]
    exact (moveProducer_ring (s.evaluating p) r _).2
  case timeout =>
    intro k s hst hlate
    refine ⟨_, rfl, ?_⟩
    have h : s.chordTimeout k = s.decideChord (k / 4) k 5 0xFF 0 := if_pos (by simpa [hst] using hlate)
    rw [h]
    unfold State.decideChord
    simp
  case status =>
    intro k s pa ro hst hstep hfirst hmay hdie hroute
    refine ⟨_, rfl, ?_⟩
    rw [chordStatus_writes hst hstep hfirst hmay]
    exact ⟨chordWrite_sent hdie hroute, by simp⟩
  case own =>
    intro k s q pa ro hst hstep hmay hq hdie hroute
    refine ⟨_, rfl, ?_⟩
    rw [chordOwn_writes hst hstep hmay hq]
    exact ⟨chordWrite_sent (d := [0]) hdie ((finishReq_route ..).trans hroute), by simp⟩
  case note =>
    intro k s q pa ro hst hstep hmay hq hdie hroute
    refine ⟨_, rfl, ?_⟩
    rw [chordNote_writes hst hstep hmay hq]
    refine ⟨by simp, fun hnote => ?_⟩
    rw [if_pos hnote]
    exact chordWrite_sent hdie ((finishReq_route ..).trans hroute)

end Sys2Proof.Machine
end

section
/-! SUPPORT. Jobs (R203 to R232): a descriptor that becomes a job, its norm, its start, and its tiles. -/

namespace Sys2Proof.Machine

/-! ## From descriptor to job -/

/-- The job that the head descriptor of ring r becomes. -/
def State.jobOf (s : State) (r : Nat) (b : Bytes) : Job :=
  { live := true, stamp := s.rk.next, ring := r, pos := (s.ring r).c, index := (s.ring r).c % (s.ring r).size, asid := (s.ring r).asid
    phys := (s.ring r).phys, raw := b, pass := (passesOf b).headD 4, hint := dHint b }

/-- The head descriptor of ring r is consumed, and entry e holds the job. -/
def State.acceptJob (s : State) (r e : Nat) (b : Bytes) : State :=
  let s1 := s.consumeUpdate r b
  ({ s1 with rk := { s1.rk with next := s1.rk.next + 1 } } : State).modJob e fun _ => s.jobOf r b

theorem passUpdate_accepts {s : State} {r p e i k : Nat} {b : Bytes} (hown : s.ringOwner r = some p)
    (hb : ((s.ring r).fetched.find? fun x => x.1 == (s.ring r).c) = some (i, k, b)) (htc : (s.ring r).tc = 2) (hne : (s.ring r).c ≠ (s.ring r).p)
    (hv : (s.ring r).valid (s.ring r).c b = true) (hst : (s.ring r).st = 2) (herr : (s.ring r).fetchErr ≠ some (s.ring r).c)
    (hmay : s.mayStart p (cellOfRing r) = true) (hwait : (s.ring r).entryWaits = false) (hdtc : dTc b = 2)
    (hok : updateOk (s.ring r).phys b = true) (hfree : s.freeEntry p = some e) :
    s.passUpdate r = (s.acceptJob r e b).judgeRing p r := by
  unfold State.passUpdate
  dsimp only
  rw [hown, hb]
  dsimp only
  rw [if_neg (by simp [htc, hne, hv, hst, herr, hmay, hwait]), if_neg (by simp [hdtc, hok]), hfree]
  rfl

/-! ## The norm of a job -/

/-- The access that reads the norm table of job j in entry e. -/
def Job.normAccess (j : Job) (e : Nat) : Access :=
  { j.access e 7 0 (8 * uMembers j.raw) [] false with purpose := .normTable e, span := none }

theorem readNorm_sent {s : State} {e ch pa : Nat} (hlive : (s.job e).live = true) (hphase : (s.job e).phase = .waiting)
    (hrep : (s.job e).repair = none) (hop : isOptimizer (dOpcode (s.job e).raw) = true) (hclip : uClip (s.job e).raw = 2)
    (hdone : (s.job e).normDone = false) (hat : (s.job e).normAt = none) (hturn : s.turnOf e = true) (hmay : s.rkMayIssue (partOfJob e) = true)
    (hwait : s.waitsFor (.normTable e) = false) (hmiss : s.missing (.jobRead e 7 0 (8 * uMembers (s.job e).raw)) = false)
    (hphys : (s.job e).phys = true) (hdie : dieOf ((s.job e).addr 7 0 % 2 ^ 52) = s.dieId)
    (hroute : s.route (partOfJob e) ((s.job e).addr 7 0 % 2 ^ 52) (8 * uMembers (s.job e).raw) false (s.peerUp (partOfJob e)) =
      .go (.fabric ch) pa)
    (hheld : s.lineHeld 64 pa = false) (htok : s.tokensOk (partOfJob e) 3 (8 * uMembers (s.job e).raw) = true) :
    Sent (s.readNorm e) (.normTable e) .read pa (8 * uMembers (s.job e).raw) [] ∧ ((s.readNorm e).job e).normAt = some s.clk.fab ∧
      ((s.readNorm e).job e).normFrom = some ((s.job e).normFrom.getD s.clk.fab) := by
  have h25 : dOpcode (s.job e).raw ≠ 0x25 := by
    intro h
    simp [h, isOptimizer] at hop
  have hwant : (s.job e).want 7 = 2 := by simp [Job.want, hrep, h25]
  have hva : ((s.job e).normAccess e).va = (s.job e).addr 7 0 := by simp [Job.normAccess, Job.access, hrep]
  have hkeep : ((s.modJob e fun j => { j with normFrom := some (j.normFrom.getD s.clk.fab) }).access ((s.job e).normAccess e)).2.clk = s.clk :=
    clk_of_fixed (by simp)
  have hjob := (access_job (s.modJob e fun j => { j with normFrom := some (j.normFrom.getD s.clk.fab) }) ((s.job e).normAccess e) e).trans
    (modJob_at ..)
  obtain ⟨hv, hsent⟩ := access_fabric_read (s := s.modJob e fun j => { j with normFrom := some (j.normFrom.getD s.clk.fab) })
    (a := (s.job e).normAccess e) (ch := ch) (pa := pa) (by simp [Job.normAccess, Job.access, hphys]) rfl (fun _ => by rw [hva]; exact hdie)
    (.inr hwant) (by rw [hva]; exact (route_congr rfl rfl rfl rfl rfl rfl ..).trans hroute) hheld htok
  have h : s.readNorm e = ((s.modJob e fun j => { j with normFrom := some (j.normFrom.getD s.clk.fab) }).access
      ((s.job e).normAccess e)).2.modJob e fun j => { j with normAt := some s.clk.fab } := by
    unfold State.readNorm
    dsimp only
    rw [hat, if_neg (by simp [hlive, hphase, hop, hclip, hdone, hturn, hmay, hwait, hmiss])]
    unfold Job.normAccess at hv
    rw [hv]
    rfl
  rw [h]
  refine ⟨hsent, ?_, ?_⟩ <;> rw [modJob_at]
  rw [hjob]

/-- A partial sum of norms takes the next member's norm (R217). -/
def addNorm (a : Option Nat) (x : Nat × Nat) : Option Nat :=
  match a with
  | none => some x.1
  | some y => some (fadd y x.1)

theorem foldl_addNorm_some (l : List (Nat × Nat)) (x : Nat) : l.foldl addNorm (some x) = some (l.foldl (fun a y => fadd a y.1) x) := by
  induction l generalizing x with
  | nil => rfl
  | cons y l ih => exact ih _

theorem normReturned_sums {s : State} {q : Req} {e : Nat} {data : Bytes} (hlive : (s.job e).live = true)
    (hphase : (s.job e).phase = .waiting) (hstep : ∀ k < uMembers (s.job e).raw, fieldAt data (8 * k + 4) 4 = uStep (s.job e).raw) :
    ((s.normReturned q e 0 false data).job e).normDone = true ∧ ((s.normReturned q e 0 false data).job e).sc.norm =
      (List.range (uMembers (s.job e).raw - 1)).foldl (fun a k => fadd a (fieldAt data (8 * (k + 1)) 4)) (fieldAt data 0 4) := by
  unfold State.normReturned
  dsimp only
  rw [if_neg (by simp [hlive, hphase]), if_neg (by decide), if_pos ?all, modJob_at]
  case all =>
    rw [List.all_map, List.all_eq_true]
    intro k hk
    simpa using hstep k (List.mem_range.1 hk)
  refine ⟨rfl, ?_⟩
  have hn : uMembers (s.job e).raw = (uMembers (s.job e).raw - 1) + 1 := rfl
  change (((List.range (uMembers (s.job e).raw)).map fun k => (fieldAt data (8 * k) 4, fieldAt data (8 * k + 4) 4)).foldl addNorm none).getD 0 = _
  rw [hn, List.range_succ_eq_map, List.map_cons, List.foldl_cons]
  change ((List.foldl addNorm (some _) _).getD 0) = _
  rw [foldl_addNorm_some, List.map_map, List.foldl_map]
  rfl

/-! ## Tiles -/

/-- The job with its reads computed and its tile's writes queued, before it prunes its buffer. -/
def Job.tileDone (j : Job) (d : Nat) (ts : List JobTile) : Job := { (j.compute d).1 with tile := j.tile + 1, tiles := ts }

/-- A tile that is not the pass's last moves the job to the next. -/
theorem tileDone_steps {j : Job} (d : Nat) (ts : List JobTile) (h : j.tile + 1 < j.tileCount) :
    ((j.tileDone d ts).pruned.nextPass).live = j.live ∧ ((j.tileDone d ts).pruned.nextPass).tile = j.tile + 1 := by
  have hwhat := compute_what j d
  have hcount : (j.tileDone d ts).pruned.tileCount = j.tileCount := congrArg (fun x : Bool × Bytes => ceilDiv (uN x.2) tileSize) hwhat
  have hne : (j.tileDone d ts).pruned.tile ≠ (j.tileDone d ts).pruned.tileCount := by
    rw [hcount]
    exact Nat.ne_of_lt h
  rw [nextPass_same hne]
  exact ⟨congrArg Prod.fst hwhat, rfl⟩

theorem computeTile_steps {s : State} {e : Nat} (hmay : s.jobMayIssue e = true) (hrep : (s.job e).repair = none) (hpass : (s.job e).pass ≠ 3)
    (htile : (s.job e).tile + 1 < (s.job e).tileCount) (hread : (s.job e).tileRead ((s.job e).reads (s.job e).tile) = true)
    (hcomp : (s.job e).mayCompute = true) (hskip : (s.job e).sc.skipped = false) :
    ((s.computeTile e).job e).live = true ∧ ((s.computeTile e).job e).tile = (s.job e).tile + 1 := by
  have hlive : (s.job e).live = true := by
    unfold State.jobMayIssue at hmay
    simp only [Bool.and_eq_true] at hmay
    exact hmay.1.1.1.1
  obtain ⟨u, ts, hu⟩ : ∃ (u : State) (ts : List JobTile), s.computeTile e =
      (u.modJob e fun _ => ((s.job e).tileDone s.free ts).pruned.nextPass).jobDrain e := by
    unfold State.computeTile
    dsimp only
    rw [if_neg (by simp [hmay, hrep, hpass, hread, hcomp, hskip]; omega), if_neg (by simp; omega)]
    exact ⟨_, _, rfl⟩
  obtain ⟨hlive', htile'⟩ := tileDone_steps s.free ts htile
  rw [hu, live_of (jobDrain_cores ..), tile_of (jobDrain_cores ..), modJob_at]
  exact ⟨hlive'.trans hlive, htile'⟩

theorem count_rk (s : State) (p code n : Nat) : (s.count p code n).rk = s.rk := rk_eq (by simp)

/-- The elements of a tile of the last pass are counted. -/
theorem countElements_rk {s : State} {e k : Nat} (h : (s.job e).pass = 4 ∨ (s.job e).pass = 5) :
    (s.countElements e k).rk = { s.rk with elements := wrapAdd 64 s.rk.elements (((s.job e).elems k).2 - ((s.job e).elems k).1) } := by
  unfold State.countElements
  dsimp only
  rw [if_pos (by simpa using h)]
  exact count_rk ..

/-- Settles O28: each command passes its guards, and the job it leaves is read off the operation. -/
theorem jobStages : Obligations.JobStages := by
  unfold Obligations.JobStages
  refine ⟨?pass, ?normRead, ?normReturn, ?normLimit, ?start, ?tileReads, ?tileWrites⟩
  case pass =>
    intro r s p e i k b hown hb htc hne hv hst herr hmay hwait hdtc hok hfree
    refine ⟨_, rfl, ?_⟩
    rw [passUpdate_accepts hown hb htc hne hv hst herr hmay hwait hdtc hok hfree]
    have hrk : ((s.acceptJob r e b).judgeRing p r).rk = (s.acceptJob r e b).rk := rk_eq (by simp)
    have hjob : (s.acceptJob r e b).job e = s.jobOf r b := modJob_at ..
    dsimp only
    rw [job_of_rk hrk, hjob, hrk]
    exact ⟨rfl, rfl, rfl, rfl, rfl, rfl, rfl⟩
  case normRead =>
    intro e s ch pa hlive hphase hrep hop hclip hdone hat hturn hmay hwait hmiss hphys hdie hroute hheld htok
    exact ⟨_, rfl, readNorm_sent hlive hphase hrep hop hclip hdone hat hturn hmay hwait hmiss hphys hdie hroute hheld htok⟩
  case normReturn =>
    intro id b s q e hq hpu hkind hkey hhit hpeer hfill hlive hphase hstep
    refine ⟨_, rfl, ?_⟩
    have hjob : (s.finishReq q).job e = s.job e := job_of_rk (finishReq_rk s q) e
    have h : s.normBack id (.ok b) = ((s.finishReq q).normReturned q e 0 false (padTo q.len b)).afterReq q := by
      unfold State.normBack
      rw [hq]
      dsimp only
      rw [hpu]
      dsimp only
      unfold State.dataReturned
      rw [if_neg (by simp [hkind, hfill, hpeer]), hpu]
      dsimp only
      unfold State.dataReturned.ended
      rw [if_neg (by simp [hhit]), hkey]
      unfold State.endRead
      dsimp only
      rw [hpu]
      rfl
    have hrk : ∀ u : State, (u.afterReq q).rk = u.rk := fun u => rk_eq (by simp)
    dsimp only
    rw [h, job_of_rk (hrk _)]
    rw [← hjob] at hlive hphase hstep ⊢
    exact normReturned_sums hlive hphase hstep
  case normLimit =>
    intro e s c hfrom hlive hphase hdone hlimit hlate
    refine ⟨_, rfl, ?_⟩
    unfold State.normLimit
    dsimp only
    rw [hfrom]
    dsimp only
    rw [if_pos (by simpa [hlive, hphase, hdone, hlimit] using hlate)]
    refine ⟨Tab.at_put_same s.rk.limitHit (partOfJob e) true, ?_, ?_, rfl⟩
    · exact congrArg Job.normLimit (modJob_at s e fun j => { j with normLimit := true })
    · exact (congrArg Job.live (modJob_at s e fun j => { j with normLimit := true })).trans hlive
  case start =>
    intro e s hlive hphase hrep hturn hmay hopt hres
    refine ⟨_, rfl, ?_⟩
    have hnorm : (isOptimizer (dOpcode (s.job e).raw) && uClip (s.job e).raw == 2 && !(s.job e).normDone) = false := by
      cases h : isOptimizer (dOpcode (s.job e).raw)
      case false => rfl
      case true => simp [(hopt h).1]
    have htab : (isOptimizer (dOpcode (s.job e).raw) && (Tab.at s.rk.scheds (4 * partOfJob e + uSched (s.job e).raw)).isEmpty) = false := by
      cases h : isOptimizer (dOpcode (s.job e).raw)
      case false => rfl
      case true => simpa using (hopt h).2
    unfold State.startJob
    dsimp only
    rw [if_neg ?guards, if_neg (by simp [htab]), modJob_at]
    case guards =>
      simp only [hlive, hphase, hrep, hturn, hmay, hnorm]
      simpa using hres
    exact ⟨rfl, rfl, rfl, rfl⟩
  case tileReads =>
    intro e s hmay hrep hpass htile hread hcomp hskip
    refine ⟨_, rfl, ?_⟩
    have h : s.tileReads e = s.computeTile e := if_neg (by simp [hrep])
    rw [h]
    exact computeTile_steps hmay hrep hpass htile hread hcomp hskip
  case tileWrites =>
    intro e s x rest htiles hlive hphase htodo hout hrep hpass
    refine ⟨_, rfl, ?_⟩
    have h : s.tileAcks e = (s.countElements e x.k).modJob e fun j => ({ j with tiles := rest }.nextPass).nextStep s.rk.halfArray := by
      refine (if_neg (by simp [hrep])).trans ?_
      unfold State.ackTile
      dsimp only
      rw [htiles]
      exact if_neg (by simp [hlive, hphase, htodo, hout, hrep])
    dsimp only
    rw [h, modJob_at, nextStep_tiles, nextPass_tiles]
    exact ⟨rfl, congrArg Reck.elements (countElements_rk hpass)⟩

end Sys2Proof.Machine
end

section
/-! SUPPORT. How a job ends (R214, R234, R269): its fingerprints, its parking and its return; and the steps of the array (R236 to R249). -/

namespace Sys2Proof.Machine

/-! ## Outcomes -/

/-- The access that writes the fingerprint of region k. -/
def Job.fpAccess (j : Job) (e k crc : Nat) : Access := { j.access e 5 (8 * k) 8 (leBytes 8 crc) true with purpose := .fingerprint e k }

theorem writeFingerprint_sent {s : State} {e k crc ch pa : Nat} (hfp : ((s.job e).fps.find? fun x => x.1 == k) = some (k, crc))
    (hmay : s.jobMayIssue e = true) (hrep : (s.job e).repair = none) (hack : (s.job e).regionAcked k = true)
    (hmiss : s.missing (.jobWrite e) = false) (hphys : (s.job e).phys = true) (hdie : dieOf ((s.job e).addr 5 (8 * k) % 2 ^ 52) = s.dieId)
    (hroute : s.route (partOfJob e) ((s.job e).addr 5 (8 * k) % 2 ^ 52) 8 true (s.peerUp (partOfJob e)) = .go (.fabric ch) pa)
    (hmask : maskRange ((s.job e).addr 5 (8 * k) % 64) 8 ≠ 0)
    (htok : s.tokensOk (partOfJob e) 4 (popCount 64 (maskRange ((s.job e).addr 5 (8 * k) % 64) 8)) = true) :
    Sent (s.writeFingerprint e k) (.fingerprint e k) .write pa 8 (leBytes 8 crc) ∧
      ((s.writeFingerprint e k).job e).fps = (s.job e).fps.filter fun x => x.1 != k := by
  have hva : ((s.job e).fpAccess e k crc).va = (s.job e).addr 5 (8 * k) := by simp [Job.fpAccess, Job.access]
  obtain ⟨hv, hsent⟩ := access_own_write (s := s) (a := (s.job e).fpAccess e k crc) (ch := ch) (pa := pa)
    (by simp [Job.fpAccess, Job.access, hphys]) rfl (fun _ => by rw [hva]; exact hdie) (.inr rfl) (by rw [hva]; exact hroute)
    (by simpa [Job.fpAccess, Job.access] using hmask) (by simpa [Job.fpAccess, Job.access] using htok)
  have h : s.writeFingerprint e k = (s.access ((s.job e).fpAccess e k crc)).2.modJob e fun j =>
      { j with fps := j.fps.filter fun x => x.1 != k }.nextPass := by
    unfold State.writeFingerprint
    dsimp only
    rw [hfp]
    dsimp only
    rw [if_neg (by simp [hmay, hrep, hack, hmiss])]
    unfold Job.fpAccess at hv
    rw [hv]
    rfl
  rw [h, modJob_at, nextPass_fps, access_job]
  exact ⟨hsent, rfl⟩

/-- The record of a parked job. -/
def Job.parkRecord (j : Job) (p : Nat) (f : FaultEv) : ParkSlot :=
  { part := p, ring := j.ring, descIndex := j.index, linear := j.cursor + (j.repair.getD {}).first, fault := f, more := j.more
    flags := b2n j.refault, repair := j.repair.isSome }

/-- A faulted job that has drained is parked; while the fault queue is full its record is held. -/
theorem parkJob_holds {s : State} {e : Nat} {f : FaultEv} (hf : (s.job e).fault = some f) (hlive : (s.job e).live = true)
    (hphase : (s.job e).phase = .draining) (hbad : (s.job e).bad = none) (hout : s.jobOut e = false)
    (hfull : (s.fq (partOfJob e)).full = true) :
    s.parkJob e = ((s.fillSlot (16384 + partOfJob e) ((s.job e).parkRecord (partOfJob e) f)).modJob e fun j =>
      { j with phase := .parked, rd := [], got := [], buf := [], fault := none, more := false }).holdRecord (partOfJob e)
        (16384 + partOfJob e) := by
  unfold State.parkJob
  dsimp only
  rw [hf]
  dsimp only
  rw [if_neg (by simp [hlive, hphase, hbad, hout])]
  exact if_pos hfull

theorem holdRecord_slot (s : State) (p k : Nat) : (s.holdRecord p k).slot k = { s.slot k with held := true } := by
  unfold State.holdRecord
  rw [modFq_slot_of, modSlot_slot, if_pos rfl]

theorem fillSlot_slot (s : State) (k : Nat) (x : ParkSlot) :
    (s.fillSlot k x).slot k = { x with
      valid := true, gen := ((s.slot k).gen + 1) % 256, expired := (s.slot k).expired, stamp := s.xl.next, parkCycle := s.clk.fab % 2 ^ 32 } := by
  unfold State.fillSlot
  exact (modSlot_slot s k k _).trans (if_pos rfl)

/-- What a WC_CHECK gives rise to leaves the jobs and their counts. -/
theorem afterCheck_keeps (s : State) (p : Nat) (j : Job) :
    (s.afterCheck p j).rk.jobs = s.rk.jobs ∧ (s.afterCheck p j).rk.finished = s.rk.finished := by
  have hplace : ∀ (t : State) (n g m x : Nat), (t.placeRepair p n g m x).2.rk.jobs = t.rk.jobs ∧
      (t.placeRepair p n g m x).2.rk.finished = t.rk.finished := by
    intro t n g m x
    unfold State.placeRepair
    dsimp only
    split
    · exact ⟨rfl, rfl⟩
    · split <;> exact ⟨rfl, rfl⟩
  have heach : ∀ (n : Nat) (l : List (Nat × Nat)) (t : State),
      (t.each l fun s r => (s.placeRepair p n r.1 0 r.2).2).rk.jobs = t.rk.jobs ∧
        (t.each l fun s r => (s.placeRepair p n r.1 0 r.2).2).rk.finished = t.rk.finished := by
    intro n l
    unfold State.each
    induction l with
    | nil => exact fun t => ⟨rfl, rfl⟩
    | cons r l ih => exact fun t => ⟨(ih _).1.trans (hplace ..).1, (ih _).2.trans (hplace ..).2⟩
  unfold State.afterCheck
  split
  · exact ⟨rfl, rfl⟩
  split
  · split
    · split
      · exact heach ..
      · exact ⟨rfl, rfl⟩
    · exact ⟨rfl, rfl⟩
  · split <;> exact ⟨rfl, rfl⟩

/-- A job that finished without an error is counted for its partition. -/
theorem countJob_rk {s : State} {p : Nat} {j : Job} (hbad : j.bad = none) :
    (s.countJob p j).rk.jobs = s.rk.jobs ∧ (s.countJob p j).rk.finished = Tab.upd s.rk.finished p fun n => satAdd 16 n 1 := by
  unfold State.countJob
  dsimp only
  rw [hbad]
  exact ⟨rfl, rfl⟩

theorem giveBack_rk (s : State) (p r pos : Nat) (res : JobResult) (mute : Bool) : (s.giveBack p r pos res mute).rk = s.rk := rk_eq (by simp)
theorem reportJob_rk (s : State) (p : Nat) (j : Job) : (s.reportJob p j).rk = s.rk := rk_eq (by simp)

theorem returnJob_gives {s : State} {e : Nat} (hlive : (s.job e).live = true) (hrep : (s.job e).repair = none)
    (hphase : (s.job e).phase = .running) (hdone : (s.job e).complete = true) (hout : s.jobOut e = false)
    (hfence : ∀ id ∈ (s.job e).fence, s.isOut id = false) :
    s.returnJob e = ((((s.modJob e fun _ => {}).reportJob (partOfJob e) (s.job e)).countJob (partOfJob e) (s.job e)).afterCheck (partOfJob e)
      (s.job e)).giveBack (partOfJob e) (s.job e).ring (s.job e).pos (s.job e).result (s.job e).mute := by
  have hall : ((s.job e).fence.all fun id => !s.isOut id) = true := List.all_eq_true.2 fun id hid => by simp [hfence id hid]
  unfold State.returnJob
  exact if_neg (by simp [hlive, hrep, hphase, hdone, hout, hall])

/-- Settles O29: the fingerprint is one write of this die, a job parks with a held record, and a returned one leaves its entry counted. -/
theorem jobOutcomes : Obligations.JobOutcomes := by
  unfold Obligations.JobOutcomes
  refine ⟨?fingerprint, ?park, ?back⟩
  case fingerprint =>
    intro e k crc s ch pa hfp hmay hrep hack hmiss hphys hdie hroute hmask htok
    exact ⟨_, rfl, writeFingerprint_sent hfp hmay hrep hack hmiss hphys hdie hroute hmask htok⟩
  case park =>
    intro e s f hf hlive hphase hbad hout hfull
    refine ⟨_, rfl, ?_⟩
    dsimp only
    rw [parkJob_holds hf hlive hphase hbad hout hfull, holdRecord_slot]
    have hslot := fillSlot_slot s (16384 + partOfJob e) ((s.job e).parkRecord (partOfJob e) f)
    have hjob := modJob_at (s.fillSlot (16384 + partOfJob e) ((s.job e).parkRecord (partOfJob e) f)) e fun j =>
      { j with phase := .parked, rd := [], got := [], buf := [], fault := none, more := false }
    exact ⟨congrArg Job.phase hjob, congrArg Job.fault hjob, congrArg ParkSlot.valid hslot, congrArg ParkSlot.gen hslot,
      congrArg ParkSlot.fault hslot, rfl⟩
  case back =>
    intro e s hlive hrep hphase hdone hout hfence hbad
    refine ⟨_, rfl, ?_⟩
    dsimp only
    obtain ⟨hjobs, hfin⟩ := countJob_rk (s := (s.modJob e fun _ => {}).reportJob (partOfJob e) (s.job e)) (p := partOfJob e) hbad
    obtain ⟨hjobs', hfin'⟩ := afterCheck_keeps
      (((s.modJob e fun _ => {}).reportJob (partOfJob e) (s.job e)).countJob (partOfJob e) (s.job e)) (partOfJob e) (s.job e)
    rw [returnJob_gives hlive hrep hphase hdone hout hfence, job_of_rk (giveBack_rk ..), giveBack_rk, job_of_jobs (hjobs'.trans hjobs),
      job_of_rk (reportJob_rk ..), modJob_at, hfin', hfin, reportJob_rk]
    exact ⟨rfl, Tab.at_upd_same ..⟩

/-! ## The array -/

/-- Settles O30: the chunk, the tile and the buffer are what the array's operations leave, and the report is the message sent. -/
theorem arraySteps : Obligations.ArraySteps := by
  unfold Obligations.ArraySteps
  refine ⟨?chunk, ?finish, ?output, ?report⟩
  case chunk =>
    intro e q s harray hready hturn hq hread
    have hjob : s.arrayJob e = true := by
      unfold State.arrayReady at hready
      simp only [Bool.and_eq_true] at hready
      exact hready.1.1
    refine ⟨_, rfl, ?_⟩
    unfold State.startChunk
    dsimp only
    rw [harray]
    dsimp only
    rw [if_pos (by simp [hready, hturn])]
    dsimp only
    rw [if_neg (by simpa [hjob, hread] using hq), count_rk]
    exact ⟨rfl, _, rfl, rfl, rfl, rfl, rfl⟩
  case finish =>
    intro s x harray hlen huntil hbufs
    refine ⟨_, rfl, ?_⟩
    unfold State.finishTile
    dsimp only
    rw [harray]
    dsimp only
    rw [if_neg (by simp [hlen]; omega)]
    rw [modJob_at]
    exact ⟨rfl, rfl, rfl, _, rfl, rfl, rfl, rfl⟩
  case output =>
    intro s x rest hbufs
    refine ⟨_, rfl, ?_⟩
    unfold State.outputTile
    rw [hbufs]
    dsimp only
    refine ⟨?_, jobDrain_thins _ _⟩
    rw [sub_of (jobDrain_cores ..), modJob_at]
  case report =>
    intro p s u x hx hwork hmay hu
    refine ⟨_, rfl, ?_⟩
    have h : s.sendReport p = u := by
      unfold State.sendReport
      rw [hx]
      dsimp only
      rw [if_neg (by simp [hwork, hmay]), hu]
    have hrk := rk_eq (State.sendMessage_hide (M := allBut .rk) (by simp [mem_allBut]) _ _ _ _ _ hu)
    dsimp only
    rw [h, hrk]
    exact ⟨rfl, rfl, Tab.at_upd_same s.rk.sent p.val fun n => satAdd 16 n 1⟩

end Sys2Proof.Machine
end

section
/-! SUPPORT. Repairs of shared weight chunks (R281 to R284). -/

namespace Sys2Proof.Machine

/-- A chunk with an open repair over it is open (R282). -/
theorem chunkOpen_of_repair {s : State} {r : SharedRepair} {pa : Nat} (hr : r ∈ s.pt.repairs)
    (hlo : (Tab.at s.pt.shared r.entry).base + r.chunk * 2 ^ 21 ≤ pa) (hhi : pa < (Tab.at s.pt.shared r.entry).base + (r.chunk + 1) * 2 ^ 21) :
    s.chunkOpen pa = true :=
  List.any_eq_true.2 ⟨r, hr, by simp only [hlo, hhi, decide_true, Bool.and_self]⟩

theorem closeRepair_none (s : State) (i : Nat) : (s.closeRepair i).repairOf i = none :=
  List.find?_eq_none.2 fun r hr => by simpa using (List.mem_filter.1 hr).2

/-- The repair's chunk is among the failed ones of its entry (R284). -/
theorem failShared_failed (s : State) (r : SharedRepair) : r.chunk ∈ (Tab.at (s.failShared r).pt.shared r.entry).failed := by
  have h : Tab.at (s.failShared r).pt.shared r.entry = { Tab.at s.pt.shared r.entry with failed :=
      if ((Tab.at s.pt.shared r.entry).failed.contains r.chunk) then (Tab.at s.pt.shared r.entry).failed
      else (Tab.at s.pt.shared r.entry).failed ++ [r.chunk] } := Tab.at_upd_same s.pt.shared r.entry fun x => { x with
      failed := if x.failed.contains r.chunk then x.failed else x.failed ++ [r.chunk] }
  rw [h]
  dsimp only
  split
  next hmem => simpa using hmem
  · simp

/-- The chunk at address a is rewritten: no line of it stays cached, and its bytes are pushed (R283). -/
def State.rewriteChunk (s : State) (i a : Nat) (bytes : Bytes) : State :=
  let lines := s.tier.lines.filter fun e => !(decide (a ≤ e.2.pa) && decide (e.2.pa < a + 2 ^ 21))
  ({ s with tier := { s.tier with lines := lines }, pt := { s.pt with
      repairs := s.pt.repairs.map fun (y : SharedRepair) => if y.id = i then { y with step := 1 } else y } } : State).emit (.pushes a bytes)

theorem originRead_rewrites {s : State} {i : Nat} {r : SharedRepair} {data digest plain : Bytes} (hr : s.repairOf i = some r) (hstep : r.step = 0)
    (hkeys : s.keysHeld r = true)
    (hplain : plain = xtsRun Config.xtsDec r.originKey 131072 (((Tab.at s.pt.shared r.entry).origin + r.chunk * 2 ^ 21) / 16) (padTo (2 ^ 21) data))
    (hdigest : Config.sha384 plain = digest) :
    s.originRead i (some (data, digest)) = s.rewriteChunk i ((Tab.at s.pt.shared r.entry).base + r.chunk * 2 ^ 21)
      (xtsRun Config.xtsEnc r.rangeKey 131072 (((Tab.at s.pt.shared r.entry).base + r.chunk * 2 ^ 21) / 16) plain) := by
  unfold State.originRead
  rw [hr]
  dsimp only
  rw [if_neg (by simp [hstep]), ← hplain, if_neg (by simp [hkeys, hdigest])]
  rfl

theorem rewriteChunk_steps {s : State} {i a : Nat} {bytes : Bytes} : ∀ x ∈ (s.rewriteChunk i a bytes).pt.repairs, x.id = i → x.step = 1 := by
  intro x hx hid
  obtain ⟨y, _, rfl⟩ := List.mem_map.1 hx
  by_cases hy : y.id = i
  · simp [hy]
  · simp [hy] at hid

theorem rewriteChunk_uncached {s : State} {i a : Nat} {bytes : Bytes} :
    ∀ x ∈ (s.rewriteChunk i a bytes).tier.lines, ¬(a ≤ x.2.pa ∧ x.2.pa < a + 2 ^ 21) := by
  intro x hx ⟨hlo, hhi⟩
  have h := (List.mem_filter.1 hx).2
  rw [decide_eq_true hlo, decide_eq_true hhi] at h
  exact Bool.noConfusion h

/-- Settles O32: a repair opens over its chunk, rewrites it, and ends closed or failed. -/
theorem sharedRepairs : Obligations.SharedRepairs := by
  unfold Obligations.SharedRepairs
  refine ⟨?opens, ?rewrites, ?closes, ?late⟩
  case opens =>
    intro s e c rest hqueue hroom
    refine ⟨_, rfl, ?_⟩
    unfold State.openRepair
    rw [hqueue]
    dsimp only
    rw [if_neg (by omega)]
    refine ⟨rfl, rfl, ⟨_, rfl, rfl, rfl, rfl, rfl⟩, fun pa hlo hhi => ?_⟩
    exact chunkOpen_of_repair (List.mem_append_right _ (List.mem_singleton.2 rfl)) hlo hhi
  case rewrites =>
    intro i data digest plain s r hr hstep hkeys hplain hdigest
    refine ⟨_, rfl, ?_⟩
    rw [originRead_rewrites hr hstep hkeys hplain hdigest]
    exact ⟨rfl, rewriteChunk_steps, rewriteChunk_uncached⟩
  case closes =>
    intro i s r hr hstep hkeys
    refine ⟨_, rfl, ?_⟩
    unfold State.repairClosed
    rw [hr]
    dsimp only
    rw [if_neg (by simp [hstep]), if_neg (by simp [hkeys])]
    exact ⟨rfl, closeRepair_none s i⟩
  case late =>
    intro i s r hr hid hlate
    refine ⟨_, rfl, ?_⟩
    unfold State.repairTimeout
    rw [hr]
    dsimp only
    rw [if_pos hlate]
    subst hid
    exact ⟨closeRepair_none s r.id, failShared_failed s r, rfl, rfl⟩

end Sys2Proof.Machine
end

section
/-! SUPPORT. Training and retraining of link modules (R287 to R290, R309). -/

namespace Sys2Proof.Machine

/-- What sending leaves of a module: each field that `still` keeps. -/
theorem kept_of_still {α : Type} (f : Module → α) {a b : Module} (h : a.still = b.still) (hf : ∀ m : Module, f m.still = f m := by intro; rfl) :
    f a = f b := (hf a).symm.trans ((congrArg f h).trans (hf b))

/-- The same of what replays and acknowledgements leave. -/
theorem kept_of_calm {α : Type} (f : Module → α) {a b : Module} (h : a.calm = b.calm) (hf : ∀ m : Module, f m.calm = f m := by intro; rfl) :
    f a = f b := (hf a).symm.trans ((congrArg f h).trans (hf b))

/-- A module that comes up keeps its width, its spare lanes and its partner. -/
theorem linkUp_keeps (s : State) (k : Nat) :
    ((s.linkUp k).mod k).st = 5 ∧ ((s.linkUp k).mod k).attempts = 0 ∧ ((s.linkUp k).mod k).width = (s.mod k).width ∧
      ((s.linkUp k).mod k).spares = (s.mod k).spares ∧ ((s.linkUp k).mod k).partnerDie = (s.mod k).partnerDie ∧
      ((s.linkUp k).mod k).partnerMod = (s.mod k).partnerMod := by
  have h := linkUp_at s k
  generalize (s.linkUp k).mod k = x at h
  exact ⟨(congrArg Module.st h : x.still.st = _), (congrArg Module.attempts h : x.still.attempts = _),
    (congrArg Module.width h : x.still.width = _), (congrArg Module.spares h : x.still.spares = _),
    (congrArg Module.partnerDie h : x.still.partnerDie = _), (congrArg Module.partnerMod h : x.still.partnerMod = _)⟩

/-- A mainband whose lanes allow a width takes it and waits for the partner's parameters. -/
theorem mainbandTrained_at {s : State} {k lo hi w n : Nat} (hst : (s.mod k).st = 3) (hw : trainWidth lo hi = some (w, n)) :
    ((s.mainbandTrained k lo hi).mod k).st = 4 ∧ ((s.mainbandTrained k lo hi).mod k).width = w ∧
      ((s.mainbandTrained k lo hi).mod k).spares = n ∧ ((s.mainbandTrained k lo hi).mod k).rxNext = 0 := by
  unfold State.mainbandTrained
  rw [if_neg (by simp [hst]), hw]
  dsimp only
  split
  · rw [setModState_at, modMod_at]
    exact ⟨rfl, rfl, rfl, rfl⟩
  · have h := still_of (sendCtl_stills ((s.modMod k fun m => { m with
      width := w, spares := n, retry := [], nextSeq := 0, rxNext := 0, rxAny := false, nakFor := none, replaysHere := 0 }).setModState k 4)
        (k - 4) (((s.modMod k fun m => { m with
      width := w, spares := n, retry := [], nextSeq := 0, rxNext := 0, rxAny := false, nakFor := none, replaysHere := 0 }).setModState k
        4).paramBody (k - 4))) k
    rw [setModState_at, modMod_at] at h
    exact ⟨kept_of_still Module.st h, kept_of_still Module.width h, kept_of_still Module.spares h, kept_of_still Module.rxNext h⟩

/-- The module with the parameters of a flit taken. -/
def State.takeParams (s : State) (k : Nat) (b : Bytes) : State :=
  s.modMod k fun m => { m.takeParam b with nextSeq := fieldAt (slotOf b 1) 0 2 % 1024 }

theorem paramReceived_up {s : State} {k : Nat} {b : Bytes} (hst : (s.mod k).st = 4)
    (hgood : 4 ≤ k → flitGood b = true ∧ ctlType b = 2 ∧ byteAt (slotOf b 0) 1 = 1 ∧ byteAt (slotOf b 0) 3 = facing (k - 4)) :
    s.paramReceived k b = if k < 4 then s.linkUp k else (s.takeParams k b).linkUp k := by
  unfold State.paramReceived
  rw [if_neg (by simp [hst])]
  split
  next => rfl
  next hk =>
    obtain ⟨hflit, hctl, hver, hfacing⟩ := hgood (by omega)
    rw [if_neg (by simp [hflit]), if_neg (by simp [hctl])]
    dsimp only
    rw [if_neg (by simp [hver]), if_neg (by simp [hfacing])]
    rfl

theorem paramReceived_at {s : State} {k : Nat} {b : Bytes} (hst : (s.mod k).st = 4)
    (hgood : 4 ≤ k → flitGood b = true ∧ ctlType b = 2 ∧ byteAt (slotOf b 0) 1 = 1 ∧ byteAt (slotOf b 0) 3 = facing (k - 4)) :
    ((s.paramReceived k b).mod k).st = 5 ∧ ((s.paramReceived k b).mod k).attempts = 0 ∧
      (4 ≤ k → ((s.paramReceived k b).mod k).partnerDie = byteAt (slotOf b 0) 2 % 32 ∧
        ((s.paramReceived k b).mod k).partnerMod = byteAt (slotOf b 0) 3) := by
  rw [paramReceived_up hst hgood]
  split
  next hk =>
    obtain ⟨hup, hatt, _⟩ := linkUp_keeps s k
    exact ⟨hup, hatt, fun h => by omega⟩
  next hk =>
    obtain ⟨hup, hatt, _, _, hdie, hmod⟩ := linkUp_keeps (s.takeParams k b) k
    have h : (s.takeParams k b).mod k = { (s.mod k).takeParam b with nextSeq := fieldAt (slotOf b 1) 0 2 % 1024 } := modMod_at ..
    rw [h] at hdie hmod
    exact ⟨hup, hatt, fun _ => ⟨hdie, hmod⟩⟩

/-- A training that has not yet failed three times is tried again from MB_TRAIN (R288). -/
theorem trainingLimit_again {s : State} {k : Nat} (hst : (s.mod k).st = 3 ∨ (s.mod k).st = 4) (hatt : (s.mod k).attempts < 2)
    (hlate : (s.mod k).limitFrom + 2 ^ 22 ≤ s.clk.mgt) :
    s.trainingLimit k = (s.modMod k fun m => { m with attempts := m.attempts + 1, limitFrom := s.clk.mgt }).setModState k 3 := by
  have hst2 : (s.mod k).st ≠ 2 := by omega
  unfold State.trainingLimit
  dsimp only
  rw [if_neg (by simp [hst2]), if_pos (by rw [decide_eq_true hlate]; simpa using hst), if_neg (by omega)]

/-- The module during a retrain, with the width its lanes allow. -/
def State.retrained (s : State) (k w n : Nat) : State :=
  s.modMod k fun m => { m with width := w, spares := n, nakFor := none, fr0 := 0, fr1 := 0, fr2 := 0, fr3 := 0 }

/-- What a peer module's retrain does before the link comes up leaves width and spare lanes. -/
theorem retrain_keeps (s : State) (m j : Nat) (b body : Bytes) (k w n : Nat) (hw : (s.mod k).width = w ∧ (s.mod k).spares = n) :
    ((((((s.modMod k fun x => x.takeParam b).sendCtl m body).freeRetry m j).setModState k 5).resend m).mod k).width = w ∧
      ((((((s.modMod k fun x => x.takeParam b).sendCtl m body).freeRetry m j).setModState k 5).resend m).mod k).spares = n := by
  have hresend := still_of (resend_stills ((((s.modMod k fun x => x.takeParam b).sendCtl m body).freeRetry m j).setModState k 5) m) k
  rw [setModState_at] at hresend
  have hcalm := (freeRetry_calm ((s.modMod k fun x => x.takeParam b).sendCtl m body) m j k).trans
    (calm_of_still (still_of (sendCtl_stills ..) k))
  rw [modMod_at] at hcalm
  generalize (State.freeRetry _ _ _).mod k = y at hresend hcalm
  generalize (State.resend _ _).mod k = x at hresend ⊢
  have hwidth : y.width = ((s.mod k).takeParam b).width := kept_of_calm Module.width hcalm
  have hspares : y.spares = ((s.mod k).takeParam b).spares := kept_of_calm Module.spares hcalm
  have hwidth' : x.width = ({ y with st := 5 } : Module).width := kept_of_still Module.width hresend
  have hspares' : x.spares = ({ y with st := 5 } : Module).spares := kept_of_still Module.spares hresend
  exact ⟨hwidth'.trans (hwidth.trans hw.1), hspares'.trans (hspares.trans hw.2)⟩

theorem retrainDone_at {s : State} {k lo hi w n : Nat} {b : Bytes} (hst : (s.mod k).st = 6) (hw : trainWidth lo hi = some (w, n))
    (hgood : 4 ≤ k → flitGood b = true ∧ ctlType b = 2) :
    ((s.retrainDone k lo hi b).mod k).st = 5 ∧ ((s.retrainDone k lo hi b).mod k).width = w ∧
      ((s.retrainDone k lo hi b).mod k).spares = n ∧ ((s.retrainDone k lo hi b).mod k).attempts = 0 := by
  have hmod : ((s.retrained k w n).mod k).width = w ∧ ((s.retrained k w n).mod k).spares = n := by
    unfold State.retrained
    rw [modMod_at]
    exact ⟨rfl, rfl⟩
  obtain ⟨u, hu, hwidth, hspares⟩ : ∃ u, s.retrainDone k lo hi b = State.linkUp u k ∧ (u.mod k).width = w ∧ (u.mod k).spares = n := by
    unfold State.retrainDone
    dsimp only
    rw [if_neg (by simp [hst]), hw]
    dsimp only
    split
    next => exact ⟨_, rfl, hmod⟩
    next hk =>
      obtain ⟨hflit, hctl⟩ := hgood (by omega)
      rw [if_neg (by simp [hflit, hctl])]
      exact ⟨_, rfl, retrain_keeps (s.retrained k w n) _ _ _ _ k w n hmod⟩
  rw [hu]
  obtain ⟨hup, hatt, hwidth', hspares', _⟩ := linkUp_keeps u k
  exact ⟨hup, hwidth'.trans hwidth, hspares'.trans hspares, hatt⟩

/-- Settles O33: each command passes its checks, and the module is read off the state it enters. -/
theorem linkTraining : Obligations.LinkTraining := by
  unfold Obligations.LinkTraining
  refine ⟨?sideband, ?mainband, ?param, ?limit, ?retrain⟩
  case sideband =>
    intro k s hst
    refine ⟨_, rfl, ?_⟩
    unfold State.sidebandUp
    dsimp only
    rw [if_pos hst, setModState_at, modMod_at]
    exact ⟨rfl, rfl, rfl⟩
  case mainband => exact fun k lo hi s w n hst hw => ⟨_, rfl, mainbandTrained_at hst hw⟩
  case param => exact fun k b s hwf hst hgood => ⟨_, if_pos hwf, paramReceived_at hst hgood⟩
  case limit =>
    intro k s hst hatt hlate
    refine ⟨_, rfl, ?_⟩
    dsimp only
    rw [trainingLimit_again hst hatt hlate, setModState_at, modMod_at]
    exact ⟨rfl, rfl, rfl⟩
  case retrain => exact fun k lo hi b s w n hwf hst hw hgood => ⟨_, if_pos hwf, retrainDone_at hst hw hgood⟩

end Sys2Proof.Machine
end

section
/-! SUPPORT. What a received flit leaves of its module (R300, R305, R309, R317, R320). -/

namespace Sys2Proof.Machine

/-! ## Flits in order -/

/-- What the packets of a flit leave of the module that received it: all of `still` but the two counts of flits refused. -/
def Module.reception (m : Module) : Module := { m.still with partMismatch := 0, secFail := 0 }

/-- What the packets of a flit leave: each field that `reception` keeps. -/
theorem kept_of_reception {α : Type} (f : Module → α) {a b : Module} (h : a.reception = b.reception)
    (hf : ∀ m : Module, f m.reception = f m := by intro; rfl) : f a = f b := (hf a).symm.trans ((congrArg f h).trans (hf b))

theorem reception_of_stills {s t : State} (h : t.stills = s.stills) (k : Nat) : (t.mod k).reception = (s.mod k).reception :=
  congrArg (fun m : Module => { m with partMismatch := 0, secFail := 0 }) (still_of h k)

/-- A flit in order: the next sequence number is expected, and no NAK is owed. -/
theorem acceptSeq_at (s : State) (m : Nat) (b : Bytes) :
    ((s.acceptSeq m b).mod (4 + m)).rxNext = ((s.mod (4 + m)).rxNext + 1) % 1024 ∧ ((s.acceptSeq m b).mod (4 + m)).rxAny = true ∧
      ((s.acceptSeq m b).mod (4 + m)).nakFor = none ∧ ((s.acceptSeq m b).mod (4 + m)).flitsRx = (s.mod (4 + m)).flitsRx ∧
      ((s.acceptSeq m b).mod (4 + m)).ivRx = (s.mod (4 + m)).ivRx := by
  have h := takeAck_calm s m b (4 + m)
  unfold State.acceptSeq
  rw [modMod_at]
  generalize (s.takeAck m b).mod (4 + m) = x at h ⊢
  have hnext := kept_of_calm Module.rxNext h
  have hflits := kept_of_calm Module.flitsRx h
  have hiv := kept_of_calm Module.ivRx h
  exact ⟨by rw [hnext], rfl, rfl, hflits, hiv⟩

/-- The module of PL[m] with a PAYLOAD flit counted and its receive IV moved on. -/
def State.countPayload (s : State) (m : Nat) (b : Bytes) : State :=
  (s.acceptSeq m b).modMod (4 + m) fun x => { x with
    flitsRx := wrapAdd 64 x.flitsRx 1
    ivRx := Tab.put x.ivRx (2 * fPart b + fKgen b) (wrapAdd 80 (Tab.at x.ivRx (2 * fPart b + fKgen b)) 1) }

/-- A flit refused for its partition or its tag is counted and reported. -/
theorem refused_reception {s : State} {f : Module → Module} (hf : ∀ m : Module, (f m).reception = m.reception) (k : Nat) (e : ErrorEv) :
    (((s.modMod k f).report e).mod k).reception = (s.mod k).reception := by
  rw [report_mod_of, modMod_at, hf]

theorem payloadReceived_reception {s : State} {m : Nat} {b : Bytes} (hin : s.inOrder m b = true) (htype : fType b = 1) :
    ((s.payloadReceived m b).mod (4 + m)).reception = ((s.countPayload m b).mod (4 + m)).reception := by
  unfold State.countPayload State.payloadReceived
  rw [if_neg (by simp [hin, htype])]
  dsimp only
  rw [reception_of_stills (sendIdle_stills ..)]
  split
  · exact refused_reception (f := fun x => { x with partMismatch := satAdd 16 x.partMismatch 1 }) (fun _ => rfl) ..
  split
  · exact refused_reception (f := fun x => { x with secFail := satAdd 16 x.secFail 1 }) (fun _ => rfl) ..
  · refine (reception_of_stills (each_stills (fun _ _ => deliver_stills ..) ..) _).trans ?_
    split
    · exact reception_of_stills (stills_of_other (by simp)) _
    · rfl

theorem respReceived_still {s : State} {m : Nat} {b : Bytes} (hin : s.inOrder m b = true) (htype : ctlType b = 3) :
    (s.respReceived m b).stills = (s.acceptSeq m b).stills := by
  unfold State.respReceived
  rw [if_neg (by simp [hin, htype])]
  dsimp only
  refine (sendIdle_stills ..).trans (each_stills (fun u x => ?_) ..)
  split
  · exact (stills_of_links rfl).trans (freeSlots_stills ..)
  split
  · exact (forward_stills ..).trans (freeSlots_stills ..)
  · exact (takeResponse_stills ..).trans (freeSlots_stills ..)

/-! ## Flits in error, test flits and idle flits -/

/-- A NAK names the expected flit and leaves what was expected. -/
theorem sendNak_at (s : State) (m : Nat) :
    ((s.sendNak m).mod (4 + m)).nakFor = some (s.mod (4 + m)).rxNext ∧ ((s.sendNak m).mod (4 + m)).rxNext = (s.mod (4 + m)).rxNext ∧
      ((s.sendNak m).mod (4 + m)).crcErrors = (s.mod (4 + m)).crcErrors := by
  unfold State.sendNak
  dsimp only
  have h := still_of (sendCtl_stills (s.modMod (4 + m) fun y => { y with nakFor := some y.rxNext, nakAt := Tab.at s.clk.pl m }) m
    (leBytes 1 1 ++ zeros 1 ++ leBytes 2 (s.mod (4 + m)).rxNext)) (4 + m)
  rw [modMod_at] at h
  have hnak := kept_of_still Module.nakFor h
  have hnext := kept_of_still Module.rxNext h
  have hcrc := kept_of_still Module.crcErrors h
  exact ⟨hnak, hnext, hcrc⟩

theorem crcError_at {s : State} {k : Nat} {b : Bytes} (hst : (s.mod k).st = 5) (hbad : 4 ≤ k → flitGood b = false) :
    ((s.crcError k b).mod k).crcErrors = satAdd 16 (s.mod k).crcErrors 1 ∧ ((s.crcError k b).mod k).rxNext = (s.mod k).rxNext ∧
      (4 ≤ k → sequenced b = true → ((s.crcError k b).mod k).nakFor = some (s.mod k).rxNext) := by
  have hgood : (decide (4 ≤ k) && flitGood b) = false := by
    by_cases hk : 4 ≤ k
    · simp [hbad hk]
    · simp [hk]
  unfold State.crcError
  rw [if_neg (by simp [hst, hgood])]
  dsimp only
  split
  next hnak =>
    obtain ⟨hk, _⟩ : 4 ≤ k ∧ sequenced b = true := by simpa using hnak
    obtain ⟨hfor, hnext, herrors⟩ := sendNak_at (s.modMod k fun x => { x with crcErrors := satAdd 16 x.crcErrors 1 }) (k - 4)
    have e : 4 + (k - 4) = k := by omega
    rw [e, modMod_at] at hfor hnext herrors
    exact ⟨herrors, hnext, fun _ _ => hfor⟩
  next hnak =>
    rw [modMod_at]
    exact ⟨rfl, rfl, fun hk hseq => absurd (by simp [hk, hseq]) hnak⟩

theorem testReceived_locked {s : State} {k : Nat} {b : Bytes} (hst : (s.mod k).st = 5) (hgood : flitGood b = true) (htype : ctlType b = 4)
    (hcheck : (s.mod k).tgCheck = true) (hmay : s.tgMay k = true) (hlock : (s.mod k).tgLocked = true) :
    ((s.testReceived k b).mod k).tgChecked = satAdd 32 (s.mod k).tgChecked 1 ∧
      ((s.testReceived k b).mod k).tgRx = (patternBytes (s.mod k).tgPattern 224 (s.mod k).tgRx).1 ∧
      ((s.testReceived k b).mod k).tgErrors = satAdd 31 (s.mod k).tgErrors
        (bitDiffs (slice b 24 224) (patternBytes (s.mod k).tgPattern 224 (s.mod k).tgRx).2) := by
  obtain ⟨u, hu, hchecked, herrors⟩ : ∃ u : State, s.testReceived k b = u.modMod k (fun m => { m with
        tgRx := (patternBytes (s.mod k).tgPattern 224 (s.mod k).tgRx).1, tgChecked := satAdd 32 m.tgChecked 1
        tgErrors := satAdd 31 m.tgErrors (bitDiffs (slice b 24 224) (patternBytes (s.mod k).tgPattern 224 (s.mod k).tgRx).2) }) ∧
      (u.mod k).tgChecked = (s.mod k).tgChecked ∧ (u.mod k).tgErrors = (s.mod k).tgErrors := by
    unfold State.testReceived
    dsimp only
    rw [if_neg (by simp [hst, hgood, htype]), if_neg (by simp [hcheck, hmay]), if_neg (by simp [hlock])]
    refine ⟨_, rfl, ?_⟩
    split
    · exact ⟨rfl, rfl⟩
    · have h := takeAck_calm s (k - 4) b k
      exact ⟨kept_of_calm Module.tgChecked h, kept_of_calm Module.tgErrors h⟩
  rw [hu, modMod_at, ← hchecked, ← herrors]
  dsimp only
  exact ⟨rfl, rfl, rfl⟩

/-- A module with no packet waiting has nothing to send. -/
def Module.Quiet (m : Module) : Prop := m.q0 = [] ∧ m.q1 = [] ∧ m.q2 = [] ∧ m.q3 = []

theorem pump_of_quiet {s : State} {m : Nat} (h : (s.mod (4 + m)).Quiet) : s.pump m = s := by
  obtain ⟨h0, h1, h2, h3⟩ := h
  unfold State.pump
  dsimp only
  rw [h0, h1, h2, h3]
  rfl

/-- Freeing retry entries changes the retry buffer and its clocks alone. -/
theorem freeRetry_mod (s : State) (m seq k : Nat) :
    ∃ l n a, (s.freeRetry m seq).mod k = { s.mod k with retry := l, replaysHere := n, ackAt := a } := by
  unfold State.freeRetry
  dsimp only
  split
  · exact ⟨_, _, _, rfl⟩
  · next i _ =>
    rw [modMod_mod]
    simp only [mod_of_links (keyGives_links ((s.mod (4 + m)).retry.take (i + 1)) s)]
    split
    next hk =>
      rw [hk]
      exact ⟨_, _, _, rfl⟩
    next => exact ⟨_, _, _, rfl⟩

theorem addCredit_credit (m : Module) (vc n : Nat) : (m.addCredit vc n false).credit vc = m.credit vc + n ∧
    (m.addCredit vc n false).rxNext = m.rxNext ∧ (m.Quiet → (m.addCredit vc n false).Quiet) := by
  rcases vc with _ | _ | _ | vc <;> exact ⟨rfl, rfl, id⟩

/-- The credits of a flit come to a module that has nothing to send. -/
theorem takeAck_credit {s : State} {m : Nat} {b : Bytes} (h : (s.mod (4 + m)).Quiet) :
    ((s.takeAck m b).mod (4 + m)).credit (bits (hdr b) 33 2) = (s.mod (4 + m)).credit (bits (hdr b) 33 2) + bits (hdr b) 20 13 ∧
      ((s.takeAck m b).mod (4 + m)).rxNext = (s.mod (4 + m)).rxNext := by
  obtain ⟨u, hu, l, n, a, hmod⟩ : ∃ u : State, s.takeAck m b =
      (u.modMod (4 + m) fun x => x.addCredit (bits (hdr b) 33 2) (bits (hdr b) 20 13) false).pump m ∧
        ∃ l n a, u.mod (4 + m) = { s.mod (4 + m) with retry := l, replaysHere := n, ackAt := a } := by
    unfold State.takeAck
    refine ⟨_, rfl, ?_⟩
    split
    · exact freeRetry_mod ..
    · exact ⟨_, _, _, rfl⟩
  obtain ⟨hcredit, hnext, hquiet⟩ := addCredit_credit (u.mod (4 + m)) (bits (hdr b) 33 2) (bits (hdr b) 20 13)
  rw [hu, pump_of_quiet (by rw [modMod_at]; exact hquiet (hmod ▸ h)), modMod_at, hcredit, hnext, hmod]
  exact ⟨rfl, rfl⟩

/-- Settles O34: each flit passes its checks, and its module is read off what the flit leaves. -/
theorem linkReception : Obligations.LinkReception := by
  unfold Obligations.LinkReception
  refine ⟨?payload, ?resp, ?crc, ?test, ?idle⟩
  case payload =>
    intro m b s hwf hin htype
    refine ⟨_, if_pos hwf, ?_⟩
    have h := payloadReceived_reception hin htype
    obtain ⟨hnext, _, hnak, hflits, hiv⟩ := acceptSeq_at s m b
    unfold State.countPayload at h
    rw [modMod_at] at h
    dsimp only
    generalize (s.payloadReceived m b).mod (4 + m) = x at h ⊢
    generalize (s.acceptSeq m b).mod (4 + m) = y at h hnext hnak hflits hiv
    have hnext' := kept_of_reception Module.rxNext h
    have hflits' := kept_of_reception Module.flitsRx h
    have hiv' := kept_of_reception Module.ivRx h
    have hnak' := kept_of_reception Module.nakFor h
    refine ⟨hnext'.trans hnext, hflits'.trans (by rw [hflits]), ?_, hnak'.trans hnak⟩
    rw [hiv', ← hiv]
    exact Tab.at_put_same ..
  case resp =>
    intro m b s hwf hin htype
    refine ⟨_, if_pos hwf, ?_⟩
    have h := still_of (respReceived_still hin htype) (4 + m)
    obtain ⟨hnext, hany, hnak, _⟩ := acceptSeq_at s m b
    exact ⟨(kept_of_still Module.rxNext h).trans hnext, (kept_of_still Module.nakFor h).trans hnak, (kept_of_still Module.rxAny h).trans hany⟩
  case crc => exact fun k b s hwf hst hbad => ⟨_, if_pos hwf, crcError_at hst hbad⟩
  case test =>
    exact fun k b s hwf hst hgood htype hcheck hmay hlock => ⟨_, if_pos hwf, testReceived_locked hst hgood htype hcheck hmay hlock⟩
  case idle =>
    intro k b s hwf hst hgood h0 h1 h2 h3
    refine ⟨_, if_pos hwf, ?_⟩
    unfold State.idleReceived
    rw [if_neg (by simp [hst])]
    split
    next hk =>
      rw [modMod_at]
      exact ⟨fun _ => rfl, fun h => by omega⟩
    next hk =>
      obtain ⟨hflit, htype⟩ := hgood (by omega)
      rw [if_pos (by simp [hflit, htype])]
      have e : 4 + (k.val - 4) = k := by omega
      have h := takeAck_credit (s := s) (m := k - 4) (b := b) (by rw [e]; exact ⟨h0, h1, h2, h3⟩)
      rw [e] at h
      exact ⟨fun h => by omega, fun _ => h⟩

end Sys2Proof.Machine
end

section
/-! SUPPORT. Requests served for other dies, messages, low power and the traffic generators (R312, R319, R320, R462). -/

namespace Sys2Proof.Machine

theorem sendResponse_kpp (s : State) (p d x : Nat) (b : Bytes) (r : Bool) : (s.sendResponse p d x b r).links.kpp = s.links.kpp := by
  have h : (s.sendResponse p d x b r).wires.kpp = s.wires.kpp := congrArg Links.kpp (sendResponse_wires ..)
  exact h

/-- A served request of another die leaves the list of those being served. -/
theorem kppDone_gone (s : State) (i status : Nat) (data : Bytes) (h : (s.links.kpp.find? fun x => x.id == i).isSome = true) :
    ∀ x ∈ (s.kppDone i status data).links.kpp, x.id ≠ i := by
  obtain ⟨item, hitem⟩ := Option.isSome_iff_exists.1 h
  unfold State.kppDone
  rw [hitem]
  dsimp only
  intro x hx
  rw [sendResponse_kpp] at hx
  simpa using (List.mem_filter.1 hx).2

/-- The write of another die that is acknowledged ends, and so does its request. -/
theorem inboundAcked_ends {s : State} {q : Req} {i : Nat} (hpu : q.purpose = .kppServe i) (hkind : q.kind = .write)
    (hitem : (s.links.kpp.find? fun x => x.id == i).isSome = true) :
    (∀ x ∈ (s.inboundAcked q .ok).links.kpp, x.id ≠ i) ∧ ∀ x ∈ (s.inboundAcked q .ok).reqs, x.id ≠ q.id := by
  have hacked : s.inboundAcked q .ok = (s.finishReq q).kppDone i 0 [] := by
    unfold State.inboundAcked
    rw [hpu]
    dsimp only
    rw [if_neg (by simp [hkind, Req.isAcc])]
    unfold State.performAdds
    rw [hkind]
    rfl
  have hreqs : ((s.finishReq q).kppDone i 0 []).reqs = (s.finishReq q).reqs := reqs_eq (by simp)
  rw [hacked, hreqs]
  exact ⟨kppDone_gone _ i 0 [] (by rw [finishReq_links]; exact hitem), finishReq_gone s q⟩

/-- A control flit is one flit with that body. -/
theorem sendCtl_outbox (s : State) (m : Nat) (body : Bytes) : ∃ h, (s.sendCtl m body).outbox = s.outbox ++ [.flit m (flitBytes h body)] :=
  ⟨_, rfl⟩

/-- The generator's register takes its next value r, and one more flit is counted. -/
def State.nextTest (s : State) (k r : Nat) : State := s.modMod k fun m => { m with tgTx := r, tgSent := m.tgSent + 1 }

/-- The flit of pattern bytes d that the generator of module k sends. -/
def State.sendPattern (s : State) (k : Nat) (d : Nat × Bytes) : State :=
  if k < 4 then s.nextTest k d.1 else (s.nextTest k d.1).sendCtl (k - 4) (leBytes 1 4 ++ zeros 15 ++ d.2)

theorem sendTest_sends {s : State} {k : Nat} (hst : (s.mod k).st = 5) (hgen : (s.mod k).tgGen = true) (hmay : s.tgMay k = true)
    (hcount : (s.mod k).tgCount = 0 ∨ (s.mod k).tgSent < (s.mod k).tgCount) (hquiet : (s.mod k).Quiet)
    (hidle : 4 ≤ k → s.idleOnly (k - 4) = false) :
    s.sendTest k = s.sendPattern k (patternBytes (s.mod k).tgPattern 224 (s.mod k).tgTx) := by
  obtain ⟨h0, h1, h2, h3⟩ := hquiet
  have hleft : ((s.mod k).tgCount != 0 && decide ((s.mod k).tgCount ≤ (s.mod k).tgSent)) = false := by
    rcases hcount with h | h
    · simp [h]
    · simp [Nat.not_le.2 h]
  have hown : (decide (4 ≤ k) && s.idleOnly (k - 4)) = false := by
    by_cases hk : 4 ≤ k
    · simp [hidle hk]
    · simp [hk]
  unfold State.sendTest
  dsimp only
  rw [if_neg (by simp [hst, hgen, hmay, hleft, hown, h0, h1, h2, h3])]
  rfl

theorem sendPattern_at (s : State) (k : Nat) (d : Nat × Bytes) :
    ((s.sendPattern k d).mod k).tgSent = (s.mod k).tgSent + 1 ∧ ((s.sendPattern k d).mod k).tgTx = d.1 ∧
      (4 ≤ k → ∃ h, (s.sendPattern k d).outbox = s.outbox ++ [.flit (k - 4) (flitBytes h (leBytes 1 4 ++ zeros 15 ++ d.2))]) := by
  have hnext : (s.nextTest k d.1).mod k = { s.mod k with tgTx := d.1, tgSent := (s.mod k).tgSent + 1 } := modMod_at ..
  unfold State.sendPattern
  split
  next hk =>
    rw [hnext]
    exact ⟨rfl, rfl, fun h => by omega⟩
  next hk =>
    have h := still_of (sendCtl_stills (s.nextTest k d.1) (k - 4) (leBytes 1 4 ++ zeros 15 ++ d.2)) k
    rw [hnext] at h
    have hsent := kept_of_still Module.tgSent h
    have htx := kept_of_still Module.tgTx h
    exact ⟨hsent, htx, fun _ => sendCtl_outbox (s.nextTest k d.1) (k - 4) _⟩

/-- Settles O36: each command passes its checks; what is served, timed out or sent is read off the operation. -/
theorem linkServices : Obligations.LinkServices := by
  unfold Obligations.LinkServices
  refine ⟨?ack, ?message, ?entry, ?exit, ?control, ?generate⟩
  case ack =>
    intro id i s q hq hpu hkind hitem
    refine ⟨_, rfl, ?_⟩
    unfold State.kppBack
    rw [hq]
    obtain ⟨hkpp, hreqs⟩ := inboundAcked_ends hpu hkind hitem
    exact ⟨hkpp, fun x hx => req_id hq ▸ hreqs x hx⟩
  case message =>
    intro x s hlive hreq hlate
    refine ⟨_, rfl, ?_⟩
    unfold State.messageTimeout
    dsimp only
    rw [if_pos (by simpa [hlive, hreq] using hlate)]
    have hlinks : ∀ (u : State) p d, (u.lostMessage p d x).links = u.links := fun u p d => links_eq (by simp)
    unfold State.tag
    rw [hlinks]
    unfold State.freeTagOf
    dsimp only
    rw [Tab.at_drop, if_pos rfl]
    rfl
  case entry =>
    intro k s hst hen hretry h0 h1 h2 h3 hidle hown
    refine ⟨_, rfl, ?_⟩
    have hfree : (decide (4 ≤ k.val) && s.ownerIdle (k - 4)) = false := by
      by_cases hk : 4 ≤ k.val
      · simp [hown hk]
      · simp [hk]
    unfold State.enterLp
    dsimp only
    rw [if_pos (by rw [decide_eq_true hidle, hfree]; simp [hst, hen, hretry, h0, h1, h2, h3]), setModState_at]
    exact ⟨rfl, rfl⟩
  case exit =>
    intro k s hst
    refine ⟨_, rfl, ?_⟩
    unfold State.exitLp
    rw [if_pos hst]
    obtain ⟨hup, _, hwidth, _⟩ := linkUp_keeps s k
    exact ⟨hup, hwidth⟩
  case control =>
    intro k w s hmay
    refine ⟨_, rfl, ?_⟩
    unfold State.writeTg
    dsimp only
    rw [if_neg (by simp [hmay]), modMod_at]
    refine ⟨rfl, rfl, rfl, rfl, fun hgen hoff => ?_⟩
    exact if_pos (by simp [hgen, hoff])
  case generate =>
    intro k s hst hgen hmay hcount h0 h1 h2 h3 hidle
    refine ⟨_, rfl, ?_⟩
    rw [sendTest_sends hst hgen hmay hcount ⟨h0, h1, h2, h3⟩ hidle]
    exact sendPattern_at ..

end Sys2Proof.Machine
end

section
/-! SUPPORT. Requests from the CXL.io and PCIe ports (R182, R325, R338, R342). -/

namespace Sys2Proof.Machine

/-! ## Writes and reads of memory -/

/-- A posted write to memory becomes one write, and waits in its port's order (R182). -/
theorem takeWrite_memory (s : State) (port : Nat) (part : Option Nat) (pa : Nat) (data : Bytes) :
    Sent (s.takeWrite port (.memory part pa) data) (.inboundWrite port s.nextReq) .write pa data.length data ∧
      (s.takeWrite port (.memory part pa) data).inItems port = s.inItems port ++ [.posted s.nextReq] := by
  unfold State.takeWrite
  dsimp only
  refine ⟨?_, ?_⟩
  · have h := sendInbound_sent (s.setItems port (s.inItems port ++ [InItem.posted s.nextReq])) port part pa data.length (some data)
    rw [setItems_nextReq] at h
    exact h
  · generalize hu : s.setItems port (s.inItems port ++ [InItem.posted s.nextReq]) = u
    have hitems : u.inItems port = s.inItems port ++ [.posted s.nextReq] := hu ▸ setItems_items ..
    have hcount : ∀ p a n, (u.count p a n).links = u.links ∧ (u.count p a n).px = u.px := fun p a n => ⟨links_eq (by simp), px_eq (by simp)⟩
    rw [← hitems]
    unfold State.sendInbound State.inItems State.send
    dsimp only
    cases part
    case none => rfl
    case some p =>
      dsimp only
      rw [(hcount ..).1, (hcount ..).2]

/-- Where a memory request of the port goes (R336). -/
def State.portDest (s : State) (rid addr len : Nat) (write : Bool) : Option InDest :=
  if s.px.rootPort then some (s.deviceDest rid addr len write) else s.endpointDest addr len write

/-- A memory write of the port that maps to memory, and is no interrupt write, is taken there (R338). -/
theorem memoryRequest_writes {s : State} {rid txn addr len : Nat} {data header : Bytes} {part : Option Nat} {pa : Nat} (hup : s.px.linkUp = true)
    (hfrozen : s.px.frozen = false) (hlen : len ≤ 512) (hpage : addr % 4096 + len ≤ 4096)
    (hroot : s.px.rootPort = true → addr < 0xFFFFFFFFFFF00000) (hdest : s.portDest rid addr len true = some (.memory part pa)) :
    s.memoryRequest .write rid txn addr len false data header = s.tlp.takeWrite 1 (.memory part pa) data := by
  have hirq : ¬((TlpKind.write == .write || TlpKind.write == .pasidWrite) && s.tlp.px.rootPort && decide (len = 4) &&
      decide (addr % 4 = 0) && decide (0xFFFFFFFFFFF00000 ≤ addr) &&
      (s.tlp.assignedTo rid).isSome) = true := by
    intro h
    simp only [Bool.and_eq_true, decide_eq_true_eq] at h
    exact absurd (hroot h.1.1.1.1.2) (Nat.not_lt.2 h.1.2)
  unfold State.memoryRequest
  dsimp only
  rw [if_neg (by simp [hup]), if_neg (Bool.eq_false_iff.1 hfrozen : ¬s.tlp.px.frozen = true), if_neg (by decide), if_neg (by simp; omega),
    if_neg hirq]
  unfold State.portDest at hdest
  split
  next h =>
    have hroot' : s.px.rootPort = true := h
    rw [if_pos hroot'] at hdest
    have hmem : s.tlp.deviceDest rid addr len (TlpKind.write == .write || TlpKind.write == .pasidWrite) = .memory part pa :=
      Option.some.inj hdest
    rw [hmem]
    rfl
  next h =>
    have hroot' : ¬s.px.rootPort = true := h
    rw [if_neg hroot'] at hdest
    have hmem : s.tlp.endpointDest addr len (TlpKind.write == .write || TlpKind.write == .pasidWrite) = some (.memory part pa) := hdest
    rw [hmem]
    rfl

/-- Settles O37: each request passes its checks and is taken as one access, one completion or one logged interrupt. -/
theorem portRequests : Obligations.PortRequests := by
  unfold Obligations.PortRequests
  refine ⟨?cxlWrite, ?cxlRead, ?pcieWrite, ?pcieConfig, ?cxlConfig, ?interrupt⟩
  case cxlWrite =>
    intro pasid off data s part pa hwf hup hdest
    refine ⟨_, if_pos hwf, ?_⟩
    unfold State.cxlWrite
    rw [if_neg (by simp [hup]), hdest]
    exact takeWrite_memory s 0 part pa data
  case cxlRead =>
    intro pasid txn off len s part pa hwf hup hitems hdest
    refine ⟨_, if_pos hwf, ?_⟩
    unfold State.cxlRead
    rw [if_neg (by simp [hup]), if_neg (by decide), hdest]
    exact take_read_sent s 0 txn _ len part pa hitems
  case pcieWrite =>
    intro rid txn addr len data header s part pa hwf hup hfrozen hlen hpage hroot hdest
    have hdata : data.length = len := by
      simp only [Instr.wf, Bool.and_eq_true] at hwf
      simpa using hwf.2
    refine ⟨_, if_pos hwf, ?_⟩
    rw [memoryRequest_writes hup hfrozen hlen hpage hroot hdest]
    exact hdata ▸ takeWrite_memory s.tlp 1 part pa data
  case pcieConfig =>
    intro f txn reg s hup hready hitems hflr hthere
    refine ⟨_, rfl, ?_⟩
    have h : s.configRequest f txn (4 * reg.toNat) (cfgOperand none) =
        s.tlp.take 1 (.answered txn 0 0 false true (leBytes 4 (s.cfgRead f (4 * reg.toNat)))) := by
      have hconf : s.tlp.px.configReady = true := hready
      have hbusy : (!s.tlp.px.configReady || (decide (f.val < 16) && (s.tlp.part f).flr.isSome)) = false := by
        by_cases hf : f.val < 16
        · have hnone : (s.tlp.part f).flr = none := hflr hf
          simp [hconf, hnone]
        · simp [hconf, hf]
      have hfn : (decide (f.val = 16) || s.fnExists f) = true := by simpa using hthere
      unfold State.configRequest
      dsimp only
      rw [if_neg (by simp [hup]), hbusy, if_neg (by decide), if_neg (by simp [hfn])]
      rfl
    rw [h]
    exact take_answered_outbox s.tlp 1 txn 0 0 false true _ hitems (by decide) (by rw [leBytes_length]; decide)
  case cxlConfig =>
    intro txn reg s hup hitems
    refine ⟨_, rfl, ?_⟩
    have h : s.cxlConfig txn (4 * reg.toNat) (cfgOperand none) =
        s.take 0 (.answered txn 0 0 false true (leBytes 4 (s.cxlCfgRead (4 * reg.toNat)))) := if_neg (by simp [hup])
    rw [h]
    exact take_answered_outbox s 0 txn 0 0 false true _ hitems (by decide) (by rw [leBytes_length]; decide)
  case interrupt =>
    intro rid addr value s p hup hroot hfrozen halign hhigh hassigned
    refine ⟨_, rfl, ?_⟩
    unfold State.interruptWrite
    rw [if_neg (by simp [hup, hroot, halign]; omega), if_neg (by simp [hfrozen]), hassigned]
    exact event_logged ..

end Sys2Proof.Machine
end

section
/-! SUPPORT. Containment (R339 to R343, R349): what AER and Capo keep of an error at the port. -/

namespace Sys2Proof.Machine

/-- What logging an event leaves of the port: each field that `rest` keeps. -/
theorem kept_of_rest {α : Type} (f : Px → α) {a b : Px} (h : a.rest = b.rest) (hf : ∀ x : Px, f x.rest = f x := by intro; rfl) : f a = f b :=
  (hf a).symm.trans ((congrArg f h).trans (hf b))

/-- What a trigger of Capo leaves of the port: each field that `calm` keeps. -/
theorem kept_of_capo {α : Type} (f : Px → α) {a b : Px} (h : a.calm = b.calm) (hf : ∀ x : Px, f x.calm = f x := by intro; rfl) : f a = f b :=
  (hf a).symm.trans ((congrArg f h).trans (hf b))

theorem aerUncorrectable_unc (s : State) (b : Nat) (hd : Bytes) : (s.aerUncorrectable b hd).px.uncStatus = s.px.uncStatus ||| 2 ^ b := by
  obtain ⟨_, _, _, h⟩ := aerUncorrectable_px s b hd
  rw [h]

theorem aerUncorrectable_state (s : State) (b : Nat) (hd : Bytes) :
    (s.aerUncorrectable b hd).px.frozen = s.px.frozen ∧ (s.aerUncorrectable b hd).px.linkUp = s.px.linkUp := by
  obtain ⟨_, _, _, h⟩ := aerUncorrectable_px s b hd
  rw [h]
  exact ⟨rfl, rfl⟩

theorem aerCorrectable_cor (s : State) (b : Nat) : (s.aerCorrectable b).px.corStatus = s.px.corStatus ||| 2 ^ b := by
  unfold State.aerCorrectable
  dsimp only
  split <;> rfl

theorem aerCapo_unc (s : State) (b : Nat) : (s.aerCapo b).px.uncStatus = s.px.uncStatus := by
  unfold State.aerCapo
  split
  · exact capo_unc ..
  · rfl

/-- Capo's reaction to AER leaves a frozen port with a cause of the highest rank as it is. -/
theorem aerCapo_again {s : State} {b : Nat} (h : s.px.frozen = true) (hr : capoRank s.px.cause ≤ capoRank 1) :
    (s.aerCapo b).px.frozen = true ∧ (s.aerCapo b).px.cause = s.px.cause ∧ (s.aerCapo b).px.linkUp = s.px.linkUp := by
  unfold State.aerCapo
  split
  · obtain ⟨hfrozen, hcause, hlink, _⟩ := capo_again s 1 b h hr
    exact ⟨hfrozen, hcause, hlink⟩
  · exact ⟨h, rfl, rfl⟩

/-- The port with its link down. -/
def State.linkLost (s : State) : State :=
  s.modPx fun x => { x with linkUp := false, linkWidth := 0, linkRate := 0, wasDown := true, l0p := 0, l1 := false }

theorem dlDown_contains {s : State} (hup : s.px.linkUp = true) (hdis : s.px.linkDisable = false) (hfrozen : s.px.frozen = false) :
    s.dlDown.px.linkUp = false ∧ s.dlDown.px.frozen = true ∧ s.dlDown.px.cause = 2 := by
  unfold State.dlDown
  dsimp only
  rw [if_neg (by simp [hup]), hdis]
  split
  · obtain ⟨haer, hlink⟩ := aerUncorrectable_state s.linkLost 5 []
    obtain ⟨hf, hc, _, _, _, hl, _⟩ := capo_fresh (s.linkLost.aerUncorrectable 5 []) 2 5 (haer.trans hfrozen)
    obtain ⟨hf', hc', hl'⟩ := aerCapo_again (b := 5) hf (by rw [hc]; decide)
    refine ⟨hl'.trans (hl.trans ?_), hf', hc'.trans hc⟩
    rw [hlink]
    rfl
  · obtain ⟨hf, hc, _, _, _, hl, _⟩ := capo_fresh s.linkLost.resetPort 2 0xFF hfrozen
    exact ⟨hl, hf, hc⟩

/-- The port with its link up at a width and a rate. -/
def State.linkFound (s : State) (width rate : Nat) : State :=
  (s.modPx fun x => { x with linkUp := true, linkWidth := width, linkRate := rate, wasDown := false }).tlp

theorem dlUp_inserted {s : State} {width rate : Nat} (hdown : s.px.linkUp = false) (hroot : s.px.rootPort = true) (hwas : s.px.wasDown = true)
    (hhold : s.px.insertHold = true) (hfrozen : s.px.frozen = false) :
    (s.dlUp width rate true).px.linkUp = true ∧ (s.dlUp width rate true).px.frozen = true ∧ (s.dlUp width rate true).px.cause = 5 := by
  have h : s.dlUp width rate true = (s.linkFound width rate).capoTrigger 5 0 := by
    unfold State.dlUp
    dsimp only
    rw [if_neg (by simp [hdown, hroot, hwas, hhold, hfrozen])]
    exact if_pos (by simp [hroot, hwas, hhold])
  obtain ⟨hf, hc, _, _, _, hl, _⟩ := capo_fresh (s.linkFound width rate) 5 0 hfrozen
  rw [h]
  exact ⟨hl.trans (by simp [State.linkFound, State.tlp, State.modPx]), hf, hc⟩

theorem dlUp_plain {s : State} {width rate : Nat} (hdown : s.px.linkUp = false)
    (hrun : s.px.rootPort = true → s.px.frozen = false ∧ (s.px.wasDown = false ∨ s.px.insertHold = false)) :
    s.dlUp width rate false = s.linkFound width rate := by
  have hfrozen : (s.px.rootPort && s.px.frozen) = false := by
    cases h : s.px.rootPort
    case false => rfl
    case true => exact (hrun h).1
  have hhold : (s.px.rootPort && s.px.wasDown && s.px.insertHold) = false := by
    cases h : s.px.rootPort
    case false => rfl
    case true => rcases (hrun h).2 with h | h <;> simp [h]
  unfold State.dlUp
  dsimp only
  rw [hdown, hfrozen, hhold, if_neg (by decide)]
  rfl

/-! ## Messages from below -/

/-- Root Error Status bits that a message of a kind sets, given its bits 0 and 2 (R349). -/
def rootBits (b0 b2 : Bool) (kind : Nat) : Nat :=
  if kind = 0 then (if b0 then 2 else 1) else (if b2 then 8 else 4 + (if kind = 2 then 16 else 0)) ||| (if kind = 1 then 32 else 64)

/-- Each message sets the bit of its kind, but a correctable one that finds it set. -/
theorem rootBits_bit : ∀ (b0 b2 : Bool) (kind : Fin 3),
    (kind = 0 ∧ b0 = true) ∨ bit (rootBits b0 b2 kind) (if kind = 0 then 0 else if kind = 1 then 5 else 6) = true := by
  decide

theorem rootErr_bit (err : Nat) (kind : Fin 3) :
    bit (err ||| rootBits (bit err 0) (bit err 2) kind) (if kind = 0 then 0 else if kind = 1 then 5 else 6) = true := by
  rw [bit_lor, Bool.or_eq_true]
  rcases rootBits_bit (bit err 0) (bit err 2) kind with ⟨rfl, h⟩ | h
  · exact .inl h
  · exact .inr h

/-- The state in which a message from below is logged. -/
theorem errMessage_logs {s : State} {rid kind : Nat} (hroot : s.px.rootPort = true) (hfrozen : s.px.frozen = false) :
    ∃ (u : State) (p : Option Nat), u.px.frozen = false ∧ u.px.rootErr = s.px.rootErr ||| rootBits (bit s.px.rootErr 0) (bit s.px.rootErr 2) kind ∧
      s.errMessage rid kind = if kind = 2 then
          (u.event 0x41 4 s.clk.px none p (fld kind 16 2 + fld rid 0 16)).capoTrigger 6 0
        else u.event 0x41 4 s.clk.px none p (fld kind 16 2 + fld rid 0 16) := by
  unfold State.errMessage
  rw [if_neg (by simp [hroot]), if_neg (by simp [hfrozen])]
  refine ⟨_, _, ?_, ?_, rfl⟩
  · exact hfrozen
  · rfl

/-- A trigger of Capo after an event leaves the event's record. -/
theorem event_capo_logged (s : State) (code domain cycle : Nat) (unit part : Option Nat) (data cause err : Nat) :
    Logged ((s.event code domain cycle unit part data).capoTrigger cause err) code unit part data := by
  obtain ⟨e, he, hlog⟩ := event_log s code domain cycle unit part data
  rw [List.drop_append_of_le_length (by simp)] at hlog
  exact ⟨e, capo_keeps hlog cause err, he⟩

/-- Settles O38: each error reaches Capo or the AER registers as its command says, and what Capo keeps is what the clause reads. -/
theorem containment : Obligations.Containment := by
  unfold Obligations.Containment
  refine ⟨?aer, ?down, ?insert, ?up, ?software, ?release, ?hold, ?message⟩
  case aer =>
    intro correctable b header s hb
    refine ⟨_, rfl, ?_⟩
    unfold State.aerDetected
    cases correctable
    case true =>
      have hin : corBits.contains b.val = true := List.contains_iff_mem.2 hb
      rw [if_pos rfl, if_pos hin]
      exact aerCorrectable_cor ..
    case false =>
      have hin : uncBits.contains b.val = true := List.contains_iff_mem.2 hb
      rw [if_neg Bool.false_ne_true, if_pos hin]
      exact (aerCapo_unc ..).trans (aerUncorrectable_unc ..)
  case down => exact fun s hup hdis hfrozen => ⟨_, rfl, dlDown_contains hup hdis hfrozen⟩
  case insert => exact fun width rate s hwf hdown hroot hwas hhold hfrozen => ⟨_, if_pos hwf, dlUp_inserted hdown hroot hwas hhold hfrozen⟩
  case up =>
    intro width rate s hwf hdown hrun
    refine ⟨_, if_pos hwf, ?_⟩
    rw [dlUp_plain hdown hrun]
    exact ⟨rfl, rfl, rfl, rfl⟩
  case software =>
    intro s hfrozen
    obtain ⟨hf, hc, _, _, htrig, hl, _, hlog⟩ := capo_fresh s 4 0 hfrozen
    exact ⟨_, rfl, hf, hc, htrig, hl.trans (by simp), hlog⟩
  case release =>
    intro s hfrozen hnone hrefused htrig
    refine ⟨_, rfl, ?_⟩
    have h : s.capoRelease = if s.px.blocked || s.px.trigAt == some s.clk.px then
        s.modPx fun y => { y with refusedReleases := satAdd 16 y.refusedReleases 1, refusedAt := some s.clk.px }
      else s.modPx fun y => { y with releaseAt := some s.clk.px } := if_neg (by simp [hfrozen, hnone, hrefused])
    dsimp only
    rw [h]
    by_cases hb : s.px.blocked = true
    · rw [if_pos hb, if_pos (by simp [hb])]
      exact ⟨hnone, rfl, hfrozen⟩
    · rw [if_neg hb, if_neg (by simp [hb, htrig])]
      rfl
  case hold => exact fun hold s => ⟨_, rfl, rfl⟩
  case message =>
    intro rid kind s hroot hfrozen
    refine ⟨_, rfl, ?_⟩
    obtain ⟨u, p, hrun, herr, h⟩ := errMessage_logs (s := s) (rid := rid.toNat) (kind := kind) hroot hfrozen
    have hrest := event_rest u 0x41 4 s.clk.px none p (fld kind.val 16 2 + fld rid.toNat 0 16)
    have herr' := (kept_of_rest Px.rootErr hrest).trans herr
    have hsets := rootErr_bit s.px.rootErr kind
    rw [h]
    split
    next hk =>
      obtain ⟨hf, hc, _, _, _, _, hcalm, _⟩ := capo_fresh (u.event 0x41 4 s.clk.px none p (fld kind.val 16 2 + fld rid.toNat 0 16)) 6 0
        ((kept_of_rest Px.frozen hrest).trans hrun)
      refine ⟨⟨p, event_capo_logged ..⟩, ?_, fun _ => ⟨hf, hc⟩⟩
      rw [kept_of_capo Px.rootErr hcalm, herr']
      exact hsets
    next hk =>
      refine ⟨⟨p, event_logged ..⟩, ?_, fun h => absurd (congrArg Fin.val h) hk⟩
      rw [herr']
      exact hsets

end Sys2Proof.Machine
end

section
/-! SUPPORT. The port's services (R323, R330, R336, R350). -/

namespace Sys2Proof.Machine

theorem modFn_fn (s : State) (f : Nat) (g : PxFn → PxFn) : (s.modFn f g).fn f = g (s.fn f) := Tab.at_upd_same s.px.fns f g

/-- A pending message of a vector that may send goes out (R336). -/
theorem sendPending_sends {s : State} {k : Nat} (hp : (Tab.at s.px.msix k).pending = true) (hm : (Tab.at s.px.msix k).masked = false)
    (hfm : (s.fn (k / 512)).msixMask = false) (hen : (s.fn (k / 512)).msixEnable = true) (hbm : (s.fn (k / 512)).busMaster = true)
    (hex : s.fnExists (k / 512) = true) (hfrozen : s.px.frozen = false) :
    (Tab.at (s.sendPending k).px.msix k).pending = false ∧
      (s.sendPending k).outbox = s.outbox ++ [.msix (Tab.at s.px.msix k).addr (Tab.at s.px.msix k).data] := by
  unfold State.sendPending
  dsimp only
  rw [if_pos (by simp [hp, hm, hfm, hen, hbm, hex, hfrozen])]
  exact ⟨congrArg MsixEntry.pending (Tab.at_put_same s.px.msix k { Tab.at s.px.msix k with pending := false }), rfl⟩

/-- A downstream request that is answered ends, and so does its mailbox command (R350). -/
theorem rpDone_answers {s : State} {r : RpReq} {v : Nat} (hr : s.px.rpNow = some r) (hrun : s.rpFrozen r.config = false) (hwait : s.px.rpWait = []) :
    Answers (s.rpDone (.data v)) r.mailbox 0 0 ∧ (s.rpDone (.data v)).px.rpNow = none := by
  have hnow : (((s.modPx fun x => { x with rpNow := none }).tlp).respond r.mailbox 0 0 (leBytes (if r.config then 4 else 8) v)).px.rpNow = none ∧
      (((s.modPx fun x => { x with rpNow := none }).tlp).respond r.mailbox 0 0 (leBytes (if r.config then 4 else 8) v)).px.rpWait = [] := by
    have hrest := pxRest_eq (State.respond_quiet ((s.modPx fun x => { x with rpNow := none }).tlp) r.mailbox 0 0 (leBytes (if r.config then 4 else 8) v))
    exact ⟨kept_of_rest Px.rpNow hrest, (kept_of_rest Px.rpWait hrest).trans hwait⟩
  have h : s.rpDone (.data v) = ((s.modPx fun x => { x with rpNow := none }).tlp).respond r.mailbox 0 0
      (leBytes (if r.config then 4 else 8) v) := by
    unfold State.rpDone
    rw [hr]
    dsimp only
    rw [if_neg (by simp [hrun])]
    unfold State.rpPump
    dsimp only
    rw [hnow.1, hnow.2]
  rw [h]
  exact ⟨respond_answers .., hnow.1⟩

/-- Settles O39: each command passes its checks, and its effect is read off the port. -/
theorem portService : Obligations.PortService := by
  unfold Obligations.PortService
  refine ⟨?resize, ?pending, ?narrow, ?widen, ?sleep, ?completion⟩
  case resize =>
    intro log2 s hroot hlo hhi
    refine ⟨_, rfl, ?_⟩
    unfold State.resizeBar
    rw [if_neg (by simp [hroot]; omega)]
    exact ⟨rfl, rfl, congrArg PxFn.bar2 (modFn_fn s 16 fun g => { g with bar2 := g.bar2 / 2 ^ log2.val * 2 ^ log2.val })⟩
  case pending =>
    intro f v s hp hm hfm hen hbm hex hfrozen
    have hf : (512 * f.val + v.val) / 512 = f := by omega
    refine ⟨_, rfl, ?_⟩
    exact sendPending_sends hp hm (by rw [hf]; exact hfm) (by rw [hf]; exact hen) (by rw [hf]; exact hbm) (by rw [hf]; exact hex) hfrozen
  case narrow =>
    intro s hup hpow hidle hwidth
    refine ⟨_, rfl, ?_⟩
    unfold State.l0pEnter
    rw [if_pos (by simp [hup, hpow, hidle, hwidth])]
    exact ⟨rfl, rfl⟩
  case widen =>
    intro s hup hpow
    refine ⟨_, rfl, ?_⟩
    unfold State.l0pLeave
    rw [if_pos (by simp [hup, hpow])]
    exact ⟨rfl, rfl⟩
  case sleep =>
    intro s hup hen hl1 hidle hmsix hin hnow
    have hpend : (s.px.msix.any fun e => e.2.pending) = false := List.any_eq_false.2 fun e he => by simp [hmsix e he]
    refine ⟨_, rfl, ?_⟩
    unfold State.l1Enter
    dsimp only
    rw [if_pos (by rw [hpend]; simp [hup, hen, hl1, hidle, hin, hnow])]
    exact ⟨rfl, rfl⟩
  case completion => exact fun v s r hr hrun hwait => ⟨_, rfl, rpDone_answers hr hrun hwait⟩

end Sys2Proof.Machine
end

section
/-! SUPPORT. Tally's pulses and records (R387 to R393), and the power commands (R389, R459 to R461). -/

namespace Sys2Proof.Machine

/-! ## Tally -/

/-- What flushing the counting units leaves of Tally: each field that `rest` keeps. -/
theorem kept_of_tallyRest {α : Type} (f : Tally → α) {a b : Tally} (h : a.rest = b.rest) (hf : ∀ x : Tally, f x.rest = f x := by intro; rfl) :
    f a = f b := (hf a).symm.trans ((congrArg f h).trans (hf b))

theorem flushUnits_counters (s : State) : s.flushUnits.tally.counters = s.tally.counters ∧ s.flushUnits.tally.cause = s.tally.cause := by
  have h := tallyRest_eq (State.flushUnits_quiet s)
  exact ⟨kept_of_tallyRest Tally.counters h, kept_of_tallyRest Tally.cause h⟩

/-- An update of one counter, read at any. -/
theorem at_upd_same_or (x : Tab Nat) (i j : Nat) (f : Nat → Nat) : Tab.at (Tab.upd x i f) j = if j = i then f (Tab.at x j) else Tab.at x j := by
  rw [Tab.at_upd]
  split
  next h => rw [h]
  next => rfl

theorem event_tally (s : State) (code domain cycle : Nat) (unit part : Option Nat) (data : Nat) :
    (s.event code domain cycle unit part data).tally = s.tally := tally_eq (by simp)

/-- Settles O40: each pulse is what Tally takes off the front of its queue, and a record is what Tally holds when it commits. -/
theorem tallyCommands : Obligations.TallyCommands := by
  unfold Obligations.TallyCommands
  refine ⟨?age, ?pulse, ?lifetime, ?mark, ?commit, ?stored, ?select, ?ask⟩
  case age =>
    intro p k s hne hold
    refine ⟨_, rfl, ?_⟩
    unfold State.accumAge
    dsimp only
    rw [if_pos ⟨hne, hold⟩]
    unfold State.sendPulse
    dsimp only
    rw [if_neg hne]
    exact ⟨congrArg Accum.amount (Tab.at_put_same s.tally.acc (8 * p.val + k.val) default), rfl⟩
  case pulse =>
    intro s x l hl hcode
    refine ⟨_, rfl, ?_⟩
    unfold State.takePulse
    rw [hl]
    dsimp only
    rw [if_pos hcode]
    exact ⟨congrArg (List.drop 1) hl, rfl, fun j => at_upd_same_or s.tally.counters _ j fun n => wrapAdd 64 n x.amount⟩
  case lifetime =>
    intro s x l hl hcode hone
    refine ⟨_, rfl, ?_⟩
    unfold State.takeLifetime
    rw [hl]
    dsimp only
    rw [if_pos ⟨hcode, hone⟩]
    exact ⟨congrArg (List.drop 1) hl, rfl, fun p => at_upd_same_or s.tally.lifetimes _ p fun n => wrapAdd 32 n 1⟩
  case mark =>
    intro s x l hl hcode htwo
    refine ⟨_, rfl, ?_⟩
    unfold State.takeMark
    rw [hl]
    dsimp only
    rw [if_pos ⟨hcode, htwo⟩]
    exact ⟨congrArg (List.drop 1) hl, rfl, rfl, rfl⟩
  case commit =>
    intro s hcause hsigning hself
    refine ⟨_, rfl, ?_⟩
    unfold State.tallyCommit
    dsimp only
    rw [if_neg (by simp [hcause, hsigning, hself])]
    exact ⟨rfl, rfl, rfl, _, rfl, rfl, rfl, rfl, rfl⟩
  case stored =>
    intro s r hsigning hwaiters
    refine ⟨_, rfl, ?_⟩
    unfold State.tallyStored
    rw [hsigning]
    dsimp only
    rw [hwaiters]
    refine ⟨?_, ?_, event_logged ..⟩
    · exact congrArg Tally.signing (event_tally ..)
    · exact (congrArg (fun t : Tally => Tab.at t.records (r.seq % 8)) (event_tally ..)).trans (Tab.at_put_same s.tally.records (r.seq % 8) r)
  case select => exact fun w s => ⟨_, rfl, rfl, rfl⟩
  case ask =>
    intro s
    refine ⟨_, rfl, (flushUnits_counters s).1, ?_⟩
    exact congrArg (fun l => l ++ [(s.flushUnits.tally.pulses.length, none)]) (flushUnits_facts s).1

/-! ## Power -/

/-- The sensors and when they were last taken. -/
def Power.sampling (x : Power) : Nat × Tab (Nat × Nat) := (x.sampled, x.sensors)

theorem takeSensor_sensors (s : State) (k v : Nat) : ∃ top, (s.takeSensor k v).mc.pwr.sensors = Tab.put s.mc.pwr.sensors k (v, top) := by
  unfold State.takeSensor
  dsimp only
  split <;> split <;> exact ⟨_, rfl⟩

/-- Taking sensors one after the other leaves the value of each that was taken. -/
theorem takeSensors_value (f : Nat → Nat) : ∀ (l : List Nat) (s : State) (k : Nat),
    k ∈ l ∨ (Tab.at s.mc.pwr.sensors k).1 = f k → (Tab.at (s.each l fun s k => s.takeSensor k (f k)).mc.pwr.sensors k).1 = f k
  | [], _, _, h => h.elim (fun h => absurd h List.not_mem_nil) id
  | i :: l, s, k, h => by
    obtain ⟨top, hsensors⟩ := takeSensor_sensors s i (f i)
    refine takeSensors_value f l (s.takeSensor i (f i)) k ?_
    by_cases hk : k = i
    · refine .inr ?_
      rw [hk, hsensors, Tab.at_put_same]
    · refine h.imp (fun h => (List.mem_cons.1 h).resolve_left hk) fun h => ?_
      rw [hsensors, Tab.at_put, if_neg hk]
      exact h

theorem stepArr_sampling (s : State) (up : Bool) : (s.stepArr up).mc.pwr.sampling = s.mc.pwr.sampling := by
  unfold State.stepArr
  split <;> rfl

/-- The sensors as sampled: their values, and the time of the sample. -/
def State.sampleAll (s : State) (v : List Nat) : State :=
  (s.each (List.range 8) fun s k => s.takeSensor k (v.getD k 0 % 2 ^ 16)).modPwr fun x => { x with sampled := s.clk.mgt }

/-- What follows a sample only judges it. -/
theorem sampleSensors_sampling {s : State} {v : List Nat} (hdue : s.mc.pwr.sampled + 2 ^ 16 ≤ s.clk.mgt) :
    (s.sampleSensors v).mc.pwr.sampling = (s.sampleAll v).mc.pwr.sampling := by
  unfold State.sampleSensors
  rw [if_neg (by omega)]
  extract_lets s1 x p hot limit atMin floor_ s2 s3 over_ under s4
  have h3 : s3.mc.pwr.sampling = (s.sampleAll v).mc.pwr.sampling := by
    show (ite _ _ _ : State).mc.pwr.sampling = _
    split <;> rfl
  split
  · exact h3
  split
  · exact (stepArr_sampling ..).trans h3
  split
  · exact (stepArr_sampling ..).trans h3
  · exact h3

theorem stepArr_keeps (s : State) (up : Bool) :
    ∃ st late o u, (s.stepArr up).mc.pwr = { s.mc.pwr with step := some st, late := late, over_ := o, under := u } := by
  unfold State.stepArr
  split
  next h =>
    obtain ⟨st, hst⟩ := Option.isSome_iff_exists.1 h
    exact ⟨st, _, _, _, by rw [← hst]⟩
  next => exact ⟨_, _, _, _, rfl⟩

/-- MC_PWR_CTRL's fields as written. -/
def State.setPwr (s : State) (w : Nat) : State :=
  s.modPwr fun x => { x with limit := bits w 40 8, fmax := bits w 24 8, fmin := bits w 16 8, capEn := bit w 1, lpEn := bit w 0 }

theorem writePwr_facts (s : State) (w : Nat) :
    (s.writePwr w).mc.pwr.limit = bits w 40 8 ∧ (s.writePwr w).mc.pwr.fmax = bits w 24 8 ∧ (s.writePwr w).mc.pwr.fmin = bits w 16 8 ∧
      (s.writePwr w).mc.pwr.capEn = bit w 1 ∧ (s.writePwr w).mc.pwr.lpEn = bit w 0 ∧
      (bit w 1 = true → (s.writePwr w).mc.pwr.top < s.mc.pwr.freq → (s.writePwr w).mc.pwr.step.isSome = true) := by
  have h : s.writePwr w = if (s.setPwr w).mc.pwr.capEn && decide ((s.setPwr w).mc.pwr.top < (s.setPwr w).mc.pwr.freq) then
      ((s.setPwr w).stepArr false).modPwr fun x => { x with maxAt := some s.clk.mgt } else s.setPwr w := rfl
  rw [h]
  split
  next =>
    obtain ⟨st, late, o, u, hp⟩ := stepArr_keeps (s.setPwr w) false
    have hpwr : (((s.setPwr w).stepArr false).modPwr fun x => { x with maxAt := some s.clk.mgt }).mc.pwr =
        { (s.setPwr w).mc.pwr with step := some st, late := late, over_ := o, under := u, maxAt := some s.clk.mgt } :=
      congrArg (fun x : Power => { x with maxAt := some s.clk.mgt }) hp
    rw [hpwr]
    exact ⟨rfl, rfl, rfl, rfl, rfl, fun _ _ => rfl⟩
  next hcap =>
    refine ⟨rfl, rfl, rfl, rfl, rfl, fun hen htop => absurd ?_ hcap⟩
    rw [Bool.and_eq_true, decide_eq_true_eq]
    exact ⟨hen, htop⟩

/-- Settles O41: each command passes its guards, and what it leaves is read off the power state. -/
theorem powerCommands : Obligations.PowerCommands := by
  unfold Obligations.PowerCommands
  refine ⟨?warn, ?due, ?clock, ?sample, ?stepDone, ?stepLate, ?control, ?stepDown⟩
  case warn => exact fun s => ⟨_, rfl, rfl, rfl, (flushUnits_counters s).1⟩
  case due =>
    intro low s c hat hdue
    refine ⟨_, rfl, ?_⟩
    unfold State.powerWarnDue
    rw [hat]
    dsimp only
    rw [if_pos hdue]
    exact ⟨rfl, rfl, rfl⟩
  case clock => exact fun px s => ⟨_, rfl, _, rfl, rfl, rfl, rfl⟩
  case sample =>
    intro v s hwf hdue
    refine ⟨_, if_pos hwf, ?_⟩
    have h := sampleSensors_sampling (v := v.map fun (x : BitVec 16) => x.toNat) hdue
    refine ⟨congrArg Prod.fst h, fun k hk => ?_⟩
    have hsensors : (s.sampleSensors (v.map fun (x : BitVec 16) => x.toNat)).mc.pwr.sensors = _ := congrArg Prod.snd h
    rw [hsensors]
    exact takeSensors_value _ _ _ _ (.inl (List.mem_range.2 hk))
  case stepDone =>
    intro s a up hstep hlo hhi
    refine ⟨_, rfl, ?_⟩
    unfold State.arrStepDone
    rw [hstep]
    dsimp only [State.modPwr]
    cases up
    case true => exact ⟨rfl, by simp; omega, by simp, fun _ _ => by simp; omega, fun h => by cases h⟩
    case false => exact ⟨rfl, by simp, by simp; omega, (fun h => by cases h), fun _ _ => by simp; omega⟩
  case stepLate =>
    intro s a up hstep hlate hdue
    refine ⟨_, rfl, ?_⟩
    unfold State.arrStepLate
    rw [hstep]
    dsimp only
    rw [if_neg (by simp [hlate]; omega)]
    exact ⟨rfl, _, rfl, rfl, rfl, rfl⟩
  case control => exact fun w s => ⟨_, rfl, writePwr_facts s w.toNat⟩
  case stepDown =>
    intro s a hat htop hcap hdue hstep
    refine ⟨_, rfl, ?_⟩
    unfold State.freqMaxStep
    rw [hat]
    dsimp only
    rw [if_neg (by simp [hcap]; omega), if_neg (by simp [hstep]; omega)]
    unfold State.stepArr
    rw [if_neg (by simp [hstep])]
    exact ⟨rfl, rfl⟩

end Sys2Proof.Machine
end

section
/-!
SUPPORT. The commands of the error collector (R416 to R435) settled.
-/

namespace Sys2Proof.Machine

/-- Writing a whole word leaves nothing of the old value (R8). -/
theorem over_whole (old v : Nat) (h : v < 2 ^ 64) (o : Nat) (ho : o % 8 = 0) : (regWriteOf o 8 v).over old = v := by
  have hmask : v % 2 ^ 64 &&& (2 ^ 64 - 1) = v := by rw [Nat.mod_eq_of_lt h, Nat.and_two_pow_sub_one_of_lt_two_pow h]
  simpa [regWriteOf, RegWrite.over, ho] using hmask

/-- A write of XL_PERF_CTRL takes its three fields (R8). -/
theorem bar0Write_perfCtrl (s : State) (w : Who) (v : Nat) (h : v < 2 ^ 64) :
    s.bar0Write w 0x01000008 8 v =
      { s with xl := { s.xl with perfPart := bits v 4 4, perfAll := bit v 1, perfEnable := bit v 0 } } := by
  have hrun : s.bar0Write w 0x01000008 8 v = s.regWrite w 0x01000008 (regWriteOf 0x01000008 8 v) := if_pos (by decide)
  rw [hrun]
  unfold State.regWrite
  dsimp only
  rw [if_neg (by decide), if_pos rfl, over_whole _ v h _ (by decide)]

/-- EC after a quiet source returned to level 0, and the recovery was counted (R431). -/
def State.recovered (s : State) (src : Nat) : State :=
  let s1 := s.modSource src fun x => { x with quiet := none, level := 0, recoveries := satAdd 16 x.recoveries 1 }
  { s1 with ec := { s1.ec with recoveries := satAdd 32 s1.ec.recoveries 1 } }

/-- The record and the release that follow a recovery leave EC as it recovered (R431). -/
theorem releasing_recovered (s : State) (src : Nat) (e : ErrorEv) :
    let t := ((s.recovered src).errorEvent e 3 0 false).releaseUnits src
    (t.source src).level = 0 ∧ (t.source src).recoveries = satAdd 16 (s.source src).recoveries 1 ∧
      t.ec.recoveries = satAdd 32 s.ec.recoveries 1 := by
  have hec := (releaseUnits_ec ((s.recovered src).errorEvent e 3 0 false) src).trans (errorEvent_ec (s.recovered src) e 3 0 false)
  have hsource : (s.recovered src).source src = { s.source src with
      quiet := none, level := 0, recoveries := satAdd 16 (s.source src).recoveries 1 } :=
    (modSource_source s src src fun x => { x with quiet := none, level := 0, recoveries := satAdd 16 x.recoveries 1 }).trans (if_pos rfl)
  dsimp only
  rw [source_of_ec hec, hec, hsource]
  exact ⟨rfl, rfl, rfl⟩

/-- Settles O42: each command passes its guards, and what it leaves is what the operation's lemma says of the sources. -/
theorem errorCommands : Obligations.ErrorCommands := by
  unfold Obligations.ErrorCommands
  refine ⟨?latch, ?grace, ?clear, ?quiet, ?inject, ?alive, ?reconcile, ?register⟩
  case latch =>
    intro e s hwf
    have hcls : e.cls < 3 := by simpa [Instr.wf] using (Bool.and_eq_true_iff.1 hwf).2
    exact ⟨_, if_pos hwf, latch_source { s with ec := { s.ec with lines := s.ec.lines.erase e } } e hcls⟩
  case grace =>
    intro src s a hgrace hunacked hdue hlevel hstep hrec
    refine ⟨_, rfl, ?_⟩
    unfold State.graceExpiry
    dsimp only
    rw [hgrace]
    dsimp only
    rw [if_pos (by simp [hunacked, hdue, hlevel, hstep])]
    refine ⟨?_, raiseTo_steps _ _ _⟩
    rw [raiseTo_source, if_pos hrec.symm, if_pos rfl]
  case clear => exact fun w s => ⟨_, rfl, fun j hj => clearStatus_status s w.toNat j hj⟩
  case quiet =>
    intro src s a hquiet hacked hdue hzero hfour
    refine ⟨_, rfl, ?_⟩
    unfold State.quietExpiry
    dsimp only
    rw [hquiet]
    dsimp only
    rw [if_neg (by simp [hacked, hdue]), if_neg (by simp [hzero, hfour])]
    exact releasing_recovered s src (s.recordOf src)
  case inject =>
    intro w s htest hgo hcls
    have hlt : bits w.toNat 8 2 < 3 := by
      have hbits : bits w.toNat 8 2 < 2 ^ 2 := Nat.mod_lt _ (by decide)
      omega
    refine ⟨_, rfl, ?_⟩
    unfold State.inject
    rw [if_neg (by simp [htest, hgo, hcls])]
    exact ⟨(latch_source s _ hlt).1, latch_lines s _⟩
  case alive => exact fun s hrun hdue => ⟨_, rfl, if_neg (by simp [hrun]; omega)⟩
  case reconcile =>
    intro s hready hdue
    refine ⟨_, rfl, ?_⟩
    unfold State.reconcile
    rw [if_pos (by simp [hready]; omega)]
    exact reconcileAll _
  case register =>
    intro value s hport hfrozen hup
    refine ⟨_, rfl, ?_⟩
    have hrun : s.registerWrite none 0x01000008 8 value.toNat = s.tlp.bar0Write .pf 0x01000008 8 value.toNat :=
      if_neg (by simp [hport, hfrozen, hup])
    exact congrArg State.xl (hrun.trans (bar0Write_perfCtrl s.tlp .pf value.toNat value.isLt))

end Sys2Proof.Machine
end

section
/-! SUPPORT. Scrub and re-key (R364 to R366, R378, R380) settled. -/

namespace Sys2Proof.Machine

/-! ## Scrub -/

theorem share_of_setShare {s t : State} {p : Nat} {f : Share → Share} (h : t.fixed = s.fixed.setShare p f) :
    (t.part p).share = f (s.part p).share :=
  (congrArg (fun x => x.shares p) h).trans (if_pos rfl)

/-- QUIESCE's end takes back what partition p still has under way (R378). -/
def State.withdrawn (s : State) (p : Nat) : State :=
  let s1 := s.forget fun q => q.part == p && !q.inbound
  let s2 := { s1 with tier := { s1.tier with
    fills := s1.tier.fills.filter fun f => f.part != p
    pushes := s1.tier.pushes.filter fun e => e.2.part != p } }
  { s2 with links := { s2.links with tags := s2.links.tags.filter fun e => e.2.part != p || !e.2.live } }

theorem forget_qc (s : State) (pick : Req → Bool) : (s.forget pick).qc = s.qc := qc_eq (by simp)

/-- A partition's rings stay its own while it is withdrawn. -/
theorem ringsOf_withdrawing (s : State) (p : Nat) :
    ((s.withdrawn p).modPart p fun x => { x with scrubPhase := 2 }).ringsOf p = s.ringsOf p := by
  have hgroups : ((s.forget fun q => q.part == p && !q.inbound).part p).groups = (s.part p).groups :=
    congrArg Share.groups (part_share_of_fixed (State.forget_fixed s _) p)
  have hqc : (s.withdrawn p).qc = s.qc := forget_qc s _
  unfold State.ringsOf
  rw [modPart_part_same, modPart_qc, hqc]
  exact congrArg (fun g => (Tab.ixs s.qc.rings).filter fun r => bit g (groupOfRing r)) hgroups

/-- CLOSE empties what belongs to the tenant (R380). -/
theorem close_part (s : State) (p : Nat) :
    ((s.close p).part p).scrubPhase = 3 ∧ ((s.close p).part p).slot0 = {} ∧ ((s.close p).part p).slot1 = {} ∧
      ((s.close p).part p).tenantKey = [] ∧ ((s.close p).part p).sets = [] ∧ ((s.close p).part p).counter = 0 := by
  unfold State.close
  dsimp only
  rw [emit_part_of, modPart_part_same]
  exact ⟨rfl, rfl, rfl, rfl, rfl, rfl⟩

theorem close_st (s : State) (p : Nat) : ((s.close p).part p).st = (s.part p).st :=
  congrArg Share.st (share_of_setShare (State.close_fixed s p))

/-! ## Re-key -/

/-- The invalidation that a page's lock cuts (R365). -/
theorem cutInval_listed (s : State) (p : Nat) (k : InvKind) (i : Inval) :
    ∃ x ∈ (s.cutInval p k i).xl.invals, x.id = s.xl.next ∧ x.part = p ∧ x.va = i.va :=
  ⟨_, List.mem_append_right _ (List.mem_singleton_self _), rfl, rfl, rfl⟩

theorem part_of_pt_eq {s t : State} (h : t.pt = s.pt) (p : Nat) : t.part p = s.part p := by
  unfold State.part
  rw [h]

theorem sendHost_sent (s : State) (q : Req) : Sent (s.sendHost q) q.purpose q.kind q.pa q.len q.data := send_sent _ _

theorem slot_modSlot_same (x : Part) (g : Nat) (f : KeySlot → KeySlot) : (x.modSlot g f).slot g = f (x.slot g) := by
  unfold Part.modSlot Part.slot
  split <;> rfl

/-- A RETIRING slot whose passes and requests are done is empty, or takes the load that waited for it (R366, R367). -/
theorem retireSlot_slot {s : State} {p g : Nat} (hst : ((s.part p).slot g).st = .retiring) (hhost : (s.part p).rekey.hostPass = false)
    (hhbm : (s.part p).rekey.hbmPass = false) (hin : ((s.part p).slot g).inflight = 0) :
    ((s.retireSlot p g).part p).slot g = match (s.part p).heldLoad with
      | some (_, h, b) => if h = g then { st := .loaded, hostKey := slice b 0 64, peerKey := slice b 64 32, hbmKey := slice b 96 64 } else {}
      | none => {} := by
  have hempty : ((((s.modPart p fun x => x.modSlot g fun _ => {}).fabEvent 0x30 none (some p) g).part p).slot g) = {} := by
    rw [part_of_pt (by simp [State.fabEvent] : _ = (s.modPart p fun x => x.modSlot g fun _ => {}).hide (allBut .pt)), modPart_part_same,
      slot_modSlot_same]
  unfold State.retireSlot
  dsimp only
  rw [if_neg (by simp [hst, hhost, hhbm, hin])]
  cases (s.part p).heldLoad with
  | none => exact hempty
  | some load =>
    obtain ⟨se, h, b⟩ := load
    dsimp only
    split
    · rw [emit_part_of, modPart_part_same, modPart_part_same]
      exact slot_modSlot_same ..
    · exact hempty

/-- Settles O43: each phase and each step of the re-key passes its guards, and its lemma says what it leaves of the partition. -/
theorem scrubAndRekey : Obligations.ScrubAndRekey := by
  unfold Obligations.ScrubAndRekey
  refine ⟨?quiesce, ?zero, ?close, ?lock, ?pushed, ?unlock, ?hbm, ?retire, ?size⟩
  case quiesce =>
    intro p s hst hphase hdue
    refine ⟨_, rfl, ?_⟩
    unfold State.quiesceEnd
    dsimp only
    rw [if_neg (by simp [hst, hphase]; omega)]
    have hfacts := quiesce_facts s p hst (s.withdrawn p) (forget_qc s _) rfl rfl
    dsimp only at hfacts
    rwa [ringsOf_withdrawing] at hfacts
  case zero =>
    intro p s hst hphase hdue
    refine ⟨_, rfl, ?_⟩
    unfold State.zeroEnd
    dsimp only
    rw [if_neg (by simp [hst, hphase]; omega)]
    exact ⟨(close_st s p).trans hst, close_part s p⟩
  case close =>
    intro p s hst hphase hdue
    refine ⟨_, rfl, ?_⟩
    unfold State.closeEnd
    dsimp only
    rw [if_neg (by simp [hst, hphase]; omega)]
    have hshare := share_of_setShare (State.freePart_fixed s p)
    exact ⟨congrArg Share.st hshare, congrArg Share.groups hshare, congrArg Share.tcWays hshare, congrArg Share.tlbWays hshare,
      congrArg Share.modules hshare⟩
  case lock =>
    intro p l s hpass hfree hmay htreats
    refine ⟨_, rfl, ?_⟩
    unfold State.lockPage
    dsimp only
    rw [if_neg (by simp [hpass, hfree, hmay]), if_neg (by simp [htreats]), modPart_part_same]
    obtain ⟨x, hx, hid, hpart, hva⟩ := cutInval_listed s p (.range l.asid l.va (2 ^ l.sizeLog2 / 4096)) { rekey := true, va := l.va }
    exact ⟨_, rfl, rfl, rfl, rfl, rfl, rfl, x, hx, hid, hpart, hva⟩
  case pushed =>
    intro p old s l hlock hstep hgone hmay
    refine ⟨_, rfl, ?_⟩
    unfold State.pagePushed
    dsimp only
    rw [hlock]
    dsimp only
    rw [if_neg (by simp [hstep, hmay]; exact hgone)]
    refine ⟨?_, sendHost_sent _ _⟩
    rw [part_of_pt_eq (sendHost_pt _ _), modPart_part_same]
    exact ⟨_, rfl, rfl, rfl⟩
  case unlock =>
    intro p s q hq
    refine ⟨_, rfl, ?_⟩
    unfold State.unlockPage
    rw [hq]
    dsimp only
    rw [modPart_part_same]
    refine ⟨rfl, fun r hr => ?_⟩
    have hr' : r ∈ (s.finishReq q).reqs := hr
    rw [finishReq_reqs] at hr'
    simpa using (List.mem_filter.1 hr').2
  case hbm =>
    intro p s hpass hdue
    refine ⟨_, rfl, ?_⟩
    unfold State.hbmPassEnd
    dsimp only
    rw [if_pos (by simp [hpass, hdue]), modPart_part_same]
  case retire => exact fun p g s hst hhost hhbm hin => ⟨_, rfl, retireSlot_slot hst hhost hhbm hin⟩
  case size => exact fun log2 s => ⟨_, rfl, rfl⟩

end Sys2Proof.Machine
end

section
/-! SUPPORT. SPDM and the tenant's signed requests (R369 to R373, R376) settled. -/

namespace Sys2Proof.Machine

/-! ## SPDM -/

/-- A responder that may answer takes a request outside every session that its connection is ready for (R369). -/
theorem spdmMay_passes {s : State} {doe : Bool} (hmay : s.spdmMay = true) (hdoe : doe = true → s.px.rootPort = false ∧ s.px.configReady = true) :
    ¬((!s.spdmMay || !true || (doe && (s.px.rootPort || !s.px.configReady))) = true) := by
  cases doe
  case false => simp [hmay]
  case true => simp [hmay, hdoe rfl]

theorem spdmRequest_version {s : State} {doe : Bool} (body : Bytes) (hmay : s.spdmMay = true)
    (hdoe : doe = true → s.px.rootPort = false ∧ s.px.configReady = true) :
    s.spdmRequest doe none .version body = (s.modSpdm fun x => { x with step := 1 }).spdmAnswer none .version [0x13] := by
  unfold State.spdmRequest
  dsimp only
  rw [if_neg (spdmMay_passes hmay hdoe), if_neg (by simp [spdmPlace])]

/-- One named measurement is answered, signed when the request asks for a signature (R376). -/
theorem spdmRequest_measurement {s : State} {doe : Bool} {body : Bytes} (hmay : s.spdmMay = true)
    (hdoe : doe = true → s.px.rootPort = false ∧ s.px.configReady = true) (hstep : 3 ≤ s.mc.spdm.step) (hall : byteAt body 1 ≠ 0xFF)
    (hix : byteAt body 1 ∈ measIxs) :
    s.spdmRequest doe none .measurements body = s.draw.2.emit (.measurements none (s.measBlock (byteAt body 1))
      (if bit (byteAt body 0) 0 then some (Config.identitySign (body ++ s.measBlock (byteAt body 1) ++ leBytes 32 s.draw.1)) else none)) := by
  have hzero : byteAt body 1 ≠ 0 := fun h => absurd (h ▸ hix) (by decide)
  unfold State.spdmRequest
  dsimp only
  rw [if_neg (spdmMay_passes hmay hdoe), if_neg (by simp [spdmPlace, hstep]), if_neg (by simp [hix]), if_neg hzero, if_neg hall, if_neg hzero]

/-! ## Signed requests -/

section
variable {s : State} {session : Nat} {b : Bytes} {p : Nat} (hmay : s.spdmMay = true) (hses : s.mc.spdm.sessions.contains session = true)
  (hshape : tenantShape b = true)
include hmay hses hshape

theorem tenantRequest_claim (hcode : byteAt b 0 = 1) (hp : byteAt b 1 % 16 = p) :
    s.tenantRequest session b = (s.claim p (reqBody b)).2.tenantReply session 1 (s.claim p (reqBody b)).1 := by
  unfold State.tenantRequest
  dsimp only
  rw [hp, if_neg (by rw [hmay, hses]; decide), if_neg (by simp [hshape]), if_pos hcode]

/-- A signed request in its place acts when its signature verifies, and is answered 3 and nothing more when it does not (R371). -/
theorem tenantRequest_judged {k c : Nat} {act : State} (hcode : byteAt b 0 = k) (hk : k ≠ 1) (hp : byteAt b 1 % 16 = p)
    (hst : (s.part p).st = 1 ∨ (s.part p).st = 2) (hclaimed : (s.part p).claimed = true) (hcount : (s.part p).counter < fieldAt b 8 8)
    (hact : (s.modPart p fun x => { x with counter := fieldAt b 8 8 }).tenantAct session p b = (some c, act)) :
    s.tenantRequest session b =
      if Config.ecdsaVerify (s.part p).tenantKey (slice b 0 (16 + fieldAt b 4 4)) (slice b (16 + fieldAt b 4 4) 96) = true then
        act.tenantReply session k c
      else s.tenantReply session k 3 := by
  rw [tenantRequest_signed s session b p hmay hses hshape (hcode ▸ hk) hp hst hclaimed hcount, hact, hcode]

end

/-- The bundle of a KEY_LOAD as a loaded slot (R372). -/
def loadedKey (body : Bytes) : KeySlot :=
  { st := .loaded, hostKey := slice body 0 64, peerKey := slice body 64 32, hbmKey := slice body 96 64 }

theorem keyLoad_empty {s : State} {p g : Nat} (session : Nat) (body : Bytes) (h : ((s.part p).slot g).st = .empty) :
    s.keyLoad session p g body = (some 0, s.modPart p fun x => x.modSlot g fun _ => loadedKey body) := by
  unfold State.keyLoad
  dsimp only
  rw [h]
  rfl

theorem startScrub_groups (s : State) (p detail : Nat) : ((s.startScrub p detail).part p).groups = (s.part p).groups :=
  congrArg Share.groups (share_of_setShare (State.startScrub_fixed s p detail))

theorem tenantReply_part (s : State) (session code result p : Nat) : (s.tenantReply session code result).part p = s.part p := rfl

theorem modSlot_counter (x : Part) (g : Nat) (f : KeySlot → KeySlot) : (x.modSlot g f).counter = x.counter := by
  unfold Part.modSlot
  split <;> rfl

/-! ### What each code does (R371 to R373) -/

theorem tenantAct_keyLoad {s : State} {p : Nat} {b : Bytes} (session : Nat) (hcode : byteAt b 0 = 2)
    (h : ((s.part p).slot (byteAt b 2)).st = .empty) :
    s.tenantAct session p b = (some 0, s.modPart p fun x => x.modSlot (byteAt b 2) fun _ => loadedKey (reqBody b)) := by
  unfold State.tenantAct
  dsimp only
  rw [hcode]
  exact keyLoad_empty session (reqBody b) h

theorem tenantAct_provision (s : State) (session p : Nat) {b : Bytes} (hcode : byteAt b 0 = 3) :
    s.tenantAct session p b = (some (s.setProvision p (byteAt b 2) (reqBody b)).1, (s.setProvision p (byteAt b 2) (reqBody b)).2) := by
  unfold State.tenantAct
  dsimp only
  rw [hcode]
  rfl

theorem tenantAct_revoke (s : State) (session p : Nat) {b : Bytes} (hcode : byteAt b 0 = 4) :
    s.tenantAct session p b = (some 0, s.modPart p fun x => { x with sets := Tab.put x.sets (byteAt b 2) {} }) := by
  unfold State.tenantAct
  dsimp only
  rw [hcode]
  rfl

theorem tenantAct_release (s : State) (session p : Nat) {b : Bytes} (hcode : byteAt b 0 = 5) :
    s.tenantAct session p b = (some 0, s.startScrub p 1) := by
  unfold State.tenantAct
  dsimp only
  rw [hcode]
  rfl

/-- A device set is kept when this die is one of its members (R373). -/
theorem setProvision_judged (s : State) (p k : Nat) (body : Bytes) :
    s.setProvision p k body =
      if (digestsOf (byteAt body 16) (slice body 80 (48 * byteAt body 16))).contains (Config.sha384 Config.identityKey) = true then
        (0, s.modPart p fun x => { x with sets := Tab.put x.sets k { setId := slice body 0 16, setKey := slice body 48 32
                                                                     digest := Config.sha384 (slice body 80 (48 * byteAt body 16))
                                                                     valid := true } })
      else (5, s) := by
  unfold State.setProvision
  dsimp only
  generalize (digestsOf _ _).contains _ = member
  cases member <;> rfl

/-- A claim of an unclaimed partition is settled by its secret (R370). -/
theorem claim_open {s : State} {p : Nat} (body : Bytes) (hst : (s.part p).st = 1 ∨ (s.part p).st = 2) (hfree : (s.part p).claimed = false)
    (hfails : (s.part p).claimFails < 16) :
    s.claim p body = if Config.sha384 (slice body 0 32) = (s.part p).claimDigest then
        (0, s.modPart p fun x => { x with claimed := true, tenantKey := slice body 32 96, counter := 0 })
      else (6, s.modPart p fun x => { x with claimFails := x.claimFails + 1 }) := by
  have hlive : (decide ((s.part p).st ≠ 1) && decide ((s.part p).st ≠ 2) || (s.part p).claimed) = false := by
    rcases hst with h | h <;> simp [h, hfree]
  unfold State.claim
  dsimp only
  rw [if_neg (by rw [hlive]; decide), if_neg (by omega)]
  exact ite_not ..

/-- Settles O44: the request's guards hold, and what it does is what its claim, its check or its act leaves of the partition. -/
theorem tenantRequests : Obligations.TenantRequests := by
  unfold Obligations.TenantRequests
  refine ⟨?version, ?measurement, ?claim, ?keyLoad, ?provision, ?revoke, ?release⟩
  case version =>
    intro doe body s hmay hdoe
    refine ⟨_, rfl, ?_⟩
    rw [spdmRequest_version body hmay hdoe]
    exact ⟨rfl, _, rfl⟩
  case measurement =>
    intro doe body s hmay hdoe hstep hall hix
    refine ⟨_, rfl, ?_⟩
    rw [spdmRequest_measurement hmay hdoe hstep hall hix]
    exact ⟨_, rfl, fun hunsigned => if_neg (by simp [hunsigned])⟩
  case claim =>
    intro session b s p hmay hses hshape hcode hp hst hfree hfails
    refine ⟨_, rfl, ?_⟩
    rw [tenantRequest_claim hmay hses hshape hcode hp, claim_open (reqBody b) hst hfree hfails]
    split
    · refine ⟨?_, ?_, ?_, rfl⟩ <;> exact congrArg _ (modPart_part_same ..)
    · refine ⟨?_, ?_, rfl⟩
      · exact (congrArg Part.claimed (modPart_part_same ..)).trans hfree
      · exact congrArg Part.claimFails (modPart_part_same ..)
  case keyLoad =>
    intro session b s p hmay hses hshape hcode hp hst hclaimed hcount hslot
    refine ⟨_, rfl, ?_⟩
    rw [tenantRequest_judged hmay hses hshape hcode (by decide) hp hst hclaimed hcount
      (tenantAct_keyLoad session hcode ((congrArg (fun x => (Part.slot x (byteAt b 2)).st) (modPart_part_same ..)).trans hslot))]
    split
    · rw [tenantReply_part, modPart_part_same, slot_modSlot_same, modSlot_counter, modPart_part_same]
      exact ⟨rfl, rfl, rfl⟩
    · rfl
  case provision =>
    intro session b s p hmay hses hshape hcode hp hst hclaimed hcount
    refine ⟨_, rfl, ?_⟩
    rw [tenantRequest_judged hmay hses hshape hcode (by decide) hp hst hclaimed hcount (tenantAct_provision _ session p hcode)]
    split
    · rw [tenantReply_part, setProvision_judged]
      split
      · rw [modPart_part_same, modPart_part_same]
        exact ⟨rfl, Tab.at_put_same (s.part p).sets _ _⟩
      · rw [modPart_part_same]
        exact ⟨rfl, rfl, rfl⟩
    · rfl
  case revoke =>
    intro session b s p hmay hses hshape hcode hp hst hclaimed hcount
    refine ⟨_, rfl, ?_⟩
    rw [tenantRequest_judged hmay hses hshape hcode (by decide) hp hst hclaimed hcount (tenantAct_revoke _ session p hcode)]
    split
    · rw [tenantReply_part, modPart_part_same, modPart_part_same]
      exact ⟨rfl, Tab.at_put_same (s.part p).sets (byteAt b 2) {}, rfl⟩
    · rfl
  case release =>
    intro session b s p hmay hses hshape hcode hp hst hclaimed hcount
    refine ⟨_, rfl, ?_⟩
    rw [tenantRequest_judged hmay hses hshape hcode (by decide) hp hst hclaimed hcount (tenantAct_release _ session p hcode)]
    split
    · rw [tenantReply_part]
      refine ⟨startScrub_st .., (startScrub_groups ..).trans ?_, List.mem_append_right _ (List.mem_singleton_self _)⟩
      rw [modPart_part_same]
    · rfl

end Sys2Proof.Machine
end

section
/-! SUPPORT. Bring-up (R446 to R450) settled. -/

namespace Sys2Proof.Machine

/-- What background effects leave of the management core: each field that `rest` keeps. -/
theorem kept_of_mcRest {α : Type} (f : Mc → α) {a b : Mc} (h : a.rest = b.rest) (hf : ∀ x : Mc, f x.rest = f x := by intro; rfl) : f a = f b :=
  (hf a).symm.trans ((congrArg f h).trans (hf b))

/-- The readiness report and the pumping of what waited leave the decision itself (R450). -/
theorem reporting_mc (s : State) (told released : Bool) :
    let s2 := if told then s.readyEvent else s
    (if released then s2.each (List.range 20) fun s m => s.pump m else s2).mc.rest = s.mc.rest := by
  have htold : (if told then s.readyEvent else s).quiet = s.quiet := by
    split
    · exact State.readyEvent_quiet s
    · rfl
  dsimp only
  generalize (if told then s.readyEvent else s) = u at htold
  have hpumped : (u.each (List.range 20) fun s m => s.pump m).quiet = u.quiet := each_quiet u _ _ fun t x => State.pump_quiet t x
  generalize (u.each (List.range 20) fun s m => s.pump m) = v at hpumped
  split
  · exact congrArg Quiet.mc (hpumped.trans htold)
  · exact congrArg Quiet.mc htold

theorem decideReady_decided {s : State} (h : s.mayDecide = true) :
    s.decideReady.mc.rd.st = (if s.readyNow then 2 else 3) ∧ s.decideReady.mc.rd.cp = 0 ∧
      s.decideReady.mc.mode = if s.readyNow && !s.mc.rd.declared then 0 else s.mc.mode := by
  have hrest := reporting_mc
    (State.modRd { s with mc := { s.mc with decide := false, mode := if s.readyNow && !s.mc.rd.declared then 0 else s.mc.mode } } fun r =>
      { r with
        st := if s.readyNow then 2 else 3, word := s.linkWord, mods := Tab.ofList ((List.range 24).map fun k => (k, s.readyMod k))
        was := r.was || s.readyNow, declared := r.declared || s.readyNow, cp := 0, hold := r.hold && !s.readyNow })
    (s.mc.rd.was && s.mc.rd.st != if s.readyNow then 2 else 3) (s.mc.rd.hold && s.readyNow)
  unfold State.decideReady
  rw [if_neg (by simp [h])]
  exact ⟨kept_of_mcRest (fun x => x.rd.st) hrest, kept_of_mcRest (fun x => x.rd.cp) hrest, kept_of_mcRest (fun x => x.mode) hrest⟩

/-- An image is judged by the digest of the manifest (R446). -/
theorem broadcast_judged {s : State} (image : Bytes) (hready : s.mc.ready = true) (hfw : s.mc.fw.recovery = false)
    (hstep : s.mc.fw.ccStep = 0) (hcp : s.mc.rd.cp ≠ 1) :
    s.broadcast image = if Config.sha384 image = mCcDigest s.mc.fw.manifest then
        (s.modFw fun f => { f with ccStep := 1, ccSeen := [], ccFailed := 0, ccAt := s.clk.mgt }).emit (.dieNetwork 0 image)
      else s.modFw fun f => { f with ccStep := 2, ccFailed := 255 } :=
  if_neg (by simp [hready, hfw, hstep, hcp])

/-- Settles O45: each command passes its guards, and a miswired module is the only one that the topology check moves. -/
theorem bringUp : Obligations.BringUp := by
  unfold Obligations.BringUp
  refine ⟨?broadcast, ?digest, ?timeout, ?topology, ?decision⟩
  case broadcast =>
    intro image s hready hfw hstep hcp
    refine ⟨_, rfl, ?_⟩
    rw [broadcast_judged image hready hfw hstep hcp]
    split
    · exact ⟨rfl, rfl, rfl⟩
    · exact ⟨rfl, rfl, rfl⟩
  case digest =>
    intro cell digest s hstep hseen
    refine ⟨_, rfl, ?_⟩
    unfold State.cellDigest
    dsimp only
    rw [if_neg (by rw [hseen, hstep]; decide)]
    exact ⟨rfl, rfl⟩
  case timeout =>
    intro cell s hstep hseen hdue
    refine ⟨_, rfl, ?_⟩
    unfold State.cellTimeout
    dsimp only
    rw [hseen, hstep, if_neg (by simp; omega)]
    exact ⟨rfl, rfl⟩
  case topology =>
    intro s hready hsettled
    refine ⟨_, rfl, ?_⟩
    unfold State.topologyCheck
    rw [if_neg (by simp [hready, hsettled])]
    intro m hm
    obtain ⟨hdown, hkept, _⟩ := topologyAll s 20 (Nat.le_refl _)
    split
    next hbad => exact hdown m hm hbad
    next hgood => exact kept_of_still Module.st (hkept m (.inr (Bool.eq_false_iff.2 hgood)))
  case decision => exact fun s h => ⟨_, rfl, decideReady_decided h⟩

end Sys2Proof.Machine
end

section
/-! SUPPORT. The resets below a cold reset (R296, R324, R334, R440, R441, R458) settled. -/

namespace Sys2Proof.Machine

/-! ## The compute part -/

theorem readyEvent_pt (s : State) : s.readyEvent.pt = s.pt := pt_eq (by simp)

/-- The die once its partitions are in scrub: NOT_READY, in BRING_UP, and one compute-part reset more (R458). -/
def State.heldDown (s : State) : State :=
  let s1 := s.modRd fun r => { r with st := 3, cp := 1, cpResets := satAdd 16 r.cpResets 1, last := 1, declared := false, hold := true }
  { s1 with mc := { s1.mc with mode := 1 } }

theorem heldDown_facts (s : State) :
    s.heldDown.readyEvent.mc.rd.st = 3 ∧ s.heldDown.readyEvent.mc.rd.cp = 1 ∧
      s.heldDown.readyEvent.mc.rd.cpResets = satAdd 16 s.mc.rd.cpResets 1 ∧ s.heldDown.readyEvent.mc.mode = 1 := by
  have hmc : s.heldDown.readyEvent.mc.rest = s.heldDown.mc.rest := congrArg Quiet.mc (State.readyEvent_quiet _)
  exact ⟨kept_of_mcRest (fun x => x.rd.st) hmc, kept_of_mcRest (fun x => x.rd.cp) hmc, kept_of_mcRest (fun x => x.rd.cpResets) hmc,
    kept_of_mcRest (fun x => x.mode) hmc⟩

theorem computeReset_facts {s : State} (h : s.mc.rd.cp = 0) :
    s.computeReset.mc.rd.st = 3 ∧ s.computeReset.mc.rd.cp = 1 ∧ s.computeReset.mc.rd.cpResets = satAdd 16 s.mc.rd.cpResets 1 ∧
      s.computeReset.mc.mode = 1 ∧
      ∀ p < 16, (s.computeReset.part p).st = if (s.part p).st = 1 ∨ (s.part p).st = 2 then 3 else (s.part p).st := by
  have hscrub := fun p hp => scrubAll_st s p hp
  have hquiet : (s.each (partIxs.filter fun p => (s.part p).st == 1 || (s.part p).st == 2) fun s p => s.startScrub p 5).quiet = s.quiet :=
    each_quiet s _ _ fun t p => State.startScrub_quiet t p 5
  have hrun : s.computeReset = State.readyEvent
      (s.each (partIxs.filter fun p => (s.part p).st == 1 || (s.part p).st == 2) fun s p => s.startScrub p 5).heldDown :=
    if_neg (by simp [h])
  rw [hrun]
  generalize s.each (partIxs.filter fun p => (s.part p).st == 1 || (s.part p).st == 2) (fun s p => s.startScrub p 5) = u at hscrub hquiet
  obtain ⟨hst, hcp, hresets, hmode⟩ := heldDown_facts u
  refine ⟨hst, hcp, hresets.trans ?_, hmode, fun p hp => ?_⟩
  · rw [kept_of_mcRest (fun x => x.rd.cpResets) (congrArg Quiet.mc hquiet)]
  · rw [part_of_pt_eq (readyEvent_pt u.heldDown)]
    exact hscrub p hp

/-! ## A partition -/

theorem settleUnit_pt (s : State) (u : Nat) : (s.settleUnit u).pt = s.pt := pt_eq (by simp)

theorem each_ok_part (s : State) (l : List Nat) (p : Nat) : (s.each l fun s m => s.ok m).part p = s.part p := by
  unfold State.each
  induction l generalizing s with
  | nil => rfl
  | cons m l ih => exact (ih _).trans (ok_part s m p)

/-- The last steps of a partition's function-level reset leave it in no reset (R440). -/
theorem flrEnds (s : State) (p : Nat) (l : List Nat) :
    ((((s.modPart p fun x => { x with flr := none }).settleUnit (96 + p)).each l fun s m => s.ok m).part p).flr = none := by
  rw [each_ok_part, part_of_pt_eq (settleUnit_pt _ _), modPart_part_same]

/-! ## The port -/

/-- The PF's own reset takes its function and the status registers, and nothing of the virtual functions or of Capo (R334). -/
theorem pfReset_facts {s : State} (h : s.px.rootPort = false) :
    s.pfReset.fn 16 = {} ∧ (∀ f < 16, s.pfReset.fn f = s.fn f) ∧ s.pfReset.px.uncStatus = 0 ∧ s.pfReset.px.corStatus = 0 ∧
      s.pfReset.px.vfEnable = s.px.vfEnable ∧ s.pfReset.px.frozen = s.px.frozen ∧ s.pfReset.px.cause = s.px.cause := by
  have hfns : ∀ f, s.pfReset.fn f = Tab.at (Tab.put s.px.fns 16 default) f := fun f => by
    unfold State.pfReset
    rw [if_neg (by simp [h])]
    rfl
  refine ⟨(hfns 16).trans (Tab.at_put_same s.px.fns 16 default), fun f hf => ?_, ?_⟩
  · rw [hfns, Tab.at_put, if_neg (by omega)]
    rfl
  · unfold State.pfReset
    rw [if_neg (by simp [h])]
    exact ⟨rfl, rfl, rfl, rfl, rfl⟩

/-- Settles O46: each reset passes its guards, and what it clears and keeps is read off its state. -/
theorem resetCommands : Obligations.ResetCommands := by
  unfold Obligations.ResetCommands
  refine ⟨?compute, ?restore, ?function, ?physical, ?functionEnd, ?loss, ?outTimer, ?lossEnd, ?port⟩
  case compute => exact fun s h => ⟨_, rfl, computeReset_facts h⟩
  case restore =>
    intro s hcp hparts hloss
    have hidle : (partIxs.any fun p => (s.part p).st != 0 || (s.part p).flr.isSome) = false := by
      refine List.any_eq_false.2 fun p hp => ?_
      obtain ⟨hst, hflr⟩ := hparts p (List.mem_range.1 hp)
      simp [hst, hflr]
    refine ⟨_, rfl, ?_⟩
    unfold State.computeRestore
    dsimp only
    rw [if_neg (by rw [hidle, hloss]; simp [hcp])]
    exact ⟨rfl, rfl, rfl, rfl, rfl, rfl, rfl, rfl, rfl⟩
  case function =>
    intro p s hfn hst hflr
    refine ⟨_, rfl, ?_⟩
    rw [if_pos hfn]
    exact partitionReset_facts s p hst hflr
  case physical => exact fun s h => ⟨_, rfl, pfReset_facts h⟩
  case functionEnd =>
    intro p s a hflr hdone
    have hnone : (s.reqs.any fun q => q.ofReset p) = false := List.any_eq_false.2 fun q hq => by simp [hdone q hq]
    refine ⟨_, rfl, ?_⟩
    unfold State.partitionResetEnd
    rw [hflr]
    dsimp only
    rw [if_neg (by rw [hnone]; simp)]
    exact flrEnds ..
  case loss => exact fun sideband s h => ⟨_, rfl, hostLoss_facts s _ h⟩
  case outTimer =>
    intro s a hfrom hup hdue hloss
    refine ⟨_, rfl, ?_⟩
    unfold State.outTimer
    rw [hfrom]
    dsimp only
    rw [if_pos (by simp [hup, hloss]; omega)]
    exact hostLoss_facts s 1 hloss
  case lossEnd =>
    intro s hloss hsettled
    refine ⟨_, rfl, ?_⟩
    have hall : ((List.range 4).all fun k => (s.mod k).st == 1 || (s.mod k).st == 8 || (s.mod k).carries) = true :=
      List.all_eq_true.2 fun k hk => by simpa [or_assoc] using hsettled k (List.mem_range.1 hk)
    exact if_pos (by rw [hloss]; exact hall)
  case port =>
    intro disable s h
    refine ⟨_, rfl, ?_⟩
    unfold State.portReset
    rw [if_neg (by simp [h])]
    exact ⟨rfl, rfl, rfl, rfl, rfl, rfl, rfl, rfl, rfl, rfl, rfl, rfl, rfl⟩

end Sys2Proof.Machine
end

section
/-! SUPPORT. Mailboxes and their reports (R401, R404, R407, R413) settled. -/

namespace Sys2Proof.Machine

/-- A list of 64-bit words in bytes. -/
theorem words_length (l : List Nat) (w : Nat → Nat) : (l.flatMap fun k => leBytes 8 (w k)).length = 8 * l.length := by
  simp [List.length_flatMap, leBytes_length, Nat.mul_comm]

theorem command_sensors {s : State} {m : Nat} (ht : Takes s m 0x0B02) :
    s.cmdSensors m = (s.taking m).respond m 0 0 ((List.range 8).flatMap fun k => leBytes 8 (s.sensorWord k)) :=
  command_taken ht _

/-- An operator's mailbox sees every unit there is (R407). -/
theorem command_units {s : State} {m : Nat} {b : Bytes} (ht : Takes s m 0x0B07) (hb : (s.box m).payload = b) (hn : byteAt b 2 ≠ 0)
    (hlast : fieldAt b 0 2 + byteAt b 2 ≤ 112) (hm : 16 ≤ m) :
    s.cmdUnits m = (s.taking m).respond m 0 0 (((List.range (byteAt b 2)).map fun i => fieldAt b 0 2 + i).flatMap fun u =>
      leBytes 8 (if realUnit u then s.unitWord u else 0)) := by
  refine (command_taken ht _).trans ?_
  dsimp only
  rw [hb, if_neg (by simp [hn]; omega)]
  refine congrArg _ (List.flatMap_congr fun u _ => ?_)
  simp only [decide_eq_true hm, Bool.true_or, Bool.and_true]
  rfl

theorem command_info {s : State} {m : Nat} (ht : Takes s m 0x0B09) :
    s.cmdInfo m = (s.taking m).respond m 0 0
      (leBytes 4 (mVersion s.mc.fw.manifest) ++ leBytes 4 (mSvn s.mc.fw.manifest) ++ leBytes 1 0xB0 ++ leBytes 1 s.dieId ++ zeros 2 ++
        leBytes 2 s.fuses.groups ++ leBytes 1 (b2n s.fuses.halfArray) ++ zeros 1 ++ leBytes 4 s.fuses.modules) :=
  command_taken ht _

/-- Settles O47: a free mailbox submits what its request area holds, and a report is read back from its response area. -/
theorem mailboxReports : Obligations.MailboxReports := by
  unfold Obligations.MailboxReports
  refine ⟨?go, ?drop, ?mctp, ?address, ?sensors, ?units, ?info⟩
  case go =>
    intro m s head cmd hfree hhead hcmd hsize hallowed hlen
    refine ⟨_, rfl, ?_⟩
    unfold State.mailboxGo
    rw [if_neg (by simp [hfree])]
    exact submit_facts s m false head cmd hhead hcmd hsize hallowed hlen
  case drop =>
    intro m s hbusy
    refine ⟨_, rfl, ?_⟩
    unfold State.mailboxGo
    rw [if_pos hbusy]
    exact (modBox_box ..).trans (if_pos rfl)
  case mctp =>
    intro body s head cmd hwf hfree hhead hcmd hsize hallowed hlen
    refine ⟨_, if_pos hwf, ?_⟩
    have hram : ((s.modBox 17 fun b => { b with ram := Tab.writeBytes b.ram 0x1000 (body.take 16384) }).box 17).ram =
        Tab.writeBytes (s.box 17).ram 0x1000 (body.take 16384) := by
      rw [modBox_box, if_pos rfl]
    unfold State.mctpRequest
    dsimp only
    rw [if_neg (by simp [hfree])]
    exact submit_facts _ 17 true head cmd (by rw [hram]; exact hhead) (by rw [hram]; exact hcmd) hsize hallowed hlen
  case address => exact fun addr s => ⟨_, rfl, rfl⟩
  case sensors =>
    intro m s ht
    refine ⟨_, rfl, ?_⟩
    rw [command_sensors ht]
    exact ⟨respond_answers .., respond_read _ _ _ _ _ _ ((words_length ..).trans (by rw [List.length_range]))⟩
  case units =>
    intro m s b ht hb hn hlast hm
    refine ⟨_, rfl, ?_⟩
    rw [command_units ht hb hn hlast hm]
    exact ⟨respond_answers .., respond_read _ _ _ _ _ _ ((words_length ..).trans (by rw [List.length_map, List.length_range]))⟩
  case info =>
    intro m s ht
    refine ⟨_, rfl, ?_⟩
    rw [command_info ht]
    exact ⟨respond_answers .., respond_read _ _ _ _ _ _ (by simp [leBytes_length, zeros])⟩

end Sys2Proof.Machine
end

section
/-! SUPPORT. The operator's mailbox commands (R32 to R34, R279, R347, R353 to R357) settled. -/

namespace Sys2Proof.Machine

/-- A mailbox command whose turn has come answers what its body makes of the payload. -/
theorem next_of_takes {s : State} {m op : Nat} {b : Bytes} {body : State → Bytes → State} (ht : Takes s m op) (hb : (s.box m).payload = b) :
    (.next (s.command m op body) : Result) = .next (body (s.taking m) b) :=
  congrArg _ ((command_taken ht body).trans (congrArg _ hb))

theorem next_of_run {s t : State} {m op : Nat} {b : Bytes} {body : State → Bytes → State} (ht : Takes s m op) (hb : (s.box m).payload = b)
    (hrun : body (s.taking m) b = t) : (.next (s.command m op body) : Result) = .next t :=
  (next_of_takes ht hb).trans (congrArg _ hrun)

/-! ## What a creation leaves -/

theorem createPart_pt (u : State) (p : Nat) :
    (((((u.emptyTlbs p).settleUnit (96 + p)).controlPulse p 1).requestCommit none)).pt = u.pt := pt_eq (by simp)

theorem createPart_table (s : State) (c : Create) :
    ((s.createPart c).part c.part).checkTag = c.tag ∧ ((s.createPart c).part c.part).claimed = false ∧
      ((s.createPart c).part c.part).claimDigest = c.digest ∧
      ∀ k < 32, bit c.channels k = true → (s.createPart c).chanOwner k = some c.part := by
  have hchans : ∀ k < 32, bit c.channels k = true → Tab.at (s.createPart c).pt.channels k = c.part + 1 := fun k hk hbit => by
    unfold State.createPart
    dsimp only
    rw [createPart_pt]
    exact (Tab.at_ofRange (fun k => if bit c.channels k then c.part + 1 else Tab.at s.pt.channels k) 32 k).trans
      ((if_pos hk).trans (if_pos hbit))
  refine ⟨?_, ?_, ?_, fun k hk hbit => ?_⟩
  case refine_4 =>
    unfold State.chanOwner
    rw [hchans k hk hbit]
  all_goals
    unfold State.createPart
    dsimp only
    rw [part_of_pt_eq (createPart_pt _ _), modPart_part_same]

theorem createPart_share (s : State) (c : Create) :
    ((s.createPart c).part c.part).share = ⟨1, c.groups, c.tcWays, c.tlbWays, c.modules, ([], [], []), ([], [], [])⟩ :=
  share_of_setShare (State.createPart_fixed s c)

/-- What the payload of a PART_CREATE names (R353). -/
def createOf (b : Bytes) : Create :=
  { part := byteAt b 0, tag := byteAt b 1, groups := fieldAt b 8 2, tcWays := fieldAt b 10 2, tlbWays := fieldAt b 12 2
    channels := fieldAt b 16 4, modules := fieldAt b 20 4, digest := slice b 24 48
    regs := (List.range 5).map fun k => (fieldAt b (72 + 4 * k) 2, byteAt b (74 + 4 * k)) }

theorem cmdCreate_valid {s : State} {m : Nat} {b : Bytes} (ht : Takes s m 0x0101) (hb : (s.box m).payload = b)
    (hok : s.createOk (createOf b) = true) (hmode : s.mc.mode ≠ 1) (hready : s.mc.rd.st = 2) :
    s.cmdCreate m = ((s.taking m).createPart (createOf b)).ok m := by
  have hvalid : ¬(!(s.taking m).createOk (createOf b)) = true := by simp [show (s.taking m).createOk (createOf b) = true from hok]
  have hmay : ¬(decide ((s.taking m).mc.mode = 1) || decide ((s.taking m).mc.rd.st ≠ 2)) = true := by
    simp [show (s.taking m).mc.mode ≠ 1 from hmode, show (s.taking m).mc.rd.st = 2 from hready]
  refine (command_taken ht _).trans ?_
  rw [hb]
  exact (if_neg hvalid).trans (if_neg hmay)

theorem chanOwner_of_pt_eq {s t : State} (h : t.pt = s.pt) (k : Nat) : t.chanOwner k = s.chanOwner k := by
  unfold State.chanOwner
  rw [h]

/-! ## PASIDs and requester IDs -/

/-- The operator's PASID once PASID x has been given away or freed (R32). -/
theorem operator_freed (op : Option Nat) (x : Nat) : (if op = some x then none else op) ≠ some x := by
  split
  · exact fun h => by cases h
  next h => exact h

theorem assignedTo_of_assigns {t : State} {l new : List RpAssign} {a z rid : Nat} (h : t.px.assigns = (l.flatMap fun x => x.without a z) ++ new)
    (ha : a ≤ rid) (hz : rid ≤ z) :
    t.assignedTo rid = (new.find? fun y => decide (y.first ≤ rid) && decide (rid ≤ y.last)).map fun y => y.part := by
  unfold State.assignedTo
  rw [h, assigned_after l new a z rid ha hz]

/-- Settles O48: the checks of each command hold, and its answer leaves the table as its body wrote it. -/
theorem partitionCommandsComplete : Obligations.PartitionCommands := by
  unfold Obligations.PartitionCommands
  refine ⟨?create, ?destroy, ?rate, ?range, ?bind, ?operator, ?unbind, ?physical, ?virtual, ?register, ?remove, ?assign, ?unassign⟩
  case create =>
    intro m s b c ht hb hc hok hmode hready
    obtain rfl : c = createOf b := hc
    refine ⟨_, rfl, ?_⟩
    rw [cmdCreate_valid ht hb hok hmode hready]
    dsimp only
    rw [ok_part]
    obtain ⟨htag, hclaimed, hdigest, hchans⟩ := createPart_table (s.taking m) (createOf b)
    exact ⟨ok_answers .., createPart_share .., htag, hclaimed, hdigest,
      fun k hk hbit => (chanOwner_of_pt_eq (ok_pt _ _) k).trans (hchans k hk hbit)⟩
  case destroy =>
    rintro m s b ht rfl hp hst
    refine ⟨_, rfl, ?_⟩
    rw [cmdDestroy_eq ht hp, if_neg (by omega), if_neg (by omega)]
    exact ⟨ok_answers .., by rw [ok_part]; exact startScrub_st ..⟩
  case rate =>
    intro m s b ht hb hp hk hmin hmax hst
    have hbad : (decide (16 ≤ byteAt b 0) || decide (5 ≤ byteAt b 1) || decide (byteAt b 4 < 8) || decide (24 < byteAt b 4)) = false := by
      simp; omega
    refine ⟨_, next_of_takes ht hb, ?_⟩
    dsimp only
    rw [if_neg (by rw [hbad]; decide), taking_part, if_neg (by simp; omega), ok_part, modPart_part_same]
    dsimp only
    rw [Tab.at_upd_same]
    exact ⟨ok_answers .., rfl, rfl, rfl⟩
  case range =>
    intro m s b ht hb hbase hlimit
    refine ⟨_, next_of_takes ht hb, ?_⟩
    dsimp only
    rw [okIf_good _ _ _ _ (by simp only [hbase, hlimit, beq_self_eq_true, Bool.and_self]), ok_pt]
    dsimp only
    exact ⟨ok_answers .., Tab.at_put_same ..⟩
  case bind =>
    rintro m s b x ht hb rfl hbind hop hp hroom
    have hroom' : Tab.at (s.taking m).pt.pasids (fieldAt b 0 4 % 2 ^ 20) ≠ 0 ∨ (s.taking m).pt.pasids.length < 256 := hroom
    refine ⟨_, next_of_takes ht hb, ?_⟩
    dsimp only
    rw [if_neg (by simp [hbind]), if_neg (by simp [hop]), okIf_good _ _ _ _
      (Bool.and_eq_true_iff.2 ⟨decide_eq_true hp, Bool.or_eq_true_iff.2 (hroom'.imp bne_iff_ne.2 decide_eq_true)⟩), ok_pt]
    dsimp only
    exact ⟨ok_answers .., Tab.at_put_same .., operator_freed _ _⟩
  case operator =>
    rintro m s b x ht hb rfl hbind hop hfree
    refine ⟨_, next_of_takes ht hb, ?_⟩
    dsimp only
    rw [if_neg (by simp [hbind]), if_pos hop, okIf_good _ _ _ _ (by simpa using hfree), ok_pt]
    dsimp only
    exact ⟨ok_answers .., rfl, Tab.at_put_same ..⟩
  case unbind =>
    rintro m s b x ht hb rfl hbind
    refine ⟨_, next_of_takes ht hb, ?_⟩
    dsimp only
    rw [if_pos (by simp [hbind]), ok_pt]
    dsimp only
    exact ⟨ok_answers .., Tab.at_put_same .., operator_freed _ _⟩
  case physical =>
    intro m s b ht hb hbase
    refine ⟨_, next_of_takes ht hb, ?_⟩
    dsimp only
    rw [okIf_good _ _ _ _ (by simp [hbase]), ok_pt]
    dsimp only
    exact ⟨ok_answers .., rfl⟩
  case virtual =>
    intro m s b ht hb hp hbase hlimit
    refine ⟨_, next_of_takes ht hb, ?_⟩
    dsimp only
    rw [okIf_good _ _ _ _ (by simp only [hp, hbase, hlimit, decide_true, beq_self_eq_true, Bool.and_self]), ok_pt]
    dsimp only
    exact ⟨ok_answers .., Tab.at_put_same ..⟩
  case register =>
    rintro m s b n base org dig ht hb hk rfl rfl rfl rfl hpos hn hbase horg hbaseEnd horgEnd hcover howned hdig hshared hapart
    have hranges := (⟨hcover, howned, hdig, hshared⟩ : (s.taking m).rangesCover _ _ = true ∧ (s.taking m).ownedOverlap _ _ = false ∧
      (s.taking m).ownedOverlap _ _ = false ∧ (s.taking m).sharedOverlap _ _ _ = false)
    refine ⟨_, next_of_takes ht hb, ?_⟩
    dsimp only
    rw [if_neg (by omega), if_neg (by omega), okIf_good _ _ _ _ (by
      simp only [hranges, hn, hbase, horg, hbaseEnd, horgEnd, decide_true, beq_self_eq_true, Bool.and_self, Bool.not_false, Bool.true_and,
        Bool.or_eq_true, decide_eq_true_eq]
      exact hapart), ok_pt]
    dsimp only
    exact ⟨ok_answers .., Tab.at_put_same ..⟩
  case remove =>
    intro m s b ht hb hk hn
    refine ⟨_, next_of_takes ht hb, ?_⟩
    dsimp only
    rw [if_neg (by omega), if_pos hn, ok_pt]
    dsimp only
    exact ⟨ok_answers .., congrArg Shared.valid (Tab.at_put_same ..)⟩
  case assign =>
    intro m s b rid ht hb ha hz hbit hp
    refine ⟨_, next_of_takes ht hb, ?_⟩
    dsimp only
    rw [if_pos hbit, okIf_good _ _ _ _ (by simp [hp]; omega)]
    refine ⟨ok_answers .., ?_⟩
    rw [assignedTo_of_assigns (ok_assigns _ _) ha hz]
    simp [ha, hz]
  case unassign =>
    intro m s b rid ht hb ha hz hbit
    refine ⟨_, next_of_takes ht hb, ?_⟩
    dsimp only
    rw [if_neg (by simp [hbit]), okIf_good _ _ _ _ (by simp; omega)]
    refine ⟨ok_answers .., ?_⟩
    rw [assignedTo_of_assigns (ok_assigns _ _) ha hz]
    rfl

end Sys2Proof.Machine
end

section
/-! SUPPORT. The mailbox commands of translation and of the fault queue (R46, R62, R63, R69, R87, R98) settled. -/

namespace Sys2Proof.Machine

/-! ## Guards -/

/-- A table that PART's payload may bind: its width and its root (R46). -/
theorem goodRoot {w root : Nat} (hw : w = 48 ∨ w = 57) (hroot : root % 4096 = 0) (hlim : root < 2 ^ 49) :
    ((w != 48 && w != 57) || root % 4096 != 0 || decide (2 ^ 49 ≤ root)) = false := by
  rw [decide_eq_false (by omega), hroot]
  rcases hw with rfl | rfl <;> rfl

theorem modInvq_same (s : State) (p : Nat) (f : InvQueue → InvQueue) : (s.modInvq p f).invq p = f (s.invq p) :=
  (modInvq_invq s p p f).trans (if_pos rfl)

theorem modFq_same (s : State) (p : Nat) (f : FaultQueue → FaultQueue) : (s.modFq p f).fq p = f (s.fq p) :=
  (modFq_fq s p p f).trans (if_pos rfl)

theorem ok_fq (s : State) (m p : Nat) : (s.ok m).fq p = s.fq p := by
  unfold State.fq
  rw [ok_qc]

/-- Settles O49: the checks of each command hold, and its answer leaves the queue or the binding as its body wrote it. -/
theorem queuePlacement : Obligations.QueuePlacement := by
  unfold Obligations.QueuePlacement
  refine ⟨?bind, ?rebind, ?place, ?cut, ?wait, ?faults, ?timeout⟩
  case bind =>
    intro m s b ht hb hlocal hvalid hwidth hroot hlim hfree
    refine ⟨_, next_of_takes ht hb, ?_⟩
    dsimp only
    rw [if_neg (by rw [hlocal, goodRoot hwidth hroot hlim]; simp), taking_xl, if_pos (by simp [hfree]), ok_xl]
    dsimp only
    rw [if_pos hvalid]
    exact ⟨ok_answers .., Tab.at_put_same ..⟩
  case rebind =>
    intro m s b ht hb hlocal hvalid hbound hroom hwaits hst
    have hgood : (bit (byteAt b 3) 0 && ((byteAt b 2 != 48 && byteAt b 2 != 57) || fieldAt b 8 8 % 4096 != 0 ||
        decide (2 ^ 49 ≤ fieldAt b 8 8))) = false := by
      cases hbit : bit (byteAt b 3) 0
      case false => rfl
      case true =>
        obtain ⟨hwidth, hroot, hlim⟩ := hvalid hbit
        rw [goodRoot hwidth hroot hlim]
        rfl
    refine ⟨_, next_of_takes ht hb, ?_⟩
    dsimp only
    rw [if_neg (by rw [hlocal, hgood]; decide), taking_xl, if_neg (by simp [hbound])]
    exact boxInval_bind (s.taking m) m (fieldAt b 0 2) _ hroom hwaits hst
  case place =>
    intro m s b ht hb hmin hmax hbase hread hnone
    have hbad : (decide (byteAt b 0 < 8) || decide (12 < byteAt b 0) || decide (fieldAt b 8 8 % 4096 ≠ 0) ||
        !(s.taking m).inReadable m (fieldAt b 8 8) (32 * 2 ^ byteAt b 0)) = false := by
      rw [show (s.taking m).inReadable m (fieldAt b 8 8) (32 * 2 ^ byteAt b 0) = true from hread]
      simp; omega
    refine ⟨_, next_of_takes ht hb, ?_⟩
    dsimp only
    rw [if_neg (by rw [hbad]; decide), if_neg (not_not.2 (show (s.taking m).invPending m = 0 from hnone)), ok_invq, modInvq_same]
    exact ⟨ok_answers .., rfl, rfl, rfl, rfl⟩
  case cut =>
    intro m s b p ht hb hp hlt hkind hst hbinds hroom hwaits hq
    refine ⟨_, next_of_takes ht hb, ?_⟩
    dsimp only
    rw [← hp, if_neg (by rw [Option.isNone_eq_false_iff.2 hkind]; simp; omega), taking_part, if_neg hst]
    exact boxInval_cut (s.taking m) p m _ _ _ _ hroom hwaits hq
  case wait =>
    intro m s b p ht hb hp hlt hkind hst hfull
    refine ⟨_, next_of_takes ht hb, ?_⟩
    dsimp only
    rw [← hp, if_neg (by rw [Option.isNone_eq_false_iff.2 hkind]; simp; omega), taking_part, if_neg hst]
    exact boxInval_waits (s.taking m) p m _ _ _ _ hfull
  case faults =>
    intro m s b ht hb hbase hin hfree
    have hparked : ((s.taking m).qc.park.any fun e => e.2.valid && e.2.part == m.val) = false :=
      List.any_eq_false.2 fun e he => by rcases hfree e he with h | h <;> simp [h]
    refine ⟨_, next_of_takes ht hb, ?_⟩
    dsimp only
    rw [if_neg (by rw [show (s.taking m).inQualifying m (fieldAt b 0 8) 131072 = true from hin]; simp [hbase]), if_neg (by rw [hparked]; decide),
      ok_fq, modFq_same]
    exact ⟨ok_answers .., rfl, rfl, rfl, rfl⟩
  case timeout =>
    intro m s b ht hb hmin hmax
    refine ⟨_, next_of_takes ht hb, ?_⟩
    dsimp only
    rw [okIf_good _ _ _ _ (by simp only [Bool.and_eq_true, decide_eq_true_eq]; exact ⟨hmin, hmax⟩), ok_fq, modFq_same]
    exact ⟨ok_answers .., rfl⟩

end Sys2Proof.Machine
end

section
/-! SUPPORT. The mailbox commands of rings, completion rings, counter areas and chord queues (R122, R124, R134, R155, R160) settled. -/

namespace Sys2Proof.Machine

/-- A check that does not refuse lets a command go on. -/
theorem if_passed {α : Type} {refused : Bool} {x y : α} (h : refused = false) : (if refused then x else y) = y :=
  if_neg (Bool.eq_false_iff.1 h)

theorem modRing_same (s : State) (r : Nat) (f : Ring → Ring) : (s.modRing r f).ring r = f (s.ring r) :=
  (modRing_ring s r r f).trans (if_pos rfl)

theorem modCq_same (s : State) (k : Nat) (f : CompRing → CompRing) : (s.modCq k f).cq k = f (s.cq k) :=
  (modCq_cq s k k f).trans (if_pos rfl)

theorem modChq_same (s : State) (p : Nat) (f : ChordQueue → ChordQueue) : (s.modChq p f).chq p = f (s.chq p) :=
  (modChq_chq s p p f).trans (if_pos rfl)

theorem ok_cq (s : State) (m k : Nat) : (s.ok m).cq k = s.cq k := by
  unfold State.cq
  rw [ok_qc]

theorem ok_chq (s : State) (m p : Nat) : (s.ok m).chq p = s.chq p := chq_of_ch_eq (ok_ch s m) p

/-! ## Rings -/

/-- RING_ENABLE of a configured, DISABLED ring starts it at the position of its operands (R122). -/
theorem cmdEnable_starts {s : State} {m r : Nat} {b : Bytes} (ht : Takes s m 0x0402) (hb : (s.box m).payload = b)
    (hr : s.globalRing m (fieldAt b 0 2) = some r) (hconf : (s.ring r).configured = true) (hsize : fieldAt b 2 2 < (s.ring r).size)
    (hst : (s.ring r).st = 0) :
    s.cmdEnable m = ((s.taking m).enableRing r ((fieldAt b 4 2 * (s.ring r).size + fieldAt b 2 2) % (s.ring r).m)).ok m := by
  have hr' : (s.taking m).globalRing m (fieldAt b 0 2) = some r := hr
  refine (command_taken ht _).trans ?_
  dsimp only
  rw [hb, hr']
  dsimp only
  rw [taking_ring, if_neg (by simp [hconf]), if_neg (by omega), if_neg (not_not.2 hst)]

theorem cmdDisable_waits {s : State} {m r : Nat} {b : Bytes} (ht : Takes s m 0x0403) (hb : (s.box m).payload = b)
    (hr : s.globalRing m (fieldAt b 0 2) = some r) (h0 : (s.ring r).st ≠ 0) (h6 : (s.ring r).st ≠ 6) :
    s.cmdDisable m = ((s.taking m).disableRing m r).modRing r fun g => { g with waiters := g.waiters ++ [m] } := by
  have hr' : (s.taking m).globalRing m (fieldAt b 0 2) = some r := hr
  refine (command_taken ht _).trans ?_
  dsimp only
  rw [hb, hr']
  dsimp only
  rw [taking_ring, if_neg h0, if_neg h6]

theorem cmdDisable_done {s : State} {m r : Nat} {b : Bytes} (ht : Takes s m 0x0403) (hb : (s.box m).payload = b)
    (hr : s.globalRing m (fieldAt b 0 2) = some r) (h0 : (s.ring r).st = 0) : s.cmdDisable m = (s.taking m).ok m := by
  have hr' : (s.taking m).globalRing m (fieldAt b 0 2) = some r := hr
  refine (command_taken ht _).trans ?_
  dsimp only
  rw [hb, hr']
  dsimp only
  rw [taking_ring, if_pos h0]

/-! ## Counter areas -/

/-- Does the area `[base, last]` lie in HBM channels of partition m alone (R134)? -/
def State.areaInHbm (s : State) (m base last : Nat) : Bool :=
  dieOf base == s.dieId && dieOf last == s.dieId && bits (offOf base) 45 2 == 0 && s.populated (offOf last) &&
    (List.range 32).all fun c => !(decide (s.chanOf (offOf base) ≤ c) && decide (c ≤ s.chanOf (offOf last))) || s.chanOwner c == some m

theorem areaInHbm_of_owned {s : State} {m base last : Nat} (hbase : dieOf base = s.dieId) (hlast : dieOf last = s.dieId)
    (hhome : bits (offOf base) 45 2 = 0) (hpop : s.populated (offOf last) = true)
    (hown : ∀ c < 32, s.chanOf (offOf base) ≤ c → c ≤ s.chanOf (offOf last) → s.chanOwner c = some m) : s.areaInHbm m base last = true := by
  have hall : ((List.range 32).all fun c =>
      !(decide (s.chanOf (offOf base) ≤ c) && decide (c ≤ s.chanOf (offOf last))) || s.chanOwner c == some m) = true := by
    refine List.all_eq_true.2 fun c hc => ?_
    by_cases hin : s.chanOf (offOf base) ≤ c ∧ c ≤ s.chanOf (offOf last)
    · simp [hown c (List.mem_range.1 hc) hin.1 hin.2]
    · simp
      omega
  unfold State.areaInHbm
  rw [hall, hbase, hlast, hhome, hpop]
  simp

/-- A counter area in a place of its own, while no descriptor counts, is placed (R134). -/
theorem cmdArea_places {s : State} {m : Nat} {b : Bytes} (ht : Takes s m 0x0405) (hb : (s.box m).payload = b) (hmin : 6 ≤ byteAt b 0)
    (hmax : byteAt b 0 ≤ 16) (hbase : fieldAt b 8 8 % 4096 = 0)
    (hplace : s.areaInHbm m (fieldAt b 8 8) (fieldAt b 8 8 + 8 * 2 ^ byteAt b 0 - 1) = true ∨
      s.inQualifying m (fieldAt b 8 8) (8 * 2 ^ byteAt b 0) = true)
    (hidle : ∀ r ∈ s.ringsOf m, ∀ w ∈ (s.ring r).works, dCounterEn w.raw = false) :
    Answers (s.cmdArea m) m 0 0 ∧ Tab.at (s.cmdArea m).qc.areas m = { placed := true, base := fieldAt b 8 8, log2 := byteAt b 0 } := by
  have hgood : (decide (byteAt b 0 < 6) || decide (16 < byteAt b 0) || decide (fieldAt b 8 8 % 4096 ≠ 0) ||
      !(s.areaInHbm m (fieldAt b 8 8) (fieldAt b 8 8 + 8 * 2 ^ byteAt b 0 - 1) ||
        s.inQualifying m (fieldAt b 8 8) (8 * 2 ^ byteAt b 0))) = false := by
    rw [decide_eq_false (by omega), decide_eq_false (by omega), decide_eq_false (not_not.2 hbase)]
    rcases hplace with h | h <;> simp [h]
  have hbusy : ((s.ringsOf m).any fun r => (s.ring r).works.any fun w => dCounterEn w.raw) = false :=
    List.any_eq_false.2 fun r hr => by simpa using hidle r hr
  have hrun : s.cmdArea m = ({ s.taking m with qc := { (s.taking m).qc with
      areas := Tab.put (s.taking m).qc.areas m { placed := true, base := fieldAt b 8 8, log2 := byteAt b 0 } } } : State).ok m := by
    refine (command_taken ht _).trans ?_
    rw [hb]
    exact (if_passed hgood).trans (if_passed hbusy)
  rw [hrun, ok_qc]
  dsimp only
  exact ⟨ok_answers .., Tab.at_put_same ..⟩

/-- Settles O50: the checks of each command hold, and its answer leaves the ring, the queue or the area as its body wrote it. -/
theorem ringCommands : Obligations.RingCommands := by
  unfold Obligations.RingCommands
  refine ⟨?enable, ?disable, ?disabled, ?completion, ?host, ?hbm, ?chord⟩
  case enable =>
    intro m s b r ht hb hr hconf hsize hst
    refine ⟨_, rfl, ?_⟩
    rw [cmdEnable_starts ht hb hr hconf hsize hst]
    dsimp only
    rw [ok_ring]
    unfold State.enableRing
    rw [modRing_same]
    exact ⟨ok_answers .., rfl, rfl, rfl⟩
  case disable =>
    intro m s b r ht hb hr h0 h6 htc
    obtain ⟨hwaiters, hstaged, hslot⟩ := disableRing_facts (s.taking m) m r htc
    refine ⟨_, rfl, ?_⟩
    rw [cmdDisable_waits ht hb hr h0 h6]
    dsimp only
    rw [modRing_same]
    exact ⟨congrArg (· ++ [m.val]) hwaiters, hstaged, hslot⟩
  case disabled =>
    intro m s b r ht hb hr h0
    refine ⟨_, rfl, ?_⟩
    rw [cmdDisable_done ht hb hr h0]
    exact ⟨ok_answers .., ok_ring ..⟩
  case completion =>
    intro m s b ht hb hmin hmax hvector hbase hword hring hone hfree
    have hgood : (!(decide (6 ≤ byteAt b 1) && decide (byteAt b 1 ≤ 16) && (decide (fieldAt b 2 2 < 512) || fieldAt b 2 2 == 0xFFFF) &&
        fieldAt b 8 8 % 4096 == 0 && fieldAt b 16 8 % 8 == 0 && s.inQualifying m (fieldAt b 8 8) (32 * 2 ^ byteAt b 1) &&
        s.inQualifying m (fieldAt b 16 8) 8)) = false := by
      rw [hring, hone, hbase, hword, decide_eq_true hmin, decide_eq_true hmax]
      rcases hvector with h | h <;> simp [h]
    have hidle : ((s.ringsOf m).any fun r => (s.ring r).st != 0 && (s.ring r).cq == byteAt b 0) = false :=
      List.any_eq_false.2 fun r hr => by rcases hfree r hr with h | h <;> simp [h]
    refine ⟨_, next_of_run ht hb ((if_passed hgood).trans (if_passed hidle)), ?_⟩
    dsimp only
    rw [ok_cq, modCq_same]
    exact ⟨ok_answers .., rfl⟩
  case host =>
    intro m s b ht hb hmin hmax hbase hin hidle
    exact ⟨_, rfl, cmdArea_places ht hb hmin hmax hbase (.inr hin) hidle⟩
  case hbm =>
    rintro m s b base last ht hb hmin hmax rfl hbase rfl hdie hlast hhome hpop hown hidle
    exact ⟨_, rfl, cmdArea_places ht hb hmin hmax hbase (.inl (areaInHbm_of_owned hdie hlast hhome hpop hown)) hidle⟩
  case chord =>
    intro m s b ht hb hmin hmax hbase hin hfree
    have hidle : ((chordSlots m).any fun i => (s.chord i).st != 0) = false := List.any_eq_false.2 fun i hi => by simp [hfree i hi]
    have hgood : (decide (byteAt b 0 < 4) || decide (10 < byteAt b 0) || decide (fieldAt b 8 8 % 4096 ≠ 0) ||
        !s.inQualifying m (fieldAt b 8 8) (2048 * 2 ^ byteAt b 0)) = false := by
      rw [hin, decide_eq_false (by omega), decide_eq_false (by omega), decide_eq_false (not_not.2 hbase)]
      rfl
    refine ⟨_, next_of_run ht hb ((if_passed hgood).trans (if_passed hidle)), ?_⟩
    dsimp only
    rw [ok_chq, modChq_same]
    exact ⟨ok_answers .., rfl, rfl, rfl, rfl, rfl, rfl⟩

end Sys2Proof.Machine
end

section
/-! SUPPORT. The mailbox commands of windows, keys, packages, programs, schedules, vectors and replica sets (R37, R193, R218, R268, R337,
R363, R364, R374 to R376, R390) settled. -/

namespace Sys2Proof.Machine

/-! ## Keys -/

/-- A re-key of slot g retires it and starts both passes (R364). -/
theorem startRekey_part (s : State) (p g : Nat) (items : List RekeyItem) :
    (((s.startRekey p g items).part p).slot g).st = .retiring ∧
      ((s.startRekey p g items).part p).rekey = { gen := g, items := items, hostPass := true, hbmPass := true, start := s.clk.fab } := by
  unfold State.startRekey
  rw [modPart_part_same, modPart_part_same]
  exact ⟨congrArg KeySlot.st (slot_modSlot_same (s.part p) g _), rfl⟩

/-! ## Packages -/

/-- The package of mailbox m that payload b and header h describe, with its unwrapped key (R375). -/
def unwrapOf (m : Nat) (b h key : Bytes) : Unwrap :=
  { live := true, part := m, asid := fieldAt b 0 2, dest := fieldAt b 16 8, header := padTo 256 h, key := key }

/-- A package whose set is provisioned is opened with the key that its header wraps, when that key unwraps (R374, R375). -/
theorem cmdUnwrap_found {s : State} {m : Nat} {b h : Bytes} {e : Nat × DeviceSet} (ht : Takes s m 0x0603) (hb : (s.box m).payload = b)
    (hlocal : localAsid m (fieldAt b 0 2) = true) (hmagic : fieldAt h 0 4 = 0x4B50574B) (hversion : fieldAt h 4 2 = 1)
    (hpos : 0 < fieldAt h 128 8) (hmax : fieldAt h 128 8 ≤ 1099511627776)
    (hset : ((s.part m).sets.find? fun e => e.2.valid && e.2.setId == slice h 8 16 && e.2.digest == slice h 24 48) = some e) :
    s.cmdUnwrap m (some h) = match Config.aesUnwrap e.2.setKey (slice h 72 40) with
      | none => (s.taking m).failed m 1
      | some key => { s.taking m with mc := { (s.taking m).mc with unwraps := Tab.put s.mc.unwraps m (unwrapOf m b h key) } } := by
  have hasid : (!localAsid m (fieldAt b 0 2)) = false := by rw [hlocal]; rfl
  have hheader : (decide (fieldAt h 0 4 ≠ 0x4B50574B) || decide (fieldAt h 4 2 ≠ 1) || decide (fieldAt h 128 8 = 0) ||
      decide (2 ^ 40 < fieldAt h 128 8)) = false := by
    rw [hmagic, hversion, decide_eq_false (by omega : ¬fieldAt h 128 8 = 0), decide_eq_false (by omega : ¬2 ^ 40 < fieldAt h 128 8)]
    rfl
  have hset' : (((s.taking m).part m).sets.find? fun e => e.2.valid && e.2.setId == slice h 8 16 && e.2.digest == slice h 24 48) = some e := hset
  refine (command_taken ht _).trans ?_
  rw [hb]
  refine (if_passed hasid).trans ((if_passed hheader).trans ?_)
  rw [hset']
  rfl

/-- The package of mailbox m is no longer being opened. -/
def State.closeUnwrap (s : State) (m : Nat) : State := { s with mc := { s.mc with unwraps := Tab.put s.mc.unwraps m {} } }

/-- A package that does not open zeroes its destination (R375). -/
theorem unwrapFails (s : State) (m : Nat) (e : Emission) : Answers ((s.emit e).failed m 1) m 6 1 ∧ e ∈ ((s.emit e).failed m 1).outbox :=
  ⟨respond_answers .., respond_emitted (List.mem_append_right _ (List.mem_singleton_self _))⟩

theorem unwrapDone_live {s : State} {m : Nat} {u : Unwrap} (data : Bytes) (hu : Tab.at s.mc.unwraps m = u) (hlive : u.live = true)
    (hst : (s.part m).st = 1 ∨ (s.part m).st = 2) :
    s.unwrapDone m data = match Config.gcmOpen u.key (slice u.header 112 12) (slice u.header 0 184) (data ++ slice u.header 184 16) with
      | none => ((s.closeUnwrap m).emit (.mcZero m u.asid u.dest (fieldAt u.header 128 8))).failed m 1
      | some plain =>
        if data.length ≠ fieldAt u.header 128 8 || Config.sha384 plain ≠ slice u.header 136 48 then
          ((s.closeUnwrap m).emit (.mcZero m u.asid u.dest (fieldAt u.header 128 8))).failed m 1
        else (((s.closeUnwrap m).emit (.mcWrite m u.asid u.dest plain)).modPart m fun x =>
          { x with measPkg := Config.sha384 (x.measPkg ++ slice u.header 136 48) }).ok m := by
  have hlive' : (!u.live) = false := by rw [hlive]; rfl
  have hpart : (decide ((s.part m).st ≠ 1) && decide ((s.part m).st ≠ 2)) = false := by rcases hst with h | h <;> rw [h] <;> rfl
  subst hu
  exact (if_passed hlive').trans (if_passed hpart)

/-! ## Marks -/

/-- After TC_FLUSH no line of partition p keeps its mark (R193). -/
theorem unkept_keep (t : Tab CacheLine) (p j : Nat) :
    (Tab.at (Tab.mapV t fun _ l => if l.part = p then { l with keep := false } else l) j).part = p →
      (Tab.at (Tab.mapV t fun _ l => if l.part = p then { l with keep := false } else l) j).keep = false := by
  rw [Tab.at_mapV]
  split
  · split
    · exact fun _ => rfl
    next hother => exact fun h => absurd h hother
  · exact fun _ => rfl

/-! ## Replica sets -/

/-- The record that the payload of a REPLICA_SET declares (R268). -/
def replicaOf (b : Bytes) : ReplicaSet :=
  { valid := true, member := byteAt b 1 == 1, asid := fieldAt b 2 2, fmt := byteAt b 4, mx := byteAt b 5 == 1, sr := byteAt b 6 == 1
    ownerDie := byteAt b 7, wcopy := fieldAt b 8 8 % 2 ^ 57, fprint := fieldAt b 16 8 % 2 ^ 57, n := fieldAt b 24 8
    master := fieldAt b 32 8 % 2 ^ 57, masterFmt := byteAt b 40, mask := fieldAt b 41 2, seed := fieldAt b 48 8
    table := fieldAt b 56 8, note := fieldAt b 64 8 }

/-- The checks of every declared set (R268). -/
def State.replicaCommon (s : State) (m : Nat) (b : Bytes) : Bool :=
  localAsid m (replicaOf b).asid && decide (1 ≤ (replicaOf b).n) && decide ((replicaOf b).n ≤ 2 ^ 36) && decide (byteAt b 5 < 2) &&
    decide (byteAt b 6 < 2) && wcFmtOk (replicaOf b).fmt (replicaOf b).mx &&
    !s.rk.sets.any fun e => e.1 / 8 == m && e.1 != 8 * m + byteAt b 0 && e.2.valid && e.2.wcopy == (replicaOf b).wcopy

/-- The checks of an owner's set (R268). -/
def State.replicaOwner (s : State) (m : Nat) (b : Bytes) : Bool :=
  !bit (replicaOf b).mask (s.dieId - 4) && ((maskBits 16 (replicaOf b).mask).all fun i => s.reported (4 + i)) &&
    ((replicaOf b).masterFmt == 0 || (replicaOf b).masterFmt == 10) && (replicaOf b).table % 16 == 0 &&
    s.inReadable m (replicaOf b).table 256 && (replicaOf b).note % 32 == 0 && s.inQualifying m (replicaOf b).note 32

/-- The checks of a member's set (R268). -/
def replicaMember (b : Bytes) : Bool := decide (4 ≤ (replicaOf b).ownerDie) && decide ((replicaOf b).ownerDie < 20)

theorem replicaCommon_of {s : State} {m : Nat} {b : Bytes} (hasid : localAsid m (replicaOf b).asid = true) (hmin : 1 ≤ (replicaOf b).n)
    (hmax : (replicaOf b).n ≤ 2 ^ 36) (hmx : byteAt b 5 < 2) (hsr : byteAt b 6 < 2) (hfmt : wcFmtOk (replicaOf b).fmt (replicaOf b).mx = true)
    (hclash : ∀ e ∈ s.rk.sets, e.1 / 8 = m → e.1 ≠ 8 * m + byteAt b 0 → e.2.valid = true → e.2.wcopy ≠ (replicaOf b).wcopy) :
    s.replicaCommon m b = true := by
  have hnone : (s.rk.sets.any fun e => e.1 / 8 == m && e.1 != 8 * m + byteAt b 0 && e.2.valid && e.2.wcopy == (replicaOf b).wcopy) = false :=
    List.any_eq_false.2 fun e he => by simpa using hclash e he
  unfold State.replicaCommon
  rw [hnone, hasid, hfmt, decide_eq_true hmin, decide_eq_true hmax, decide_eq_true hmx, decide_eq_true hsr]
  rfl

/-- A REPLICA_SET that passes the checks of its role, of a set that no queued job uses, takes effect (R268). -/
theorem cmdReplica_puts {s : State} {m : Nat} {b : Bytes} (ht : Takes s m 0x0702) (hb : (s.box m).payload = b) (hk : byteAt b 0 < 8)
    (hrole : byteAt b 1 = 0 ∧ s.replicaCommon m b = true ∧ s.replicaOwner m b = true ∨
      byteAt b 1 = 1 ∧ s.replicaCommon m b = true ∧ replicaMember b = true ∨ byteAt b 1 = 2)
    (hidle : ∀ e ∈ s.rk.queue, e.1 / 64 = m → e.2.valid = true → e.2.set ≠ byteAt b 0) :
    Answers (s.cmdReplica m) m 0 0 ∧
      Tab.at (s.cmdReplica m).rk.sets (8 * m + byteAt b 0) = if byteAt b 1 = 2 then {} else replicaOf b := by
  have hgood : (decide (8 ≤ byteAt b 0) || decide (3 ≤ byteAt b 1) || (byteAt b 1 != 2 &&
      !(s.replicaCommon m b && (if byteAt b 1 = 0 then s.replicaOwner m b else replicaMember b)))) = false := by
    rw [decide_eq_false (by omega)]
    rcases hrole with ⟨hrole, hcommon, howner⟩ | ⟨hrole, hcommon, hmember⟩ | hrole
    · rw [hrole, hcommon, howner]; rfl
    · rw [hrole, hcommon, hmember]; rfl
    · rw [hrole]; rfl
  have hqueued : (s.rk.queue.any fun e => e.1 / 64 == m && e.2.valid && e.2.set == byteAt b 0) = false :=
    List.any_eq_false.2 fun e he => by simpa using hidle e he
  have hrun : s.cmdReplica m = ({ s.taking m with rk := { s.rk with
      sets := Tab.put s.rk.sets (8 * m + byteAt b 0) (if byteAt b 1 = 2 then {} else replicaOf b) } } : State).ok m := by
    refine (command_taken ht _).trans ?_
    rw [hb]
    exact (if_passed hgood).trans (if_passed hqueued)
  rw [hrun, ok_rk]
  exact ⟨ok_answers .., Tab.at_put_same s.rk.sets _ _⟩

/-- Settles O51: the checks of each command hold, and its answer leaves the key, package, table or set as its body wrote it. -/
theorem keysAndPrograms : Obligations.KeysAndPrograms := by
  unfold Obligations.KeysAndPrograms
  refine ⟨?window, ?switch, ?rekey, ?unwrap, ?unwrapDone, ?program, ?schedule, ?flush, ?vector, ?commit, ?owner, ?member, ?remove⟩
  case window =>
    intro m s b w ht hb hk hw hvalid
    have hgood : (decide (byteAt b 0 < 64) && (!bit (byteAt b 1) 2 || (decide (21 ≤ byteAt b 2) && decide (byteAt b 2 ≤ 41) &&
        decide (w.apOff + 2 ^ byteAt b 2 ≤ 2 ^ 41) && s.windowsOk (Tab.put s.pt.windows (64 * m + byteAt b 0) w)))) = true := by
      rw [decide_eq_true hk]
      cases hset : bit (byteAt b 1) 2
      case false => rfl
      case true =>
        obtain ⟨hmin, hmax, hlast, hwindows⟩ := hvalid hset
        have hoff : w.apOff = fieldAt b 8 8 := by rw [hw, if_pos hset]
        rw [hoff, hwindows, decide_eq_true hmin, decide_eq_true hmax, decide_eq_true (show fieldAt b 8 8 + 2 ^ byteAt b 2 ≤ 2 ^ 41 from hlast)]
        rfl
    subst hw
    refine ⟨_, next_of_run ht hb (okIf_good _ _ _ _ hgood), ?_⟩
    dsimp only
    rw [ok_pt]
    exact ⟨ok_answers .., Tab.at_put_same ..⟩
  case switch =>
    intro m s b ht hb hscope hslot hloaded
    have hgood : (decide (2 ≤ byteAt b 0) || decide (2 ≤ byteAt b 1)) = false := by simp; omega
    refine ⟨_, next_of_run ht hb ((if_passed hgood).trans (if_neg (not_not.2 hloaded))), ?_⟩
    dsimp only
    rw [ok_part, modPart_part_same]
    exact ⟨ok_answers .., rfl⟩
  case rekey =>
    rintro m s b items ht hb rfl hok
    refine ⟨_, next_of_run ht hb (okIf_good _ _ _ _ hok), ?_⟩
    dsimp only
    rw [ok_part]
    exact ⟨ok_answers .., startRekey_part (s.taking m) ..⟩
  case unwrap =>
    intro m s b h e ht hb hlocal hmagic hversion hpos hmax hset
    refine ⟨_, rfl, ?_⟩
    rw [cmdUnwrap_found ht hb hlocal hmagic hversion hpos hmax hset]
    cases Config.aesUnwrap e.2.setKey (slice h 72 40) with
    | none => exact respond_answers ..
    | some key => exact Tab.at_put_same s.mc.unwraps m (unwrapOf m b h key)
  case unwrapDone =>
    intro m s u data hu hlive hst
    refine ⟨_, rfl, ?_⟩
    rw [unwrapDone_live data hu hlive hst]
    cases Config.gcmOpen u.key (slice u.header 112 12) (slice u.header 0 184) (data ++ slice u.header 184 16) with
    | none => exact unwrapFails ..
    | some plain =>
      dsimp only
      by_cases hok : data.length = fieldAt u.header 128 8 ∧ Config.sha384 plain = slice u.header 136 48
      · rw [if_pos hok, if_neg (by simp [hok.1, hok.2]), ok_part, modPart_part_same, emit_part_of]
        exact ⟨ok_answers .., respond_emitted (List.mem_append_right _ (List.mem_singleton_self _)), rfl⟩
      · rw [if_neg hok, if_pos (by rcases not_and_or.1 hok with h | h <;> simp [h])]
        exact unwrapFails ..
  case program =>
    intro m s b d ht hb hlocal
    have hgood : (!localAsid m (fieldAt b 0 2)) = false := by rw [hlocal]; rfl
    refine ⟨_, next_of_run ht hb (if_passed hgood), ?_⟩
    dsimp only
    rw [ok_part, emit_part_of, modPart_part_same]
    exact ⟨ok_answers .., respond_emitted (List.mem_append_right _ (List.mem_singleton_self _)), rfl⟩
  case schedule =>
    rintro m s b l ht hb hk hmin hmax rfl hrising
    refine ⟨_, next_of_run ht hb (okIf_good _ _ _ _ (by rw [hrising]; simp [hk, hmin, hmax])), ?_⟩
    dsimp only
    rw [ok_rk]
    exact ⟨ok_answers .., Tab.at_put_same ..⟩
  case flush =>
    intro m s ht
    refine ⟨_, next_of_run ht rfl rfl, ok_answers .., fun j => ?_⟩
    rw [ok_tier]
    exact unkept_keep s.tier.lines m j
  case vector =>
    intro m s b ht hb hv hroute halign hmax hroot
    have hgood : (decide (fieldAt b 0 2 < 512) && decide (byteAt b 2 < 2) && fieldAt b 8 8 % 4 == 0 && decide (fieldAt b 8 8 < 2 ^ 49) &&
        !(s.px.rootPort && byteAt b 2 == 0)) = true := by
      rw [decide_eq_true hv, decide_eq_true hroute, halign, decide_eq_true (show fieldAt b 8 8 < 2 ^ 49 from hmax)]
      cases hport : s.px.rootPort
      case false => rfl
      case true => simp [hroot hport]
    refine ⟨_, next_of_run ht hb (okIf_good _ _ _ _ hgood), ok_answers .., ?_, ?_⟩
    · rw [kept_of_rest (fun x => x.hostVec) (ok_px _ _)]
      dsimp only [State.modPx]
      exact Tab.at_put_same ..
    · rw [kept_of_rest (fun x => x.routePcie) (ok_px _ _)]
      dsimp only [State.modPx]
      exact Tab.at_put_same ..
  case commit =>
    intro m s ht
    obtain ⟨hasks, hacc⟩ := flushUnits_facts (s.taking m)
    refine ⟨_, next_of_run ht rfl rfl, ?_, hacc⟩
    exact congrArg (· ++ _) hasks
  case owner =>
    intro m s b x ht hb hk hrole hx hasid hmin hmax hmx hsr hfmt hclash hself hreported hmaster htable hread hnote hin hidle
    obtain rfl : x = replicaOf b := hx.trans (by unfold replicaOf; rw [hrole]; rfl)
    have hreports : ((maskBits 16 (replicaOf b).mask).all fun i => s.reported (4 + i)) = true := List.all_eq_true.2 hreported
    have howner : s.replicaOwner m b = true := by
      unfold State.replicaOwner
      rw [hreports, hself, htable, hread, hnote, hin]
      rcases hmaster with h | h <;> rw [h] <;> rfl
    obtain ⟨hanswers, hset⟩ := cmdReplica_puts ht hb hk
      (.inl ⟨hrole, replicaCommon_of hasid hmin hmax hmx hsr hfmt hclash, howner⟩) hidle
    exact ⟨_, rfl, hanswers, hset.trans (if_neg (by omega))⟩
  case member =>
    intro m s b x ht hb hk hrole hx hasid hmin hmax hmx hsr hfmt hclash hfirst hlast hidle
    obtain rfl : x = replicaOf b := hx.trans (by unfold replicaOf; rw [hrole]; rfl)
    have hmember : replicaMember b = true := by
      unfold replicaMember
      rw [decide_eq_true hfirst, decide_eq_true hlast]
      rfl
    obtain ⟨hanswers, hset⟩ := cmdReplica_puts ht hb hk
      (.inr (.inl ⟨hrole, replicaCommon_of hasid hmin hmax hmx hsr hfmt hclash, hmember⟩)) hidle
    exact ⟨_, rfl, hanswers, hset.trans (if_neg (by omega))⟩
  case remove =>
    intro m s b ht hb hk hrole hidle
    obtain ⟨hanswers, hset⟩ := cmdReplica_puts ht hb hk (.inr (.inr hrole)) hidle
    exact ⟨_, rfl, hanswers, congrArg ReplicaSet.valid (hset.trans (if_pos hrole))⟩

end Sys2Proof.Machine
end

section
/-! SUPPORT. The mailbox commands of modules, downstream requests, firmware, units and the mode (R291, R320, R350, R413, R415, R416, R448)
settled. -/

namespace Sys2Proof.Machine

theorem ok_mod (s : State) (m k : Nat) : (s.ok m).mod k = s.mod k := mod_of_links (ok_links s m) k

theorem unit_of_units_eq {s t : State} (h : t.units = s.units) (u : Nat) : t.unit u = s.unit u := by
  unfold State.unit
  rw [h]

/-! ## Admission -/

/-- Restricting a unit further, or quarantining it, takes effect at once (R416). -/
theorem mcWrite_restricts {s : State} {u l : Nat} (epoch : Nat) (h : l = 3 ∨ (s.unit u).mcAdmit < l) :
    ∃ t, s.mcWrite u l epoch = some t ∧ (t.unit u).mcAdmit = l ∧ (t.unit u).qMc = (l == 3 || (s.unit u).qMc) := by
  unfold State.mcWrite
  dsimp only
  by_cases h3 : l = 3
  · refine ⟨_, if_pos h3, ?_⟩
    rw [modUnit_unit, if_pos rfl, h3]
    exact ⟨rfl, rfl⟩
  · refine ⟨_, (if_neg h3).trans (if_pos (h.resolve_left h3)), ?_⟩
    rw [modUnit_unit, if_pos rfl, beq_false_of_ne h3]
    exact ⟨rfl, rfl⟩

theorem mcWrite_stale {s : State} {u l epoch : Nat} (h3 : l < 3) (hl : l ≤ (s.unit u).mcAdmit) (he : epoch ≠ (s.unit u).epoch) :
    s.mcWrite u l epoch = none := by
  unfold State.mcWrite
  dsimp only
  rw [if_neg (by omega), if_neg (by omega), if_pos he]

/-- What UNIT_ADMIT makes of the answer of a write to a unit's admission (R415, R416). -/
def State.afterMcWrite (s : State) (m u l : Nat) : Option State → State
  | none => s.respond m 2 4 (leBytes 8 (s.unitWord u))
  | some s1 =>
    let raised := decide ((s.unit u).mcAdmit < l)
    let s2 := s1.modUnit u fun w => { w with intended := l, operator := raised || (w.operator && l != 0) }
    s2.respond m 0 0 (leBytes 8 (s2.unitWord u))

/-! ## Firmware -/

theorem mgtEvent_fw (s : State) (code : Nat) (unit part : Option Nat) (data : Nat) : (s.mgtEvent code unit part data).mc.fw = s.mc.fw :=
  kept_of_mcRest (fun x => x.fw) (congrArg Quiet.mc (State.mgtEvent_quiet s code unit part data))

theorem respond_fw (s : State) (m result detail : Nat) (payload : Bytes) : (s.respond m result detail payload).mc.fw = s.mc.fw :=
  kept_of_mcRest (fun x => x.fw) (congrArg Quiet.mc (State.respond_quiet s m result detail payload))

/-- Settles O52: the checks of each command hold, and its answer leaves the module, bank, unit or mode as its body wrote it. -/
theorem modulesAndFirmware : Obligations.ModulesAndFirmware := by
  unfold Obligations.ModulesAndFirmware
  refine ⟨?retrain, ?config, ?memory, ?loopback, ?stageFirst, ?stageMore, ?verify, ?activate, ?restrict, ?stale, ?mode⟩
  case retrain =>
    intro m s b ht hb hk h0 h1
    have hst : (decide ((s.mod (byteAt b 0)).st = 0) || decide ((s.mod (byteAt b 0)).st = 1)) = false := by simp [h0, h1]
    refine ⟨_, next_of_run ht hb ((if_neg (by omega)).trans (if_passed hst)), ok_answers .., ?_⟩
    rw [ok_mod, startTraining_st, if_pos rfl]
  case config =>
    intro m s b ht hb halign hreg hwrite hsize hport hassigned hfrozen hnow hwait
    have hgood : (decide (fieldAt b 2 2 % 4 ≠ 0) || decide (4096 ≤ fieldAt b 2 2) || decide (2 ≤ byteAt b 4) ||
        (decide (byteAt b 5 ≠ 1) && decide (byteAt b 5 ≠ 2) && decide (byteAt b 5 ≠ 4))) = false := by
      rw [halign, decide_eq_false (by omega : ¬4096 ≤ fieldAt b 2 2), decide_eq_false (by omega : ¬2 ≤ byteAt b 4)]
      rcases hsize with h | h | h <;> rw [h] <;> rfl
    exact ⟨_, next_of_run ht hb (if_passed hgood), rpQueue_sends (s.taking m) m _ _ hport hassigned hfrozen hnow hwait⟩
  case memory =>
    intro m s b ht hb hwrite hmin hmax hport hassigned hfrozen hnow hwait
    have hgood : (decide (2 ≤ byteAt b 2) || decide (byteAt b 3 = 0) || decide (8 < byteAt b 3)) = false := by simp; omega
    exact ⟨_, next_of_run ht hb (if_passed hgood), rpQueue_sends (s.taking m) m _ _ hport hassigned hfrozen hnow hwait⟩
  case loopback =>
    intro m s b ht hb hk hv hmode
    have hgood : (decide (4 ≤ byteAt b 0) || decide (2 ≤ byteAt b 1)) = false := by simp; omega
    refine ⟨_, next_of_run ht hb ((if_passed hgood).trans (if_neg hmode)), ok_answers .., ?_⟩
    rw [ok_mod, modMod_at]
    rfl
  case stageFirst =>
    rintro m s b n ht hb rfl hmin hmax hoff
    have hgood : (decide (fieldAt b 4 4 = 0) || decide (8192 < fieldAt b 4 4) || decide (2 ^ 22 < fieldAt b 0 4 + fieldAt b 4 4)) = false := by
      simp; omega
    refine ⟨_, next_of_run ht hb ((if_passed hgood).trans (if_pos hoff)), ?_⟩
    dsimp only
    rw [ok_fw]
    exact ⟨ok_answers .., rfl, rfl, rfl, rfl, respond_emitted (List.mem_append_right _ (List.mem_singleton_self _))⟩
  case stageMore =>
    rintro m s b o n ht hb rfl rfl hmin hmax hoff hlast howner
    have hgood : (decide (fieldAt b 4 4 = 0) || decide (8192 < fieldAt b 4 4) || decide (2 ^ 22 < fieldAt b 0 4 + fieldAt b 4 4)) = false := by
      simp; omega
    refine ⟨_, next_of_run ht hb ((if_passed hgood).trans ((if_neg hoff).trans (if_neg (not_not.2 howner)))), ?_⟩
    dsimp only
    rw [ok_fw]
    exact ⟨ok_answers .., howner, rfl, rfl, respond_emitted (List.mem_append_right _ (List.mem_singleton_self _))⟩
  case verify =>
    intro m s ht howner
    refine ⟨_, next_of_run ht rfl (if_neg (not_not.2 howner)), ?_⟩
    dsimp only
    rw [taking_fw]
    generalize manifestFault _ _ _ = fault
    cases fault with
    | zero => exact ⟨ok_answers .., (ok_fw ..).trans (mgtEvent_fw ..)⟩
    | succ d => exact ⟨respond_answers .., respond_fw ..⟩
  case activate =>
    intro m s b up ht hb howner hverified hup hraises
    have hunverified : (!s.mc.fw.verified) = false := by rw [hverified]; rfl
    have hroom : (up && decide (32 ≤ s.mc.fw.raises)) = false := by
      cases hset : up
      case false => rfl
      case true => exact decide_eq_false (Nat.not_le.2 (hraises hset))
    subst hup
    refine ⟨_, next_of_run ht hb ((if_neg (not_not.2 howner)).trans ((if_passed hunverified).trans (if_passed hroom))), ?_⟩
    dsimp only
    rw [ok_fw]
    exact ⟨ok_answers .., rfl, rfl, rfl⟩
  case restrict =>
    rintro m s b u ht hb rfl hreal hl hmore
    obtain ⟨t, hrun, hadmit, hheld⟩ := mcWrite_restricts (s := s.taking m) (fieldAt b 4 2) hmore
    have hgood : (!realUnit (fieldAt b 0 2) || decide (4 ≤ byteAt b 2)) = false := by rw [hreal]; simp; omega
    refine ⟨_, next_of_run ht hb ((if_passed hgood).trans
      (congrArg ((s.taking m).afterMcWrite m (fieldAt b 0 2) (byteAt b 2)) hrun)), respond_answers .., ?_⟩
    dsimp only [State.afterMcWrite]
    rw [unit_of_units_eq (respond_units ..), modUnit_unit, if_pos rfl]
    exact ⟨hadmit, rfl, hheld⟩
  case stale =>
    rintro m s b u ht hb rfl hreal hl hless hepoch
    have hnone : (s.taking m).mcWrite (fieldAt b 0 2) (byteAt b 2) (fieldAt b 4 2) = none := mcWrite_stale hl hless hepoch
    have hgood : (!realUnit (fieldAt b 0 2) || decide (4 ≤ byteAt b 2)) = false := by rw [hreal]; simp; omega
    refine ⟨_, next_of_run ht hb ((if_passed hgood).trans
      (congrArg ((s.taking m).afterMcWrite m (fieldAt b 0 2) (byteAt b 2)) hnone)), respond_answers .., ?_⟩
    exact unit_of_units_eq (respond_units ..) _
  case mode =>
    intro m s b ht hb hk hfree htest hready
    have hidle : (partIxs.any fun p => (s.part p).st != 0) = false :=
      List.any_eq_false.2 fun p hp => by simp [hfree p (List.mem_range.1 hp)]
    have hmay : ((decide (byteAt b 0 = 2) && !s.ec.testMode) || (decide (byteAt b 0 = 0) && s.mc.rd.st != 2)) = false := by
      by_cases h2 : byteAt b 0 = 2
      · simp [h2, htest h2]
      · by_cases h0 : byteAt b 0 = 0
        · simp [h0, hready h0]
        · simp [h0, h2]
    refine ⟨_, next_of_run ht hb ((if_neg (by omega)).trans ((if_passed hidle).trans (if_passed hmay))), ok_answers .., ?_⟩
    rw [ok_mode]

end Sys2Proof.Machine
end
